-- ==== Sys2Proof/Word.lean ====
section
/-! DEFINITION. The byte and the plainest names for numbers. The spec's pseudocode works on unbounded integers whose
widths are imposed by its helpers (R14, R16); registers and addresses are therefore `Nat` fields bounded by an
invariant, and fields of encoded instructions are bit vectors. -/

namespace Sys2Proof

/-- A byte of memory. -/
abbrev Byte := BitVec 8

/-- A global address (GA) of 64 bits, R28, as the number it spells. -/
abbrev GA := Nat

end Sys2Proof
end

