-- ==== Sys2Proof/Syntax.lean ====
section
/-! DEFINITION. The commands: one constructor of `Instr` per row of the opcode table, with the operand types they use.
Slot operations carry the bit fields of R155, R156, R157, R160, R194 and R204; hosts' commands carry the arguments of
R315; events carry what the environment decides or measures (assumption logs 6, 7, 8). -/

namespace Sys2Proof

/-! ### Slot operations -/

/-- CSET source (R155): form 0 an immediate, form 1 a scratchpad word. -/
inductive CsetSrc where
  | imm (v : BitVec 19)
  | word (h : BitVec 8)
deriving DecidableEq, Repr

/-- CADD source (R155): form 0 an immediate, form 1 a counter. -/
inductive CaddSrc where
  | imm (v : BitVec 16)
  | reg (cb : BitVec 3)
deriving DecidableEq, Repr

/-- CMP second operand (R155). -/
inductive CmpSrc where
  | imm (v : BitVec 13)
  | reg (cb : BitVec 3)
  | word (h : BitVec 8)
deriving DecidableEq, Repr

/-- SETVL forms (R173). -/
inductive SetvlSrc where
  | imm (v : BitVec 18)
  | reg (cs : BitVec 3)
  | bounded (cs : BitVec 3) (v : BitVec 18)
deriving DecidableEq, Repr

/-- WAITC forms (R155). -/
inductive WaitcSrc where
  | imm (n : BitVec 22)
  | reg (cs : BitVec 3)
deriving DecidableEq, Repr

/-- DADV forms (R155). -/
inductive DadvSrc where
  | reg (cs : BitVec 3)
  | imm (v : BitVec 11)
deriving DecidableEq, Repr

/-- LOOP count forms (R155). -/
inductive LoopSrc where
  | imm (n : BitVec 7)
  | reg (cs : BitVec 3)
deriving DecidableEq, Repr

/-- S-slot operations (R155). `illegal` is a slot word that the map refuses. -/
inductive SOp where
  | nop
  | halt
  | step (mask : BitVec 24)
  | cset (cd : BitVec 3) (src : CsetSrc)
  | cadd (cd ca : BitVec 3) (src : CaddSrc)
  | ccopy (cd ca : BitVec 3)
  | cmp (pd : BitVec 2) (rel : BitVec 3) (ca : BitVec 3) (src : CmpSrc)
  | br (pp : BitVec 2) (always sense : Bool) (target : BitVec 14)
  | setvl (src : SetvlSrc)
  | waitc (src : WaitcSrc)
  | tsigLocal (t : BitVec 6) (n : BitVec 12)
  | tsigRemote (t : BitVec 6) (h : BitVec 8) (n : BitVec 8)
  | twait (t : BitVec 6) (n : BitVec 12)
  | twaitany (t : BitVec 6) (k1 : BitVec 3) (cd : BitVec 3) (n : BitVec 8)
  | ttake (t : BitVec 6) (n : BitVec 12)
  | dadv (h : BitVec 8) (dim : BitVec 3) (src : DadvSrc)
  | loop (cl : BitVec 3) (len1 : BitVec 14) (src : LoopSrc)
  | illegal (w : BitVec 28)
deriving DecidableEq, Repr

/-- X-slot operations (R156, R194). `tf` is the tag form field; 3 is reserved. -/
inductive XOp where
  | nop
  | qput (q : BitVec 2) (h : BitVec 8) (tf : BitVec 2) (cx : BitVec 3)
  | qwait (cs : BitVec 3)
  | qwaitany (cs k1 cd : BitVec 3)
  | radv (tail : Bool) (ctx : BitVec 5)
  | mcast (q : BitVec 2) (h : BitVec 8) (tf : BitVec 2) (cx : BitVec 3) (grp : BitVec 6)
  | chain (q : BitVec 2) (h : BitVec 8) (tf : BitVec 2) (cx : BitVec 3) (grp : BitVec 6)
  | illegal (w : BitVec 28)
deriving DecidableEq, Repr

/-- M-slot operations (R156, R204). -/
inductive MOp where
  | nop
  | mwload (h : BitVec 8) (part : BitVec 2) (two : Bool)
  | mswap
  | mpass (h : BitVec 8) (accum keep : Bool)
  | mpassw (h : BitVec 8) (accum keep : Bool) (i j : BitVec 2)
  | mpassc (h : BitVec 8) (accum keep : Bool)
  | mshape (shape : BitVec 2)
  | mzero (h : BitVec 8)
  | illegal (w : BitVec 28)
deriving DecidableEq, Repr

/-- The V opcodes that share the layout of R158. -/
inductive VCode where
  | vadd | vsub | vmul | vfma | vmax | vmin | vabs | vcmp | vsel | vcvt
  | vexp2 | vlog2 | vrsq | vrcp | vtanh | vred | vscan | vacc | vperm | vgather
deriving DecidableEq, Repr

/-- The two forms of R158: native with 15 modifier bits, legacy with a 12-bit count and 3 modifier bits. -/
inductive VForm where
  | native (md : BitVec 15)
  | legacy (count : BitVec 12) (md : BitVec 3)
deriving DecidableEq, Repr

/-- The two forms of VRNG (R160). -/
inductive RngForm where
  | native (stream : BitVec 15)
  | legacy (count : BitVec 12) (stream : BitVec 3)
deriving DecidableEq, Repr

/-- V-slot operations (R157, R160). -/
inductive VOp where
  | nop
  | vec (code : VCode) (h : BitVec 8) (form : VForm)
  | vrng (ctr : BitVec 2) (h : BitVec 7) (u01 : Bool) (form : RngForm)
  | illegal (w : BitVec 28)
deriving DecidableEq, Repr

/-- A bundle (R151, R152). `reserved` holds the flag bits [119:115]. -/
structure Bundle where
  delay : BitVec 8 := 0
  marker : Bool := false
  relaxed : Bool := false
  legacy : Bool := false
  reserved : BitVec 5 := 0
  s : SOp := .nop
  x : XOp := .nop
  m : MOp := .nop
  v : VOp := .nop
deriving DecidableEq, Repr

/-- A slot position (R151, R344). -/
inductive Slot where
  | s | x | m | v
deriving DecidableEq, Repr

/-! ### Fliup objects (R285) -/

/-- An affine term c0 + c1*i + c2*N + c3*floor(i/c4) (R285). -/
structure Affine where
  c0 : Int
  c1 : Int := 0
  c2 : Int := 0
  c3 : Int := 0
  c4 : Nat := 1
deriving DecidableEq, Repr

/-- The GA field of a descriptor base that an affine term is added to (R285). -/
inductive GaField where
  | module | lcore | offset | pool | stack
deriving DecidableEq, Repr

/-- The geometry of a ring context (R100). -/
structure RingGeo where
  base : Nat
  n : Nat
  size : Nat
  queue : Option Nat
deriving DecidableEq, Repr

/-- A core class (R285): bundle image and initial state, and the bytes of well and of die pool that each of its cores uses. -/
structure CoreClass where
  image : List (BitVec 128)
  counters : List Nat := []
  vl : Nat := 0
  tallies : List Nat := []
  twoPhase : Nat := 0
  shape : Nat := 0
  rings : List (Option RingGeo) := []
  wellUse : Nat := 0
  poolUse : Nat := 0
deriving DecidableEq, Repr

/-- A descriptor template (R285): 64 bytes as one little-endian number, and up to three affine terms on the base. A base
may be relative to a stack tensor, whose GA then enters the descriptor (R288). -/
structure DescTemplate where
  cls : Nat
  h : Nat
  raw : Nat
  terms : List (GaField × Affine) := []
  tensor : Option Nat := none
deriving DecidableEq, Repr

/-- A class-map range [a, b) (R285). -/
structure ClassRange where
  a : Affine
  b : Affine
  cls : Nat
deriving DecidableEq, Repr

/-- A stack tensor (R288): fixed at a stack GA or floating. -/
structure TensorDecl where
  size : Nat
  fixed : Option GA := none
deriving DecidableEq, Repr

/-- An object-relative end of a timing path (R290). -/
inductive PathEnd where
  | core (i : Nat)
  | pool (j : Nat)
  | tensor (t : Nat)
  | module (m : Nat)
deriving DecidableEq, Repr

/-- A path term m * latency(a, b) of a timing annotation (R290); `signal` takes the latency of R251. -/
structure PathTerm where
  mult : Nat
  a : PathEnd
  b : PathEnd
  signal : Bool := false
deriving DecidableEq, Repr

/-- A timing annotation (R290): the delay field of a bundle, or the immediate of its WAITC. -/
structure Annotation where
  cls : Nat
  idx : Nat
  waitc : Bool
  fixed : Nat
  terms : List PathTerm
deriving DecidableEq, Repr

/-- The settings section (R285). -/
structure ObjSettings where
  trap : Bool := false
  policies : List (Nat × Nat) := []
  waitLimit : Option Nat := none
  announceLimit : Option Nat := none
  sbHoldLimit : Option Nat := none
  solderLead : Option Nat := none
  paceP : Nat := 0
  paceI : Nat := 0
  solderSteps : List (Nat × Bool) := []
deriving DecidableEq, Repr

/-- What the sections of a Fliup object hold (R285; DESIGN CHOICE, log 7: the spec gives no byte layout inside them). Its
frames and its digest are those of its bytes in the capacity stack. -/
structure FliupObject where
  version : Nat := 1
  record : Nat := 0x01010101
  logBase : Nat := 0
  nMin : Nat := 1
  nMax : Nat := 1
  nStep : Nat := 1
  poolBase : Nat := 0
  modules : Nat := 1
  classes : List CoreClass := []
  classMap : List ClassRange := []
  templates : List DescTemplate := []
  groups : List (List (Affine × Affine)) := []
  tensors : List TensorDecl := []
  settings : ObjSettings := {}
  annotations : List Annotation := []
deriving DecidableEq, Repr

/-- One entry of a choice log (R278). -/
structure ChoiceEntry where
  runStep : Nat
  bundle : Nat
  occurrence : Nat
  index : Nat
  isTag : Bool
deriving DecidableEq, Repr

/-! ### The host's side -/

/-- What the tag of a message is (R307, R311, R379): absent, verifying under the session's key, or not verifying. -/
inductive TagCheck where
  | absent | good | bad
deriving DecidableEq, Repr

/-- A mailbox datagram's header as it reaches the module (R307, R308), with the port it came in on, and the address and the
UDP port it came from. `sizeOk` says that the length agrees with the datagram, `lengthOk` that it is right for the code;
`code` is set where it is another than that of the command whose row carries the header. -/
structure Hdr where
  session : Nat
  seq : Nat
  tag : TagCheck := .absent
  port : Nat := 0
  source : Nat := 0
  udp : Nat := 0
  magic : Nat := 0xC7A1
  version : Nat := 1
  kind : Nat := 1
  reserved : Nat := 0
  sizeOk : Bool := true
  code : Option Nat := none
  length : Nat := 0
  lengthOk : Bool := true
deriving DecidableEq, Repr

/-- A signature trailer (R373) after the outside checks of SHAKE256 and Falcon-1024 (DESIGN CHOICE, log 6). -/
structure Trailer where
  owner : Bool
  slot : Nat
  keyDigest : Nat
  sigOk : Bool
deriving DecidableEq, Repr

/-- The parts of an INVENTORY reply (R315). -/
inductive InvPart where
  | defects | placement | allocs | spares
deriving DecidableEq, Repr

/-- STOP forms (R299). -/
inductive StopForm where
  | step | now
deriving DecidableEq, Repr

/-- Replay stop forms (R283). -/
inductive ReplayForm where
  | step (k : Nat)
  | bundle (k core idx occ : Nat)
deriving DecidableEq, Repr

/-- Repair actions (R303): a core, a well segment, a pool-window segment, a stack channel. -/
inductive RepairAct where
  | coreSwap (lcore : Nat)
  | wellRow (lcore seg : Nat)
  | poolRow (pool seg : Nat)
  | stackChannel (stack ch : Nat)
deriving DecidableEq, Repr

/-- Parking units (R242). -/
inductive ParkUnit where
  | well (lcore seg : Nat)
  | pool (pool seg : Nat)
  | channel (stack ch : Nat)
deriving DecidableEq, Repr

/-- Apply forms of REG_WRITE (R317). -/
inductive ApplyForm where
  | next | step (k : Nat) | start
deriving DecidableEq, Repr

/-- The four power states a command can name (R359). -/
inductive PowerName where
  | off | standby | ready | active
deriving DecidableEq, Repr

/-- Levels of the mailbox RESET (R350). -/
inductive ResetArg where
  | l1 | l2 (region : Nat) | l3 (lcore : Nat)
deriving DecidableEq, Repr

/-- Scope of FAULT_READ (R315). -/
inductive FaultScope where
  | core (c : Nat) | region (r : Nat) | module
deriving DecidableEq, Repr

/-- LIFECYCLE payloads (R376). -/
inductive LifecycleArg where
  | nonce
  | advance (target serial nonce : Nat) (owner0 owner1 resetMap : Nat) (trailer : Option Trailer)
  | install (serial nonce : Nat) (keyOk : Bool) (trailer : Trailer)
  | revoke (serial nonce : Nat) (owner : Bool) (slot : Nat) (trailer : Option Trailer)
deriving DecidableEq, Repr

/-- DEBUG_TOKEN payloads (R382, R383). -/
inductive DebugArg where
  | nonce
  | lower
  | token (level duration serial nonce : Nat) (trailers : List Trailer)
deriving DecidableEq, Repr

/-- Values of the settings table (R322): addresses and numbers as one number. -/
abbrev SettingKey := Nat

/-- LOAD arguments (R315, R301). -/
structure LoadArgs where
  region : Nat
  ga : GA
  length : Nat
  digest : Nat
  n : Nat
  seed : Nat := 0
  keepNear : Bool := false
  policy : Option Bool := none
  choiceLog : Option (List (Nat × List ChoiceEntry)) := none
  floating : List GA := []
  object : FliupObject
deriving DecidableEq, Repr

/-- What the outside finds of a firmware image whose bytes lie in the capacity stack (R305, R374; DESIGN CHOICE, log 6): the
verdict on the signature in its trailer, and whether the flash takes it. -/
structure ImageArg where
  sigOk : Bool
  flashOk : Bool := true
deriving DecidableEq, Repr

/-- How a settings commit ends (R309, R324): done, refused by Mumetal, or failed in the flash. -/
inductive CommitEnd where
  | ok | verify | flash
deriving DecidableEq, Repr

/-- The announce word of a CMT WRITE_ANNOUNCE (R325). -/
structure AnnWord where
  lcore : Nat
  tally : Nat
  count : Nat
deriving DecidableEq, Repr

/-- A CMT packet's header (R325). -/
structure CmtHdr where
  session : Nat
  stream : Nat
  psn : Nat
  tag : TagCheck := .absent
  port : Nat := 0
  source : Nat := 0
deriving DecidableEq, Repr

/-! ### Requesters and links -/

/-- A requester other than a core (R98, R99). -/
inductive Requester where
  | prep (hart : Nat)
  | cmt (session stream : Nat)
  | debug
  | host
deriving DecidableEq, Repr

/-- How bytes of a transfer meet their source memory (R239, R240): clean, corrected, or uncorrectable with the bytes
as they are read. -/
inductive EccOutcome where
  | clean | corrected | uncorrectable (asRead : List Byte)
deriving DecidableEq, Repr

/-- A prep core's access (R26). -/
inductive PrepAcc where
  | load (ga : GA) (len : Nat) (ecc : EccOutcome)
  | store (ga : GA) (bytes : List Byte)
deriving DecidableEq, Repr

/-- What the background path serves (R93). -/
inductive BgPath where
  | outbound (q idx off len : Nat)
  | inbound
  | combiner
deriving DecidableEq, Repr

/-- A fault that a module finds at a target for a core of another module, as it reports it (R241, R255, R416): the number of
the code, the issuing core, the queue and tag index of its transfer or a bare TSIG with its bundle, whether it is an
announce, a write or a read, and the unit and the stack of the detail word; `unit` is the tally of a signal. -/
structure TargetReport where
  fault : Nat
  issuer : Nat
  queue : Nat := 0
  idx : Nat := 0
  tsig : Bool := false
  announce : Bool := false
  write : Bool := false
  unit : Nat := 0
  stack : Nat := 0
  bundle : Nat := 0
deriving DecidableEq, Repr

/-- What a flit of kind Solder or management says (R258, R261 to R265, R276, R395; DESIGN CHOICE, log 6): the flooded
messages that the spec names, the master's Invar count (R363) and a module's own identity (R361). A request of the master
names the members and, per region, the object digest and the reproducibility record; `pace` is the I of a pace pause, `asked`
the cycle of the host's command, 0 for a pause or a declared step, and `base` the master's step base. -/
inductive MgmtMsg where
  | domainReset
  | partnerLost (m : Nat)
  | targetReport (r : TargetReport)
  | linkHealth (module port : Nat) (up : Bool)
  | solderRequest (seq step : Nat) (resume replace : Bool) (pace asked base : Nat) (members : List Nat) (want : List (Nat × Nat))
  | solderArrival (seq : Nat) (confirms : Bool) (ready : Nat)
  | solderCommit (seq t : Nat)
  | solderConfirm (seq : Nat)
  | invarCount (count : Nat)
  | identity (serial : Nat) (cores1104 grade300 : Bool) (firmware port : Nat)
deriving DecidableEq, Repr

/-- Whether a message goes to every module of the domain. -/
def MgmtMsg.flooded : MgmtMsg → Bool
  | .targetReport _ | .solderArrival .. | .identity .. => false
  | _ => true

/-- The fields of a Kollek header flit that a packet uses (R395). -/
structure FlitHdr where
  dst : Nat
  src : Nat
  hops : Nat := 0
  srcCore : Nat := 0
  dstGA : GA := 0
  srcGA : GA := 0
  sigCore : Nat := 0
  sigTally : Nat := 0
  sigCount : Nat := 0
  sigLast : Bool := false
  payload : Nat := 0
  tagIdx : Nat := 0
  queue : Nat := 0
  issuer : Nat := 0
  seqNo : Nat := 0
  acked : Nat := 0
  nak : Bool := false
  credits : List Nat := []
  body : Option MgmtMsg := none
deriving DecidableEq, Repr

/-- A read request (R239, R395): its header, and what ECC finds where its bytes are read. -/
structure ReadFlit where
  hdr : FlitHdr
  ecc : EccOutcome
deriving DecidableEq, Repr

/-- What DEBUG_ACCESS does with its words (R315, R385): a read, with what ECC finds on its way (R239), or a write. -/
inductive DebugOp where
  | read (ecc : EccOutcome)
  | write (values : List Nat)
deriving DecidableEq, Repr

/-- The counts of a measure update (R293): corrections of the last 24 h by place, and the CRC retries of mesh links by die. -/
structure MeasureCounts where
  wells : List (Nat × Nat) := []
  retries : List (Nat × Nat) := []
deriving DecidableEq, Repr

/-- A partner's identity (R361, R362), with the verdict on its signature and certificate (DESIGN CHOICE, log 6): the module at
`port` of the module with the serial number `near`, which is this one when it is 0; `peer` is the port number that the
partner reports when it is another than `port`. -/
structure Identity where
  near : Nat := 0
  serial : Nat
  cores1104 : Bool
  grade300 : Bool
  port : Nat
  peer : Option Nat := none
  certSlot : Nat
  sigOk : Bool
deriving DecidableEq, Repr

/-- What the parity walker finds wrong (R340): a register by class, instance and offset, or a buffered entry of a core. -/
inductive ParityHit where
  | register (cls inst off : Nat)
  | entry (lcore off pos : Nat)
deriving DecidableEq, Repr

/-- A place with a temperature sensor (R367). -/
inductive TempPlace where
  | island (phys : Nat) | ndie (d : Nat) | stack (s : Nat)
deriving DecidableEq, Repr

/-- How an attempt to retrain a port ends (R399, R401). -/
inductive RetrainEnd where
  | failed
  | trained (id : Identity)
deriving DecidableEq, Repr

/-- One destination of events (R318). -/
structure EventDest where
  network : Nat
  address : Nat
  port : Nat
deriving DecidableEq, Repr

/-- SESSION_ELEVATE payload (R310, R378): none asks for a nonce, else the vendor or owner signature over nonce and key. -/
inductive ElevateArg where
  | nonce
  | auth (nonce : Nat) (trailer : Trailer)
deriving DecidableEq, Repr

/-- The 48 mailbox commands of R315 with their arguments. -/
inductive MbxCmd where
  | sessionOpen
  | sessionElevate (a : ElevateArg)
  | sessionClose
  | keepalive
  | eventSubscribe (mask : Nat) (dests : List EventDest)
  | discover
  | inventory (part : InvPart) (off : Nat)
  | partners
  | load (a : LoadArgs)
  | start (regions : List Nat)
  | resume (regions : List Nat)
  | stop (region : Nat) (form : StopForm)
  | solderStep (regions : List Nat) (k : Nat) (replace : Bool)
  | replayStop (region : Nat) (form : ReplayForm)
  | define (region x0 y0 x1 y1 : Nat)
  | undefine (region : Nat)
  | park (region : Nat) (release : Bool)
  | repair (region : Nat) (act : RepairAct) (force : Bool)
  | parkUnit (unit : ParkUnit) (park : Bool)
  | regionStatus (region : Nat)
  | streamOpen (stream : Nat)
  | streamClose (stream : Nat)
  | stackAlloc (size : Nat) (fixed : Option GA)
  | stackFree (ga : GA)
  | regRead (ga : GA) (count : Nat)
  | regWrite (ga : GA) (values : List Nat) (bcast : Option Nat) (form : ApplyForm)
  | powerState (target : PowerName)
  | powerCap (watts : Nat)
  | pace (region p i : Nat)
  | reset (a : ResetArg)
  | faultRead (scope : FaultScope) (drain : Bool)
  | faultPolicy (region code policy : Nat)
  | ledgerRead (off len : Nat)
  | runRecord (region loadSeq : Nat)
  | choiceLog (region core : Nat)
  | backupReg (index : Nat) (value : Option Nat)
  | settingsRead (key : Option Nat)
  | settingsStage (key value : Nat)
  | settingsCommit
  | firmwareUpdate (ga : GA) (length : Nat) (image : ImageArg)
  | securityStatus
  | lifecycle (a : LifecycleArg)
  | debugToken (a : DebugArg)
  | attest (nonce : Nat)
  | debugAccess (ga : GA) (count : Nat) (op : DebugOp)
  | domainMap
  | rediscover
  | domainReset
deriving DecidableEq, Repr

/-! ### The commands -/

/-- The commands of the block: one constructor per row of the opcode table. Rows of the four slots name the core on
which the bundle is presented, the rest of the bundle, and the instruction's own fields (DESIGN CHOICE, log 3). -/
inductive Instr where
  | nop (core : Nat) (b : Bundle) (slot : Slot)
  | halt (core : Nat) (b : Bundle)
  | step (core : Nat) (b : Bundle) (mask : BitVec 24)
  | cset (core : Nat) (b : Bundle) (cd : BitVec 3) (src : CsetSrc)
  | cadd (core : Nat) (b : Bundle) (cd ca : BitVec 3) (src : CaddSrc)
  | ccopy (core : Nat) (b : Bundle) (cd ca : BitVec 3)
  | cmp (core : Nat) (b : Bundle) (pd : BitVec 2) (rel ca : BitVec 3) (src : CmpSrc)
  | br (core : Nat) (b : Bundle) (pp : BitVec 2) (always sense : Bool) (target : BitVec 14)
  | setvl (core : Nat) (b : Bundle) (src : SetvlSrc)
  | waitc (core : Nat) (b : Bundle) (src : WaitcSrc)
  | tsigLocal (core : Nat) (b : Bundle) (t : BitVec 6) (n : BitVec 12)
  | tsigRemote (core : Nat) (b : Bundle) (t : BitVec 6) (h n : BitVec 8)
  | remoteTsigApplied (id : Nat)
  | twait (core : Nat) (b : Bundle) (t : BitVec 6) (n : BitVec 12)
  | twaitany (core : Nat) (b : Bundle) (t : BitVec 6) (k1 cd : BitVec 3) (n : BitVec 8)
  | ttake (core : Nat) (b : Bundle) (t : BitVec 6) (n : BitVec 12)
  | dadv (core : Nat) (b : Bundle) (h : BitVec 8) (dim : BitVec 3) (src : DadvSrc)
  | loop (core : Nat) (b : Bundle) (cl : BitVec 3) (len1 : BitVec 14) (src : LoopSrc)
  | qput (core : Nat) (b : Bundle) (q : BitVec 2) (h : BitVec 8) (tf : BitVec 2) (cx : BitVec 3)
  | qwait (core : Nat) (b : Bundle) (cs : BitVec 3)
  | qwaitany (core : Nat) (b : Bundle) (cs k1 cd : BitVec 3)
  | radv (core : Nat) (b : Bundle) (tail : Bool) (ctx : BitVec 5)
  | mcast (core : Nat) (b : Bundle) (q : BitVec 2) (h : BitVec 8) (tf : BitVec 2) (cx : BitVec 3) (grp : BitVec 6)
  | chain (core : Nat) (b : Bundle) (q : BitVec 2) (h : BitVec 8) (tf : BitVec 2) (cx : BitVec 3) (grp : BitVec 6)
  | chainForward (core q idx member off len : Nat)
  | mwload (core : Nat) (b : Bundle) (h : BitVec 8) (part : BitVec 2) (two : Bool)
  | mswap (core : Nat) (b : Bundle)
  | mpass (core : Nat) (b : Bundle) (h : BitVec 8) (accum keep : Bool)
  | mpassw (core : Nat) (b : Bundle) (h : BitVec 8) (accum keep : Bool) (i j : BitVec 2)
  | mpassc (core : Nat) (b : Bundle) (h : BitVec 8) (accum keep : Bool)
  | mshape (core : Nat) (b : Bundle) (shape : BitVec 2)
  | mzero (core : Nat) (b : Bundle) (h : BitVec 8)
  | unitEntersArray (core : Nat)
  | arrayHold (core : Nat)
  | vadd (core : Nat) (b : Bundle) (h : BitVec 8) (form : VForm)
  | vsub (core : Nat) (b : Bundle) (h : BitVec 8) (form : VForm)
  | vmul (core : Nat) (b : Bundle) (h : BitVec 8) (form : VForm)
  | vfma (core : Nat) (b : Bundle) (h : BitVec 8) (form : VForm)
  | vmax (core : Nat) (b : Bundle) (h : BitVec 8) (form : VForm)
  | vmin (core : Nat) (b : Bundle) (h : BitVec 8) (form : VForm)
  | vabs (core : Nat) (b : Bundle) (h : BitVec 8) (form : VForm)
  | vcmp (core : Nat) (b : Bundle) (h : BitVec 8) (form : VForm)
  | vsel (core : Nat) (b : Bundle) (h : BitVec 8) (form : VForm)
  | vcvt (core : Nat) (b : Bundle) (h : BitVec 8) (form : VForm)
  | vexp2 (core : Nat) (b : Bundle) (h : BitVec 8) (form : VForm)
  | vlog2 (core : Nat) (b : Bundle) (h : BitVec 8) (form : VForm)
  | vrsq (core : Nat) (b : Bundle) (h : BitVec 8) (form : VForm)
  | vrcp (core : Nat) (b : Bundle) (h : BitVec 8) (form : VForm)
  | vtanh (core : Nat) (b : Bundle) (h : BitVec 8) (form : VForm)
  | vred (core : Nat) (b : Bundle) (h : BitVec 8) (form : VForm)
  | vscan (core : Nat) (b : Bundle) (h : BitVec 8) (form : VForm)
  | vacc (core : Nat) (b : Bundle) (h : BitVec 8) (form : VForm)
  | vperm (core : Nat) (b : Bundle) (h : BitVec 8) (form : VForm)
  | vgather (core : Nat) (b : Bundle) (h : BitVec 8) (form : VForm)
  | vrng (core : Nat) (b : Bundle) (ctr : BitVec 2) (h : BitVec 7) (u01 : Bool) (form : RngForm)
  | holdLimit (core : Nat)
  | waitTimeout (core : Nat)
  | announceTimeout (core q idx member : Nat)
  | regionEntersIdle (region : Nat)
  | transferStart (core q : Nat)
  | startConditionServed (core q idx : Nat)
  | bytesLanded (core q idx member off len : Nat) (ecc : EccOutcome)
  | transferComplete (core q : Nat)
  | tagIndexFree (core q : Nat)
  | announceApplied (core q idx member : Nat)
  | backgroundPathAccess (core : Nat) (path : BgPath)
  | combinerWrite (core : Nat) (req : Requester) (off : Nat) (bytes : List Byte)
  | combinerRead (core : Nat) (req : Requester) (off len : Nat)
  | combinerEntryTimeout (core : Nat)
  | requesterFence (req : Requester)
  | accumulatorCombinerAccess (core : Nat)
  | prepCoreAccess (hart : Nat) (acc : PrepAcc)
  | tallySignal (req : Requester) (core value : Nat)
  | wellRefreshSlot (die : Nat) (corrected : List (Nat × Nat))
  | stackRefresh (stack ch : Nat) (begins : Bool)
  | parkTakesEffect (unit : ParkUnit)
  | unitParked (unit : ParkUnit) (drained : Bool)
  | meshLinkDown (die dir retries : Nat)
  | heartbeat (port : Nat) (received : Option FlitHdr)
  | linkDown (port : Nat) (lane : Bool)
  | linkRetryLimit (port : Nat)
  | portRetrain (port : Nat) (result : RetrainEnd)
  | partnerLost (m : Nat)
  | failedFlit (port : Nat)
  | nakReceived (port : Nat) (hdr : FlitHdr)
  | creditReturn (port : Nat)
  | writeFlit (port : Nat) (hdr : FlitHdr) (data : List Byte)
  | readRequest (port : Nat) (rd : ReadFlit)
  | readResponse (port : Nat) (hdr : FlitHdr) (data : List Byte)
  | bareTsigFlit (port : Nat) (hdr : FlitHdr)
  | discoveryAndIdentity (id : Identity)
  | discoveryClose (now : Nat)
  | invarAlignment (count delay : Nat)
  | managementFlit (port : Nat) (hdr : FlitHdr) (msg : MgmtMsg)
  | solderArrival (seq module : Nat) (confirms : Bool) (ready : Nat)
  | solderCommit (seq : Nat) (t : Option Nat)
  | solderTStart (seq : Nat)
  | solderConfirm (seq module : Nat)
  | barrierTimeout (seq now : Nat)
  | pacePause (region : Nat)
  | paceResume (region : Nat)
  | capGovernor (now watts : Nat)
  | constantanStep (phys : Nat) (up : Bool)
  | parityWalk (now : Nat) (hits : List ParityHit)
  | alnicoMeasureUpdate (now : Nat) (temps : List (Nat × Int)) (counts : MeasureCounts)
  | thermalAlarm (place : TempPlace) (temp : Int)
  | thermalHalt (place : TempPlace) (temp : Int) (micros : Nat)
  | thermTrip (temp : Int)
  | inputPowerHalt (millivolts milliamps micros : Nat)
  | inputBelowMainRailLimit (millivolts : Nat)
  | islandLockLost (phys : Nat)
  | refclkLoss (micros : Nat)
  | syncIn
  | powerOn (backupKept : Bool)
  | pwrEn (level : Bool)
  | rstIn (micros : Nat)
  | managementWatchdog (silentMs : Nat)
  | securityViolation (cause : Nat)
  | resetComplete
  | heldCommandExpiry (now : Nat)
  | sessionIdleTimeout (session now : Nat)
  | eventResend (session seq now : Nat)
  | eventAcknowledge (h : Hdr) (seq : Nat)
  | sessionOpen (h : Hdr)
  | sessionElevate (h : Hdr) (a : ElevateArg)
  | sessionClose (h : Hdr)
  | keepalive (h : Hdr)
  | eventSubscribe (h : Hdr) (mask : Nat) (dests : List EventDest)
  | discover (h : Hdr)
  | inventory (h : Hdr) (part : InvPart) (off : Nat)
  | partners (h : Hdr)
  | load (h : Hdr) (a : LoadArgs)
  | loadComplete (region : Nat)
  | start (h : Hdr) (regions : List Nat)
  | resume (h : Hdr) (regions : List Nat)
  | stop (h : Hdr) (region : Nat) (form : StopForm)
  | solderStep (h : Hdr) (regions : List Nat) (k : Nat) (replace : Bool)
  | replayStop (h : Hdr) (region : Nat) (form : ReplayForm)
  | define (h : Hdr) (region x0 y0 x1 y1 : Nat)
  | undefine (h : Hdr) (region : Nat)
  | park (h : Hdr) (region : Nat) (release : Bool)
  | repair (h : Hdr) (region : Nat) (act : RepairAct) (force : Bool)
  | regionTransitionDone (region : Nat) (rows : Option (List (Nat × Nat))) (zeroed : List Nat)
  | parkUnit (h : Hdr) (unit : ParkUnit) (park : Bool)
  | regionStatus (h : Hdr) (region : Nat)
  | streamOpen (h : Hdr) (stream : Nat)
  | streamClose (h : Hdr) (stream : Nat)
  | stackAlloc (h : Hdr) (size : Nat) (fixed : Option GA)
  | stackFree (h : Hdr) (ga : GA)
  | regRead (h : Hdr) (ga : GA) (count : Nat)
  | regWrite (h : Hdr) (ga : GA) (values : List Nat) (bcast : Option Nat) (form : ApplyForm)
  | registerWrite (req : Requester) (ga : GA) (value : Nat)
  | faultCountRead (core : Nat)
  | rcFieldRead (req : Requester) (ga : GA)
  | indDataRead (req : Requester) (ga : GA)
  | indDataWrite (req : Requester) (ga : GA) (value : Nat)
  | powerState (h : Hdr) (target : PowerName)
  | powerCap (h : Hdr) (watts : Nat)
  | pace (h : Hdr) (region p i : Nat)
  | reset (h : Hdr) (a : ResetArg)
  | faultRead (h : Hdr) (scope : FaultScope) (drain : Bool)
  | faultPolicy (h : Hdr) (region code policy : Nat)
  | ledgerRead (h : Hdr) (off len : Nat)
  | runRecord (h : Hdr) (region loadSeq : Nat)
  | choiceLog (h : Hdr) (region core : Nat)
  | backupReg (h : Hdr) (index : Nat) (value : Option Nat)
  | settingsRead (h : Hdr) (key : Option Nat)
  | settingsStage (h : Hdr) (key value : Nat)
  | settingsCommit (h : Hdr)
  | firmwareUpdate (h : Hdr) (ga : GA) (length : Nat) (image : ImageArg)
  | firmwareFallback (now : Nat)
  | securityStatus (h : Hdr)
  | lifecycle (h : Hdr) (a : LifecycleArg)
  | debugToken (h : Hdr) (a : DebugArg)
  | debugExpiry (now : Nat)
  | attest (h : Hdr) (nonce : Nat)
  | debugAccess (h : Hdr) (ga : GA) (count : Nat) (op : DebugOp)
  | domainMap (h : Hdr)
  | rediscover (h : Hdr)
  | domainReset (h : Hdr)
  | write (h : CmtHdr) (ga : GA) (bytes : List Byte)
  | read (h : CmtHdr) (ga : GA) (len : Nat) (ecc : EccOutcome)
  | writeAnnounce (h : CmtHdr) (ga : GA) (bytes : List Byte) (ann : AnnWord)
  | fence (h : CmtHdr)
  | ack (h : CmtHdr) (acked : Nat)
  | nak (h : CmtHdr) (missing : Nat)
  | cmtAckTimer (session stream : Nat)
  | cmtRetransmitTimer (session stream : Nat)
  | ethLinkUp (port : Nat) (speed400 : Bool)
  | ethPortDown (port : Nat)
  | arp (port ip source : Nat)
  | neighbourDiscovery (port ip source : Nat)
  | icmpEcho (port ip source : Nat) (payload : List Byte)
  | pfcFrame (port prio quanta : Nat)
  | pfcThreshold (port level : Nat)
  | lldp (port : Nat)
  | lldpNeighbour (port chassis portId ttl now : Nat)
  | lldpTtlExpiry (now : Nat)
  | readVin
  | readIin
  | readPin
  | readTemperature1
  | readTemperature2
  | statusWord
  | clearFaults
  | mfrSerial
  | powerTransitionComplete (cores : List Nat) (links : List (Nat × Nat))
  | settingsCommitComplete (result : CommitEnd)
  | managementRestartComplete
  | refclkReturn
  | protectiveHaltConditionCleared (thermal : Bool)
deriving DecidableEq, Repr

end Sys2Proof
end

