-- ==== Sys2Proof/Decode.lean ====
section
/-! DEFINITION. The words of the four slots and of a bundle (R151 to R160, R194, R204, R216, R217): which fields are
legal, the encoders and the decoders, total on any bits; and `decodeTableWord` over the rows of the opcode table, of
which none has bits. -/

namespace Sys2Proof

/-- Bits [hi:lo] of a word, as a vector of the width given. -/
abbrev fld {w : Nat} (x : BitVec w) (lo n : Nat) : BitVec n := x.extractLsb' lo n

/-- One bit of a word. -/
abbrev bitAt {w : Nat} (x : BitVec w) (i : Nat) : Bool := x.getLsbD i

/-- A Bool as one bit. -/
def b1 (p : Bool) : BitVec 1 := if p then 1#1 else 0#1

/-! ### S slot (R155) -/

/-- The fields of an S operation that the map of R155 admits. -/
def SOp.legal : SOp → Bool
  | .illegal _ => false
  | .tsigLocal t _ => t.toNat ≤ 47
  | .tsigRemote t _ _ => t.toNat ≤ 47
  | .twait t _ => t.toNat ≤ 47
  | .ttake t _ => t.toNat ≤ 47
  | .twaitany t k1 _ n => t.toNat + k1.toNat ≤ 47 && n != 0
  | .dadv _ dim _ => dim.toNat ≤ 4
  | _ => true

/-- Encoder of the S slot (R155). -/
def encodeS : SOp → BitVec 28
  | .nop => 0#28
  | .halt => 0x01#5 ++ 0#23
  | .step m => 0x1#4 ++ m
  | .cset cd (.imm v) => 0x04#5 ++ cd ++ 0#1 ++ v
  | .cset cd (.word h) => 0x04#5 ++ cd ++ 1#1 ++ 0#11 ++ h
  | .cadd cd ca (.imm v) => 0x05#5 ++ cd ++ ca ++ 0#1 ++ v
  | .cadd cd ca (.reg cb) => 0x05#5 ++ cd ++ ca ++ 1#1 ++ 0#13 ++ cb
  | .ccopy cd ca => 0x06#5 ++ cd ++ ca ++ 0#17
  | .cmp pd rel ca (.imm v) => 0x07#5 ++ pd ++ rel ++ ca ++ 0#2 ++ v
  | .cmp pd rel ca (.reg cb) => 0x07#5 ++ pd ++ rel ++ ca ++ 1#2 ++ 0#10 ++ cb
  | .cmp pd rel ca (.word h) => 0x07#5 ++ pd ++ rel ++ ca ++ 2#2 ++ 0#5 ++ h
  | .br pp a se tg => 0x08#5 ++ pp ++ b1 a ++ b1 se ++ 0#5 ++ tg
  | .setvl (.imm v) => 0x09#5 ++ 0#2 ++ 0#3 ++ v
  | .setvl (.reg cs) => 0x09#5 ++ 1#2 ++ cs ++ 0#18
  | .setvl (.bounded cs v) => 0x09#5 ++ 2#2 ++ cs ++ v
  | .waitc (.imm n) => 0x0A#5 ++ 0#1 ++ n
  | .waitc (.reg cs) => 0x0A#5 ++ 1#1 ++ 0#19 ++ cs
  | .tsigLocal t n => 0x0B#5 ++ 0#1 ++ t ++ n ++ 0#4
  | .tsigRemote t h n => 0x0B#5 ++ 1#1 ++ t ++ h ++ n
  | .twait t n => 0x0C#5 ++ t ++ n ++ 0#5
  | .twaitany t k1 cd n => 0x0D#5 ++ t ++ k1 ++ cd ++ n ++ 0#3
  | .ttake t n => 0x0E#5 ++ t ++ n ++ 0#5
  | .dadv h dim (.reg cs) => 0x0F#5 ++ h ++ dim ++ 0#1 ++ 0#8 ++ cs
  | .dadv h dim (.imm v) => 0x0F#5 ++ h ++ dim ++ 1#1 ++ v
  | .loop cl l (.imm n) => 0x4#3 ++ cl ++ l ++ 0#1 ++ n
  | .loop cl l (.reg cs) => 0x4#3 ++ cl ++ l ++ 1#1 ++ 0#4 ++ cs
  | .illegal w => w

/-- What the map of R155 reads at each opcode, before the ranges of tallies and dimensions are looked at. -/
def decodeSRaw (w : BitVec 28) : SOp :=
  if w = 0#28 then .nop
  else if fld w 24 4 = 0x1#4 then .step (fld w 0 24)
  else if fld w 25 3 = 0x4#3 then
    if bitAt w 7 then
      (if fld w 3 4 = 0#4 then .loop (fld w 22 3) (fld w 8 14) (.reg (fld w 0 3)) else .illegal w)
    else .loop (fld w 22 3) (fld w 8 14) (.imm (fld w 0 7))
  else match (fld w 23 5).toNat with
    | 0x01 => if fld w 0 23 = 0#23 then .halt else .illegal w
    | 0x04 =>
      if bitAt w 19 then
        (if fld w 8 11 = 0#11 then .cset (fld w 20 3) (.word (fld w 0 8)) else .illegal w)
      else .cset (fld w 20 3) (.imm (fld w 0 19))
    | 0x05 =>
      if bitAt w 16 then
        (if fld w 3 13 = 0#13 then .cadd (fld w 20 3) (fld w 17 3) (.reg (fld w 0 3)) else .illegal w)
      else .cadd (fld w 20 3) (fld w 17 3) (.imm (fld w 0 16))
    | 0x06 => if fld w 0 17 = 0#17 then .ccopy (fld w 20 3) (fld w 17 3) else .illegal w
    | 0x07 =>
      match (fld w 13 2).toNat with
      | 0 => .cmp (fld w 21 2) (fld w 18 3) (fld w 15 3) (.imm (fld w 0 13))
      | 1 => if fld w 3 10 = 0#10 then .cmp (fld w 21 2) (fld w 18 3) (fld w 15 3) (.reg (fld w 0 3)) else .illegal w
      | 2 => if fld w 8 5 = 0#5 then .cmp (fld w 21 2) (fld w 18 3) (fld w 15 3) (.word (fld w 0 8)) else .illegal w
      | _ => .illegal w
    | 0x08 => if fld w 14 5 = 0#5 then .br (fld w 21 2) (bitAt w 20) (bitAt w 19) (fld w 0 14) else .illegal w
    | 0x09 =>
      match (fld w 21 2).toNat with
      | 0 => if fld w 18 3 = 0#3 then .setvl (.imm (fld w 0 18)) else .illegal w
      | 1 => if fld w 0 18 = 0#18 then .setvl (.reg (fld w 18 3)) else .illegal w
      | 2 => .setvl (.bounded (fld w 18 3) (fld w 0 18))
      | _ => .illegal w
    | 0x0A =>
      if bitAt w 22 then (if fld w 3 19 = 0#19 then .waitc (.reg (fld w 0 3)) else .illegal w)
      else .waitc (.imm (fld w 0 22))
    | 0x0B =>
      if bitAt w 22 then .tsigRemote (fld w 16 6) (fld w 8 8) (fld w 0 8)
      else (if fld w 0 4 = 0#4 then .tsigLocal (fld w 16 6) (fld w 4 12) else .illegal w)
    | 0x0C => if fld w 0 5 = 0#5 then .twait (fld w 17 6) (fld w 5 12) else .illegal w
    | 0x0D =>
      if fld w 0 3 = 0#3 then .twaitany (fld w 17 6) (fld w 14 3) (fld w 11 3) (fld w 3 8) else .illegal w
    | 0x0E => if fld w 0 5 = 0#5 then .ttake (fld w 17 6) (fld w 5 12) else .illegal w
    | 0x0F =>
      if bitAt w 11 then .dadv (fld w 15 8) (fld w 12 3) (.imm (fld w 0 11))
      else (if fld w 3 8 = 0#8 then .dadv (fld w 15 8) (fld w 12 3) (.reg (fld w 0 3)) else .illegal w)
    | _ => .illegal w

/-- Decoder of the S slot: every word that R155 does not admit is `illegal`. -/
def decodeS (w : BitVec 28) : SOp :=
  let o := decodeSRaw w
  if o.legal then o else .illegal w

/-! ### X slot (R156, R194) -/

/-- The fields of an X operation that R194 admits. -/
def XOp.legal : XOp → Bool
  | .illegal _ => false
  | .qput _ _ tf cx => tf != 3 && (tf == 1 || cx == 0)
  | .mcast _ _ tf cx _ => tf != 3 && (tf == 1 || cx == 0)
  | .chain _ _ tf cx _ => tf != 3 && (tf == 1 || cx == 0)
  | .qwaitany cs k1 _ => cs.toNat + k1.toNat ≤ 7
  | _ => true

/-- Encoder of the X slot (R194). -/
def encodeX : XOp → BitVec 28
  | .nop => 0#28
  | .qput q h tf cx => 0x1#4 ++ q ++ h ++ tf ++ cx ++ 0#9
  | .qwait cs => 0x2#4 ++ cs ++ 0#21
  | .qwaitany cs k1 cd => 0x3#4 ++ cs ++ k1 ++ cd ++ 0#15
  | .radv tail ctx => 0x4#4 ++ b1 tail ++ ctx ++ 0#18
  | .mcast q h tf cx g => 0x5#4 ++ q ++ h ++ tf ++ cx ++ g ++ 0#3
  | .chain q h tf cx g => 0x6#4 ++ q ++ h ++ tf ++ cx ++ g ++ 0#3
  | .illegal w => w

/-- What R156 and R194 read at each opcode. -/
def decodeXRaw (w : BitVec 28) : XOp :=
  if w = 0#28 then .nop
  else match (fld w 24 4).toNat with
    | 0x1 => if fld w 0 9 = 0#9 then .qput (fld w 22 2) (fld w 14 8) (fld w 12 2) (fld w 9 3) else .illegal w
    | 0x2 => if fld w 0 21 = 0#21 then .qwait (fld w 21 3) else .illegal w
    | 0x3 => if fld w 0 15 = 0#15 then .qwaitany (fld w 21 3) (fld w 18 3) (fld w 15 3) else .illegal w
    | 0x4 => if fld w 0 18 = 0#18 then .radv (bitAt w 23) (fld w 18 5) else .illegal w
    | 0x5 =>
      if fld w 0 3 = 0#3 then .mcast (fld w 22 2) (fld w 14 8) (fld w 12 2) (fld w 9 3) (fld w 3 6) else .illegal w
    | 0x6 =>
      if fld w 0 3 = 0#3 then .chain (fld w 22 2) (fld w 14 8) (fld w 12 2) (fld w 9 3) (fld w 3 6) else .illegal w
    | _ => .illegal w

/-- Decoder of the X slot. -/
def decodeX (w : BitVec 28) : XOp :=
  let o := decodeXRaw w
  if o.legal then o else .illegal w

/-! ### M slot (R156, R204) -/

/-- The fields of an M operation that R204 admits. -/
def MOp.legal : MOp → Bool
  | .illegal _ => false
  | .mshape s => s != 3
  | _ => true

/-- Encoder of the M slot (R204). -/
def encodeM : MOp → BitVec 28
  | .nop => 0#28
  | .mwload h p two => 0x1#4 ++ h ++ p ++ b1 two ++ 0#13
  | .mswap => 0x2#4 ++ 0#24
  | .mpass h a k => 0x3#4 ++ h ++ b1 a ++ b1 k ++ 0#14
  | .mpassw h a k i j => 0x4#4 ++ h ++ b1 a ++ b1 k ++ i ++ j ++ 0#10
  | .mpassc h a k => 0x5#4 ++ h ++ b1 a ++ b1 k ++ 0#14
  | .mshape s => 0x6#4 ++ s ++ 0#22
  | .mzero h => 0x7#4 ++ h ++ 0#16
  | .illegal w => w

/-- What R156 and R204 read at each opcode. -/
def decodeMRaw (w : BitVec 28) : MOp :=
  if w = 0#28 then .nop
  else match (fld w 24 4).toNat with
    | 0x1 => if fld w 0 13 = 0#13 then .mwload (fld w 16 8) (fld w 14 2) (bitAt w 13) else .illegal w
    | 0x2 => if fld w 0 24 = 0#24 then .mswap else .illegal w
    | 0x3 => if fld w 0 14 = 0#14 then .mpass (fld w 16 8) (bitAt w 15) (bitAt w 14) else .illegal w
    | 0x4 =>
      if fld w 0 10 = 0#10 then .mpassw (fld w 16 8) (bitAt w 15) (bitAt w 14) (fld w 12 2) (fld w 10 2)
      else .illegal w
    | 0x5 => if fld w 0 14 = 0#14 then .mpassc (fld w 16 8) (bitAt w 15) (bitAt w 14) else .illegal w
    | 0x6 => if fld w 0 22 = 0#22 then .mshape (fld w 22 2) else .illegal w
    | 0x7 => if fld w 0 16 = 0#16 then .mzero (fld w 16 8) else .illegal w
    | _ => .illegal w

/-- Decoder of the M slot. -/
def decodeM (w : BitVec 28) : MOp :=
  let o := decodeMRaw w
  if o.legal then o else .illegal w

/-! ### V slot (R157, R158, R160, R216, R217) -/

/-- The opcode of R157. -/
def VCode.opcode : VCode → BitVec 5
  | .vadd => 0x01 | .vsub => 0x02 | .vmul => 0x03 | .vfma => 0x04 | .vmax => 0x05 | .vmin => 0x06 | .vabs => 0x07
  | .vcmp => 0x08 | .vsel => 0x09 | .vcvt => 0x0A | .vexp2 => 0x0B | .vlog2 => 0x0C | .vrsq => 0x0D | .vrcp => 0x0E
  | .vtanh => 0x0F | .vred => 0x10 | .vscan => 0x11 | .vacc => 0x12 | .vperm => 0x13 | .vgather => 0x14

/-- The opcode map of R157 read the other way. -/
def vcodeOf (n : Nat) : Option VCode :=
  match n with
  | 0x01 => some .vadd | 0x02 => some .vsub | 0x03 => some .vmul | 0x04 => some .vfma | 0x05 => some .vmax
  | 0x06 => some .vmin | 0x07 => some .vabs | 0x08 => some .vcmp | 0x09 => some .vsel | 0x0A => some .vcvt
  | 0x0B => some .vexp2 | 0x0C => some .vlog2 | 0x0D => some .vrsq | 0x0E => some .vrcp | 0x0F => some .vtanh
  | 0x10 => some .vred | 0x11 => some .vscan | 0x12 => some .vacc | 0x13 => some .vperm | 0x14 => some .vgather
  | _ => none

/-- The modifier bits mod[14:0] of a form (R158). -/
def VForm.mod : VForm → BitVec 15
  | .native md => md
  | .legacy _ md => (0#12) ++ md

/-- The modifier bits that R157, R216 and R217 admit for an opcode. -/
def VCode.modLegal (c : VCode) (md : BitVec 15) : Bool :=
  let low := (fld md 0 3).toNat
  let hi := fld md 4 11
  match c with
  | .vadd | .vsub | .vmul | .vmax | .vmin | .vabs => low == 0 && hi == 0
  | .vfma => md == 0
  | .vcmp => low ≤ 5 && hi == 0
  | .vsel | .vcvt => low == 0 && hi == 0
  | .vexp2 | .vlog2 | .vrsq | .vrcp | .vtanh | .vperm => md == 0
  | .vred => low ≤ 2 && fld md 3 12 == 0
  | .vscan => low ≤ 1 && fld md 3 12 == 0
  | .vgather => low ≤ 1 && fld md 3 12 == 0
  | .vacc =>
    (fld md 0 2).toNat ≤ 2 && fld md 12 3 == 0
      && !(bitAt md 2 && (bitAt md 4 || bitAt md 5))
      && (bitAt md 3 || !(bitAt md 6)) && (bitAt md 3 || fld md 7 2 == 0) && (bitAt md 3 || !(bitAt md 11))
      && (bitAt md 6 || fld md 9 2 == 0) && fld md 7 2 != 3 && fld md 9 2 != 3

/-- The fields of a V operation that the maps admit. -/
def VOp.legal : VOp → Bool
  | .illegal _ => false
  | .nop => true
  | .vec c _ f => c.modLegal f.mod
  | .vrng _ _ _ _ => true

/-- Whether a V operation is written in the form that the legacy-count flag selects (R158). -/
def VOp.formIs (legacy : Bool) : VOp → Bool
  | .vec _ _ (.native _) => !legacy
  | .vec _ _ (.legacy _ _) => legacy
  | .vrng _ _ _ (.native _) => !legacy
  | .vrng _ _ _ (.legacy _ _) => legacy
  | _ => true

/-- Encoder of the V slot (R158, R160). -/
def encodeV : VOp → BitVec 28
  | .nop => 0#28
  | .vec c h (.native md) => c.opcode ++ h ++ md
  | .vec c h (.legacy n md) => c.opcode ++ h ++ n ++ md
  | .vrng k h u (.native st) => 7#3 ++ k ++ h ++ b1 u ++ st
  | .vrng k h u (.legacy n st) => 7#3 ++ k ++ h ++ b1 u ++ n ++ st
  | .illegal w => w

/-- What R157, R158 and R160 read in the form that the legacy-count flag selects. -/
def decodeVRaw (legacy : Bool) (w : BitVec 28) : VOp :=
  if w = 0#28 then .nop
  else if fld w 25 3 = 7#3 then
    .vrng (fld w 23 2) (fld w 16 7) (bitAt w 15)
      (if legacy then .legacy (fld w 3 12) (fld w 0 3) else .native (fld w 0 15))
  else match vcodeOf (fld w 23 5).toNat with
    | none => .illegal w
    | some c =>
      .vec c (fld w 15 8) (if legacy then .legacy (fld w 3 12) (fld w 0 3) else .native (fld w 0 15))

/-- Decoder of the V slot. -/
def decodeV (legacy : Bool) (w : BitVec 28) : VOp :=
  let o := decodeVRaw legacy w
  if o.legal then o else .illegal w

/-! ### Bundles (R151, R152) -/

/-- Decoder of a bundle. -/
def decodeBundle (w : BitVec 128) : Bundle :=
  { delay := fld w 120 8
    marker := bitAt w 112
    relaxed := bitAt w 113
    legacy := bitAt w 114
    reserved := fld w 115 5
    s := decodeS (fld w 84 28)
    x := decodeX (fld w 56 28)
    m := decodeM (fld w 28 28)
    v := decodeV (bitAt w 114) (fld w 0 28) }

/-- Encoder of a bundle. -/
def encodeBundle (b : Bundle) : BitVec 128 :=
  b.delay ++ b.reserved ++ b1 b.legacy ++ b1 b.relaxed ++ b1 b.marker
    ++ encodeS b.s ++ encodeX b.x ++ encodeM b.m ++ encodeV b.v

/-- A bundle that the encoder can write and the decoder read back: every slot legal, the V slot in the flag's form. -/
def Bundle.wf (b : Bundle) : Bool :=
  b.s.legal && b.x.legal && b.m.legal && b.v.legal && b.v.formIs b.legacy

/-- Sixteen bytes of instruction memory as a bundle (R151: bundle i at 16 i, little-endian, R10). -/
def bundleOfBytes (bs : List Byte) : BitVec 128 :=
  BitVec.ofNat 128 (bs.reverse.foldl (fun a b => a * 256 + b.toNat) 0)

/-- The flag byte [119:112] of a bundle (R152). -/
def Bundle.flagByte (b : Bundle) : Nat :=
  (b.reserved ++ b1 b.legacy ++ b1 b.relaxed ++ b1 b.marker : BitVec 8).toNat

/-- The command that a word of the opcode table spells: no row of this table has bits, so no word spells one. -/
def decodeTableWord (nbits w : Nat) : Option Instr :=
  let _ := nbits
  let _ := w
  none

end Sys2Proof
end

