-- ==== Sys2Proof/Config.lean ====
section
/-! DEFINITION. The values the spec leaves open and does not bound: opaque functions of a counter that the step
advances, or of an address. Nothing in Lean can evaluate them (DESIGN CHOICE, log 20). -/

namespace Sys2Proof

/-- A random value that the module draws (nonces R310, R376, R382): unspecified, one per draw. -/
opaque Config.freeNonce : Nat → Nat

/-- The detail word of a module-level fault for which no chapter of the spec defines one (R81), one per draw. -/
opaque Config.freeDetail : Nat → Nat

/-- The place of a latched Invar count inside the 4 cc around a SYNC_IN edge (R407), one per draw. -/
opaque Config.freeSkew : Nat → Nat

/-- The first of the 8 MAC addresses that the factory gave the module (R390): the spec gives no value. -/
opaque Config.macBase : Nat

/-- The word of an indirect target (PHY and DRAM mode registers, R342) that nothing has written: the spec gives no
contents; the arguments are the block's class and instance and the 64-bit IND_ADDR. -/
opaque Config.freeIndirect : Nat → Nat → Nat → Nat

/-- The SHAKE256 digest of bytes, or of the numbers of a record (an object, a placement, a run, the settings; R281, R285,
R296): SHAKE256 is a standard outside the spec. -/
opaque Config.digestOf : List Nat → Nat

/-- The accumulator word that a unit forms when an MSWAP inside its pass has brought in a tile that R46 refuses against
the streaming operand, or one of the other tile mode (R116, R208: the check is made at issue alone): unstated. The
arguments name the place in the run, so that a run repeats it (R266): the core, the run step, the bundle, its occurrence
in the step, the unit of the pass and the output column. -/
opaque Config.freeSum : Nat → Nat → Nat → Nat → Nat → Nat → Nat

/-- What a field shows of a value too large for it, where the spec names neither saturation nor wrapping, by the field (0 the
element group of BANK_CONFLICT, R92; 1 the gather-miss count, R145) and the value. -/
opaque Config.freeField : Nat → Nat → Nat

/-- The verdict of the loader's check of a retimed schedule (R291), by the object's and the placement's digests: the spec
does not say from which counters, VL and descriptors the check starts a loop-free run. -/
opaque Config.retimeVerdict : Nat → Nat → Bool

end Sys2Proof
end

