-- ==== Sys2Proof/Machine/State.lean ====
section
/-! DEFINITION. The state of the module as plain data (INVENTORY.md, State), the reasons a step can stop, and the state
after an L0 reset (R351; the values that R351 does not give are named in log 2, DESIGN CHOICE). -/

namespace Sys2Proof.Machine

/-- A byte memory: pairs of address and byte, addresses strictly rising, no entry equal to 0, which is what an unlisted
address reads as (R107 for scratchpads and accumulator files; DESIGN CHOICE, log 5 for the others). -/
abbrev Mem := List Host.Cell

/-- The canonical form of a memory. -/
def Mem.wf (m : Mem) : Bool :=
  match m with
  | [] => true
  | [c] => c.2 != 0
  | c :: d :: r => c.2 != 0 && decide (c.1 < d.1) && Mem.wf (d :: r)

/-! ### Faults of the spec, as records (R81, R85, R344) -/

/-- The fault codes of R85. -/
inductive FCode where
  | illegalOp | badHandle | inconsistentOperands | slotConflict | loopNest
  | bankConflict | scoreboardTrap | holdLimit | ringUnderrun | ringOverrun | accRange | slipBudget
  | tallyOverflow | tallyUnderflow | tallyImbalance | announceTimeout | waitTimeout | barrierTimeout
  | tagInvalid | addressUnmapped | parkedTarget | memUncorrectable | memCorrected | groupInvalid
  | linkDown | linkRetryLimit | partnerLost
  | configParity | privilege | indirectRange
  | thermalAlarm | thermalHalt | inputPowerHalt | islandLockLost
  | authFail | debugTokenRejected
deriving DecidableEq, Repr

/-- A fault record (R81, R344). `lcore` is absent for a module-level fault, `slot` for a record that names no
instruction; `closing` marks a STEP check fault, recorded against the step that it closes. -/
structure FRec where
  code : FCode
  lcore : Option Nat := none
  step : Nat := 0
  off : Nat := 0
  slot : Option Slot := none
  bundle : Nat := 0
  detail : Nat := 0
  closing : Bool := false
  cycle : Nat := 0
deriving DecidableEq, Repr

/-- Policies (R83), in rising strength. -/
inductive Policy where
  | log | stopStep | stop
deriving DecidableEq, Repr

/-! ### Descriptors and operands (R161, R167) -/

/-- A tensor descriptor (R161). -/
structure Desc where
  base : GA := 0
  fmt : Nat := 0
  rank : Nat := 1
  keepInf : Bool := false
  ring : Bool := false
  ctx : Nat := 0
  release : Bool := false
  slotOff : Nat := 0
  linkValid : Bool := false
  link : Nat := 0
  rsv : Nat := 0
  valid : Bool := false
  ringN : Nat := 0
  ringS : Nat := 0
  rsv2 : Nat := 0
  ext : List Nat := []
  stride : List Int := []
  attr : Nat := 0
deriving DecidableEq, Repr

/-- A resolved operand (R167): the handle after resolution, the descriptor as it stood, the address of element 0 with
the ring slot applied (R164), and the linked scale descriptor of an MX operand. -/
structure Opnd where
  h : Nat
  d : Desc
  base : GA
  scale : Option Desc := none
deriving DecidableEq, Repr

/-! ### The pieces of a core -/

/-- Run status of a core (R343 CORE_STATUS). -/
inductive RunState where
  | stopped | running | halted
deriving DecidableEq, Repr

/-- A presented bundle that is held (R67), with its hold counters (R97, R248) and the cycle it was first presented. -/
structure Presented where
  b : Bundle
  since : Nat
  sbCount : Nat := 0
  waitCount : Nat := 0
  skipped : List Bool := [false, false, false, false]
  timedOut : Bool := false
  lastC8 : List (Option Nat) := [none, none, none, none]
deriving DecidableEq, Repr

/-- An active loop (R174). -/
structure LoopEntry where
  start : Nat
  stop : Nat
  counter : Nat
  count : Nat
deriving DecidableEq, Repr

/-- A start condition that is not yet served (R250), in issue order. -/
structure Cond where
  q : Nat
  idx : Nat
  tally : Nat
  count : Nat
deriving DecidableEq, Repr

/-- A ring context (R100, R415); one that a window write has begun and not yet marked configured stands as `configured`
false. -/
structure Ring where
  base : Nat
  n : Nat
  size : Nat
  queue : Option Nat := none
  configured : Bool := true
  head : Nat := 0
  tail : Nat := 0
  f : Nat := 0
  p : Nat := 0
deriving DecidableEq, Repr

/-- A run of granules (R95), bounds included. -/
structure GRange where
  lo : Nat
  hi : Nat
deriving DecidableEq, Repr

/-- An engine entry of the scoreboard (R95): release cycles of its sources and its destination. An M entry counts on
the due clock (R124). -/
structure EngineEntry where
  mclock : Bool
  srcs : List GRange
  dst : Option GRange
  relSrc : Nat
  relDst : Nat
  rings : List Nat := []
  srcDone : Bool := false
deriving DecidableEq, Repr

/-- An accumulator entry (R106): the lines that a pass in flight writes; it is released with its pass. -/
structure AccEntry where
  job : Nat
  lo : Nat
  hi : Nat
deriving DecidableEq, Repr

/-- The transfer attributes of R228. -/
structure XAttr where
  stream : Bool := false
  startEn : Bool := false
  startTally : Nat := 0
  startCount : Nat := 0
  annEn : Bool := false
  annTally : Nat := 0
  annCount : Nat := 0
  annCore : Nat := 0
  noMerge : Bool := false
deriving DecidableEq, Repr

/-- The kinds of transfers (R195, R197, R198); a group delivery holds its members in chain order. -/
inductive XKind where
  | put | mcast | chain
deriving DecidableEq, Repr

/-- One delivery of a transfer: the whole transfer of a QPUT, or one member of a group. `landed` lists chunks (offset,
length, cycle), `sent` the chunks that are on their way to another module, `forwarded` the chunks that the member before
has sent on (offset, length, cycle), `pos` the place in the stream buffer. -/
structure Delivery where
  member : Nat
  landed : List (Nat × Nat × Nat) := []
  sent : List (Nat × Nat) := []
  forwarded : List (Nat × Nat × Nat) := []
  pos : Option Nat := none
  lastCycle : Nat := 0
  announced : Bool := false
  withdrawn : Bool := false
deriving DecidableEq, Repr

/-- A transfer that holds a queue index, or has freed it while an announce is still to apply (R191 to R193, R229 to R232).
`grp` is the group that an MCAST or a CHAIN names, `srcRead` holds the source bytes that have been read, by offset. -/
structure Xfer where
  q : Nat
  idx : Nat
  gen : Nat
  tagForm : Nat
  taken : Bool := false
  kind : XKind
  grp : Option Nat := none
  src : Opnd
  dst : Opnd
  attr : XAttr
  bytes : Nat
  bundle : Nat
  step : Nat
  accepted : Nat
  condServed : Bool := true
  started : Option Nat := none
  chainMode : Bool := false
  complete : Bool := false
  discarded : Bool := false
  srcUnmapped : Bool := false
  srcRead : List (Nat × Byte) := []
  srcDone : Bool := false
  deliveries : List Delivery := []
  raised : List FCode := []
  freed : Bool := false
deriving DecidableEq, Repr

/-- A queue (R192): the acceptance count and the transfers whose index is allocated, oldest first. -/
structure Queue where
  count : Nat := 0
  live : List Xfer := []
deriving DecidableEq, Repr

/-- Payload that waits in the landing buffer (R94) for bank cycles, in arrival order: the number of the access that it
belongs to when it came from another module, else the issuing core, queue, index, generation, member and chunk; and the
cells still to be written. -/
structure Landing where
  outer : Option Nat := none
  issuer : Nat
  q : Nat
  idx : Nat
  gen : Nat
  member : Nat
  off : Nat
  len : Nat
  cells : List (Nat × Byte)
deriving DecidableEq, Repr

/-- Where the bytes of a read go (R98, R240): the access of a requester that waits for them, with their place in it, or
none for a read that stands alone. -/
abbrev ReadSink := Option (Nat × Nat)

/-- One byte that a combiner entry holds: its offset in the granule, its value, its requester, and the number of the
access that wrote it. -/
structure CombByte where
  at_ : Nat
  val : Byte
  req : Requester
  stamp : Nat
deriving DecidableEq, Repr

/-- A read of the scratchpad by the combiner: requester, offset inside the granule, length (R98). -/
structure CombRead where
  req : Requester
  at_ : Nat
  len : Nat
  sink : ReadSink
deriving DecidableEq, Repr

/-- A combiner entry (R98), or a read that waits for its bank behind the flushes before it. -/
structure CombEntry where
  granule : Nat
  bytes : List CombByte
  opened : Nat
  read : Option CombRead := none
deriving DecidableEq, Repr

/-- An access inside one granule that waits for a combiner entry, or behind one of its requester that waits (R98): `cells`
are the bytes of a write, by offset in the granule, none for a read. -/
structure CombAcc where
  req : Requester
  stamp : Nat
  granule : Nat
  at_ : Nat
  len : Nat
  cells : Option (List (Nat × Byte))
  sink : ReadSink
deriving DecidableEq, Repr

/-- A combiner access to the accumulator window that waits for a port slot (R104). -/
structure AccWord where
  req : Requester
  stamp : Nat
  entry : Nat
  value : Option Nat
  sink : ReadSink
deriving DecidableEq, Repr

/-- A tally signal that waits for its requester's earlier writes (R247): the requester, the number of the access, the tally
and the count. -/
structure SigWait where
  req : Requester
  stamp : Nat
  tally : Nat
  count : Nat
deriving DecidableEq, Repr

/-- An addition that a cycle makes to a tally (R180), with its source (R249) and, for a local TSIG, the bundle. -/
structure TallyAdd where
  tally : Nat
  n : Nat
  src : Nat
  slot : Option Slot
  bundle : Nat
deriving DecidableEq, Repr

/-- The four stationary row images of a tile (R113, R203): per shadow row the stationary bytes in cell order and the
block scales, the tile format and the tile mode. -/
structure Tile where
  fmt : Option Nat := none
  two : Bool := false
  rows : List (List Byte) := []
  scales : List (List Byte) := []
deriving DecidableEq, Repr

/-- The array shapes (R110). -/
inductive Shape where
  | sq64 | wd256 | wd1024
deriving DecidableEq, Repr

/-- The kinds of passes (R207 to R210). -/
inductive PassKind where
  | one | piece (i j : Nat) | complex
deriving DecidableEq, Repr

/-- A pass in flight (R115, R123): cycles are counted on the due clock; `next` is the number of units that have
entered; `runStep` and `occur` name the instance of its bundle within the run (R61, R278). -/
structure PassJob where
  id : Nat
  bundle : Nat
  kind : PassKind
  shape : Shape
  due : Nat
  rows : Nat
  subs : Nat
  src : Opnd
  area : Nat
  areaIm : Nat
  accum : Bool
  keep : Bool
  next : Nat := 0
  lastWrite : Nat := 0
  e : Nat := 1
  lagMax : Nat := 0
  slipRaised : Bool := false
  released : Bool := false
  runStep : Nat := 0
  occur : Nat := 0
deriving DecidableEq, Repr

/-- An MWLOAD in flight (R205). -/
structure LoadJob where
  id : Nat
  bundle : Nat
  due : Nat
  part : Nat
  two : Bool
  src : Opnd
  shape : Shape
  next : Nat := 0
deriving DecidableEq, Repr

/-- An MZERO in flight (R212). -/
structure ZeroJob where
  due : Nat
  a0 : Nat
  n : Nat
deriving DecidableEq, Repr

/-- Outputs of a unit in the array, to be written at a cycle of the due clock (R115). -/
structure AccWrite where
  due : Nat
  entry : Nat
  accum : Bool
  isInt : Bool
  values : List Nat
deriving DecidableEq, Repr

/-- A V instruction in flight (R214): `data` holds per source the elements read so far, each with its scale byte; `module`
is the module's number at its issue (R220). -/
structure VJob where
  id : Nat
  bundle : Nat
  op : VOp
  at_ : Nat
  len : Nat
  lanes : Nat
  groups : Nat
  lat : Nat
  dst : Option Opnd
  srcs : List (Opnd × Bool)
  data : List (List (Nat × Nat)) := []
  look : List Nat := []
  ctr : Nat := 0
  runStep : Nat := 0
  module : Nat := 0
deriving DecidableEq, Repr

/-- A bank claim of the S or X position in the present cycle (R89, R91). -/
structure Claim where
  bank : Nat
  pos : Nat
deriving DecidableEq, Repr

/-- An entry of a core's configuration buffer (R338). -/
structure CfgEntry where
  off : Nat
  value : Nat
  target : ApplyForm
  cycle : Nat
  ticket : Nat
deriving DecidableEq, Repr

/-- The state of one core (R63, R343). `tallies` are the counts at the start of the present cycle, `taken` and `fresh` what
the cycle subtracts and adds (R180); `due` are the faults of the cycle, which its end records (R82); `bgUsed` the banks
that the cycle has used (R88); `rings0` the ring contexts at the start of the cycle, which the window shows (R415). -/
structure CoreSt where
  lcore : Nat
  region : Nat
  phys : Nat
  run : RunState := .stopped
  pc : Nat := 0
  lastIdx : Nat := 0
  nextIssue : Nat := 0
  presented : Option Presented := none
  waiting : List Bundle := []
  stopBefore : Option Nat := none
  stopFrom : Option Nat := none
  step : Nat := 0
  begun : Bool := false
  stepCycle : Nat := 0
  counters : List Nat := List.replicate 8 0
  preds : List Bool := List.replicate 4 false
  vl : Nat := 0
  loops : List LoopEntry := []
  tallies : List Nat := List.replicate 48 0
  taken : List Nat := List.replicate 48 0
  fresh : List TallyAdd := []
  due : List FRec := []
  conds : List Cond := []
  desc : Mem := []
  imem : Mem := []
  spad : Mem := []
  acc : Mem := []
  rings : List (Option Ring) := List.replicate 32 none
  rings0 : List (Option Ring) := List.replicate 32 none
  engines : List EngineEntry := []
  accEntries : List AccEntry := []
  sbTraps : Nat := 0
  sbHolds : Nat := 0
  vFree : Nat := 0
  passFree : Nat := 0
  shadowFree : Nat := 0
  zeroFree : Nat := 0
  shape : Shape := .sq64
  newShape : Option (Nat × Shape) := none
  /-- Array cycle at which the last MSHAPE, issued or skipped, frees the shadow path (R117, R213). -/
  shapeFree : Nat := 0
  shadow : Tile := {}
  actives : List (Nat × Tile) := []
  passes : List PassJob := []
  loads : List LoadJob := []
  zeros : List ZeroJob := []
  accWrites : List AccWrite := []
  vjobs : List VJob := []
  lag : Nat := 0
  lagLast : Nat := 0
  lagMax : Nat := 0
  frozen : Nat := 0
  arrayHold : Bool := false
  holdRun : Nat := 0
  slipTraps : Nat := 0
  streamHead : Nat := 0
  streamTail : Nat := 0
  stream : List (Nat × Byte × Nat) := []
  gather : List Nat := []
  gatherTN : Nat := 0
  gatherFmt : Nat := 0
  gatherMiss : Nat := 0
  queues : List Queue := List.replicate 4 {}
  landing : List Landing := []
  combiner : List CombEntry := []
  flushes : List CombEntry := []
  combWait : List CombAcc := []
  accPort : List AccWord := []
  sigWait : List SigWait := []
  claims : List Claim := []
  bgUsed : List Nat := List.range 32
  cfg : List CfgEntry := []
  twoPhase : Nat := 0
  slip : Nat := 0
  choices : Nat := 0
  choiceLost : Nat := 0
  choiceLog : List ChoiceEntry := []
  occur : List (Nat × Nat) := []
  diverged : Bool := false
  replay : Option (List ChoiceEntry) := none
  bankSel : Bool := false
  bank0 : List FRec := []
  bank1 : List FRec := []
  faultLost : Nat := 0
  nextJob : Nat := 0
  chain : List Bool := []
deriving DecidableEq, Repr

/-! ### Regions (R297 to R303, R345) -/

/-- REGION_STATE [2:0] (R345). -/
inductive Phase where
  | parked | idle | running | defining | loading | stopping | parking | repairing
deriving DecidableEq, Repr

/-- Why a run ended (R281). -/
inductive EndReason where
  | halt | stop | stopStep | host
deriving DecidableEq, Repr

/-- One binding of a placement record (R296). -/
structure Binding where
  lcore : Nat
  phys : Nat
  spare : Bool := false
  avoided : Bool := false
deriving DecidableEq, Repr

/-- A placement record (R296). `trees` holds per group the links of its tree, each from a die in a direction, or none for a
group in chain mode. -/
structure Placement where
  bindings : List Binding := []
  idleSlots : List (Option Nat) := []
  pools : List (Nat × Nat) := []
  spareWells : List (Nat × List Nat) := []
  trees : List (Option (List (Nat × Nat))) := []
  tensors : List GA := []
  clock300 : Bool := false
  retimed : List (Nat × Nat × Bool × Nat) := []
  digest : Nat := 0
deriving DecidableEq, Repr

/-- A run record (R281), with the region that ran. -/
structure RunRec where
  region : Nat
  loadSeq : Nat
  object : Nat
  record : Nat
  n : Nat
  modules : Nat
  seed : Nat
  base : Nat
  t0 : Nat
  clock300 : Bool
  placements : List (Nat × Nat) := []
  tensors : List GA := []
  paces : List (Nat × Nat × Nat) := []
  inputs : List (Nat × Nat) := []
  counters : List (Nat × Nat × Nat) := []
  choices : List (Nat × Nat × Nat) := []
  faults : List FRec := []
  ended : Option (Nat × EndReason) := none
deriving DecidableEq, Repr

/-- What a commanded step stop of a region leads to (R263, R276, R283, R299). -/
inductive StopGoal where
  | command | fault | solder (seq : Nat) | pace | replay
deriving DecidableEq, Repr

/-- A region (R297, R345). `paused` is the run step of its last pause or Solder step (R263, R276), `lastStop` the last cycle
in which one of its cores ran, `idleAt` the cycle in which it became IDLE. `waiter` is the command whose COMMAND_DONE the
present transition sends: session, sequence, code. `resetting` marks an L2 reset that drains; `spoiled` a region that an L2
or L3 reset leaves to LOAD and PARK alone (R352). -/
structure Region where
  num : Nat
  x0 : Nat
  y0 : Nat
  x1 : Nat
  y1 : Nat
  phase : Phase
  waiter : Option (Nat × Nat × Nat) := none
  resetting : Bool := false
  spoiled : Bool := false
  loaded : Bool := false
  ran : Bool := false
  committed : Bool := false
  pendingLoad : Option LoadArgs := none
  repairing : Option RepairAct := none
  undefining : Bool := false
  release : Bool := false
  obj : Option FliupObject := none
  logBase : Nat := 0
  n : Nat := 0
  poolBase : Nat := 0
  digest : Nat := 0
  record : Nat := 0
  trap : Bool := false
  base : Nat := 0
  seed : Nat := 0
  t0 : Nat := 0
  loadSeq : Nat := 0
  sbLimit : Nat := 65536
  waitLimit : Nat := 16777216
  annLimit : Nat := 4194304
  solderLead : Nat := 131072
  paceP : Nat := 0
  paceI : Nat := 0
  hostPace : Option (Nat × Nat) := none
  pauseFor : Option Nat := none
  paused : Nat := 0
  lastStop : Nat := 0
  idleAt : Nat := 0
  policies : List Nat := [0x155, 0x1565, 0x0A95, 0x455]
  groups : List (List Nat) := []
  chainMode : List Bool := []
  solderSteps : List (Nat × Bool) := []
  goal : StopGoal := .command
  stopKind : EndReason := .host
  replayStop : Option ReplayForm := none
  place : Placement := {}
  tensors : List (GA × Nat) := []
  runRec : Option RunRec := none
deriving DecidableEq, Repr

/-! ### Power, pins and sensors -/

/-- Power states (R358) and the boot state (R357). -/
inductive PState where
  | off | boot | standby | ready | active
deriving DecidableEq, Repr

/-- Reset levels (R350). -/
inductive RLevel where
  | l0 | l1 | l2 (region : Nat) | l3 (lcore : Nat)
deriving DecidableEq, Repr

/-- Sources of resets (R350, R353). -/
inductive RSource where
  | powerOn | pin | mailbox | watchdog | thermal | domain | security (cause : Nat)
deriving DecidableEq, Repr

/-- A reset in progress (R350 to R353). -/
structure ResetRun where
  source : RSource
  level : RLevel
  session : Nat := 0
  seq : Nat := 0
  since : Nat := 0
deriving DecidableEq, Repr

/-- A commanded power transition in progress (R359, R360). -/
structure Moving where
  target : PState
  session : Nat
  seq : Nat
deriving DecidableEq, Repr

/-- The cap governor (R365). -/
structure Governor where
  acting : Bool := false
  interval : Nat := 0
  below : Nat := 0
  samples : List Nat := []
deriving DecidableEq, Repr

/-- Power, pins and sensors. -/
structure Pwr where
  state : PState
  moving : Option Moving
  reset : Option ResetRun
  pwrEn : Bool
  thermalHold : Bool
  inputHold : Bool
  thermTrip : Bool
  e0Fault : Bool
  alertFault : Bool
  stInput : Bool
  stTemp : Bool
  stOther : Bool
  vin : Nat
  iin : Nat
  pin : Nat
  islandTemp : Int
  stackTemp : Int
  dieTemps : List (Nat × Int)
  ndieTemps : List (Nat × Int)
  stackTemps : List (Nat × Int)
  refIn : Bool
  refLocked : Bool
  mayRejoin : Bool
  lastSync : Option Nat
  volts : List (Nat × Nat)
  cap : Nat
  gov : Governor
  watchdogArmed : Bool
deriving DecidableEq, Repr

/-! ### The host's side -/

/-- Status codes of replies (R309). -/
inductive Status where
  | ok | accepted | unknownCommand | badArgument | sequence | noSession | sessionLimit | privilege | auth
  | busyTransition | state | loadRefused (reason : Nat) | notFound | verify | flash
deriving DecidableEq, Repr

/-- What replies, events and packets carry: a list of numbers and the pieces that have a structure of their own. -/
inductive Item where
  | num (n : Nat)
  | flag (b : Bool)
  | int (i : Int)
  | bytes (l : List Byte)
  | fault (f : FRec)
  | region (num : Nat) (phase : Phase)
  | place (p : Placement)
  | run (r : RunRec)
  | entry (e : ChoiceEntry)
  | phase (p : Phase)
  | power (p : PState)
  | level (l : RLevel)
  | status (st : Status)
deriving DecidableEq, Repr

/-- Event codes (R318). -/
inductive EvCode where
  | commandDone | fault | regionState | runEnd | choice | regApplied | link | domain | groupMode | thermalPower
  | firmware | streamFailed | eventsLost
deriving DecidableEq, Repr

/-- An event that a session has been sent and has not acknowledged (R320), with its Invar step (R319). -/
structure EvPend where
  seq : Nat
  code : EvCode
  items : List Item
  step : Nat
  sent : Nat
  tries : Nat := 1
deriving DecidableEq, Repr

/-- Where the module sends a message (R313, R318, R390): the Ethernet port that it leaves by, none when no port of the network
is up; the address; and the UDP port. -/
structure MsgDest where
  egress : Option Nat
  address : Nat
  udp : Nat
deriving DecidableEq, Repr

/-- A command held out of order (R312), with the time of its first copy and where the replies to further copies go (R313). -/
structure Held where
  hdr : Hdr
  cmd : MbxCmd
  arrived : Nat
  copies : List MsgDest := []
deriving DecidableEq, Repr

/-- A cached reply (R312). -/
structure CachedReply where
  seq : Nat
  status : Status
  items : List Item
deriving DecidableEq, Repr

/-- A session (R310 to R312, R318, R320); `source` is the address and the UDP port of its last command. -/
structure Session where
  num : Nat
  priv : Bool := false
  lastTick : Nat := 0
  idle : Nat := 30
  next : Nat := 1
  cache : List CachedReply := []
  held : List Held := []
  authFails : Nat := 0
  nonce : Option Nat := none
  nonceAt : Nat := 0
  signer : Option (Bool × Nat) := none
  mask : Nat := 0
  dests : List EventDest := []
  evSeq : Nat := 0
  events : List EvPend := []
  evLost : Nat := 0
  source : Nat × Nat := (0, 0)
deriving DecidableEq, Repr

/-- The host-originated CMT kinds (R325). -/
inductive CmtKind where
  | write (ga : GA) (bytes : List Byte)
  | read (ga : GA) (len : Nat) (ecc : EccOutcome)
  | announce (ga : GA) (bytes : List Byte) (a : AnnWord)
  | fence
deriving DecidableEq, Repr

/-- A packet that the module has sent on a stream and the host has not acknowledged (R326). -/
structure OwnPkt where
  psn : Nat
  kind : Nat
  ga : GA
  word : Nat
  data : List Byte
  tries : Nat := 1
deriving DecidableEq, Repr

/-- A CMT stream (R325 to R330). A `closing` one takes no packet more. -/
structure Stream where
  session : Nat
  num : Nat
  next : Nat := 0
  ahead : List (Nat × CmtKind) := []
  landed : Nat := 0
  sinceAck : Nat := 0
  missing : Option Nat := none
  ownPsn : Nat := 0
  own : List OwnPkt := []
  nakTries : Nat := 0
  closing : Bool := false
deriving DecidableEq, Repr

/-- The header fields of a message that the module sends, beside its session and its sequence number (R307): kind, code,
status, Flags[0], management tick, Invar cycle and Invar step (R319); and where it goes. -/
structure MsgHdr where
  kind : Nat
  code : Nat
  status : Nat
  tag : Bool
  tick : Nat
  cycle : Nat
  step : Nat
  dests : List MsgDest
deriving DecidableEq, Repr

/-- What the module has sent, in order. A CMT packet shows its acknowledged PSN and whether it carries the tag (R325). -/
inductive Out where
  | reply (session seq : Nat) (st : Status) (items : List Item) (hdr : MsgHdr)
  | event (session seq : Nat) (code : EvCode) (items : List Item) (hdr : MsgHdr)
  | cmt (session stream psn kind : Nat) (ga : GA) (word : Nat) (data : List Byte) (acked : Nat) (tag : Bool)
  | flit (port : Nat) (vl : Nat) (kind : Nat) (hdr : FlitHdr) (data : List Byte)
  | eth (port : Nat) (kind : Nat) (items : List Item)
  | pmbus (kind : Nat) (items : List Item)
  | combRead (req : Requester) (core : Nat) (data : List Byte)
  | prepRead (hart : Nat) (data : List Byte) (ok : Bool)
  | regRead (value : Nat) (ok : Bool)
deriving DecidableEq, Repr

/-- A ledger entry (R355). -/
structure LedgerEntry where
  seq : Nat
  kind : Nat
  cycle : Nat
  tick : Nat
  items : List Item
deriving DecidableEq, Repr

/-- A capacity-stack allocation of a host (R316). -/
structure Alloc where
  ga : GA
  size : Nat
deriving DecidableEq, Repr

/-- A register write whose entries wait in configuration buffers (R317, R338): per core the Invar step at which it
applied, or none where it did not apply. -/
structure Ticket where
  id : Nat
  session : Nat
  seq : Nat
  waits : List Nat
  applied : List (Nat × Option Nat) := []
deriving DecidableEq, Repr

/-- The host's side of the module. `lastPort` gives, latest last, the Ethernet port that received a datagram from an address
(R390). -/
structure HostSide where
  sessions : List Session
  nextSession : Nat
  streams : List Stream
  outbox : List Out
  ledger : List LedgerEntry
  ledgerSeq : Nat
  lastPort : List (Nat × Nat)
  allocs : List Alloc
  tickets : List Ticket
  nextTicket : Nat
deriving DecidableEq, Repr

/-! ### Settings, firmware, security -/

/-- A settings commit in progress (R324). -/
structure Commit where
  session : Nat
  seq : Nat
  table : List (Nat × Nat)
deriving DecidableEq, Repr

/-- The settings (R322 to R324). -/
structure Settings where
  committed : List (Nat × Nat)
  staged : List (Nat × Nat)
  active : List (Nat × Nat)
  counter : Nat
  copyB : Bool
  valid0 : Bool
  valid1 : Bool
  committing : Option Commit
deriving DecidableEq, Repr

/-- A firmware image in flash (R374, R375). -/
structure Image where
  version : Nat
  security : Nat
  headerDigest : Nat
  ok : Bool
deriving DecidableEq, Repr

/-- A restart of the management harts in progress (R305, R376). -/
structure Restart where
  since : Nat
  update : Bool
  session : Nat
  seq : Nat
deriving DecidableEq, Repr

/-- Firmware (R305, R357, R374). -/
structure Firmware where
  imageA : Image
  imageB : Image
  runningB : Bool
  fallback : Bool
  restart : Option Restart
  mgmtDown : Bool
  loadSeq : Nat
  deferred : List (EvCode × List Item × Nat)
deriving DecidableEq, Repr

/-- Debug levels (R382). -/
inductive DbgLevel where
  | closed | observe | full
deriving DecidableEq, Repr

/-- Fuses and security (R371, R376 to R388). -/
structure Security where
  serial : Nat
  vendor : List Nat
  vendorRevoke : Nat
  owner : List Nat
  ownerRevoke : Nat
  lifecycle : Nat
  resetMap : Nat
  rollback : Nat
  cert : Bool
  identity : Bool
  lcNonce : Option (Nat × Nat)
  dbgNonce : Option (Nat × Nat)
  level : DbgLevel
  dbgUntil : Nat
  violation : Option Nat
deriving DecidableEq, Repr

/-! ### Memory, fabric, ports -/

/-- A parking unit that is pending, draining or parked (R242, R243). `p` is the effect cycle when it is an Invar
multiple; a unit that waits for a step boundary has none. -/
inductive ParkPhase where
  | pending (p : Option Nat) | draining (p : Nat) | parked | reopening (p : Option Nat)
deriving DecidableEq, Repr

/-- A parking unit by its physical place. -/
inductive ParkPlace where
  | well (phys seg : Nat)
  | pool (die seg : Nat)
  | channel (stack ch : Nat)
deriving DecidableEq, Repr

/-- The parking state of a unit. -/
structure ParkEntry where
  place : ParkPlace
  unit : ParkUnit
  phase : ParkPhase
  watch : Option Nat := none
  since : Nat := 0
  session : Nat := 0
  seq : Nat := 0
deriving DecidableEq, Repr

/-- Memory of the module and what Alnico keeps about it. `stackBusy` gives the end of a channel's refresh, `stackLast` the
cycle in which its last one began (R227). -/
structure MemSt where
  wells : Mem
  pools : Mem
  stackMem : Mem
  parked : List ParkEntry
  defects : List Nat
  lockLost : List Nat
  badLinks : List (Nat × Nat)
  hot : List Nat
  eccWell : List (Nat × Nat)
  eccDie : List (Nat × Nat)
  rewrites : List (Nat × Nat)
  rowsUsed : List (Nat × Nat)
  spareUsed : List Nat
  meshDown : List (Nat × Nat)
  meshRetries : List (Nat × Nat)
  stackBusy : List (Nat × Nat)
  stackLast : List (Nat × Nat)
  refreshing : List Nat
  prep : Mem
deriving DecidableEq, Repr

/-- Where a signal in flight comes from: a TSIG of a core of this module (R254); the announce of a host's packet, with its
session, stream and PSN (R328); a signal or an announce that came from another module (R254, R252). -/
inductive SigOrigin where
  | core | host (session stream psn : Nat) | remoteTsig (m : Nat) | remoteAnnounce (m q idx : Nat)
deriving DecidableEq, Repr

/-- A signal in flight (R252, R254), with the transfers ahead of it in its lane: (queue, index, generation). For one that
came from another module `stamp` numbers it among the accesses: the bytes of its lane that came before it have lower
numbers. -/
structure Signal where
  id : Nat
  issuer : Nat
  module : Nat
  lcore : Nat
  tally : Nat
  count : Nat
  issued : Nat
  latency : Nat
  ahead : List (Nat × Nat × Nat)
  bundle : Nat
  origin : SigOrigin := .core
  stamp : Nat := 0
deriving DecidableEq, Repr

/-- Phases of a Solder barrier (R261). -/
inductive BPhase where
  | arrival | commit | started
deriving DecidableEq, Repr

/-- A Solder barrier (R261 to R263). `clients` are the commands that wait for it: session, sequence, code; `floor` bounds T
from below, `pace` is the I that stands in SOLDER_LEAD's place for a pace pause (R276), `asked` the cycle of the command,
`want` the object digests and records that the master names, and `base` its step base (R280). A member that the host commands
holds its barrier under a number of its own, from `ownSeq` up, until the master's request comes. -/
structure Barrier where
  seq : Nat
  regions : List Nat
  members : List Nat
  step : Nat
  replace : Bool
  opened : Nat
  phase : BPhase
  arrivals : List (Nat × Nat)
  t : Option Nat
  confirms : List Nat
  clients : List (Nat × Nat × Nat)
  resume : Bool
  floor : Nat := 0
  pace : Nat := 0
  asked : Nat := 0
  want : List (Nat × Nat) := []
  base : Option Nat := none
deriving DecidableEq, Repr

/-- An outstanding read request to another module, with its reserved landing space (R397). -/
structure RemoteRead where
  core : Nat
  q : Nat
  idx : Nat
  gen : Nat
  off : Nat
  len : Nat
  module : Nat
deriving DecidableEq, Repr

/-- A chunk of a delivery on its way to its storage (R231): its source is read, then its destination written, as their
ports come free. -/
structure Chunk where
  issuer : Nat
  q : Nat
  idx : Nat
  gen : Nat
  member : Nat
  off : Nat
  len : Nat
  ecc : EccOutcome
deriving DecidableEq, Repr

/-- A read of source bytes that waits for scratchpad banks (R93): the transfer, the cycle in which it was accepted, and the
bytes. -/
structure Pull where
  accepted : Nat
  issuer : Nat
  q : Nat
  idx : Nat
  gen : Nat
  off : Nat
  len : Nat
deriving DecidableEq, Repr

/-- What the end of a requester's access does: the answer to a prep hart, the landing of a CMT packet (R328) or its data, the
completion of a fence and of a STREAM_CLOSE (R329, R330), the answer to another module (R397) with the header of its request,
the completion of another module's write with the header of its packet and the port it came on, and the reply to a debug read
(R382). -/
inductive JobEnd where
  | prep (hart : Nat)
  | store (hart : Nat)
  | cmtWrite (session stream psn : Nat)
  | cmtAnnounce (session stream psn port n : Nat) (a : AnnWord)
  | cmtRead (session stream psn : Nat)
  | cmtFence (session stream psn : Nat)
  | cmtClose (session stream seq : Nat)
  | answer (port : Nat) (hdr : FlitHdr)
  | outerWrite (port : Nat) (hdr : FlitHdr)
  | debug
deriving DecidableEq, Repr

/-- An access of a requester that is not a core's instruction: the pieces still to be carried out as (offset, length), the
bytes that it writes or none, the bytes that it has read by offset, the first fault with its address, what ECC does to what
it reads, the cycle in which it arrived, and what follows. `stamp` numbers the accesses in their order. -/
structure Job where
  stamp : Nat
  req : Option Requester
  ga : GA
  len : Nat
  todo : List (Nat × Nat)
  data : Option (List Byte)
  got : List (Nat × Byte) := []
  fault : Option (FCode × GA) := none
  ecc : EccOutcome := .clean
  since : Nat
  fin : JobEnd
deriving DecidableEq, Repr

/-- Signals, barriers, remote reads, and the accesses that wait for banks and ports. -/
structure Fabric where
  signals : List Signal
  nextSig : Nat
  barriers : List Barrier
  barrierSeq : Nat
  reads : List RemoteRead
  chunks : List Chunk
  pulls : List Pull
  jobs : List Job
  nextStamp : Nat
deriving DecidableEq, Repr

/-- A domain member (R256, R362). -/
structure Member where
  num : Nat
  serial : Nat
  clock300 : Bool
deriving DecidableEq, Repr

/-- A packet for a Kollek port (R396): lane, kind, header and payload. -/
structure FlitPkt where
  vl : Nat
  kind : Nat
  hdr : FlitHdr
  data : List Byte
deriving DecidableEq, Repr

/-- A packet in the retry buffer (R398): the number of its first flit, how often it was sent, and the packet. -/
structure RetryPkt where
  seq : Nat
  tries : Nat
  pkt : FlitPkt
deriving DecidableEq, Repr

/-- A Kollek port (R393 to R399, R348). `sendSeq` and `expect` number the flits of the two directions, `retry` holds what is
not acknowledged and `queue` what waits for credits; `spent` counts per lane the flits for which no credit has come back,
`owed` the credits to return. -/
structure KPort where
  up : Bool := false
  trained : Bool := false
  inRoutes : Bool := false
  partner : Option Nat := none
  partnerSerial : Nat := 0
  missed : Nat := 0
  sendSeq : Nat := 0
  expect : Nat := 0
  retry : List RetryPkt := []
  queue : List FlitPkt := []
  retriesMs : Nat := 0
  retryMs : Nat := 0
  retryRC : Nat := 0
  reroute : Bool := false
  spent : List Nat := [0, 0, 0, 0]
  owed : List Nat := [0, 0, 0, 0]
  discarding : Bool := false
deriving DecidableEq, Repr

/-- Discovery in progress (R361, R362). -/
structure Discovery where
  since : Nat
  verified : List Identity
  client : Option (Nat × Nat)
deriving DecidableEq, Repr

/-- The Kollek domain as this module sees it. `links` are the healthy links of the other members, as module and port (R258),
`unreach` the members that no route reaches, with the cycle since which (R264). -/
structure Kollek where
  module : Nat
  inDomain : Bool
  isMaster : Bool
  master : Nat
  clock300 : Bool
  members : List Member
  discovering : Option Discovery
  aligned : Bool
  ports : List KPort
  lost : List Nat
  lastHops : List (Nat × Nat)
  links : List (Nat × Nat)
  unreach : List (Nat × Nat)
deriving DecidableEq, Repr

/-- An LLDP neighbour (R392). -/
structure Neighbour where
  chassis : Nat
  portId : Nat
  until_ : Nat
deriving DecidableEq, Repr

/-- An Ethernet port (R389 to R392). -/
structure EPort where
  up : Bool := false
  speed400 : Bool := false
  rxPause : List Nat := []
  level : Nat := 0
  xoff : Bool := false
  fec : Nat := 0
  neighbours : List Neighbour := []
deriving DecidableEq, Repr

/-- The indirect registers of one block (R341). -/
structure Indirect where
  addr : Nat := 0
  auto : Bool := false
  fault : Bool := false
deriving DecidableEq, Repr

/-- Global, die and edge registers (R335, R340, R341, R349, R354). `bcast0` holds the BCAST_GROUP masks at the start of the
present cycle (R15). -/
structure Globals where
  backup : List Nat
  bcast : List (Nat × Nat)
  bcast0 : List (Nat × Nat) := []
  policies : List Nat
  parityCount : Nat
  parityLast : Nat
  walks : Nat
  indDie : List Indirect
  indEdge : List Indirect
  indWords : List (Nat × Nat × Nat × Nat)
  faults : List FRec
  faultsRead : Nat
deriving DecidableEq, Repr

/-- The part (R1, R3, R4). -/
structure Part where
  cores1104 : Bool
  grade300 : Bool
deriving DecidableEq, Repr

/-- Time (R30, R65, R307) and the model's own counter of free values drawn (DESIGN CHOICE, log 20). -/
structure Time where
  cycle : Nat
  tick : Nat
  tickCc : Nat
  draws : Nat
deriving DecidableEq, Repr

/-- The state of the block: the queue of commands that wait, and the module. -/
structure State where
  pending : List Instr
  part : Part
  time : Time
  pwr : Pwr
  host : HostSide
  set : Settings
  fw : Firmware
  sec : Security
  regions : List Region
  cores : List CoreSt
  mem : MemSt
  fab : Fabric
  kol : Kollek
  eth : List EPort
  glb : Globals
deriving DecidableEq, Repr

/-- Why the machine stops with a fault. The spec's own faults are records in State; no command stops the block. -/
inductive Fault where
  /-- Raised by no meaning: the block has no condition that stops it (safe). -/
  | none
deriving DecidableEq, Repr

/-- Why a command has no meaning. -/
inductive Refusal where
  /-- A row of the opcode table whose meaning is not written; raised by `exec` alone (safe). -/
  | notModelled (mnemonic : String)
  /-- The command names a port, hart, die or stack that the part does not have (safe: no such event can occur). -/
  | noSuchPort (port : Nat)
deriving DecidableEq, Repr

/-- The settings table's defaults (R322, keys 0x01 to 0x0E). -/
def defaultSettings : List (Nat × Nat) :=
  [(0x01, 0), (0x02, 0), (0x03, 0), (0x04, 0), (0x05, 0), (0x06, 3), (0x07, 49500), (0x08, 49501), (0x09, 30),
   (0x0A, 500), (0x0B, 10), (0x0C, 100), (0x0D, 0), (0x0E, 16000)]

/-- The state right after an L0 reset (R351), in STANDBY, of a part in the PRODUCTION lifecycle (DESIGN CHOICE, log 2). -/
def State.reset : State :=
  { pending := []
    part := { cores1104 := false, grade300 := false }
    time := { cycle := 0, tick := 0, tickCc := 0, draws := 0 }
    pwr :=
      { state := .standby, moving := none, reset := none, pwrEn := true, thermalHold := false, inputHold := false
        thermTrip := false, e0Fault := false, alertFault := false, stInput := false, stTemp := false
        stOther := false, vin := 60000, iin := 0, pin := 0, islandTemp := 0, stackTemp := 0, dieTemps := []
        ndieTemps := [], stackTemps := [], refIn := true, refLocked := false, mayRejoin := false
        lastSync := none, volts := [], cap := 16000, gov := {}, watchdogArmed := true }
    host :=
      { sessions := [], nextSession := 1, streams := [], outbox := [], ledger := [], ledgerSeq := 0
        lastPort := [], allocs := [], tickets := [], nextTicket := 0 }
    set :=
      { committed := defaultSettings, staged := [], active := defaultSettings, counter := 0, copyB := false
        valid0 := true, valid1 := false, committing := none }
    fw :=
      { imageA := { version := 1, security := 0, headerDigest := 0, ok := true }
        imageB := { version := 0, security := 0, headerDigest := 0, ok := false }
        runningB := false, fallback := false, restart := none, mgmtDown := false, loadSeq := 0, deferred := [] }
    sec :=
      { serial := 1, vendor := [1, 2, 3, 4], vendorRevoke := 0, owner := [5, 0], ownerRevoke := 0
        lifecycle := 3, resetMap := 0, rollback := 0, cert := true, identity := true, lcNonce := none
        dbgNonce := none, level := .closed, dbgUntil := 0, violation := none }
    regions := []
    cores := []
    mem :=
      { wells := [], pools := [], stackMem := [], parked := [], defects := [], lockLost := [], badLinks := [], hot := []
        eccWell := [], eccDie := [], rewrites := [], rowsUsed := [], spareUsed := [], meshDown := []
        meshRetries := [], stackBusy := [], stackLast := [], refreshing := [], prep := [] }
    fab :=
      { signals := [], nextSig := 0, barriers := [], barrierSeq := 0, reads := [], chunks := []
        pulls := [], jobs := [], nextStamp := 0 }
    kol :=
      { module := 0, inDomain := false, isMaster := false, master := 0, clock300 := false, members := []
        discovering := none, aligned := false, ports := List.replicate 16 {}, lost := [], lastHops := []
        links := [], unreach := [] }
    eth := List.replicate 8 {}
    glb :=
      { backup := List.replicate 16 0, bcast := [], policies := [0x20, 0x2, 0xA8, 0x0], parityCount := 0
        parityLast := 0, walks := 0, indDie := List.replicate 48 {}, indEdge := List.replicate 4 {}
        indWords := [], faults := [], faultsRead := 0 } }

end Sys2Proof.Machine
end

