-- ==== Sys2Proof/Machine/Flags.lean ====
section
/-! DEFINITION. Codes, policies and detail words of faults (R82, R85, R92, R96, R101, R188, R189, R241, R249, R346), and
the words of status registers that other files need. The block has no arithmetic flags (R45). -/

namespace Sys2Proof.Machine

/-- The code number of R85. -/
def FCode.num : FCode → Nat
  | .illegalOp => 0x10 | .badHandle => 0x11 | .inconsistentOperands => 0x12 | .slotConflict => 0x13
  | .loopNest => 0x14 | .bankConflict => 0x20 | .scoreboardTrap => 0x21 | .holdLimit => 0x22
  | .ringUnderrun => 0x23 | .ringOverrun => 0x24 | .accRange => 0x25 | .slipBudget => 0x26
  | .tallyOverflow => 0x30 | .tallyUnderflow => 0x31 | .tallyImbalance => 0x32 | .announceTimeout => 0x33
  | .waitTimeout => 0x34 | .barrierTimeout => 0x35 | .tagInvalid => 0x40 | .addressUnmapped => 0x41
  | .parkedTarget => 0x42 | .memUncorrectable => 0x43 | .memCorrected => 0x44 | .groupInvalid => 0x45
  | .linkDown => 0x50 | .linkRetryLimit => 0x51 | .partnerLost => 0x52 | .configParity => 0x60
  | .privilege => 0x61 | .indirectRange => 0x62 | .thermalAlarm => 0x70 | .thermalHalt => 0x71
  | .inputPowerHalt => 0x72 | .islandLockLost => 0x73 | .authFail => 0x80 | .debugTokenRejected => 0x81

/-- The codes in the order of R85. -/
def allCodes : List FCode :=
  [.illegalOp, .badHandle, .inconsistentOperands, .slotConflict, .loopNest, .bankConflict, .scoreboardTrap,
   .holdLimit, .ringUnderrun, .ringOverrun, .accRange, .slipBudget, .tallyOverflow, .tallyUnderflow,
   .tallyImbalance, .announceTimeout, .waitTimeout, .barrierTimeout]
  ++ [.tagInvalid, .addressUnmapped, .parkedTarget, .memUncorrectable, .memCorrected, .groupInvalid, .linkDown,
   .linkRetryLimit, .partnerLost, .configParity, .privilege, .indirectRange, .thermalAlarm, .thermalHalt,
   .inputPowerHalt, .islandLockLost, .authFail, .debugTokenRejected]

/-- The code with a number. -/
def fcodeOf (n : Nat) : Option FCode := allCodes.find? fun c => c.num = n

/-- The settable range of a code (R85), as strengths 0 LOG, 1 STOP_STEP, 2 STOP. -/
def FCode.range : FCode → Nat × Nat
  | .holdLimit | .announceTimeout | .waitTimeout | .memUncorrectable | .configParity => (1, 2)
  | .barrierTimeout | .thermalHalt | .inputPowerHalt | .islandLockLost => (2, 2)
  | .privilege | .thermalAlarm | .authFail | .debugTokenRejected => (0, 0)
  | _ => (0, 2)

/-- Strength of a policy. -/
def Policy.num : Policy → Nat
  | .log => 0 | .stopStep => 1 | .stop => 2

/-- The policy with a strength; 3 is refused before it can be stored (R346). -/
def policyOf (n : Nat) : Policy := if n = 0 then .log else if n = 1 then .stopStep else .stop

/-- The field of a code in a FAULT_POLICY register (R346). -/
def policyField (reg : Nat) (c : FCode) : Nat := reg / 4 ^ (c.num % 16) % 4

/-- A FAULT_POLICY register with one field replaced. -/
def setPolicyField (reg : Nat) (c : FCode) (p : Nat) : Nat :=
  reg - policyField reg c * 4 ^ (c.num % 16) + p * 4 ^ (c.num % 16)

/-- Whether a value may be written to FAULT_POLICY r (R346): every listed field in its range, every other field 0. -/
def policyRegOk (r v : Nat) : Bool :=
  decide (v < 2 ^ 32) && (List.range 16).all fun k =>
    let f := v / 4 ^ k % 4
    match fcodeOf (16 * r + k) with
    | some c => decide (c.range.1 ≤ f) && decide (f ≤ c.range.2)
    | none => f == 0

/-- INCONSISTENT_OPERANDS detail (R188, R189): reason and, where it is meaningful, the handle. -/
def incDetail (reason : Nat) (h : Option Nat) : Nat :=
  match h with
  | some x => x % 256 + 256 + reason * 65536
  | none => reason * 65536

/-- BARRIER_TIMEOUT detail (R249): the sequence number, the lowest missing module, the number of missing modules and the
phase. -/
def barrierDetail (seq : Nat) (missing : List Nat) (phase : Nat) : Nat :=
  seq % 256 + 2 ^ 8 * ((missing.min?.getD 0) % 64) + 2 ^ 14 * (missing.length % 128) + 2 ^ 21 * phase

/-- The hazards of R96. -/
inductive Hazard where
  | raw | war | waw | full
deriving DecidableEq, Repr

/-- Hazard code. -/
def Hazard.num : Hazard → Nat
  | .raw => 0 | .war => 1 | .waw => 2 | .full => 3

/-- SCOREBOARD_TRAP detail (R96): hazard, entry kind, lowest granule or line. -/
def sbDetail (hz : Hazard) (kind low : Nat) : Nat := hz.num + 4 * kind + 16 * low

/-- Ring detail (R101). -/
def ringDetail (ctx f p j : Nat) (consumer : Bool) : Nat :=
  ctx + 32 * f + 1024 * p + 32768 * j + (if consumer then 2 ^ 19 else 0)

/-- BANK_CONFLICT detail (R92). -/
def bankDetail (bank pos operand lost idx : Nat) : Nat :=
  bank + 32 * pos + 128 * operand + 1024 * min lost 15 + 16384 * idx

/-- TALLY_OVERFLOW detail (R249). -/
def overflowDetail (t before n src : Nat) : Nat := t + 64 * before + 2 ^ 18 * n + 2 ^ 30 * src

/-- WAIT_TIMEOUT detail (R249). -/
def waitDetail (hold x : Nat) : Nat := hold + 8 * (x % 65536)

/-- The word of R241 for a fault found at a transfer's target. -/
def targetDetail (target : Nat) (write : Bool) (unit stack q idx steps : Nat) : Nat :=
  target + (if write then 4 else 0) + 8 * unit + 2 ^ 11 * stack + 2 ^ 16 * q + 2 ^ 18 * idx
    + 2 ^ 22 * min steps 511 + 2 ^ 31

end Sys2Proof.Machine
end

