-- ==== Sys2Proof/Machine/Mem.lean ====
section
/-! DEFINITION. The operations over a byte memory in its canonical form, and the fields of a global address (R28, R86,
R222, R224). Byte order is little-endian (R10) and is decided here. -/

namespace Sys2Proof.Machine

/-- One byte of a memory; an unlisted address reads 0. -/
def Mem.get (m : Mem) (a : Nat) : Byte :=
  match m with
  | [] => 0
  | (k, v) :: r => if k = a then v else if a < k then 0 else Mem.get r a

/-- A memory with one byte written, kept in canonical form. -/
def Mem.set (m : Mem) (a : Nat) (b : Byte) : Mem :=
  match m with
  | [] => if b = 0 then [] else [(a, b)]
  | (k, v) :: r =>
    if a < k then (if b = 0 then (k, v) :: r else (a, b) :: (k, v) :: r)
    else if a = k then (if b = 0 then r else (k, b) :: r)
    else (k, v) :: Mem.set r a b

/-- n bytes from an address upward. -/
def Mem.read (m : Mem) (a n : Nat) : List Byte := (List.range n).map fun i => m.get (a + i)

/-- Cells written one after the other. -/
def Mem.writeCells (m : Mem) (cs : List (Nat × Byte)) : Mem := cs.foldl (fun m c => m.set c.1 c.2) m

/-- Bytes with their addresses from a upward. -/
def cellsAt (a : Nat) (bs : List Byte) : List (Nat × Byte) :=
  match bs with
  | [] => []
  | b :: r => (a, b) :: cellsAt (a + 1) r

/-- Bytes written from an address upward. -/
def Mem.write (m : Mem) (a : Nat) (bs : List Byte) : Mem := m.writeCells (cellsAt a bs)

/-- Little-endian value of bytes (R10). -/
def leVal (bs : List Byte) : Nat :=
  match bs with
  | [] => 0
  | b :: r => b.toNat + 256 * leVal r

/-- Little-endian bytes of a value. -/
def leBytes (n : Nat) (x : Nat) : List Byte :=
  match n with
  | 0 => []
  | k + 1 => BitVec.ofNat 8 x :: leBytes k (x / 256)

/-- A little-endian number of n bytes. -/
def Mem.num (m : Mem) (a n : Nat) : Nat := leVal (m.read a n)

/-- Every address in a range removed: those bytes read 0 again (R107, R301). -/
def Mem.zero (m : Mem) (lo n : Nat) : Mem := m.filter fun c => c.1 < lo || lo + n ≤ c.1

/-! ### Global addresses (R28) -/

/-- Module field [63:58]. -/
def gaModule (g : GA) : Nat := g / 2 ^ 58 % 64
/-- Space field [57:56]: 0 core-local, 1 near memory, 2 capacity stack, 3 control. -/
def gaSpace (g : GA) : Nat := g / 2 ^ 56 % 4
/-- Logical core field [55:45]. -/
def gaCore (g : GA) : Nat := g / 2 ^ 45 % 2048
/-- Offset [44:0]. -/
def gaOff (g : GA) : Nat := g % 2 ^ 45
/-- A core-local address. -/
def coreGA (module lcore off : Nat) : GA := module * 2 ^ 58 + lcore * 2 ^ 45 + off

/-- The windows of the core-local space (R86). -/
inductive Window where
  | spad | acc | desc | imem | tally | ring
deriving DecidableEq, Repr

/-- The window of a core-local offset, with the offset inside it. -/
def windowOf (o : Nat) : Option (Window × Nat) :=
  if o < 0x1000000 then some (.spad, o)
  else if o < 0x1080000 then some (.acc, o - 0x1000000)
  else if o < 0x1084000 then some (.desc, o - 0x1080000)
  else if 0x10C0000 ≤ o ∧ o < 0x1100000 then some (.imem, o - 0x10C0000)
  else if 0x1100000 ≤ o ∧ o < 0x11000C0 then some (.tally, o - 0x1100000)
  else if 0x1101000 ≤ o ∧ o < 0x1101200 then some (.ring, o - 0x1101000)
  else none

/-- The granule of a scratchpad offset (R88). -/
def granuleOf (o : Nat) : Nat := o / 64
/-- The bank of a granule (R88). -/
def bankOf (g : Nat) : Nat := g % 32

end Sys2Proof.Machine
end

