-- ==== Sys2Proof/Machine/Num.lean ====
section
/-! DEFINITION. Exact numbers and the one rounding (R38), the element formats (R34 to R37), conversions (R39, R40),
block scales (R41 to R43) and the elementary operations of R44 and R45. -/

namespace Sys2Proof.Machine

/-- A value of arithmetic revision 1: NaN, an infinity, or (-1)^neg * m * 2^e with a signed zero at m = 0. -/
inductive Val where
  | nan
  | inf (neg : Bool)
  | fin (neg : Bool) (m : Nat) (e : Int)
deriving DecidableEq, Repr

/-- Bits [hi:lo] of a number (R16). -/
def bits (x hi lo : Nat) : Nat := (x / 2 ^ lo) % 2 ^ (hi + 1 - lo)

/-- Sign extension of the low n bits (R16). -/
def sext (x n : Nat) : Int :=
  let y := x % 2 ^ n
  if 2 * y < 2 ^ n then (y : Int) else (y : Int) - 2 ^ n

/-- Two's complement of an integer in n bits. -/
def toBits (n : Nat) (x : Int) : Nat := (x % (2 ^ n : Nat)).toNat

/-- Saturation (R16). -/
def sat (x lo hi : Int) : Int := if x < lo then lo else if hi < x then hi else x

/-- Division by 2^d rounded to nearest, ties to even (R38). -/
def rneShift (m d : Nat) : Nat :=
  let q := m / 2 ^ d
  let r := m % 2 ^ d
  if 2 * r < 2 ^ d then q else if 2 ^ d < 2 * r then q + 1 else q + q % 2

/-- m * 2^e as an integer rounded to nearest, ties to even. -/
def rneInt (m : Nat) (e : Int) : Nat :=
  if 0 ≤ e then m * 2 ^ e.toNat else rneShift m (-e).toNat

/-- A floating-point format (R34, R35): mantissa bits, exponent bits, bias, and the largest finite pattern without its
sign. -/
structure FloatFmt where
  p : Nat
  eb : Nat
  bias : Int
  maxFin : Nat
  infBits : Option Nat
  nanBits : Option Nat
deriving DecidableEq, Repr

/-- FP32. -/
def fp32 : FloatFmt := ⟨23, 8, 127, 0x7F7FFFFF, some 0x7F800000, some 0x7FC00000⟩
/-- FP16. -/
def fp16 : FloatFmt := ⟨10, 5, 15, 0x7BFF, some 0x7C00, some 0x7E00⟩
/-- BF16. -/
def bf16 : FloatFmt := ⟨7, 8, 127, 0x7F7F, some 0x7F80, some 0x7FC0⟩
/-- FP8 E4M3. -/
def e4m3 : FloatFmt := ⟨3, 4, 7, 0x7E, none, some 0x7F⟩
/-- FP8 E5M2. -/
def e5m2 : FloatFmt := ⟨2, 5, 15, 0x7B, some 0x7C, some 0x7E⟩
/-- FP6 E3M2. -/
def e3m2 : FloatFmt := ⟨2, 3, 3, 0x1F, none, none⟩
/-- FP6 E2M3. -/
def e2m3 : FloatFmt := ⟨3, 2, 1, 0x1F, none, none⟩
/-- FP4 E2M1. -/
def e2m1 : FloatFmt := ⟨1, 2, 1, 0x7, none, none⟩

/-- The rounding of a magnitude m * 2^e (m nonzero) into a format with unbounded exponent: integer significand and its
exponent, subnormals included. -/
def FloatFmt.round (f : FloatFmt) (m : Nat) (e : Int) : Nat × Int :=
  let len : Int := (m.log2 : Int) + 1
  let q := max (e + len - 1 - f.p) (1 - f.bias - f.p)
  let n := rneInt m (e - q)
  if n = 2 ^ (f.p + 1) then (2 ^ f.p, q + 1) else (n, q)

/-- The magnitude pattern of a rounded significand; beyond the largest finite pattern it exceeds `maxFin`. -/
def FloatFmt.pattern (f : FloatFmt) (n : Nat) (q : Int) : Nat :=
  if n < 2 ^ f.p then n
  else ((q + f.bias + f.p).toNat) * 2 ^ f.p + (n - 2 ^ f.p)

/-- The sign bit of a format at its place. -/
def FloatFmt.sign (f : FloatFmt) (neg : Bool) : Nat := if neg then 2 ^ (f.p + f.eb) else 0

/-- The value of a pattern (R35). -/
def FloatFmt.decode (f : FloatFmt) (x : Nat) : Val :=
  let neg := decide (1 ≤ bits x (f.p + f.eb) (f.p + f.eb))
  let ex := bits x (f.p + f.eb - 1) f.p
  let mant := x % 2 ^ f.p
  let mag := ex * 2 ^ f.p + mant
  match f.infBits, f.nanBits with
  | some i, _ => if i = mag then .inf neg else if i < mag then .nan else finOf neg ex mant
  | none, some n => if mag = n then .nan else finOf neg ex mant
  | none, none => finOf neg ex mant
where
  finOf (neg : Bool) (ex mant : Nat) : Val :=
    if ex = 0 then .fin neg mant (1 - f.bias - f.p)
    else .fin neg (mant + 2 ^ f.p) (ex - f.bias - f.p)

/-- The conversion of R39 into a float format; with `keep` (or when the destination is the working format, R40)
infinities and overflow stay infinite. -/
def FloatFmt.encode (f : FloatFmt) (keep : Bool) (v : Val) : Nat :=
  match v with
  | .nan => f.nanBits.getD 0
  | .inf neg => f.sign neg + (match keep, f.infBits with | true, some i => i | _, _ => f.maxFin)
  | .fin neg 0 _ => f.sign neg
  | .fin neg m e =>
    let (n, q) := f.round m e
    let pat := f.pattern n q
    f.sign neg + (if pat ≤ f.maxFin then pat
                  else match keep, f.infBits with | true, some i => i | _, _ => f.maxFin)

/-- Rounding into a working float format (R44): overflow gives infinity. -/
def FloatFmt.rne (f : FloatFmt) (v : Val) : Val :=
  match v with
  | .fin neg 0 _ => .fin neg 0 0
  | .fin neg m e =>
    let (n, q) := f.round m e
    if f.pattern n q ≤ f.maxFin then .fin neg n q else .inf neg
  | v => v

/-- Rounding to FP32. -/
abbrev r32 (v : Val) : Val := fp32.rne v

/-- An integer as a value. -/
def Val.ofInt (i : Int) : Val := .fin (decide (i < 0)) i.natAbs 0

/-- The signed significand of a finite value. -/
def signed (neg : Bool) (m : Nat) : Int := if neg then -(m : Int) else m

/-- Exact negation. -/
def Val.neg : Val → Val
  | .nan => .nan
  | .inf n => .inf (!n)
  | .fin n m e => .fin (!n) m e

/-- Exact absolute value. -/
def Val.abs : Val → Val
  | .nan => .nan
  | .inf _ => .inf false
  | .fin _ m e => .fin false m e

/-- Exact sum with the special cases of R45. -/
def Val.add (a b : Val) : Val :=
  match a, b with
  | .nan, _ => .nan
  | _, .nan => .nan
  | .inf x, .inf y => if x = y then .inf x else .nan
  | .inf x, _ => .inf x
  | _, .inf y => .inf y
  | .fin x m e, .fin y n g =>
    if m = 0 ∧ n = 0 then .fin (x && y) 0 0
    else
      let k := min e g
      let s := signed x (m * 2 ^ (e - k).toNat) + signed y (n * 2 ^ (g - k).toNat)
      .fin (decide (s < 0)) s.natAbs k

/-- Exact product with the special cases of R45 and R47. -/
def Val.mul (a b : Val) : Val :=
  match a, b with
  | .nan, _ => .nan
  | _, .nan => .nan
  | .inf x, .inf y => .inf (x != y)
  | .inf x, .fin y n _ => if n = 0 then .nan else .inf (x != y)
  | .fin x m _, .inf y => if m = 0 then .nan else .inf (x != y)
  | .fin x m e, .fin y n g => .fin (x != y) (m * n) (e + g)

/-- Multiplication by 2^k, exact. -/
def Val.scale (v : Val) (k : Int) : Val :=
  match v with
  | .fin s m e => .fin s m (e + k)
  | v => v

/-- The exact order of two values without NaN: a < b. Zeros are equal. -/
def Val.lt (a b : Val) : Bool :=
  match a, b with
  | .nan, _ => false
  | _, .nan => false
  | .inf x, .inf y => x && !y
  | .inf x, .fin .. => x
  | .fin .., .inf y => !y
  | .fin x m e, .fin y n g =>
    let k := min e g
    decide (signed x (m * 2 ^ (e - k).toNat) < signed y (n * 2 ^ (g - k).toNat))

/-- Whether a value is NaN. -/
def Val.isNan : Val → Bool
  | .nan => true
  | _ => false

/-- Exact equality; NaN equals nothing, and the zeros are equal. -/
def Val.eq (a b : Val) : Bool := !a.isNan && !b.isNan && !a.lt b && !b.lt a

/-- VMAX (R149): canonical NaN, and +0 above -0. -/
def Val.max (a b : Val) : Val :=
  if a.isNan || b.isNan then .nan
  else if a.lt b then b else if b.lt a then a
  else match a, b with
    | .fin x 0 _, .fin y 0 _ => .fin (x && y) 0 0
    | _, _ => a

/-- VMIN (R149): canonical NaN, and -0 below +0. -/
def Val.min (a b : Val) : Val :=
  if a.isNan || b.isNan then .nan
  else if a.lt b then a else if b.lt a then b
  else match a, b with
    | .fin x 0 _, .fin y 0 _ => .fin (x || y) 0 0
    | _, _ => a

/-- A finite value as an integer rounded to nearest even; NaN is 0, infinities the limit given (R39). -/
def Val.toInt (v : Val) (lo hi : Int) : Int :=
  match v with
  | .nan => 0
  | .inf n => if n then lo else hi
  | .fin n m e => sat (signed n (rneInt m e)) lo hi

/-! ### Format codes (R34) -/

/-- The listed format codes. -/
def fmtOk (c : Nat) : Bool := (c ≤ 0x0D) || c == 0x0F || (0x10 ≤ c && c ≤ 0x14) || (0x18 ≤ c && c ≤ 0x1A)

/-- Bits of one walk element (a complex element is one walk element, R163). -/
def fmtBits (c : Nat) : Nat :=
  match c with
  | 0x00 | 0x14 | 0x18 | 0x19 => 32
  | 0x01 | 0x02 | 0x13 => 16
  | 0x05 | 0x06 | 0x0A | 0x0B => 6
  | 0x07 | 0x0C | 0x10 => 4
  | 0x1A => 64
  | _ => 8

/-- MX formats. -/
def fmtMX (c : Nat) : Bool := 0x08 ≤ c && c ≤ 0x0D
/-- Complex formats. -/
def fmtComplex (c : Nat) : Bool := 0x18 ≤ c && c ≤ 0x1A
/-- Integer formats; MXINT8 counts as a float (R46). -/
def fmtInt (c : Nat) : Bool := 0x10 ≤ c && c ≤ 0x14
/-- 4-bit and 6-bit formats. -/
def fmtSub (c : Nat) : Bool := fmtBits c < 8
/-- The part format of a complex format, and any other format itself (R131). -/
def fmtPart (c : Nat) : Nat := match c with | 0x18 => 0x02 | 0x19 => 0x01 | 0x1A => 0x00 | c => c

/-- The element float format of a code, where it has one. -/
def fmtFloat (c : Nat) : Option FloatFmt :=
  match c with
  | 0x00 => some fp32 | 0x01 => some fp16 | 0x02 => some bf16
  | 0x03 | 0x08 => some e4m3 | 0x04 | 0x09 => some e5m2 | 0x05 | 0x0A => some e3m2
  | 0x06 | 0x0B => some e2m3 | 0x07 | 0x0C => some e2m1 | _ => none

/-- Limits of an integer format. -/
def fmtLimits (c : Nat) : Int × Int :=
  match c with
  | 0x10 => (-8, 7) | 0x11 => (-128, 127) | 0x12 => (0, 255) | 0x13 => (-32768, 32767)
  | 0x14 => (-2147483648, 2147483647) | _ => (-128, 127)

/-- The value of an element's bits with its block scale byte (R35, R39, R41); the scale is read for MX formats only. -/
def decodeElem (c x s : Nat) : Val :=
  let body : Val :=
    match c with
    | 0x0D => .fin (decide (sext x 8 < 0)) (sext x 8).natAbs (-6)
    | 0x0F => if x = 255 then .nan else .fin false 1 ((x : Int) - 127)
    | 0x09 =>
      match e5m2.decode x with
      | .inf n => e5m2.decode ((if n then 0x80 else 0) + 0x7B)
      | v => v
    | c =>
      match fmtFloat c with
      | some f => f.decode x
      | none =>
        let i : Int := if c = 0x12 then (x % 256 : Nat) else sext x (fmtBits c)
        Val.ofInt i
  if fmtMX c then (if s = 255 then .nan else body.scale ((s : Int) - 127)) else body

/-- The conversion into E8M0 (R39). -/
def encodeE8M0 (v : Val) : Nat :=
  match v with
  | .fin _ 0 _ => 0
  | .fin _ m e =>
    let k : Int := e + m.log2
    let up : Bool :=
      let twice := 2 * m
      let tie := 3 * 2 ^ m.log2
      if twice < tie then false else if tie < twice then true else (k + 127) % 2 = 1
    let x := k + 127 + (if up then 1 else 0)
    (sat x 0 254).toNat
  | _ => 255

/-- A conversion (R39) of a value into a non-MX format's bits. -/
def encodeElem (c : Nat) (keep : Bool) (v : Val) : Nat :=
  match fmtFloat c with
  | some f => f.encode keep v
  | none =>
    if c = 0x0F then encodeE8M0 v
    else
      let (lo, hi) := fmtLimits c
      toBits (fmtBits c) (v.toInt lo hi)

/-- EMAX of an MX element format (R43). -/
def mxEmax (c : Nat) : Int :=
  match c with | 0x08 => 8 | 0x09 => 15 | 0x0A => 4 | 0x0B => 2 | 0x0C => 2 | _ => 0

/-- floor(log2 |v|) of a nonzero finite value. -/
def Val.ilog2 : Val → Int
  | .fin _ m e => e + m.log2
  | _ => 0

/-- Whether a value is a zero. -/
def Val.isZero : Val → Bool
  | .fin _ 0 _ => true
  | _ => false

/-- Whether a value is finite. -/
def Val.isFin : Val → Bool
  | .fin .. => true
  | _ => false

/-- The quantisation of one block of 32 values (R43): the scale byte and the element codes. -/
def quantise (c : Nat) (vs : List Val) : Nat × List Nat :=
  if vs.any (fun v => !v.isFin) then (255, vs.map fun _ => 0)
  else
    let mags := (vs.filter fun v => !v.isZero).map Val.ilog2
    let x : Int := match mags with
      | [] => 0
      | a :: r => sat (r.foldl (fun b d => if b < d then d else b) a - mxEmax c) (-127) 127
    let code (v : Val) : Nat :=
      if c = 0x0D then toBits 8 ((v.scale (6 - x)).toInt (-128) 127)
      else encodeElem c false (v.scale (-x))
    ((x + 127).toNat, vs.map code)

end Sys2Proof.Machine
end

