-- ==== Sys2Proof/Machine/Operands.lean ====
section
/-! DEFINITION. Descriptors (R161), walks (R163, R131), the resolution of handles (R103, R167), rings (R101, R164), and
the conditions on operands that chapters 2, 4, 6 and 7 share (R34, R36, R41, R87, R90, R130, R162, R165, R166). -/

namespace Sys2Proof.Machine

/-! ### Descriptors -/

/-- A descriptor from its 64 bytes as one number (R161). -/
def descOf (x : Nat) : Desc :=
  let w := bits x 95 64
  let r := bits x 127 96
  { base := bits x 63 0
    fmt := bits w 4 0
    rank := bits w 7 5
    keepInf := bits w 8 8 = 1
    ring := bits w 9 9 = 1
    ctx := bits w 14 10
    release := bits w 15 15 = 1
    slotOff := bits w 19 16
    linkValid := bits w 20 20 = 1
    link := bits w 28 21
    rsv := bits w 30 29
    valid := bits w 31 31 = 1
    ringN := bits r 4 0
    ringS := bits r 19 5
    rsv2 := bits r 31 20
    ext := (List.range 5).map fun k => bits x (159 + 32 * k) (128 + 32 * k)
    stride := (List.range 5).map fun k => sext (bits x (319 + 32 * k) (288 + 32 * k)) 32
    attr := bits x 511 448 }

/-- Descriptor h of the descriptor table window (R86). -/
def descAt (m : Mem) (h : Nat) : Desc := descOf (m.num (64 * h) 64)

/-- The transfer attributes of bytes 56 to 63 (R228). -/
def attrOf (x : Nat) : XAttr :=
  { stream := bits x 0 0 = 1, startEn := bits x 1 1 = 1, startTally := bits x 7 2, startCount := bits x 19 8
    annEn := bits x 20 20 = 1, annTally := bits x 26 21, annCount := bits x 38 27, annCore := bits x 49 39
    noMerge := bits x 50 50 = 1 }

/-- Whether the attribute bytes break a rule of R228. -/
def attrBad (x : Nat) : Bool :=
  let a := attrOf x
  bits x 63 51 != 0 || (a.startEn && (a.startCount == 0 || 48 ≤ a.startTally))
    || (a.annEn && (a.annCount == 0 || 48 ≤ a.annTally))

/-- Extent k. -/
def Desc.extent (d : Desc) (k : Nat) : Nat := d.ext.getD k 0
/-- Stride k. -/
def Desc.strideOf (d : Desc) (k : Nat) : Int := d.stride.getD k 0

/-- The number of walk elements (R163). -/
def Desc.count (d : Desc) : Nat := ((List.range d.rank).map d.extent).foldl (· * ·) 1

/-- The byte displacement of the coordinates above dimension 0 of walk element i: the sum over k ≥ 1 of c_k stride_k. -/
def Desc.rowDisp (d : Desc) (row : Nat) : Int :=
  ((List.range (d.rank - 1)).foldl
    (fun (acc : Nat × Int) k =>
      let e := d.extent (k + 1)
      (acc.1 / e, acc.2 + (acc.1 % e : Nat) * d.strideOf (k + 1)))
    (row, 0)).2

/-- The address of walk element i from a base, and the bit inside that byte where it begins (R36, R163). -/
def Desc.elemAt (d : Desc) (base i : Nat) : Nat × Nat :=
  let e0 := d.extent 0
  let c0 := i % e0
  let row := (base : Int) + d.rowDisp (i / e0)
  let (off, bit) : Int × Nat :=
    if fmtBits d.fmt = 4 then ((c0 / 2 : Nat), 4 * (c0 % 2))
    else if fmtBits d.fmt = 6 then ((6 * c0 / 8 : Nat), 6 * c0 % 8)
    else (c0 * d.strideOf 0, 0)
  (((row + off) % 2 ^ 64).toNat, bit)

/-- The width in bits of element i as V instructions read it: parts of complex formats (R131). -/
def Desc.vBits (d : Desc) : Nat := fmtBits (fmtPart d.fmt)

/-- Address and bit of V element i (R130, R131). -/
def Desc.vElemAt (d : Desc) (base i : Nat) : Nat × Nat :=
  if fmtComplex d.fmt then
    let (a, b) := d.elemAt base (i / 2)
    ((a + (i % 2) * (d.vBits / 8)) % 2 ^ 64, b)
  else d.elemAt base i

/-- The number of V elements of a walk. -/
def Desc.vCount (d : Desc) : Nat := if fmtComplex d.fmt then 2 * d.count else d.count

/-- The bytes that an element of w bits at (address, bit) covers. -/
def elemBytes (w : Nat) (p : Nat × Nat) : List Nat := (List.range ((p.2 + w + 7) / 8)).map fun i => p.1 + i

/-- The payload bytes of a walk (R195: elements in walk order; sub-byte tensors as their packed rows). -/
def Desc.byteCount (d : Desc) : Nat :=
  if fmtSub d.fmt then
    (d.extent 0 * fmtBits d.fmt / 8) * ((List.range (d.rank - 1)).map fun k => d.extent (k + 1)).foldl (· * ·) 1
  else d.count * (fmtBits d.fmt / 8)

/-- The address of payload byte k of a walk. -/
def Desc.byteAt (d : Desc) (base k : Nat) : Nat :=
  if fmtSub d.fmt then
    let rb := d.extent 0 * fmtBits d.fmt / 8
    (((base : Int) + d.rowDisp (k / rb) + (k % rb : Nat)) % 2 ^ 64).toNat
  else
    let eb := fmtBits d.fmt / 8
    ((d.elemAt base (k / eb)).1 + k % eb) % 2 ^ 64

/-- A walk of no elements (R163). -/
def Desc.empty (d : Desc) : Bool := d.count == 0

/-- The bounds of a walk as inclusive byte addresses, by its corners, modulo 2^64. A walk with an extent of 0 touches
nothing (R163, R195): its callers ask `Desc.empty` first. -/
def Desc.hull (d : Desc) (base : Nat) : Nat × Nat :=
  let inner : Nat := if fmtSub d.fmt then d.extent 0 * fmtBits d.fmt / 8 else fmtBits d.fmt / 8
  let dims := (List.range d.rank).filter fun k => !(fmtSub d.fmt && k == 0)
  let last (k : Nat) : Int := ((d.extent k - 1 : Nat) : Int) * d.strideOf k
  let lo : Int := dims.foldl (fun a k => a + min 0 (last k)) 0
  let hi : Int := dims.foldl (fun a k => a + max 0 (last k)) 0
  ((((base : Int) + lo) % 2 ^ 64).toNat, (((base : Int) + hi) % 2 ^ 64).toNat + inner - 1)

/-! ### Resolution (R103, R164, R167) -/

/-- The slots that take a two-phase offset, with their inversion bit of TWO_PHASE_CTRL (R103). -/
def phaseOf (twoPhase : Nat) (counters : List Nat) (sl : Slot) : Nat :=
  if bits twoPhase 0 0 = 0 then 0
  else
    let c := counters.getD (bits twoPhase 3 1) 0
    let inv := match sl with
      | .x => bits twoPhase 4 4 | .m => bits twoPhase 5 5 | .v => bits twoPhase 6 6 | .s => 0
    match sl with
    | .s => 0
    | _ => (c % 2 + inv) % 2

/-- A handle after resolution (R167). -/
def resolveHandle (c : CoreSt) (sl : Slot) (h : Nat) : Nat :=
  if h < 128 then h + 128 * phaseOf c.twoPhase c.counters sl else h

/-- The role of an operand: what its descriptor does to a ring (R164). -/
inductive Role where
  | producer | consumer
deriving DecidableEq, Repr

/-- A ring context that has been configured (R100, R415). -/
def CoreSt.ring? (c : CoreSt) (k : Nat) : Option Ring := ((c.rings[k]?).join).filter fun r => r.configured

/-- The context that a descriptor names. -/
def CoreSt.ringOf (c : CoreSt) (d : Desc) : Option Ring := c.ring? d.ctx

/-- The slot that an operand addresses (R101). -/
def Ring.slot (r : Ring) (role : Role) (j : Nat) : Nat :=
  match role with
  | .producer => (r.head + r.p) % r.n
  | .consumer => (r.tail + j) % r.n

/-- The address of element 0 of a descriptor: the base of a ring descriptor is its slot's start plus the offset
(R164). -/
def ringBase (module : Nat) (c : CoreSt) (role : Role) (d : Desc) : Nat :=
  if d.ring then
    match c.ringOf d with
    | some r => coreGA module c.lcore (r.base + r.slot role d.slotOff * r.size) + d.base
    | none => d.base
  else d.base

/-- An operand from a resolved handle. A linked scale descriptor that carries ring parameters is resolved as the operand
is: its own context, slot offset and base, in the operand's role (R164, R165; DESIGN CHOICE, log 76). -/
def mkOpnd (module : Nat) (c : CoreSt) (role : Role) (h : Nat) : Opnd :=
  let d := descAt c.desc h
  let link := descAt c.desc d.link
  { h := h, d := d, base := ringBase module c role d
    scale := if d.linkValid then some { link with base := ringBase module c role link } else none }

/-! ### The conditions on descriptors -/

/-- R162: rank, reserved fields and ring fields. The fields of a context that the loader has not configured are 0
(R415). -/
def badDesc (c : CoreSt) (d : Desc) : Bool :=
  d.rank == 0 || 6 ≤ d.rank || d.rsv != 0 || d.rsv2 != 0
    || (if d.ring then
          match c.ringOf d with
          | some r => d.ringN != r.n || d.ringS * 64 != r.size
          | none => d.ringN != 0 || d.ringS != 0
        else d.ctx != 0 || d.release || d.slotOff != 0 || d.ringN != 0 || d.ringS != 0)

/-- R36, R163: packing of 4-bit and 6-bit tensors. -/
def badPack (d : Desc) : Bool :=
  fmtSub d.fmt && (d.strideOf 0 != 0 || (if fmtBits d.fmt = 4 then d.extent 0 % 2 != 0 else d.extent 0 % 4 != 0))

/-- R41, R165: the scale link. -/
def badLink (o : Opnd) : Bool :=
  if fmtMX o.d.fmt then
    o.d.extent 0 % 32 != 0
      || match o.scale with
         | none => true
         | some s =>
           !s.valid || s.fmt != 0x0F || s.rank != o.d.rank || s.extent 0 * 32 != o.d.extent 0
             || (List.range (o.d.rank - 1)).any fun k => s.extent (k + 1) != o.d.extent (k + 1)
  else o.d.linkValid

/-- Packing of the extents alone, for a walk whose strides are ignored (R195, R208). -/
def badExtents (d : Desc) : Bool :=
  fmtSub d.fmt && (if fmtBits d.fmt = 4 then d.extent 0 % 2 != 0 else d.extent 0 % 4 != 0)

/-- The part of R41 and R165 that a stream source keeps: an MX innermost extent is a multiple of 32. -/
def badBlocks (d : Desc) : Bool := fmtMX d.fmt && d.extent 0 % 32 != 0

/-- The reasons that any named descriptor can raise: 0x01 to 0x04 (R189). `loose` leaves out the stride of R163, which a
stream destination and a stream source ignore; `bare` the scale link, which a stream source does not need (R165). -/
def descReasons (c : CoreSt) (o : Opnd) (loose : Bool := false) (bare : Bool := false) : List (Nat × Option Nat) :=
  (if fmtOk o.d.fmt then [] else [(0x01, some o.h)])
    ++ (if badDesc c o.d then [(0x02, some o.h)] else [])
    ++ (if (if loose then badExtents o.d else badPack o.d) then [(0x03, some o.h)] else [])
    ++ (if (if bare then badBlocks o.d else badLink o) then [(0x04, some o.h)] else [])

/-- Reason 0x08 of a ring operand (R101, R102, R164), but for the kind test of transfers. -/
def ringReasons (module : Nat) (c : CoreSt) (role : Role) (engine : Bool) (o : Opnd) : List (Nat × Option Nat) :=
  if !o.d.ring then []
  else match c.ringOf o.d with
    | none => [(0x08, some o.h)]
    | some r =>
      let start := coreGA module c.lcore (r.base + r.slot role o.d.slotOff * r.size)
      let hull := o.d.hull o.base
      let out := !o.d.empty && (hull.1 < start || start + r.size ≤ hull.2)
      let kind := role == .producer && engine && r.queue.isSome
      if out || (o.d.release && o.d.slotOff != 0) || kind then [(0x08, some o.h)] else []

/-- The violation with the lowest reason (R189), the one of the lowest handle where several have it
(DEDUCED, log 17). -/
def lowestReason (rs : List (Nat × Option Nat)) : Option (Nat × Option Nat) :=
  match rs with
  | [] => none
  | r :: rest =>
    match lowestReason rest with
    | none => some r
    | some s => if s.1 < r.1 || (s.1 == r.1 && s.2.getD 0 < r.2.getD 0) then some s else some r

/-- Where an address lies as an M or V operand of a core (R87). -/
inductive OwnLoc where
  | spad (o : Nat) | acc (o : Nat) | otherWindow | unmapped | elsewhere
deriving DecidableEq, Repr

/-- Whether an address lies in the issuing core's own core-local space. -/
def ownSpace (module lcore : Nat) (g : GA) : Bool := gaModule g == module && gaSpace g == 0 && gaCore g == lcore

/-- The place of an address for an M or V operand (R87). -/
def ownLoc (module lcore : Nat) (g : GA) : OwnLoc :=
  if ownSpace module lcore g then
    match windowOf (gaOff g) with
    | some (.spad, o) => .spad o
    | some (.acc, o) => .acc o
    | some _ => .otherWindow
    | none => .unmapped
  else .elsewhere

/-- The scale element of V element i of an MX operand (R41, R165). -/
def scaleIndex (d : Desc) (i : Nat) : Nat :=
  let e0 := d.extent 0
  (i / e0) * (e0 / 32) + (i % e0) / 32

/-- The first and last byte addresses of the elements lo to hi - 1 of an operand as V reads them. -/
def Opnd.ends (o : Opnd) (lo hi : Nat) : List Nat :=
  (List.range (hi - lo)).flatMap fun k =>
    let p := o.d.vElemAt o.base (lo + k)
    [p.1, p.1 + (p.2 + o.d.vBits + 7) / 8 - 1]

/-- The byte address of the scale of element i of an MX operand. -/
def Opnd.scaleAt (o : Opnd) (i : Nat) : Option Nat :=
  match o.scale with
  | none => none
  | some s => if fmtMX o.d.fmt then some (s.elemAt s.base (scaleIndex o.d i)).1 else none

/-- The byte addresses of the scales of elements lo to hi - 1 of an MX operand, one per block of 32. -/
def Opnd.scaleEnds (o : Opnd) (lo hi : Nat) : List Nat :=
  (List.range ((hi - lo + 31) / 32)).filterMap fun b => o.scaleAt (lo + 32 * b)

/-- The granules of scratchpad addresses, each once. -/
def granules (as : List Nat) : List Nat := (as.map fun a => granuleOf (gaOff a)).dedup

/-- Whether two granules of a list fall in one bank (R90). -/
def bankTwice (gs : List Nat) : Bool := decide (¬ (gs.map bankOf).Nodup)

/-- The hull of granules (R95). -/
def granuleHull (gs : List Nat) : Option GRange :=
  match gs with
  | [] => none
  | g :: r => some { lo := r.foldl min g, hi := r.foldl max g }

/-- The hull of two ranges. -/
def hullUnion (a b : Option GRange) : Option GRange :=
  match a, b with
  | none, x => x
  | x, none => x
  | some x, some y => some { lo := min x.lo y.lo, hi := max x.hi y.hi }

/-- The range of the first n elements of an operand, scales included (R95, R190). -/
def Opnd.range (o : Opnd) (n : Nat) : Option GRange :=
  granuleHull ((o.ends 0 n ++ o.scaleEnds 0 n).map fun a => granuleOf (gaOff a))

end Sys2Proof.Machine
end

