-- ==== Sys2Proof/Machine/Ops.lean ====
section
/-! DEFINITION. The named operations over the state that every family shares: looking a core or a region up, events and
ledger entries (R318 to R321, R355), raising a fault of the spec and applying its policy (R81 to R85, R245), adding to a
tally (R180), and writing registers of a core. The block has no exception entry: raising a fault is this operation. -/

namespace Sys2Proof.Machine

/-! ### Lookup and update -/

/-- The core of a logical number. -/
def State.core? (s : State) (l : Nat) : Option CoreSt := s.cores.find? fun c => c.lcore == l

/-- A function applied to the core of a logical number. -/
def State.updCore (s : State) (l : Nat) (f : CoreSt → CoreSt) : State :=
  { s with cores := s.cores.map fun c => if c.lcore == l then f c else c }

/-- The region of a number. -/
def State.region? (s : State) (r : Nat) : Option Region := s.regions.find? fun x => x.num == r

/-- A function applied to the region of a number. -/
def State.updRegion (s : State) (r : Nat) (f : Region → Region) : State :=
  { s with regions := s.regions.map fun x => if x.num == r then f x else x }

/-- A function applied to every core of a region. -/
def State.updCoresOf (s : State) (r : Nat) (f : CoreSt → CoreSt) : State :=
  { s with cores := s.cores.map fun c => if c.region == r then f c else c }

/-- The cores of a region. -/
def State.coresOf (s : State) (r : Nat) : List CoreSt := s.cores.filter fun c => c.region == r

/-- The region that holds a core. -/
def State.regionOf (s : State) (l : Nat) : Option Region := (s.core? l).bind fun c => s.region? c.region

/-- The number of logical cores of the part (R3, R286). -/
def State.coreCount (s : State) : Nat := if s.part.cores1104 then 1104 else 1200

/-- The core clock is 3.0 GHz (R4, R257). -/
def State.slow (s : State) : Bool := s.part.grade300 || s.kol.clock300

/-- Element k of a list replaced. -/
def setAt {α : Type} (l : List α) (k : Nat) (x : α) : List α := l.set k x

/-- Element k of a list changed by a function. -/
def updAt {α : Type} (l : List α) (k : Nat) (f : α → α) : List α := l.modify k f

/-! ### What the module sends -/

/-- One thing sent. -/
def State.emit (s : State) (o : Out) : State :=
  { s with host := { s.host with outbox := s.host.outbox ++ [o] } }

/-- The class bit of an event, none for the events that follow a session's own commands (R318). -/
def EvCode.classBit : EvCode → Option Nat
  | .fault => some 0 | .regionState => some 1 | .runEnd => some 2 | .choice => some 3 | .link => some 4
  | .domain => some 5 | .groupMode => some 6 | .thermalPower => some 7 | .firmware => some 8
  | .commandDone | .regApplied | .streamFailed | .eventsLost => none

/-- Events that are also written to the retained ledger (R320). -/
def EvCode.inLedger : EvCode → Bool
  | .fault | .regionState | .runEnd | .commandDone => true
  | _ => false

/-- The size of a ledger entry in bytes, as far as the spec gives it (R355): the retained ledger is 64 KiB. -/
def ledgerMax : Nat := 1024

/-- A ledger entry (R355): the oldest entries leave when the ledger is full (DESIGN CHOICE, log 62). -/
def State.ledger (s : State) (kind : Nat) (items : List Item) : State :=
  let e : LedgerEntry :=
    { seq := s.host.ledgerSeq, kind := kind, cycle := s.time.cycle, tick := s.time.tick, items := items }
  let l := s.host.ledger ++ [e]
  { s with host := { s.host with
      ledger := l.drop (l.length - ledgerMax)
      ledgerSeq := (s.host.ledgerSeq + 1) % 2 ^ 32 } }

/-- The number of an event (R318), which is also its ledger kind. -/
def EvCode.num : EvCode → Nat
  | .commandDone => 0x8001 | .fault => 0x8002 | .regionState => 0x8003 | .runEnd => 0x8004 | .choice => 0x8005
  | .regApplied => 0x8006 | .link => 0x8007 | .domain => 0x8008 | .groupMode => 0x8009
  | .thermalPower => 0x800A | .firmware => 0x800B | .streamFailed => 0x800C | .eventsLost => 0x800D

/-- The core whose step stands for a matter that concerns no core (R319): the lowest-numbered logical core of the
lowest-numbered RUNNING region. -/
def State.leadCore (s : State) : Option CoreSt :=
  let low (l : List Nat) : Option Nat := match l with | [] => none | a :: r => some (r.foldl min a)
  (low ((s.regions.filter fun x => x.phase == .running).map fun x => x.num)).bind fun r =>
    (low ((s.coresOf r).map fun c => c.lcore)).bind s.core?

/-- The Invar step of a message (R319): that of the core it concerns, else of the leading core, all ones when no region runs.
-/
def State.stepFor (s : State) (core : Option Nat) : Nat :=
  match (core.bind s.core?).orElse fun _ => s.leadCore with
  | some c => c.step
  | none => 2 ^ 64 - 1

/-- The network of an Ethernet port: 0 for EP0 to EP3, 1 for EP4 to EP7 (R21). -/
def networkOf (port : Nat) : Nat := port / 4

/-- Whether the link of an Ethernet port is up. -/
def State.ethUp (s : State) (port : Nat) : Bool := match s.eth[port]? with | some e => e.up | none => false

/-- The port by which an unsolicited message leaves (R390): the one of the network that last received a datagram from the
address, else the lowest-numbered one that is up. -/
def State.egress (s : State) (network address : Nat) : Option Nat :=
  match (s.host.lastPort.filter fun p => p.1 == address && networkOf p.2 == network && s.ethUp p.2).getLast? with
  | some p => some p.2
  | none => ((List.range 4).map fun i => 4 * network + i).find? s.ethUp

/-- Where a session's events go (R318): to its destinations, or where it has given none, to the address of its last command
(DESIGN CHOICE, log 96). -/
def State.destsOf (s : State) (x : Session) : List MsgDest :=
  if x.dests.isEmpty then
    let net := match (s.host.lastPort.filter fun p => p.1 == x.source.1).getLast? with | some p => networkOf p.2 | none => 0
    [{ egress := s.egress net x.source.1, address := x.source.1, udp := x.source.2 }]
  else x.dests.map fun d => { egress := s.egress d.network d.address, address := d.address, udp := d.port }

/-- The header of a message sent now (R307). -/
def State.msgHdr (s : State) (kind code status : Nat) (tag : Bool) (step : Nat) (dests : List MsgDest) : MsgHdr :=
  { kind := kind, code := code, status := status, tag := tag, tick := s.time.tick % 2 ^ 32, cycle := s.time.cycle
    step := step, dests := dests }

/-- The datagrams of an event. -/
def State.eventOut (s : State) (x : Session) (seq : Nat) (code : EvCode) (items : List Item) (step : Nat) : Out :=
  .event x.num seq code items (s.msgHdr 3 code.num 0 x.priv step (s.destsOf x))

/-- An event given to one session: numbered and kept until it is acknowledged, counted as lost when 1,024 are waiting
(R320). -/
def Session.push (x : Session) (tick : Nat) (code : EvCode) (items : List Item) (step : Nat) : Session :=
  if x.events.length < 1024 then
    { x with evSeq := x.evSeq + 1
             events := x.events ++ [{ seq := x.evSeq + 1, code := code, items := items, step := step, sent := tick }] }
  else { x with evLost := x.evLost + 1 }

/-- Whether a session is sent an event of a class (R318). -/
def Session.wants (x : Session) (code : EvCode) : Bool :=
  match code.classBit with
  | some b => x.mask.testBit b
  | none => false

/-- The datagrams of one pushed event. -/
def State.pushOut (s : State) (x : Session) (code : EvCode) (items : List Item) (step : Nat) : List Out :=
  if x.events.length < 1024 then [s.eventOut x (x.evSeq + 1) code items step] else []

/-- An event given to the sessions that a test picks. -/
def State.sendTo (s : State) (p : Session → Bool) (code : EvCode) (items : List Item) (step : Nat) : State :=
  { s with host := { s.host with
      sessions := s.host.sessions.map fun x => if p x then x.push s.time.tick code items step else x
      outbox := s.host.outbox ++ (s.host.sessions.filter p).flatMap fun x => s.pushOut x code items step } }

/-- An event written to the ledger where its kind or a restart of the management harts asks for it (R305, R320), and sent,
or kept until the restart ends. -/
def State.report (s : State) (p : Session → Bool) (code : EvCode) (items : List Item) (core : Option Nat := none) : State :=
  let s := if code.inLedger || s.fw.mgmtDown then s.ledger code.num items else s
  if s.fw.mgmtDown then { s with fw := { s.fw with deferred := s.fw.deferred ++ [(code, items, s.stepFor core)] } }
  else s.sendTo p code items (s.stepFor core)

/-- An event to one session, whose number is its first item. -/
def State.tell (s : State) (num : Nat) (code : EvCode) (items : List Item) : State :=
  s.report (fun x => x.num == num) code (.num num :: items)

/-- An event to every subscribed session (R318), about a core or none. -/
def State.notify (s : State) (code : EvCode) (items : List Item) (core : Option Nat := none) : State :=
  s.report (fun x => x.wants code) code items core

/-- COMMAND_DONE to the session that sent the command (R309, R318). -/
def State.done (s : State) (session seq code : Nat) (st : Status) (items : List Item) : State :=
  s.tell session .commandDone ([.num seq, .num code, .status st] ++ items)

/-- A packet of a stream as it is sent now: with the last PSN received in order, and the tag of a privileged session (R310,
R325). -/
def State.cmtOut (s : State) (x : Stream) (psn kind : Nat) (ga : GA) (word : Nat) (data : List Byte) : Out :=
  .cmt x.session x.num psn kind ga word data ((x.next + (2 ^ 32 - 1)) % 2 ^ 32)
    (s.host.sessions.any fun y => y.num == x.session && y.priv)

/-- A packet that the module sends on an open stream, kept until the host acknowledges it (R326). -/
def State.cmtSend (s : State) (session stream kind : Nat) (ga : GA) (word : Nat) (data : List Byte) : State :=
  match s.host.streams.find? fun x => x.session == session && x.num == stream with
  | none => s
  | some x =>
    let p : OwnPkt := { psn := x.ownPsn, kind := kind, ga := ga, word := word, data := data }
    { s with host := { s.host with
        streams := s.host.streams.map fun y =>
          if y.session == session && y.num == stream then { y with ownPsn := y.ownPsn + 1, own := y.own ++ [p] } else y
        outbox := s.host.outbox ++ [s.cmtOut x x.ownPsn kind ga word data] } }

/-- An ERROR packet: the fault code in [7:0], the PSN of the failing packet in [63:32] (R328). -/
def State.cmtError (s : State) (session stream psn : Nat) (code : FCode) : State :=
  s.cmtSend session stream 0x08 0 (code.num + 2 ^ 32 * psn) []

/-! ### Regions -/

/-- A change of REGION_STATE with its event (R318); cause 0 command, 1 fault stop, 2 HALT, 3 protective halt. -/
def State.setPhase (s : State) (r : Nat) (p : Phase) (cause : Nat) : State :=
  match s.region? r with
  | none => s
  | some x =>
    (s.updRegion r fun x => { x with phase := p }).notify .regionState [.num r, .phase x.phase, .phase p, .num cause]

/-- The policy of a core-level code in a region (R346); BARRIER_TIMEOUT is always STOP. -/
def Region.policy (x : Region) (c : FCode) : Policy :=
  policyOf (policyField (x.policies.getD (c.num / 16 - 1) 0) c)

/-- The policy of a module-level code (R85, R349). -/
def State.modulePolicy (s : State) (c : FCode) : Policy :=
  match c with
  | .barrierTimeout => .stop
  | c => policyOf (policyField (s.glb.policies.getD (c.num / 16 - 5) 0) c)

/-- The smaller of a value and an optional one. -/
def optMin (o : Option Nat) (n : Nat) : Option Nat := some (match o with | some m => min m n | none => n)

/-- A core stops before the marker that begins step k + 1, or its own next one when it is past it (R83). -/
def CoreSt.stopStep (c : CoreSt) (k : Nat) : CoreSt :=
  { c with stopBefore := optMin c.stopBefore (max (k + 1) (c.step + 1)) }

/-- A core issues nothing from a cycle (R83). -/
def CoreSt.stopAt (c : CoreSt) (t : Nat) : CoreSt := { c with stopFrom := optMin c.stopFrom t }

/-- R245: accepted transfers that have not started are discarded, with their unserved start conditions. -/
def CoreSt.discardUnstarted (c : CoreSt) : CoreSt :=
  { c with
    queues := c.queues.map fun q => { q with live := q.live.map fun x =>
      if x.started.isNone && !x.complete then { x with discarded := true } else x }
    conds := [] }

/-- Whether a region issues or drains. -/
def Region.live (x : Region) : Bool := x.phase == .running || x.phase == .stopping

/-- A region taken from RUNNING to STOPPING (DEDUCED, log 50). -/
def State.toStopping (s : State) (r : Nat) (kind : EndReason) (goal : StopGoal) (cause : Nat) : State :=
  match s.region? r with
  | none => s
  | some x =>
    let s := s.updRegion r fun x => { x with
      stopKind := if x.phase == .stopping && x.stopKind == .stop then .stop else kind
      goal := if x.phase == .stopping && kind != .stop && !(x.goal == .pace && goal == .fault) then x.goal else goal }
    if x.phase == .running then s.setPhase r .stopping cause else s

/-- R83 STOP_STEP on a region with the step k that the stop names. -/
def State.stopRegionStep (s : State) (r k : Nat) (kind : EndReason) (goal : StopGoal) (cause : Nat) : State :=
  (s.updCoresOf r fun c => c.stopStep k).toStopping r kind goal cause

/-- R83 STOP on a region: the cores named by `first` issue nothing from `t0`, the others nothing from `t1`; unstarted
transfers are discarded (R245). -/
def State.stopRegionNow (s : State) (r : Nat) (first : Nat → Bool) (t0 t1 : Nat) (kind : EndReason) (goal : StopGoal)
    (cause : Nat) : State :=
  (s.updCoresOf r fun c => (c.stopAt (if first c.lcore then t0 else t1)).discardUnstarted).toStopping r kind goal
    cause

/-! ### Raising faults -/

/-- A record put into the recording bank of its core, or counted as lost (R344). -/
def CoreSt.record (c : CoreSt) (f : FRec) : CoreSt :=
  let bank := if c.bankSel then c.bank1 else c.bank0
  if bank.length < 16 then
    if c.bankSel then { c with bank1 := c.bank1 ++ [f] } else { c with bank0 := c.bank0 ++ [f] }
  else { c with faultLost := min (c.faultLost + 1) 65535 }

/-- The RC counts of SB_STATUS and ARRAY_STATUS that a fault moves (R343). -/
def CoreSt.countFault (c : CoreSt) (code : FCode) : CoreSt :=
  match code with
  | .scoreboardTrap => { c with sbTraps := min (c.sbTraps + 1) 65535 }
  | .holdLimit => { c with sbHolds := min (c.sbHolds + 1) 65535 }
  | .slipBudget => { c with slipTraps := min (c.slipTraps + 1) 65535 }
  | _ => c

/-- The record of a core fault (R81): the core's Invar step and the cycle offset within it, in the present cycle. -/
def CoreSt.frec (c : CoreSt) (cycle : Nat) (code : FCode) (slot : Option Slot) (bundle detail : Nat)
    (closing : Bool) : FRec :=
  { code := code, lcore := some c.lcore, step := c.step, off := min (cycle - c.stepCycle) (2 ^ 32 - 1)
    slot := slot, bundle := if slot.isSome then bundle else 0, detail := detail, closing := closing
    cycle := cycle }

/-- A core fault of the present cycle: it waits for the end of the cycle, which records the faults of every core in the order
of R82. -/
def State.raise (s : State) (l : Nat) (code : FCode) (slot : Option Slot) (bundle detail : Nat)
    (closing : Bool := false) : State :=
  s.updCore l fun c => { c with due := c.due ++ [c.frec s.time.cycle code slot bundle detail closing] }

/-- The place of a fault in the records of one cycle (R82): slots S, X, M, V, then the records that name no
instruction. -/
def FRec.rank (f : FRec) : Nat :=
  match f.slot with
  | some .s => 0 | some .x => 1 | some .m => 2 | some .v => 3 | none => 4

/-- The faults of a cycle in the order of R82. -/
def inSlotOrder (l : List FRec) : List FRec := (List.range 5).flatMap fun r => l.filter fun f => f.rank == r

/-- A fault as the end of its cycle records it (R81): against the step of the core, or against the step that a STEP check
closes. -/
def CoreSt.settled (c : CoreSt) (cycle : Nat) (f : FRec) : FRec :=
  if f.closing then f else { f with step := c.step, off := min (cycle - c.stepCycle) (2 ^ 32 - 1), cycle := cycle }

/-- A fault recorded, counted, reported, and added to the run record (R81, R281, R321). -/
def State.recordFault (s : State) (l : Nat) (f : FRec) : State :=
  match s.core? l with
  | none => s
  | some c =>
    let s := s.updCore l fun c => (c.record f).countFault f.code
    match s.region? c.region with
    | none => s
    | some x =>
      let lost := (c.record f).faultLost
      let s := s.notify .fault [.fault f, .num x.num, .num (x.policy f.code).num, .num lost,
        .num (if x.ran then f.step - x.base else 2 ^ 32 - 1)] (some l)
      s.updRegion x.num fun x => { x with runRec := x.runRec.map fun r => { r with faults := r.faults ++ [f] } }

/-- The stronger of two policies (R82). -/
def Policy.max (a b : Policy) : Policy :=
  match a, b with
  | .stop, _ | _, .stop => .stop
  | .stopStep, _ | _, .stopStep => .stopStep
  | .log, .log => .log

/-- The policy of a core's faults applied to its region (R83, R245). -/
def State.applyPolicy (s : State) (c : CoreSt) (p : Policy) : State :=
  match s.region? c.region with
  | none => s
  | some x =>
    if !x.live then s
    else match p with
      | .log => s
      | .stopStep => s.stopRegionStep x.num c.step .stopStep .fault 1
      | .stop =>
        s.stopRegionNow x.num (fun k => k == c.lcore) (s.time.cycle + 1) (s.time.cycle + 40) .stop .fault 1

/-- The faults of a core at the end of a cycle: recorded in order, then the strongest of their policies (R82). -/
def State.settleFaults (s : State) (l : Nat) : State :=
  match s.core? l with
  | none => s
  | some c =>
    if c.due.isEmpty then s
    else
      let p := match s.region? c.region with
        | some x => c.due.foldl (fun p f => p.max (x.policy f.code)) .log
        | none => .log
      let s := s.updCore l fun c => { c with due := [] }
      let s := (inSlotOrder c.due).foldl (fun s f => s.recordFault l (c.settled s.time.cycle f)) s
      s.applyPolicy c p

/-- Whether a fault of the present cycle stops a region under STOP, which keeps its queues from starting from that cycle
on (R245). -/
def State.stopDue (s : State) (x : Region) : Bool :=
  x.live && (s.coresOf x.num).any fun c => c.due.any fun f => x.policy f.code == .stop

/-- The policy of a module-level fault on every RUNNING region (R83). -/
def State.moduleStop (s : State) (p : Policy) (cause : Nat) : State :=
  s.regions.foldl
    (fun s x =>
      if x.phase != .running then s
      else match p with
        | .log => s
        | .stopStep =>
          let k := (s.coresOf x.num).foldl (fun k c => max k c.step) 0
          s.stopRegionStep x.num k .stopStep .fault cause
        | .stop => s.stopRegionNow x.num (fun _ => false) s.time.cycle (s.time.cycle + 40) .stop .fault cause)
    s

/-- A module-level fault: recorded, reported, and its policy applied (R81, R83, R321); one with policy STOP drives ALERT#
(R404, R405). It carries the step of R319, all ones when no region runs, and enters the record of every run in
progress (R281). -/
def State.raiseModule (s : State) (code : FCode) (detail : Nat) (cause : Nat := 1) : State :=
  let f : FRec :=
    { code := code, detail := detail, cycle := s.time.cycle
      step := match s.leadCore with | some c => c.step | none => 2 ^ 64 - 1
      off := match s.leadCore with | some c => min (s.time.cycle - c.stepCycle) (2 ^ 32 - 1) | none => 0 }
  let p := s.modulePolicy code
  let stop := p == .stop
  let s := { s with glb := { s.glb with faults := s.glb.faults ++ [f] }
                    pwr := { s.pwr with alertFault := s.pwr.alertFault || stop, stOther := s.pwr.stOther || stop } }
  let s := s.notify .fault [.fault f, .num 255, .num p.num, .num 0, .num (2 ^ 32 - 1)]
  let s := { s with regions := s.regions.map fun (x : Region) =>
    if x.ran then { x with runRec := x.runRec.map fun (r : RunRec) =>
      if r.ended.isNone then { r with faults := r.faults ++ [f] } else r } else x }
  s.moduleStop p cause

/-- A module-level fault whose detail word no chapter defines: the word is a free value (R81; DESIGN CHOICE, log 20). -/
def State.raiseFree (s : State) (code : FCode) (cause : Nat := 1) : State :=
  { s with time := { s.time with draws := s.time.draws + 1 } }.raiseModule code
    (Config.freeDetail s.time.draws % 2 ^ 32) cause

/-! ### Tallies (R180) -/

/-- The count that waits see: the value at the start of the cycle less the subtractions made in it (R180). -/
def CoreSt.avail (c : CoreSt) (t : Nat) : Nat := c.tallies.getD t 0 - c.taken.getD t 0

/-- A subtraction. -/
def CoreSt.takeTally (c : CoreSt) (t n : Nat) : CoreSt :=
  { c with taken := updAt c.taken t fun v => v + n }

/-- An addition that the end of the cycle applies, in arrival order (R180). -/
def CoreSt.giveTally (c : CoreSt) (a : TallyAdd) : CoreSt := { c with fresh := c.fresh ++ [a] }

/-- An addition to a tally of a core (R180); `src` is the source of R249. -/
def State.addTally (s : State) (l t n src : Nat) (slot : Option Slot) (bundle : Nat) : State :=
  s.updCore l fun c => c.giveTally { tally := t, n := n, src := src, slot := slot, bundle := bundle }

/-- The additions of a cycle in the order of R180: those that arrive, then a local TSIG. -/
def addOrder (l : List TallyAdd) : List TallyAdd := (l.filter fun a => a.src != 0) ++ l.filter fun a => a.src == 0

/-- One addition against the value that the changes before it left: refused with TALLY_OVERFLOW above 4,095 (R180). -/
def CoreSt.addOne (cycle : Nat) (c : CoreSt) (a : TallyAdd) : CoreSt :=
  let v := c.tallies.getD a.tally 0
  if v + a.n ≤ 4095 then { c with tallies := setAt c.tallies a.tally (v + a.n) }
  else { c with due := c.due ++
    [c.frec cycle .tallyOverflow a.slot a.bundle (overflowDetail a.tally v a.n a.src) false] }

/-- The tallies at the end of a cycle (R180): the subtractions, then the additions in order. -/
def CoreSt.settleTallies (cycle : Nat) (c : CoreSt) : CoreSt :=
  (addOrder c.fresh).foldl (CoreSt.addOne cycle)
    { c with tallies := (List.range 48).map c.avail, taken := List.replicate 48 0, fresh := [] }

/-! ### Writing the sequencer's registers -/

/-- Counter k set, modulo 2^32 (R169). -/
def CoreSt.setCounter (c : CoreSt) (k v : Nat) : CoreSt := { c with counters := setAt c.counters k (v % 2 ^ 32) }

/-- The value of counter k. -/
def CoreSt.counter (c : CoreSt) (k : Nat) : Nat := c.counters.getD k 0

/-- The slip counter (R277): 48 bits, saturating. -/
def CoreSt.addSlip (c : CoreSt) (n : Nat) : CoreSt := { c with slip := min (c.slip + n) (2 ^ 48 - 1) }

/-- One counted choice (R278): the counter moves and the log takes the entry, or CHOICE_LOST counts it. -/
def CoreSt.choose (c : CoreSt) (e : ChoiceEntry) : CoreSt :=
  let c := { c with choices := min (c.choices + 1) (2 ^ 32 - 1) }
  if c.choiceLog.length < 256 then { c with choiceLog := c.choiceLog ++ [e] }
  else { c with choiceLost := min (c.choiceLost + 1) (2 ^ 32 - 1) }

end Sys2Proof.Machine
end

