-- ==== Sys2Proof/Machine/Score.lean ====
section
/-! DEFINITION. The verdicts of issue (R68, R76, R77), the scoreboard (R75, R95, R96, R106, R190), the ring tests (R101),
and the checks on single operands that all slots share. -/

namespace Sys2Proof.Machine

/-- What judging needs beside the core: the cycle, the module's number (R29), and the core's region. -/
structure Ctx where
  cycle : Nat
  module : Nat
  region : Region
deriving DecidableEq, Repr

/-- The due clock of the array (R123, R124): cycles less the held ones. -/
def CoreSt.dueNow (c : CoreSt) (cycle : Nat) : Nat := cycle - c.frozen

/-- A check-8 failure of R76: the fault that TRAP logs, and its detail word. -/
structure Check8 where
  code : FCode
  detail : Nat
deriving DecidableEq, Repr

/-- What judging one slot gives. A hold may rest on a wait or full queue (hold code and value of R249), on check 8, or
on both. -/
inductive Verdict where
  | go
  | skip (code : FCode) (detail : Nat)
  | hold (wait : Option (Nat × Nat)) (c8 : Option Check8)
deriving DecidableEq, Repr

/-- Whether a verdict lets its instruction issue. -/
def Verdict.isGo : Verdict → Bool
  | .go => true
  | _ => false

/-- The verdict of check 8 (R77): under TRAP the instruction is skipped and logged, under HOLD it holds. A full queue is
a wait under either policy (R68). -/
def check8 (k : Ctx) (wait : Option (Nat × Nat)) (c8 : Option Check8) : Verdict :=
  match c8, wait with
  | none, none => .go
  | some f, w => if k.region.trap then .skip f.code f.detail else .hold w (some f)
  | none, w => .hold w none

/-! ### Live entries -/

/-- One live view of a scoreboard entry: its kind code (R96), the ranges it reads and the ranges it writes. -/
structure LiveEntry where
  kind : Nat
  reads : List GRange
  writes : List GRange
deriving DecidableEq, Repr

/-- The scratchpad granules of one end of a transfer that lie in the issuing core's scratchpad (R95, R190): by the corners of
a walk that stays inside it, byte by byte for one that leaves it. -/
def localRange (module lcore : Nat) (o : Opnd) : Option GRange :=
  let h := o.d.hull o.base
  let w := coreGA module lcore 0
  if o.d.empty then none
  else match ownLoc module lcore h.1, ownLoc module lcore h.2 with
    | .spad lo, .spad hi => some { lo := granuleOf lo, hi := granuleOf hi }
    | _, _ =>
      if h.1 ≤ h.2 && (h.2 < w || w + 0x1000000 ≤ h.1) then none
      else granuleHull ((List.range o.d.byteCount).filterMap fun i =>
        match ownLoc module lcore (o.d.byteAt o.base i) with
        | .spad a => some (granuleOf a)
        | _ => none)

/-- The destination of a delivery of a group to its own issuer, and of a QPUT (R95). -/
def Xfer.dstRange (module lcore : Nat) (x : Xfer) : Option GRange :=
  if x.attr.stream then none
  else match x.kind with
    | .put => localRange module lcore x.dst
    | _ =>
      if x.deliveries.any fun d => d.member == lcore then
        localRange module lcore { x.dst with base := coreGA module lcore (gaOff x.dst.base) }
      else none

/-- The live view of a transfer entry: source until its last granule is read, destination until completion. -/
def Xfer.live (module lcore : Nat) (x : Xfer) : LiveEntry :=
  { kind := 0
    reads := if x.srcDone || x.discarded then [] else (localRange module lcore x.src).toList
    writes := if x.complete || x.discarded then [] else (x.dstRange module lcore).toList }

/-- The live view of an engine entry in a cycle. -/
def EngineEntry.live (c : CoreSt) (t : Nat) (e : EngineEntry) : LiveEntry :=
  let now := if e.mclock then c.dueNow t else t
  { kind := 1
    reads := if now < e.relSrc then e.srcs else []
    writes := if now < e.relDst then e.dst.toList else [] }

/-- The live entries with scratchpad ranges at the start of a cycle (R75). -/
def liveEntries (k : Ctx) (c : CoreSt) : List LiveEntry :=
  (c.queues.flatMap fun q => q.live.map fun x => x.live k.module c.lcore)
    ++ c.engines.map fun e => e.live c k.cycle

/-- The lowest granule that two ranges share. -/
def overlap (a b : GRange) : Option Nat := if a.lo ≤ b.hi ∧ b.lo ≤ a.hi then some (max a.lo b.lo) else none

/-- The conflicts of reads and writes with live entries: hazard, kind, lowest granule (R96). -/
def conflicts (es : List LiveEntry) (reads writes : List GRange) : List (Nat × Nat × Nat) :=
  es.flatMap fun e =>
    (reads.flatMap fun r => e.writes.filterMap fun w => (overlap r w).map fun g => (0, e.kind, g))
      ++ (writes.flatMap fun r => e.reads.filterMap fun w => (overlap r w).map fun g => (1, e.kind, g))
      ++ (writes.flatMap fun r => e.writes.filterMap fun w => (overlap r w).map fun g => (2, e.kind, g))

/-- The first of several conflicts: hazard, then kind, then granule, each lowest first (R96). -/
def firstConflict (l : List (Nat × Nat × Nat)) : Option (Nat × Nat × Nat) :=
  match l with
  | [] => none
  | x :: r =>
    match firstConflict r with
    | none => some x
    | some y =>
      if x.1 < y.1 ∨ x.1 = y.1 ∧ (x.2.1 < y.2.1 ∨ x.2.1 = y.2.1 ∧ x.2.2 ≤ y.2.2) then some x else some y

/-- Whether an engine entry still holds a range. -/
def EngineEntry.inUse (c : CoreSt) (t : Nat) (e : EngineEntry) : Bool :=
  let now := if e.mclock then c.dueNow t else t
  decide (now < e.relSrc) || (decide (now < e.relDst) && e.dst.isSome)

/-- Engine entries in use (R95: 64). -/
def CoreSt.enginesUsed (c : CoreSt) (t : Nat) : Nat := (c.engines.filter fun e => e.inUse c t).length

/-- The conflicts of an accumulator read with live accumulator entries: read-after-write only (R95, R106). -/
def accConflicts (c : CoreSt) (lines : List Nat) : List (Nat × Nat × Nat) :=
  c.accEntries.filterMap fun e =>
    let hit := lines.filter fun l => e.lo ≤ l && l ≤ e.hi
    match hit with
    | [] => none
    | l :: r => some (0, 2, r.foldl min l)

/-- The scoreboard part of check 8 (R96): the first conflict, else a missing entry, else a busy unit. `busy` names the
M-unit path of a busy unit. -/
def scoreCheck (k : Ctx) (c : CoreSt) (reads writes : List GRange) (lines : List Nat) (engine accE : Bool)
    (busy : Option Nat) : Option Check8 :=
  let full : List (Nat × Nat × Nat) :=
    (if engine && 64 ≤ c.enginesUsed k.cycle then [(3, 1, 0)] else [])
      ++ (if accE && 32 ≤ (c.accEntries.map fun e => e.job).dedup.length then [(3, 2, 0)] else [])
      ++ (match busy with | some p => [(3, 3, p)] | none => [])
  match firstConflict (conflicts (liveEntries k c) reads writes ++ accConflicts c lines ++ full) with
  | some (hz, kind, low) => some { code := .scoreboardTrap, detail := hz + 4 * kind + 16 * low }
  | none => none

/-! ### Ring tests (R101) -/

/-- The ring test of an operand: overrun of a producer, underrun of a consumer. -/
def ringTest (c : CoreSt) (role : Role) (o : Opnd) : Option Check8 :=
  if !o.d.ring then none
  else match c.ringOf o.d with
    | none => none
    | some r =>
      match role with
      | .producer =>
        if r.f + r.p = r.n then some { code := .ringOverrun, detail := ringDetail o.d.ctx r.f r.p 0 false } else none
      | .consumer =>
        if r.f ≤ o.d.slotOff then
          some { code := .ringUnderrun, detail := ringDetail o.d.ctx r.f r.p o.d.slotOff true }
        else none

/-- The first of several optional failures. -/
def firstOf (l : List (Option Check8)) : Option Check8 := (l.filterMap id).head?

/-- A ring context changed. -/
def CoreSt.updRing (c : CoreSt) (k : Nat) (f : Ring → Ring) : CoreSt :=
  { c with rings := updAt c.rings k fun r => r.map f }

/-- head + 1, f + 1 (R102). -/
def Ring.fill (r : Ring) : Ring := { r with head := (r.head + 1) % r.n, f := r.f + 1 }
/-- tail + 1, f - 1 (R102). -/
def Ring.drain (r : Ring) : Ring := { r with tail := (r.tail + 1) % r.n, f := r.f - 1 }

/-! ### Shared operand checks -/

/-- The detail word of ADDRESS_UNMAPPED at issue (R188). -/
def unmappedDetail (h : Nat) (later : Bool) : Nat := h + (if later then 256 else 0)

/-- The first operand whose valid bit is clear or whose handle passes 255 (R162, R187): its handle after resolution. -/
def badHandle (os : List (Nat × Opnd)) : Option Nat :=
  match os with
  | [] => none
  | (raw, o) :: r => if 256 ≤ raw then some (raw % 256) else if o.d.valid then badHandle r else some o.h

/-- Reason 0x09 of a scratchpad word (R166): format INT32, element 0 in the core's own scratchpad, aligned to 4. -/
def wordReasons (k : Ctx) (c : CoreSt) (o : Opnd) : List (Nat × Option Nat) :=
  match ownLoc k.module c.lcore o.base with
  | .spad a => if o.d.fmt = 0x14 ∧ a % 4 = 0 ∧ a + 4 ≤ 0x1000000 then [] else [(0x09, some o.h)]
  | _ => [(0x09, some o.h)]

/-- The granule of a scratchpad word. -/
def wordRange (o : Opnd) : GRange := { lo := granuleOf (gaOff o.base), hi := granuleOf (gaOff o.base) }

/-- Sequencing the checks of R76: the first failure of checks 2 and 3. -/
def checks23 (bad : Option Nat) (rs : List (Nat × Option Nat)) : Option (FCode × Nat) :=
  match bad with
  | some h => some (.badHandle, h)
  | none =>
    match lowestReason rs with
    | some (r, h) => some (.inconsistentOperands, incDetail r h)
    | none => none

end Sys2Proof.Machine
end

