-- ==== Sys2Proof/Machine/Fabric.lean ====
section
/-! DEFINITION. Where things are: dies and distances (R20, R23), routes between modules (R258), latencies (R233, R251),
landing points (R252), and the place that a global address names (R86, R222 to R224, R416), with reads and writes of
module memory. -/

namespace Sys2Proof.Machine

/-! ### Dies and latencies -/

/-- The C-die of a physical core (R23). -/
def dieOf (phys : Nat) : Nat := phys / 26

/-- The distance of two numbers. -/
def dist (a b : Nat) : Nat := (a - b) + (b - a)

/-- Manhattan distance of two C-dies in the 6 by 8 mesh (R233). -/
def hops (a b : Nat) : Nat := dist (a / 8) (b / 8) + dist (a % 8) (b % 8)

/-- The C-dies attached to an E-die (R20). -/
def attached (e : Nat) : List Nat :=
  match e with
  | 0 => List.range 8
  | 1 => (List.range 6).map fun r => 8 * r + 7
  | 2 => (List.range 8).map fun c => 40 + c
  | _ => (List.range 6).map fun r => 8 * r

/-- The first of a list with the least value of a measure. -/
def argMin (f : Nat → Nat) (l : List Nat) : Option Nat :=
  match l with
  | [] => none
  | a :: r =>
    match argMin f r with
    | none => some a
    | some b => if f b < f a then some b else some a

/-- The C-die attached to an E-die that lies nearest a die, the lowest number on a tie (R252). -/
def nearestAttached (e die : Nat) : Nat := (argMin (fun d => hops d die) (attached e)).getD 0

/-- Nanoseconds as core cycles, rounded up (R13, R233). -/
def State.ns (s : State) (n : Nat) : Nat := if s.slow then 3 * n else (33 * n + 9) / 10

/-- Signal latency between two places of one module, given as die and core (R251). -/
def State.sigLatency (s : State) (coreA coreB : Option Nat) (dieA dieB : Nat) : Nat :=
  if coreA.isSome && coreA == coreB then s.ns 20
  else if dieA = dieB then s.ns 40
  else s.ns (60 + 10 * hops dieA dieB)

/-- Signal latency over a route of h hops (R251). -/
def State.sigRemote (s : State) (h : Nat) : Nat := s.ns (600 + 350 * h)

/-! ### Routes (R256, R258) -/

/-- Whether a Kollek port of this module carries traffic. -/
def State.portOk (s : State) (p : Nat) : Bool :=
  match s.kol.ports[p]? with
  | some x => x.up && x.inRoutes
  | none => false

/-- Whether a module is in the domain map. -/
def State.inMap (s : State) (m : Nat) : Bool :=
  if s.kol.inDomain then s.kol.members.any fun x => x.num == m else m == s.kol.module

/-- The port to another member of the own group (R256). -/
def localPort (n d : Nat) : Nat := (n % 8 ^^^ d % 8) - 1

/-- The port to the same position in another group (R256). -/
def globalPort (n d : Nat) : Nat := 8 + (n / 8 ^^^ d / 8) - 1

/-- The module number that a port leads to from a module (R256); a spare port gives none. -/
def portPartner (n p : Nat) : Option Nat :=
  if p < 7 then some (n - n % 8 + (n % 8 ^^^ (p + 1)))
  else if 8 ≤ p ∧ p < 15 then some (8 * (n / 8 ^^^ (p - 7)) + n % 8)
  else none

/-- Whether the link at a port of a member is healthy (R258): one of this module by its own port, one between two others as
it has been reported. -/
def State.linkOk (s : State) (a p : Nat) : Bool :=
  if a = s.kol.module then s.portOk p
  else match portPartner a p with
    | some b => if b = s.kol.module then s.portOk p else s.kol.links.contains (a, p) || s.kol.links.contains (b, p)
    | none => false

/-- The link between two members of one group, and between the same position of two groups. -/
def State.localOk (s : State) (a b : Nat) : Bool := s.linkOk a (localPort a b)
/-- The global link between two members. -/
def State.globalOk (s : State) (a b : Nat) : Bool := s.linkOk a (globalPort a b)

/-- The route from this module to another, as its first port and its hops, in the order of R258. -/
def State.route (s : State) (d : Nat) : Option (Nat × Nat) :=
  let n := s.kol.module
  let same := n / 8 == d / 8
  let at_ (g x : Nat) : Nat := 8 * g + x
  let others (own far : Nat) : List Nat := (List.range 8).filter fun x => x != own && x != far
  let one : Option (Nat × Nat) :=
    if same then (if s.localOk n d then some (localPort n d, 1) else none)
    else if s.globalOk n d then
      (if n % 8 = d % 8 then some (globalPort n d, 1)
       else if s.localOk (at_ (d / 8) (n % 8)) d then some (globalPort n d, 2) else none)
    else none
  let two : Option (Nat × Nat) :=
    if same then
      ((others (n % 8) (d % 8)).find? fun x => s.localOk n (at_ (n / 8) x) && s.localOk (at_ (n / 8) x) d).map
        fun x => (localPort n x, 2)
    else if n % 8 != d % 8 && s.localOk n (at_ (n / 8) (d % 8)) && s.globalOk (at_ (n / 8) (d % 8)) d then
      some (localPort n (d % 8), 2)
    else none
  let three : Option (Nat × Nat) :=
    [7, 15].findSome? fun p =>
      if !s.portOk p then none
      else match (s.kol.ports[p]?).bind fun x => x.partner with
        | some m =>
          if m = d then some (p, 1)
          else if m / 8 = d / 8 then (if s.localOk m d then some (p, 2) else none)
          else if m % 8 = d % 8 && s.globalOk m d then some (p, 2) else none
        | none => none
  let four : Option (Nat × Nat) :=
    if same then
      ((others (n / 8) (n / 8)).find? fun y => s.globalOk n (at_ y (n % 8))
        && s.localOk (at_ y (n % 8)) (at_ y (d % 8)) && s.globalOk (at_ y (d % 8)) d).map fun y => (globalPort n (8 * y), 3)
    else
      ((others (n % 8) (n % 8)).find? fun x => s.localOk n (at_ (n / 8) x)
        && s.globalOk (at_ (n / 8) x) (at_ (d / 8) x) && (x == d % 8 || s.localOk (at_ (d / 8) x) d)).map
        fun x => (localPort n x, 3)
  match one, two, three, four with
  | some r, _, _, _ => some r
  | _, some r, _, _ => some r
  | _, _, some r, _ => some r
  | _, _, _, r => r

/-! ### Sending on a Kollek port (R259, R395 to R398) -/

/-- A port changed. -/
def State.updPort (s : State) (p : Nat) (f : KPort → KPort) : State :=
  { s with kol := { s.kol with ports := updAt s.kol.ports p f } }

/-- The flits of a packet: its header and 256 bytes of payload each. -/
def FlitPkt.flits (k : FlitPkt) : Nat := 1 + (k.data.length + 255) / 256

/-- The retry buffer in flits. -/
def KPort.held (x : KPort) : Nat := (x.retry.map fun r => r.pkt.flits).foldl (· + ·) 0

/-- Whether a sender holds credits for a packet (R259, R397): 64 flits kept for each of VL0 to VL2 and 3,904 that they share, 8
for VL3; and whether its retry buffer of 1,024 flits has room. An idle flit needs none (DEDUCED, log 71). -/
def KPort.canSend (x : KPort) (k : FlitPkt) : Bool :=
  let use (i : Nat) : Nat := x.spent.getD i 0 + if i = k.vl then k.flits else 0
  k.kind == 0 || (decide (x.held + k.flits ≤ 1024) &&
    if k.vl = 3 then decide (use 3 ≤ 8) else decide ((use 0 - 64) + (use 1 - 64) + (use 2 - 64) ≤ 3904))

/-- Entries of the retry buffer that its last 1,024 flits hold. -/
def trimRetry (n : Nat) (l : List RetryPkt) : List RetryPkt :=
  match l with
  | [] => []
  | r :: t => if n ≤ 1024 then r :: t else trimRetry (n - r.pkt.flits) t

/-- The header of a packet as a port sends it: numbered, with the acknowledgement of every flit received and the credits owed
(R395, R397). -/
def KPort.header (x : KPort) (h : FlitHdr) : FlitHdr :=
  { h with seqNo := x.sendSeq, acked := (x.expect + 2 ^ 32 - 1) % 2 ^ 32, credits := x.owed }

/-- A packet that leaves a port: it spends credits, and stays in the retry buffer until it is acknowledged. -/
def State.transmit (s : State) (p : Nat) (k : FlitPkt) : State :=
  let x := (s.kol.ports[p]?).getD {}
  let k := { k with hdr := x.header k.hdr }
  (s.updPort p fun x =>
    { x with
      sendSeq := (x.sendSeq + k.flits) % 2 ^ 32
      retry := trimRetry (x.held + k.flits) (x.retry ++ [{ seq := x.sendSeq, tries := 1, pkt := k }])
      spent := if k.kind = 0 then x.spent else updAt x.spent k.vl fun c => c + k.flits
      owed := [0, 0, 0, 0] }).emit (.flit p k.vl k.kind k.hdr k.data)

/-- A packet sent on a lane of a port: at once, or behind what waits on the lane for credits. -/
def State.sendFlit (s : State) (p vl kind : Nat) (hdr : FlitHdr) (data : List Byte) : State :=
  let x := (s.kol.ports[p]?).getD {}
  let k : FlitPkt := { vl := vl, kind := kind, hdr := hdr, data := data }
  if x.canSend k && (kind == 0 || !(x.queue.any fun q => q.vl == vl)) then s.transmit p k
  else s.updPort p fun x => { x with queue := x.queue ++ [k] }

/-- Packets that waited for credits, sent in the order of their lanes; a lane that waits on holds no other (R259). -/
def State.pump (s : State) (p : Nat) : State :=
  let x := (s.kol.ports[p]?).getD {}
  x.queue.foldl (fun s k => s.sendFlit p k.vl k.kind k.hdr k.data) (s.updPort p fun x => { x with queue := [] })

/-- A message flooded on VL3 over every port of the routes. -/
def State.flood (s : State) (kind : Nat) (hdr : FlitHdr) (data : List Byte) : State :=
  ((List.range 16).filter s.portOk).foldl (fun s p => s.sendFlit p 3 kind { hdr with src := s.kol.module } data) s

/-- A message of kind Solder or management to one module, over its route. -/
def State.sendMsg (s : State) (m kind srcCore : Nat) (msg : MgmtMsg) : State :=
  match s.route m with
  | some (p, _) => s.sendFlit p 3 kind { dst := m, src := s.kol.module, srcCore := srcCore, body := some msg } []
  | none => s

/-- A list of addresses as runs of consecutive ones: (first address, length). -/
def runsOf (as : List GA) : List (GA × Nat) :=
  match as with
  | [] => []
  | a :: r =>
    match runsOf r with
    | [] => [(a, 1)]
    | (b, n) :: t => if b = a + 1 then (a, n + 1) :: t else (a, 1) :: (b, n) :: t

/-! ### Places -/

/-- What a global address names, seen from this module. `unbacked` is an end of R416 that the issuing core's router
finds; `unmapped` one that its target finds (R86, R223, R224). -/
inductive Place where
  | core (lcore : Nat) (off : Nat)
  | well (phys : Nat) (off : Nat)
  | pool (die : Nat) (off : Nat)
  | stack (st : Nat) (off : Nat)
  | remote (m : Nat)
  | control (m : Nat)
  | unmapped
  | unbacked
deriving DecidableEq, Repr

/-- The N-die that a loaded region binds to a pool number, with its spare wells (R223, R294). -/
def State.poolBind (s : State) (p : Nat) : Option (Nat × List Nat) :=
  (s.regions.filter fun x => x.loaded).findSome? fun x =>
    (x.place.pools.find? fun b => b.1 == p).map fun b =>
      (b.2, ((x.place.spareWells.find? fun w => w.1 == p).map fun w => w.2).getD [])

/-- The bytes of a die pool (R222): 6 GiB. -/
def poolSize : Nat := 0x180000000
/-- The bytes of a stack (R224): 144 GiB. -/
def stackSize : Nat := 0x2400000000

/-- The place of a near-memory address of this module (R222, R223). -/
def State.nearPlace (s : State) (g : GA) : Place :=
  if bits g 44 44 = 0 then
    match s.core? (gaCore g) with
    | none => .unbacked
    | some c => if bits g 43 30 = 0 then .well c.phys (bits g 29 0) else .unmapped
  else if bits g 55 51 != 0 || bits g 43 34 != 0 then .unmapped
  else
    match s.poolBind (bits g 50 45) with
    | none => .unbacked
    | some (die, spares) =>
      let o := bits g 33 0
      if o < poolSize then .pool die o
      else match spares[(o - poolSize) / 2 ^ 30]? with
        | some phys => .well phys (o % 2 ^ 30)
        | none => .unmapped

/-- The place of any address. -/
def State.place (s : State) (g : GA) : Place :=
  if gaModule g != s.kol.module then (if s.inMap (gaModule g) then .remote (gaModule g) else .unbacked)
  else match gaSpace g with
    | 0 => match s.core? (gaCore g) with
      | none => .unbacked
      | some _ => .core (gaCore g) (gaOff g)
    | 1 => s.nearPlace g
    | 2 =>
      if gaCore g = 0 ∧ bits g 44 40 < 20 ∧ bits g 39 38 = 0 ∧ bits g 37 0 < stackSize then
        .stack (bits g 44 40) (bits g 37 0)
      else .unmapped
    | _ => .control s.kol.module

/-- The channel of a stack offset (R224). -/
def channelOf (o : Nat) : Nat := bits o 12 8 ^^^ bits o 17 13

/-- The parking unit that holds a place (R242). -/
def parkPlaceOf (p : Place) : Option ParkPlace :=
  match p with
  | .well phys o => some (.well phys (o / 2 ^ 26))
  | .pool die o => some (.pool die (o / 2 ^ 26))
  | .stack st o => some (.channel st (channelOf o))
  | _ => none

/-- Whether a unit refuses a request (R243): parked, or draining unless the request reached it before the drain. A
transfer's requests count as reaching their target in its start cycle (DESIGN CHOICE, log 12). -/
def State.isParked (s : State) (p : ParkPlace) (started : Option Nat) : Bool :=
  s.mem.parked.any fun e => e.place == p && (match e.phase with
    | .draining t => (match started with | some u => decide (t ≤ u) | none => true)
    | .parked | .reopening _ => true
    | .pending _ => false)

/-- Whether a place refuses accesses because its unit is parked. -/
def State.placeParked (s : State) (p : Place) (started : Option Nat) : Bool :=
  match parkPlaceOf p with
  | some u => s.isParked u started
  | none => false

/-- Whether the port of a place is refreshing in the present cycle (R226, R227). -/
def State.refreshing (s : State) (p : Place) : Bool :=
  let slot (d : Nat) : Bool := 16 * (d % 25) ≤ s.time.cycle % 400 && s.time.cycle % 400 < 16 * (d % 25) + 16
  match p with
  | .well ph _ => slot (dieOf ph)
  | .pool d _ => slot d
  | .stack st o =>
    let k := st * 64 + channelOf o
    s.mem.refreshing.contains k && s.mem.stackBusy.any fun b => b.1 == k && decide (s.time.cycle < b.2)
  | _ => false

/-- The key of a well byte, a pool byte and a stack byte in module memory. -/
def wellKey (phys off : Nat) : Nat := phys * 2 ^ 30 + off
/-- The key of a die-pool byte. -/
def poolKey (die off : Nat) : Nat := die * 2 ^ 33 + off
/-- The key of a stack byte. -/
def stackKey (st off : Nat) : Nat := st * 2 ^ 38 + off

/-- The 16 bytes of a ring context as a number (R415). -/
def ringWord (r : Option Ring) : Nat :=
  match r.filter fun r => r.configured with
  | none => 0
  | some r =>
    r.base % 2 ^ 24 + 2 ^ 32 * r.size + 2 ^ 64 * r.n
      + 2 ^ 72 * ((match r.queue with | some q => 1 + 2 * q | none => 0) + 8)
      + 2 ^ 80 * r.head + 2 ^ 88 * r.tail + 2 ^ 96 * r.f + 2 ^ 104 * r.p

/-- One byte of a core's windows (R86, R415). -/
def CoreSt.byteAt (c : CoreSt) (off : Nat) : Byte :=
  match windowOf off with
  | some (.spad, o) => c.spad.get o
  | some (.acc, o) => c.acc.get o
  | some (.desc, o) => c.desc.get o
  | some (.imem, o) => c.imem.get o
  | some (.tally, o) => BitVec.ofNat 8 (c.tallies.getD (o / 4) 0 / 256 ^ (o % 4))
  | some (.ring, o) => BitVec.ofNat 8 (ringWord ((c.rings0[o / 16]?).join) / 256 ^ (o % 16))
  | none => 0

/-- One byte of a place, as memory holds it. -/
def State.placeByte (s : State) (p : Place) : Byte :=
  match p with
  | .core l o => match s.core? l with | some c => c.byteAt o | none => 0
  | .well ph o => s.mem.wells.get (wellKey ph o)
  | .pool d o => s.mem.pools.get (poolKey d o)
  | .stack st o => s.mem.stackMem.get (stackKey st o)
  | _ => 0

/-- A byte of a number replaced. -/
def withByte (x k b : Nat) : Nat := x % 256 ^ k + 256 ^ k * b + 256 ^ (k + 1) * (x / 256 ^ (k + 1))

/-- One byte of a ring context written (R86, R415), in the layout that the window shows; bits that read as 0 are not held. A
pointer or a count outside its limits stands as it was written (DESIGN CHOICE, log 79). -/
def Ring.putByte (r : Option Ring) (k : Nat) (b : Byte) : Ring :=
  let r : Ring := r.getD { base := 0, n := 0, size := 0, configured := false }
  let v := b.toNat
  match k with
  | 0 | 1 | 2 => { r with base := withByte r.base k v % 2 ^ 24 }
  | 4 | 5 | 6 | 7 => { r with size := withByte r.size (k - 4) v % 2 ^ 32 }
  | 8 => { r with n := v }
  | 9 => { r with queue := if v % 2 = 1 then some (v / 2 % 4) else none, configured := decide (v / 8 % 2 = 1) }
  | 10 => { r with head := v }
  | 11 => { r with tail := v }
  | 12 => { r with f := v }
  | 13 => { r with p := v }
  | _ => r

/-- One byte of a core's windows written (R86); a tally takes the 12 bits that its window shows. -/
def CoreSt.putByte (c : CoreSt) (off : Nat) (b : Byte) : CoreSt :=
  match windowOf off with
  | some (.spad, o) => { c with spad := c.spad.set o b }
  | some (.acc, o) => { c with acc := c.acc.set o b }
  | some (.desc, o) => { c with desc := c.desc.set o b }
  | some (.imem, o) => { c with imem := c.imem.set o b }
  | some (.tally, o) =>
    { c with tallies := updAt c.tallies (o / 4) fun v =>
        match o % 4 with
        | 0 => v - v % 256 + b.toNat
        | 1 => v % 256 + 256 * (b.toNat % 16)
        | _ => v }
  | some (.ring, o) =>
    let rs := updAt c.rings (o / 16) fun r => some (Ring.putByte r (o % 16) b)
    { c with rings := rs, rings0 := rs }
  | none => c

/-- One byte of a place written. -/
def State.putByte (s : State) (p : Place) (b : Byte) : State :=
  match p with
  | .core l o => s.updCore l fun c => c.putByte o b
  | .well ph o => { s with mem := { s.mem with wells := s.mem.wells.set (wellKey ph o) b } }
  | .pool d o => { s with mem := { s.mem with pools := s.mem.pools.set (poolKey d o) b } }
  | .stack st o => { s with mem := { s.mem with stackMem := s.mem.stackMem.set (stackKey st o) b } }
  | _ => s

/-- Whether a region refuses inbound traffic because it is loading or parking (R255, R302). -/
def State.refusing (s : State) (l : Nat) : Bool :=
  match s.regionOf l with
  | some x => x.phase == .loading || x.phase == .parking
  | none => false

/-- The landing point of a byte (R252): a core, or a die. -/
inductive LandPoint where
  | core (l : Nat)
  | die (d : Nat)
deriving DecidableEq, Repr

/-- The die of a logical core. -/
def State.coreDie (s : State) (l : Nat) : Nat := match s.core? l with | some c => dieOf c.phys | none => 0

/-- The landing point of an address for an announce core (R252). -/
def State.landPoint (s : State) (issuer annCore : Nat) (g : GA) : LandPoint :=
  match s.place g with
  | .core l _ => .core l
  | .well _ _ =>
    if bits g 44 44 = 0 then .core (gaCore g)
    else .die (match s.poolBind (bits g 50 45) with | some (d, _) => d | none => 0)
  | .pool d _ => .die d
  | .stack st _ => .die (nearestAttached (st / 5) (s.coreDie annCore))
  | .unbacked => .core issuer
  | .unmapped =>
    if gaSpace g = 1 ∧ bits g 44 44 = 0 then .core (gaCore g)
    else if gaSpace g = 1 then .die (match s.poolBind (bits g 50 45) with | some (d, _) => d | none => 0)
    else .die (nearestAttached (bits g 44 40 / 5) (s.coreDie annCore))
  | .remote _ => .core issuer
  | .control _ => .core issuer

/-- The latency from a landing point to an announce core (R252). -/
def State.landLatency (s : State) (p : LandPoint) (annCore : Nat) : Nat :=
  match p with
  | .core l => if l = annCore then 0 else s.sigLatency (some l) (some annCore) (s.coreDie l) (s.coreDie annCore)
  | .die d => s.sigLatency none (some annCore) d (s.coreDie annCore)

/-! ### Path classes (R233, R234, R251) -/

/-- Where a path end lies. -/
inductive EndPlace where
  | core (l die : Nat) | die (d : Nat) | stack (st : Nat) | module (m : Nat)
deriving DecidableEq, Repr

/-- The die of an end, a stack's being the attached die nearest another (R252). -/
def EndPlace.dieNear (e : EndPlace) (other : Nat) : Nat :=
  match e with
  | .core _ d => d
  | .die d => d
  | .stack st => nearestAttached (st / 5) other
  | .module _ => other

/-- The latency of a path in cc (R233, R251, R257). -/
def State.pathLatency (s : State) (signal : Bool) (a b : EndPlace) : Nat :=
  let hopsTo (m : Nat) : Nat := if m = s.kol.module then 0 else ((s.route m).map fun r => r.2).getD 3
  let far : Nat := match a, b with
    | .module m, .module k => max (hopsTo m) (hopsTo k)
    | .module m, _ => hopsTo m
    | _, .module m => hopsTo m
    | _, _ => 0
  let da := a.dieNear (b.dieNear 0)
  let db := b.dieNear da
  let stack := match a, b with | .stack _, _ => true | _, .stack _ => true | _, _ => false
  let same := match a, b with | .core l _, .core k _ => l == k | _, _ => false
  if signal then
    if 0 < far then s.sigRemote far
    else if same then s.ns 20
    else if da = db then s.ns 40 else s.ns (60 + 10 * hops da db)
  else
    if 0 < far then s.ns (1200 * far)
    else if stack then s.ns 650
    else if same then s.ns 70
    else if da = db then s.ns 110 else s.ns (180 + 20 * hops da db)

/-- The end that an address names, as a path from a core sees it (R233, R416): an end that the core's router finds unmapped
counts as the core's own, a control-space end as well (DEDUCED, log 12). -/
def State.endOf (s : State) (l : Nat) (g : GA) : EndPlace :=
  let pool : EndPlace := match s.poolBind (bits g 50 45) with
    | some (d, _) => .die d
    | none => .core l (s.coreDie l)
  match s.place g with
  | .core c _ => .core c (s.coreDie c)
  | .remote m => .module m
  | .stack st _ => .stack st
  | .well .. | .pool .. | .unmapped =>
    if gaSpace g = 2 then .stack (bits g 44 40)
    else if bits g 44 44 = 1 then pool else .core (gaCore g) (s.coreDie (gaCore g))
  | .control _ | .unbacked => .core l (s.coreDie l)

/-- The cycles of n bytes behind the first granule on a path (R233, R234): 737 B/cc on the own core, 1.6 Tb/s to another
module, else 256 B/cc. -/
def State.rateCycles (s : State) (a b : EndPlace) (n : Nat) : Nat :=
  let up (num den : Nat) : Nat := ((n - 64) * den + num - 1) / num
  match a, b with
  | .module m, _ | _, .module m => if m = s.kol.module then up 256 1 else up 2000 (if s.slow then 30 else 33)
  | .core i _, .core j _ => if i = j then up 737 1 else up 256 1
  | _, _ => up 256 1

/-- The E-die of a Kollek port (R342). -/
def edgeOfPort (p : Nat) : Nat := p / 4

/-- The landing point of a byte that came from outside: where it lands, or the E-die that received it when it is found
unmapped (R252). -/
def State.outerPoint (s : State) (edge ann : Nat) (g : GA) : LandPoint :=
  match s.place g with
  | .unbacked | .unmapped | .control _ | .remote _ => .die (nearestAttached edge (s.coreDie ann))
  | _ => s.landPoint ann ann g

end Sys2Proof.Machine
end

