-- ==== Sys2Proof/Machine/Scalar.lean ====
section
/-! DEFINITION. The S slot: its checks (R76, R155, R166, R168, R174, R181 to R185) and its effects (R168 to R184). Every
read is of the core as it stood at the start of the cycle (R169). -/

namespace Sys2Proof.Machine

/-- The counter that an S operation claims under R186. Every S instruction with a legal encoding claims its counter, one that
a later check skips as well: the spec does not say (DESIGN CHOICE, log 78). -/
def sClaims : SOp → Option Nat
  | .cset cd _ => some cd.toNat
  | .cadd cd _ _ => some cd.toNat
  | .ccopy cd _ => some cd.toNat
  | .twaitany _ _ cd _ => some cd.toNat
  | .loop cl _ _ => some cl.toNat
  | _ => none

/-- Run step of a core (R280). -/
def Ctx.runStep (k : Ctx) (c : CoreSt) : Nat := c.step - k.region.base

/-- The number of this instance of a bundle within the run step, from 1 (R278). -/
def CoreSt.occurrence (c : CoreSt) (idx : Nat) : Nat :=
  min ((c.occur.find? fun o => o.1 == idx).map (fun o => o.2) |>.getD 0) 262142 + 1

/-- The logged index for a relaxed resolution under choice replay (R279). -/
def replayIndex (k : Ctx) (c : CoreSt) (tag : Bool) : Option (Option Nat) :=
  c.replay.map fun l =>
    (l.find? fun e => e.runStep == k.runStep c && e.bundle == c.pc && e.occurrence == c.occurrence c.pc
      && e.isTag == tag).map fun e => e.index

/-- A wait on a tally is ready (R180, R182): no condition issued earlier waits on it, and the count suffices. -/
def CoreSt.tallyReady (c : CoreSt) (t n : Nat) : Bool :=
  !(c.conds.any fun x => x.tally == t) && decide (n ≤ c.avail t)

/-- The index that a TWAITANY takes now (R183, R279): none holds; the flag says whether a choice counts, and whether
the replay diverges. -/
def resolveAny (logged : Option (Option Nat)) (ready : List Bool) : Option (Nat × Bool × Bool) :=
  let all := ready.all id
  let lowest := (List.range ready.length).find? fun j => ready.getD j false
  match logged with
  | some (some j) => if ready.getD j false then some (j, false, false) else none
  | some none => lowest.map fun j => (j, !all, !all)
  | none => lowest.map fun j => (j, !all, false)

/-- Which tallies of a TWAITANY are ready. -/
def readyTallies (c : CoreSt) (t k1 n : Nat) : List Bool := (List.range (k1 + 1)).map fun j => c.tallyReady (t + j) n

/-- Checks 1 to 7 and 8 of an S instruction that reads a scratchpad word (CSET form 1, CMP form 2). -/
def judgeWord (k : Ctx) (c : CoreSt) (h : Nat) : Verdict :=
  let o := mkOpnd k.module c .consumer h
  match checks23 (badHandle [(h, o)])
      (descReasons c o ++ ringReasons k.module c .consumer true o ++ wordReasons k c o) with
  | some (code, d) => .skip code d
  | none =>
    check8 k none (firstOf [scoreCheck k c [wordRange o] [] [] false false none, ringTest c .consumer o])

/-- The count of a LOOP (R174). -/
def loopCount (c : CoreSt) : LoopSrc → Nat
  | .imm n => n.toNat
  | .reg cs => c.counter cs.toNat

/-- Judging the S slot (R76). -/
def judgeS (k : Ctx) (c : CoreSt) (b : Bundle) : Verdict :=
  let op := b.s
  if !op.legal then .skip .illegalOp (encodeS op).toNat
  else match op with
    | .twaitany t k1 _ n =>
      if !b.relaxed then .skip .illegalOp (encodeS op).toNat
      else if (resolveAny (replayIndex k c false) (readyTallies c t.toNat k1.toNat n.toNat)).isSome then .go
      else .hold (some (1, t.toNat)) none
    | .step _ => if b.marker then .go else .skip .illegalOp (encodeS op).toNat
    | .cset _ (.word h) => judgeWord k c h.toNat
    | .cmp _ _ _ (.word h) => judgeWord k c h.toNat
    | .tsigRemote _ h _ =>
      let o := mkOpnd k.module c .consumer h.toNat
      match checks23 (badHandle [(h.toNat, o)])
          (descReasons c o
            ++ (if gaSpace o.d.base != 0 || gaOff o.d.base != 0 then [(0x16, some h.toNat)] else [])) with
      | some (code, d) => .skip code d
      | none => .go
    | .dadv h dim _ =>
      let o := mkOpnd k.module c .consumer h.toNat
      match checks23 (badHandle [(h.toNat, o)])
          (descReasons c o
            ++ (if o.d.rank ≤ dim.toNat ∨ (fmtSub o.d.fmt ∧ dim = 0) then [(0x17, some h.toNat)] else [])) with
      | some (code, d) => .skip code d
      | none => .go
    | .loop _ len1 _ =>
      let stop := c.pc + len1.toNat + 1
      if decide (16383 < stop) || (match c.loops.head? with | some e => decide (e.stop < stop) | none => false) then
        .skip .inconsistentOperands (incDetail 0x18 none)
      else if 8 ≤ c.loops.length then .skip .loopNest 0
      else .go
    | .twait t n =>
      if n = 0 || c.tallyReady t.toNat n.toNat then .go else .hold (some (0, t.toNat)) none
    | _ => .go

/-! ### Effects -/

/-- The scratchpad word of CSET and CMP (R170, R171). -/
def readWord (k : Ctx) (c : CoreSt) (h : Nat) : Nat :=
  let o := mkOpnd k.module c .consumer h
  c.spad.num (gaOff o.base) 4

/-- A relation of R155. -/
def relHolds (rel : Nat) (a b : Nat) : Bool :=
  let x := sext a 32
  let y := sext b 32
  match rel with
  | 0 => a % 2 ^ 32 == b % 2 ^ 32
  | 1 => a % 2 ^ 32 != b % 2 ^ 32
  | 2 => decide (x < y)
  | 3 => decide (x ≤ y)
  | 4 => decide (y < x)
  | 5 => decide (y ≤ x)
  | 6 => decide (a % 2 ^ 32 < b % 2 ^ 32)
  | _ => decide (b % 2 ^ 32 ≤ a % 2 ^ 32)

/-- The saturated length of SETVL forms 1 and 2 (R173). -/
def satLength (v : Nat) : Nat := (sat (sext v 32) 0 16777216).toNat

/-- VL that SETVL writes (R173). -/
def setvlValue (c : CoreSt) : SetvlSrc → Nat
  | .imm v => v.toNat
  | .reg cs => satLength (c.counter cs.toNat)
  | .bounded cs v => min (satLength (c.counter cs.toNat)) v.toNat

/-- The step of DADV (R168). -/
def dadvCount (c : CoreSt) : DadvSrc → Int
  | .reg cs => sext (c.counter cs.toNat) 32
  | .imm v => v.toInt

/-- The base that DADV writes (R168). -/
def dadvBase (d : Desc) (dim : Nat) (n : Int) : Nat := (((d.base : Int) + d.strideOf dim * n) % (2 ^ 64 : Nat)).toNat

/-- An engine entry without ranges that advances a ring tail when its source is released (R102). -/
def ringRelease (o : Opnd) (rel : Nat) : List EngineEntry :=
  if o.d.ring && o.d.release then
    [{ mclock := false, srcs := [], dst := none, relSrc := rel, relDst := 0, rings := [o.d.ctx] }]
  else []

/-- The read of a scratchpad word: the bank claim of the S position (R89, R91) and the ring release. -/
def claimWord (k : Ctx) (c0 c : CoreSt) (h : Nat) : CoreSt :=
  let o := mkOpnd k.module c0 .consumer h
  { c with
    claims := c.claims ++ [{ bank := bankOf (granuleOf (gaOff o.base)), pos := 0 }]
    engines := c.engines ++ ringRelease o (k.cycle + 1) }

/-- CSET's value (R170). -/
def csetValue (k : Ctx) (c : CoreSt) : CsetSrc → Nat
  | .imm v => toBits 32 v.toInt
  | .word h => readWord k c h.toNat

/-- CADD's value (R170). -/
def caddValue (c : CoreSt) (ca : Nat) : CaddSrc → Nat
  | .imm v => toBits 32 ((c.counter ca : Int) + v.toInt)
  | .reg cb => c.counter cb.toNat + c.counter ca

/-- CMP's second operand (R171). -/
def cmpValue (k : Ctx) (c : CoreSt) : CmpSrc → Nat
  | .imm v => toBits 32 v.toInt
  | .reg cb => c.counter cb.toNat
  | .word h => readWord k c h.toNat

/-- The module on which a transfer's destination lies (R119, R197): a stream buffer and the members of a group are the
issuing core's own module's. -/
def Xfer.dstModule (module : Nat) (x : Xfer) : Nat :=
  if x.attr.stream || x.kind != .put then module else gaModule x.dst.base

/-- The transfers ahead of a signal in its lane to a module (R254): started, with bytes still to land, destination on
that module and source on the own one. -/
def laneAhead (module target : Nat) (c : CoreSt) : List (Nat × Nat × Nat) :=
  c.queues.flatMap fun q =>
    (q.live.filter fun x => x.started.isSome && !x.complete && !x.discarded && x.dstModule module == target
      && gaModule x.src.base == module).map fun x => (x.q, x.idx, x.gen)

/-- The detail word of a fault against the sender of a bare TSIG (R255). -/
def tsigDetail (own : Bool) (t : Nat) : Nat := (if own then 0 else 3) + 4 + 8 * t + 2 ^ 31

/-- A remote TSIG sent (R181, R254, R255, R416): a target that the router finds unmapped drops it in its issue cycle. The
transfers that start in its issue cycle join those ahead of it at the cycle's end. -/
def State.sendSignal (s : State) (c : CoreSt) (bundle m l t n : Nat) : State :=
  if n = 0 then s
  else
    let own := m == s.kol.module
    if !s.inMap m || (own && (s.core? l).isNone) then
      s.raise c.lcore .addressUnmapped (some .s) bundle (tsigDetail own t)
    else
      let lat :=
        if own then s.sigLatency (some c.lcore) (some l) (dieOf c.phys) (s.coreDie l)
        else s.sigRemote (((s.route m).map fun r => r.2).getD 3)
      let g : Signal :=
        { id := s.fab.nextSig, issuer := c.lcore, module := m, lcore := l, tally := t, count := n
          issued := s.time.cycle, latency := lat, ahead := laneAhead s.kol.module m c, bundle := bundle }
      { s with fab := { s.fab with signals := s.fab.signals ++ [g], nextSig := s.fab.nextSig + 1 } }

/-- The effect of an S instruction that issues, on its own core. `c0` is the core at the start of the cycle. -/
def applySCore (k : Ctx) (c0 : CoreSt) (op : SOp) (c : CoreSt) : CoreSt :=
  match op with
  | .cset cd (.word h) => (claimWord k c0 c h.toNat).setCounter cd.toNat (csetValue k c0 (.word h))
  | .cset cd src => c.setCounter cd.toNat (csetValue k c0 src)
  | .cadd cd ca src => c.setCounter cd.toNat (caddValue c0 ca.toNat src)
  | .ccopy cd ca => c.setCounter cd.toNat (c0.counter ca.toNat)
  | .cmp pd rel ca src =>
    let c := match src with | .word h => claimWord k c0 c h.toNat | _ => c
    { c with preds := setAt c.preds pd.toNat (relHolds rel.toNat (c0.counter ca.toNat) (cmpValue k c0 src)) }
  | .setvl src => { c with vl := setvlValue c0 src }
  | .twait t n => c.takeTally t.toNat n.toNat
  | .twaitany t k1 cd n =>
    match resolveAny (replayIndex k c0 false) (readyTallies c0 t.toNat k1.toNat n.toNat) with
    | none => c
    | some (j, counts, div) =>
      let c := (c.takeTally (t.toNat + j) n.toNat).setCounter cd.toNat j
      let c := if div then { c with diverged := true } else c
      if counts then
        c.choose { runStep := k.runStep c0, bundle := c0.pc, occurrence := c0.occurrence c0.pc, index := j
                   isTag := false }
      else c
  | .dadv h dim src =>
    let d := descAt c0.desc h.toNat
    { c with desc := c.desc.write (64 * h.toNat) (leBytes 8 (dadvBase d dim.toNat (dadvCount c0 src))) }
  | .loop cl len1 src =>
    let c := c.setCounter cl.toNat 0
    let n := loopCount c0 src
    if n = 0 then c
    else { c with loops := { start := c0.pc + 1, stop := c0.pc + len1.toNat + 1, counter := cl.toNat, count := n }
                           :: c.loops }
  | .halt => { c with run := .halted }
  | _ => c

/-- The effect of an S instruction that issues, on the whole module: its own core and signals (R180, R181). -/
def applyS (k : Ctx) (c0 : CoreSt) (op : SOp) (s : State) : State :=
  let l := c0.lcore
  let s := s.updCore l (applySCore k c0 op)
  match op with
  | .tsigLocal t n => s.addTally l t.toNat n.toNat 0 (some .s) c0.pc
  | .tsigRemote t h n =>
    let d := descAt c0.desc h.toNat
    s.sendSignal c0 c0.pc (gaModule d.base) (gaCore d.base) t.toNat n.toNat
  | _ => s

/-- A TTAKE that issues (R184), behind the waits of its cycle, those of its own bundle among them (R180). -/
def State.takeNow (s : State) (l pc : Nat) (op : SOp) : State :=
  match op, s.core? l with
  | .ttake t n, some c =>
    if n.toNat ≤ c.avail t.toNat then s.updCore l fun c => c.takeTally t.toNat n.toNat
    else s.raise l .tallyUnderflow (some .s) pc (overflowDetail t.toNat (c.avail t.toNat) n.toNat 0)
  | _, _ => s

/-! ### The successor (R66, R172, R174 to R177) -/

/-- Whether a bundle stops whole at its HALT: reserved bits of the HALT word are set (R80) (DEDUCED, log 16). -/
def haltBroken (b : Bundle) : Bool :=
  match b.s with
  | .illegal w => fld w 23 5 == 1#5
  | _ => false

/-- The cycles from a bundle's issue to its successor's (R66, R80): skipped or not, a BR takes 3, its word with reserved
bits included, and a WAITC that can be read adds its count (DEDUCED, log 80). -/
def successorDelay (c0 : CoreSt) (b : Bundle) : Nat :=
  match b.s with
  | .br .. => 3
  | .illegal w => if fld w 23 5 == 0x08#5 then 3 else b.delay.toNat + 1
  | .waitc (.imm n) => b.delay.toNat + 1 + n.toNat
  | .waitc (.reg cs) => b.delay.toNat + 1 + c0.counter cs.toNat
  | _ => b.delay.toNat + 1

/-- Whether a BR is taken (R172). -/
def brTaken (c0 : CoreSt) (op : SOp) (ok : Bool) : Option Nat :=
  match op with
  | .br pp always sense target =>
    if ok && (always || c0.preds.getD pp.toNat false == sense) then some target.toNat else none
  | _ => none

/-- The back-edges of R175 at the end of a bundle, innermost first; the list of loops is the structure that shrinks. -/
def backEdges (loops : List LoopEntry) (idx : Nat) (c : CoreSt) : CoreSt × Nat :=
  match loops with
  | [] => ({ c with loops := [] }, idx + 1)
  | e :: r =>
    if e.stop = idx then
      let v := (c.counter e.counter + 1) % 2 ^ 32
      let c := c.setCounter e.counter v
      if v < e.count then ({ c with loops := e :: r }, e.start) else backEdges r idx c
    else ({ c with loops := e :: r }, idx + 1)

/-- The loops that survive a taken branch (R176): those whose body contains the target, from the first such one out. -/
def popLoops (loops : List LoopEntry) (target : Nat) : List LoopEntry :=
  match loops with
  | [] => []
  | e :: r => if e.start ≤ target ∧ target ≤ e.stop then e :: r else popLoops r target

/-- The index of the successor and the loop stack after a bundle (R174 to R176). A LOOP with count 0 jumps past its
body. -/
def advancePc (c0 : CoreSt) (b : Bundle) (ok : Bool) (c : CoreSt) : CoreSt × Nat :=
  match b.s with
  | .halt => (c, c0.pc + 1)
  | .loop _ len1 src =>
    if ok then
      if loopCount c0 src = 0 then (c, c0.pc + len1.toNat + 2)
      else (c, c0.pc + 1)
    else backEdges c.loops c0.pc c
  | op =>
    if haltBroken b then (c, c0.pc + 1)
    else match brTaken c0 op ok with
      | some t => ({ c with loops := popLoops c.loops t }, t)
      | none => backEdges c.loops c0.pc c

end Sys2Proof.Machine
end

