-- ==== Sys2Proof/Machine/Transfer.lean ====
section
/-! DEFINITION. The X slot: checks and effects of QPUT, MCAST, CHAIN, QWAIT, QWAITANY and RADV (R191 to R202). -/

namespace Sys2Proof.Machine

/-- The fields of a transfer instruction: queue, handle, tag form, tag counter, group. -/
structure XFields where
  q : Nat
  h : Nat
  tf : Nat
  cx : Nat
  grp : Option Nat
  kind : XKind
deriving DecidableEq, Repr

/-- The fields of QPUT, MCAST and CHAIN. -/
def xFields : XOp → Option XFields
  | .qput q h tf cx => some ⟨q.toNat, h.toNat, tf.toNat, cx.toNat, none, .put⟩
  | .mcast q h tf cx g => some ⟨q.toNat, h.toNat, tf.toNat, cx.toNat, some g.toNat, .mcast⟩
  | .chain q h tf cx g => some ⟨q.toNat, h.toNat, tf.toNat, cx.toNat, some g.toNat, .chain⟩
  | _ => none

/-- A word with its low k bits cleared. -/
def clearLow (w : BitVec 28) (k : Nat) : BitVec 28 := (w >>> k) <<< k

/-- The fields of a transfer instruction as its word spells them, its reserved bits set or not (R202). -/
def xRawFields : XOp → Option XFields
  | .illegal w =>
    match (fld w 24 4).toNat with
    | 0x1 => xFields (decodeXRaw (clearLow w 9))
    | 0x5 | 0x6 => xFields (decodeXRaw (clearLow w 3))
    | _ => none
  | op => xFields op

/-- The counter that an X operation writes (R186). -/
def xClaims (op : XOp) : Option Nat :=
  match op with
  | .qwaitany _ _ cd => some cd.toNat
  | op => match xFields op with
    | some f => if f.tf = 1 then some f.cx else none
    | none => none

/-- The transfers of a queue whose index is allocated (R192). -/
def Queue.held (q : Queue) : List Xfer := q.live.filter fun x => !x.freed

/-- The queue is full: the next index is not free (R192, R193). -/
def Queue.full (q : Queue) : Bool := 16 ≤ q.held.length

/-- The queue of a number. -/
def CoreSt.queue (c : CoreSt) (q : Nat) : Queue := c.queues.getD q {}

/-- A queue changed. -/
def CoreSt.updQueue (c : CoreSt) (q : Nat) (f : Queue → Queue) : CoreSt := { c with queues := updAt c.queues q f }

/-- The tag word of the transfer numbered m (R192). -/
def tagWord (q m : Nat) : Nat := m % 16 + 16 * q + 64 * (m / 16 % 1024)

/-- The invalid tag (R191). -/
def invalidTag : Nat := 0x80000000

/-- The transfer that a tag word names, when a wait on it is valid (R199). -/
def CoreSt.findTag (c : CoreSt) (t : Nat) : Option Xfer :=
  if bits t 31 16 != 0 then none
  else (c.queue (bits t 5 4)).held.find? fun x =>
    x.idx == bits t 3 0 && x.gen == bits t 15 6 && x.tagForm != 0 && !x.taken

/-- The lowest failing tag of a QWAITANY (R200). -/
def CoreSt.badTag (c : CoreSt) (cs k1 : Nat) : Option Nat :=
  ((List.range (k1 + 1)).map fun j => c.counter (cs + j)).find? fun t => (c.findTag t).isNone

/-- Which tags of a QWAITANY are complete. -/
def CoreSt.readyTags (c : CoreSt) (cs k1 : Nat) : List Bool :=
  (List.range (k1 + 1)).map fun j => match c.findTag (c.counter (cs + j)) with | some x => x.complete | none => false

/-! ### Judging -/

/-- The three operands of a transfer instruction: destination, source, tag word. -/
def xOpnds (k : Ctx) (c : CoreSt) (f : XFields) : Opnd × Opnd × Opnd :=
  let r (j : Nat) := resolveHandle c .x ((f.h + j) % 256)
  (mkOpnd k.module c .producer (r 0), mkOpnd k.module c .consumer (r 1), mkOpnd k.module c .producer (r 2))

/-- A group of the region, when it is defined (R236). -/
def Ctx.group (k : Ctx) (g : Nat) : Option (List Nat) :=
  match k.region.groups[g]? with
  | some [] => none
  | some l => some l
  | none => none

/-- The kind test of transfers on a ring destination (R101, R197). -/
def xRingKind (k : Ctx) (c : CoreSt) (f : XFields) (d : Opnd) : List (Nat × Option Nat) :=
  if !d.d.ring || (attrOf d.d.attr).stream then []
  else match c.ringOf d.d with
    | none => []
    | some r =>
      let member := match f.grp with
        | none => true
        | some g => ((k.group g).getD []).contains c.lcore && ownSpace k.module c.lcore d.base
      if r.queue = some f.q ∧ member = true then [] else [(0x08, some d.h)]

/-- The reasons of R195 and R228 for a transfer instruction. -/
def xReasons (k : Ctx) (c : CoreSt) (f : XFields) (d s w : Opnd) : List (Nat × Option Nat) :=
  let a := attrOf d.d.attr
  descReasons c d (loose := a.stream && f.kind == .put) ++ descReasons c s
    ++ (if attrBad d.d.attr then [(0x02, some d.h)] else [])
    ++ (if s.d.fmt != d.d.fmt || (!a.stream && s.d.count != d.d.count) then [(0x06, some d.h)] else [])
    ++ (if a.stream && !(gaModule s.base == k.module && gaSpace s.base == 1 && bits s.base 44 44 == 0
          && gaCore s.base == c.lcore) && f.kind == .put then [(0x0E, some s.h)] else [])
    ++ (if a.stream then [] else ringReasons k.module c .producer false d)
    ++ ringReasons k.module c .consumer false s
    ++ xRingKind k c f d
    ++ (if f.tf = 2 then descReasons c w ++ wordReasons k c w else [])

/-- A walk that certainly leaves no gap of the core's own space: its corners lie in one window, or it lies outside that
space. -/
def clearOfGaps (k : Ctx) (c : CoreSt) (h : Nat × Nat) : Bool :=
  let w := coreGA k.module c.lcore 0
  (match ownLoc k.module c.lcore h.1, ownLoc k.module c.lcore h.2 with
    | .spad _, .spad _ | .acc _, .acc _ => true
    | _, _ => false)
    || (h.1 ≤ h.2 && (h.2 < w || w + 2 ^ 45 ≤ h.1))

/-- An element of a walk that lies in the core's own space but in no window (check 7 of R76): element 0, or a later
one. -/
def ownUnmapped (k : Ctx) (c : CoreSt) (o : Opnd) : Option Nat :=
  let bad (i : Nat) : Bool := ownLoc k.module c.lcore (o.d.byteAt o.base i) == .unmapped
  if o.d.empty || clearOfGaps k c (o.d.hull o.base) then none
  else if bad 0 then some (unmappedDetail o.h false)
  else if (List.range o.d.byteCount).any bad then some (unmappedDetail o.h true)
  else none

/-- Check 8 of a transfer instruction (R195): tag word, scoreboard ranges, rings. -/
def xCheck8 (k : Ctx) (c : CoreSt) (f : XFields) (d s w : Opnd) : Option Check8 :=
  let a := attrOf d.d.attr
  let reads := (localRange k.module c.lcore s).toList
  let member := match f.grp with
    | none => true
    | some g => ((k.group g).getD []).contains c.lcore
  let dst : Option GRange :=
    if a.stream || !member then none
    else match f.kind with
      | .put => localRange k.module c.lcore d
      | _ => localRange k.module c.lcore { d with base := coreGA k.module c.lcore (gaOff d.base) }
  let writes := dst.toList ++ (if f.tf = 2 then [wordRange w] else [])
  firstOf [scoreCheck k c reads writes [] false false none,
    (if a.stream then none else ringTest c .producer d), ringTest c .consumer s]

/-- Judging a transfer instruction (R195, R197). -/
def judgePut (k : Ctx) (c : CoreSt) (f : XFields) : Verdict :=
  let (d, s, w) := xOpnds k c f
  let named := [(f.h, d), (f.h + 1, s)] ++ (if f.tf = 2 then [(f.h + 2, w)] else [])
  match badHandle named with
  | some h => .skip .badHandle h
  | none =>
    if (match f.grp with | some g => (k.group g).isNone | none => false) then
      .skip .groupInvalid (f.grp.getD 0)
    else match checks23 none (xReasons k c f d s w) with
      | some (code, x) => .skip code x
      | none =>
        match (if (attrOf d.d.attr).stream || f.kind != .put then none else ownUnmapped k c d), ownUnmapped k c s with
        | some x, _ => .skip .addressUnmapped x
        | none, some x => .skip .addressUnmapped x
        | none, none =>
          check8 k (if (c.queue f.q).full then some (4, f.q) else none) (xCheck8 k c f d s w)

/-- Judging RADV (R201). -/
def judgeRadv (k : Ctx) (c : CoreSt) (tail : Bool) (ctx : Nat) : Verdict :=
  match c.ring? ctx with
  | none => .skip .inconsistentOperands (incDetail 0x08 none)
  | some r =>
    if tail then
      check8 k none (if r.f = 0 then some { code := .ringUnderrun, detail := ringDetail ctx r.f r.p 0 true } else none)
    else if r.queue.isSome then .skip .inconsistentOperands (incDetail 0x08 none)
    else
      check8 k none
        (if r.f = r.n then some { code := .ringOverrun, detail := ringDetail ctx r.f r.p 0 false } else none)

/-- Judging the X slot (R76); the slot conflict of check 4 comes after check 3. -/
def judgeX (k : Ctx) (c : CoreSt) (b : Bundle) : Verdict :=
  let op := b.x
  if !op.legal then .skip .illegalOp (encodeX op).toNat
  else
    let conflict : Option Nat := match xClaims op, sClaims b.s with
      | some x, some y => if b.s.legal && x == y then some x else none
      | _, _ => none
    let own : Verdict := match op with
      | .nop => .go
      | .qwait cs =>
        match c.findTag (c.counter cs.toNat) with
        | none => .skip .tagInvalid (c.counter cs.toNat)
        | some x => if x.complete then .go else .hold (some (2, c.counter cs.toNat % 65536)) none
      | .qwaitany cs k1 _ =>
        if !b.relaxed then .skip .illegalOp (encodeX op).toNat
        else match c.badTag cs.toNat k1.toNat with
          | some t => .skip .tagInvalid t
          | none =>
            if (resolveAny (replayIndex k c true) (c.readyTags cs.toNat k1.toNat)).isSome then .go
            else .hold (some (3, c.counter cs.toNat % 65536)) none
      | .radv tail ctx => judgeRadv k c tail ctx.toNat
      | op => match xFields op with
        | some f => judgePut k c f
        | none => .go
    match own, conflict with
    | .skip .illegalOp d, _ => .skip .illegalOp d
    | .skip .badHandle d, _ => .skip .badHandle d
    | .skip .inconsistentOperands d, _ => .skip .inconsistentOperands d
    | .skip .groupInvalid d, _ => .skip .groupInvalid d
    | _, some x => .skip .slotConflict x
    | v, none => v

/-! ### Effects -/

/-- Indices freed from the oldest on (R193): complete, and without a tag or with its tag taken. A transfer whose
announce is still to apply stays listed. -/
def freeIndices (l : List Xfer) : List Xfer :=
  match l with
  | [] => []
  | x :: r =>
    if x.freed then x :: freeIndices r
    else if x.complete && (x.tagForm == 0 || x.taken) then { x with freed := true } :: freeIndices r
    else x :: r

/-- Transfers that nothing can name any more are dropped. -/
def dropDone (l : List Xfer) : List Xfer :=
  l.filter fun x => !x.freed || (x.attr.annEn && x.deliveries.any fun d => !d.announced && !d.withdrawn)

/-- R193 on one queue. -/
def Queue.free (q : Queue) : Queue := { q with live := dropDone (freeIndices q.live) }

/-- A tag marked taken (R199). -/
def CoreSt.takeTag (c : CoreSt) (t : Nat) : CoreSt :=
  c.updQueue (bits t 5 4) fun q =>
    let mark (x : Xfer) : Xfer :=
      if !x.freed && x.idx == bits t 3 0 && x.gen == bits t 15 6 then { x with taken := true } else x
    Queue.free { q with live := q.live.map mark }

/-- The deliveries of a transfer: one for a QPUT, one per member of a group in chain order. -/
def deliveriesOf (c : CoreSt) (f : XFields) (group : List Nat) (d : Opnd) : List Delivery :=
  match f.kind with
  | .put => [{ member := if (attrOf d.d.attr).stream then c.lcore else gaCore d.base }]
  | _ => group.map fun m => { member := m }

/-- The transfer that an instruction enters (R192, R195, R228). -/
def newXfer (k : Ctx) (c0 : CoreSt) (f : XFields) : Xfer :=
  let (d, s, _) := xOpnds k c0 f
  let m := (c0.queue f.q).count
  let a := attrOf d.d.attr
  let group := ((f.grp.bind fun g => k.group g)).getD []
  { q := f.q, idx := m % 16, gen := m / 16 % 1024, tagForm := f.tf, kind := f.kind, grp := f.grp, src := s, dst := d
    attr := a, bytes := s.d.byteCount, bundle := c0.pc, step := c0.step, accepted := k.cycle
    condServed := !a.startEn, chainMode := f.kind == .chain
    srcDone := (localRange k.module c0.lcore s).isNone
    deliveries := deliveriesOf c0 f group d }

/-- The QUEUE ring that a destination names (R102). -/
def xferRing (f : XFields) (d : Opnd) : Option Nat :=
  let _ := f
  if d.d.ring && !(attrOf d.d.attr).stream then some d.d.ctx else none

/-- The transfer entered at the tail of its queue, the ring's p, the start condition and a counter tag (R195). -/
def enterXfer (k : Ctx) (c0 : CoreSt) (f : XFields) (c : CoreSt) : CoreSt :=
  let (d, _, _) := xOpnds k c0 f
  let x := newXfer k c0 f
  let m := (c0.queue f.q).count
  let c := c.updQueue f.q fun q => { count := m + 1, live := q.live ++ [x] }
  let c := if x.attr.startEn then
      { c with conds := c.conds ++ [{ q := f.q, idx := x.idx, tally := x.attr.startTally, count := x.attr.startCount }] }
    else c
  let c := match xferRing f d with
    | some r => c.updRing r fun r => { r with p := r.p + 1 }
    | none => c
  if f.tf = 1 then c.setCounter f.cx (tagWord f.q m) else c

/-- The X access of R89: a tag word written in cycle 0, lost when the S position claims its bank (R91). -/
def writeTag (c0 : CoreSt) (w : Opnd) (tag : Nat) (s : State) : State :=
  let bank := bankOf (granuleOf (gaOff w.base))
  match s.core? c0.lcore with
  | none => s
  | some c =>
    if c.claims.any fun q => q.bank == bank then
      s.raise c0.lcore .bankConflict (some .x) c0.pc (bankDetail bank 0 0 1 0)
    else s.updCore c0.lcore fun c =>
      { c with spad := c.spad.write (gaOff w.base) (leBytes 4 tag)
               claims := c.claims ++ [{ bank := bank, pos := 1 }] }

/-- The effect of an X instruction that issues on its own core, but for the tag word of form 2. -/
def applyXCore (k : Ctx) (c0 : CoreSt) (op : XOp) (c : CoreSt) : CoreSt :=
  match op with
  | .qwait cs => c.takeTag (c0.counter cs.toNat)
  | .qwaitany cs k1 cd =>
    match resolveAny (replayIndex k c0 true) (c0.readyTags cs.toNat k1.toNat) with
    | none => c
    | some (j, counts, div) =>
      let c := (c.takeTag (c0.counter (cs.toNat + j))).setCounter cd.toNat j
      let c := if div then { c with diverged := true } else c
      if counts then
        c.choose { runStep := k.runStep c0, bundle := c0.pc, occurrence := c0.occurrence c0.pc, index := j
                   isTag := true }
      else c
  | .radv tail ctx => c.updRing ctx.toNat fun r => if tail then r.drain else r.fill
  | op => match xFields op with
    | some f => enterXfer k c0 f c
    | none => c

/-- The effect of an X instruction that issues. -/
def applyX (k : Ctx) (c0 : CoreSt) (op : XOp) (s : State) : State :=
  let s := s.updCore c0.lcore (applyXCore k c0 op)
  match xFields op with
  | some f =>
    if f.tf = 2 then writeTag c0 (xOpnds k c0 f).2.2 (tagWord f.q (c0.queue f.q).count) s else s
  | none => s

/-- Whether D h+2 of a form-2 instruction resolved and passed its checks (R202). -/
def tagWordOk (k : Ctx) (c : CoreSt) (f : XFields) (w : Opnd) : Bool :=
  decide (f.h + 2 < 256) && w.d.valid && (descReasons c w ++ wordReasons k c w).isEmpty

/-- What a skipped transfer instruction writes (R202): the invalid tag, where its form allows. -/
def skipX (k : Ctx) (c0 : CoreSt) (op : XOp) (code : FCode) (s : State) : State :=
  if code == .slotConflict then s
  else match xRawFields op with
    | none => s
    | some f =>
      if f.tf = 1 then s.updCore c0.lcore fun c => c.setCounter f.cx invalidTag
      else if f.tf = 2 ∧ code ≠ .illegalOp then
        let w := (xOpnds k c0 f).2.2
        if tagWordOk k c0 f w then writeTag c0 w invalidTag s else s
      else s

end Sys2Proof.Machine
end

