-- ==== Sys2Proof/Machine/Array.lean ====
section
/-! DEFINITION. The M slot and the matrix array (R46 to R52, R105 to R127, R203 to R213): checks at issue, effects at
issue, and what the array does in one cycle. Cycles of the M unit are counted on the due clock (R123, R124). -/

namespace Sys2Proof.Machine

/-! ### Operand pairs (R46, R49, R50) -/

/-- How the array takes a pair of formats (R46). -/
inductive Pair where
  | refused
  | real (two int : Bool) (pa pb : Nat)
  | cplx (pieces : Nat)
deriving DecidableEq, Repr

/-- Pieces of a format (R46). -/
def piecesOf (f : Nat) : Nat := match f with | 0x00 => 3 | 0x01 => 2 | 0x13 => 2 | _ => 1

/-- A 4-bit or 6-bit float, block-scaled or not. -/
def narrowFloat (f : Nat) : Bool :=
  f == 0x05 || f == 0x06 || f == 0x07 || f == 0x0A || f == 0x0B || f == 0x0C

/-- A real float that a cell takes; MXINT8 counts as one, E8M0 is none. -/
def arrayFloat (f : Nat) : Bool := f ≤ 0x0D

/-- An integer that a cell takes. -/
def arrayInt (f : Nat) : Bool := 0x10 ≤ f && f ≤ 0x13

/-- The pair table of R46. -/
def pairOf (a b : Nat) : Pair :=
  if fmtComplex a || fmtComplex b then (if a = b then .cplx (piecesOf (fmtPart a)) else .refused)
  else if arrayFloat a && arrayFloat b then
    .real (narrowFloat a && narrowFloat b) false (piecesOf a) (piecesOf b)
  else if arrayInt a && arrayInt b then .real (a == 0x10 && b == 0x10) true (piecesOf a) (piecesOf b)
  else .refused

/-- The stand-in of a tile of format none (R203). -/
def standIn (stream : Nat) : Nat :=
  if fmtComplex stream then stream
  else if narrowFloat stream then 0x07
  else if stream = 0x10 then 0x10
  else if arrayFloat stream then 0x03
  else 0x11

/-- The pair that a pass runs against a tile; against a stand-in every piece count of the tile is one (R203). -/
def Tile.pair (t : Tile) (stream : Nat) : Pair :=
  match t.fmt with
  | some f => pairOf stream f
  | none => pairOf stream (standIn stream)

/-- The pass orders of R50. -/
def passOrder (pieces : Nat) : List (Nat × Nat) :=
  match pieces with
  | 3 => [(2, 2), (1, 2), (2, 1), (0, 2), (1, 1), (2, 0), (0, 1), (1, 0), (0, 0)]
  | 2 => [(1, 1), (0, 1), (1, 0), (0, 0)]
  | _ => [(0, 0)]

/-- The sub-passes of MPASSC: the outer order of R52, then the pass order of R50. -/
def subPasses (pieces : Nat) : List (Nat × Nat × Nat) :=
  [1, 2, 3, 4].flatMap fun o => (passOrder pieces).map fun p => (o, p.1, p.2)

/-- Piece k of a float value (R49): the value itself for a one-piece format. -/
def floatPiece (f : Nat) (k : Nat) (v : Val) : Val :=
  match v with
  | .fin n m e =>
    let width := match f with | 0x00 => 23 | 0x01 => 10 | _ => 0
    if width = 0 then v
    else
      let low := 8 * (piecesOf f - 1 - k)
      .fin n (m / 2 ^ low % (if k = 0 then 2 ^ 12 else 256)) (e + low)
  | v => v

/-- Piece k of an integer (R49). -/
def intPiece (f : Nat) (k : Nat) (x : Int) : Int :=
  if f = 0x13 then (if k = 0 then x / 256 else x % 256) else x

/-- Whether a class is infinity or NaN. -/
def Val.special (v : Val) : Bool := !v.isFin

/-- The product of a float pass (i, j) (R47, R49, R209). -/
def floatProduct (fa fb : Nat) (i j : Nat) (a b : Val) : Val :=
  if a.special || b.special then (if i = 0 ∧ j = 0 then a.mul b else .fin false 0 0)
  else (floatPiece fa i a).mul (floatPiece fb j b)

/-! ### Tiles and stream records -/

/-- Cells along the reduction (R110). -/
def Shape.k : Shape → Nat
  | .sq64 => 64 | .wd256 => 256 | .wd1024 => 1024
/-- Outputs per unit (R110). -/
def Shape.w : Shape → Nat
  | .sq64 => 64 | .wd256 => 16 | .wd1024 => 4
/-- Latency of a unit (R74). -/
def Shape.lat (s : Shape) : Nat := match s with | .sq64 => 128 | .wd256 => 272 | .wd1024 => 1028
/-- Occupancy of an MSHAPE that leaves a shape (R74, R117). -/
def Shape.leave (s : Shape) : Nat := s.lat + 16

/-- The shape that MSHAPE's field names (R204). -/
def shapeOf (n : Nat) : Shape := match n with | 0 => .sq64 | 1 => .wd256 | _ => .wd1024

/-- Word k of a list of bytes packed in words of w bits from the lowest bit up. -/
def packedWord (bs : List Byte) (w k : Nat) : Nat :=
  let p := k * w
  leVal ((bs.drop (p / 8)).take ((p % 8 + w + 7) / 8)) / 2 ^ (p % 8) % 2 ^ w

/-- Words of w bits packed into bytes. -/
def packWords (w : Nat) (xs : List Nat) : List Byte :=
  leBytes ((xs.length * w + 7) / 8) (xs.foldr (fun x acc => x % 2 ^ w + 2 ^ w * acc) 0)

/-- Stationary element j of cell k (along the reduction) of output c: its bits and its scale byte. -/
def Tile.elem (t : Tile) (sh : Shape) (e w c k j : Nat) : Nat × Nat :=
  let (r, pos) := match sh with
    | .sq64 => (k, c * e + j)
    | _ => let i := c * sh.k + k; (i / 64, (i % 64) * e + j)
  (packedWord (t.rows.getD r []) w pos, ((t.scales.getD r []).getD pos 0).toNat)

/-- The walk element that stationary position k of shadow row r takes (R205). -/
def tileIndex (sh : Shape) (e r k : Nat) : Nat :=
  match sh with
  | .sq64 => (r * e + k % e) * 64 + k / e
  | _ =>
    let i := 64 * r + k / e
    (i / sh.k) * (sh.k * e) + (i % sh.k) * e + k % e

/-- The positions of a shadow row that part q covers (R113). -/
def partElems (w e q : Nat) : List Nat :=
  (List.range (64 * e)).filter fun k => 1024 * q ≤ k * w && k * w < 1024 * (q + 1)

/-- Bytes of one record (R120). -/
def recordBytes (sh : Shape) (e f : Nat) : Nat :=
  sh.k * e * fmtBits f / 8 + (if fmtMX f then sh.k * e / 32 else 0)

/-- The elements of a record, each with its scale byte. -/
def recordElems (sh : Shape) (e f : Nat) (bs : List Byte) : List (Nat × Nat) :=
  let w := fmtBits f
  let scales := bs.drop (sh.k * e * w / 8)
  (List.range (sh.k * e)).map fun k =>
    (packedWord bs w k, if fmtMX f then (scales.getD (k / 32) 0).toNat else 0)

/-! ### One unit (R47, R48, R111, R209, R210) -/

/-- The term of one cell: streaming elements and stationary elements of the cell, in a pass (i, j). -/
def cellTerm (fa fb i j : Nat) (us bs : List (Nat × Nat)) : Val :=
  match (us.zip bs).map fun p => floatProduct fa fb i j (decodeElem fa p.1.1 p.1.2) (decodeElem fb p.2.1 p.2.2) with
  | [] => .fin false 0 0
  | x :: r => r.foldl Val.add x

/-- An integer element. -/
def intElem (f x : Nat) : Int := if f = 0x12 then ((x % 256 : Nat) : Int) else sext x (fmtBits f)

/-- The integer term of one cell. -/
def cellInt (fa fb i j : Nat) (us bs : List (Nat × Nat)) : Int :=
  ((us.zip bs).map fun p => intPiece fa i (intElem fa p.1.1) * intPiece fb j (intElem fb p.2.1)).foldl (· + ·) 0

/-- The float reduction of R48, as FP32 bits. -/
def reduceFloat (ps : List Val) : Nat :=
  match ps with
  | [] => 0
  | p :: r => fp32.encode true (r.foldl (fun s x => r32 (s.add x)) (r32 p))

/-- The integer reduction of R48. -/
def reduceInt (ps : List Int) : Nat :=
  let cl (x : Int) : Int := sat x (-2147483648) 2147483647
  match ps with
  | [] => 0
  | p :: r => toBits 32 (r.foldl (fun s x => cl (s + x)) (cl p))

/-- The part of a complex element: 0 real, 1 imaginary (R131). -/
def cplxPart (f x part : Nat) : Nat :=
  let w := fmtBits f / 2
  x / 2 ^ (w * part) % 2 ^ w

/-- The term of a complex sub-pass (R52). -/
def cplxTerm (f o i j : Nat) (a b : Nat) : Val :=
  let p := fmtPart f
  let va := decodeElem p (cplxPart f a (if o = 2 ∨ o = 4 then 1 else 0)) 0
  let vb := decodeElem p (cplxPart f b (if o = 2 ∨ o = 3 then 1 else 0)) 0
  floatProduct p p i j (if o = 2 then va.neg else va) vb

/-- Whether a unit's active tile still fits the pass: its pair and its mode (DESIGN CHOICE, log 20). -/
def tileFits (job : PassJob) (t : Tile) : Bool :=
  match job.kind, t.pair job.src.d.fmt with
  | .complex, .cplx _ => true
  | .complex, _ => false
  | _, .real two _ pa pb =>
    (two == (job.e == 2)) && (match job.kind with
      | .piece i j => decide (i < pa) && decide (j < pb)
      | _ => pa == 1 && pb == 1)
  | _, _ => false

/-- The W words that a unit writes. `sub` is the sub-pass of MPASSC. -/
def unitValues (lcore : Nat) (job : PassJob) (t : Tile) (us : List (Nat × Nat)) (sub : Nat) : List Nat :=
  let sh := job.shape
  let fa := job.src.d.fmt
  let fb := match t.fmt with | some f => f | none => standIn fa
  let w := fmtBits fb
  if !tileFits job t then
    (List.range sh.w).map fun c => Config.freeSum lcore job.runStep job.bundle job.occur job.next c % 2 ^ 32
  else
    (List.range sh.w).map fun c =>
      let cell (k : Nat) : List (Nat × Nat) :=
        match t.fmt with
        | some _ => (List.range job.e).map fun j => t.elem sh job.e w c k j
        | none => List.replicate job.e (0, 127)
      let strm (k : Nat) : List (Nat × Nat) := (us.drop (job.e * k)).take job.e
      match job.kind with
      | .complex =>
        let (o, i, j) := (subPasses (piecesOf (fmtPart fa))).getD sub (1, 0, 0)
        reduceFloat ((List.range sh.k).map fun k =>
          cplxTerm fa o i j ((us.getD k (0, 0)).1) ((cell k).headD (0, 0)).1)
      | kind =>
        let (i, j) := match kind with | .piece i j => (i, j) | _ => (0, 0)
        if arrayInt fa then reduceInt ((List.range sh.k).map fun k => cellInt fa fb i j (strm k) (cell k))
        else reduceFloat ((List.range sh.k).map fun k => cellTerm fa fb i j (strm k) (cell k))

/-- The new word of an accumulator entry (R48). -/
def accWord (accum isInt : Bool) (old v : Nat) : Nat :=
  if !accum then v
  else if isInt then toBits 32 (sat (sext old 32 + sext v 32) (-2147483648) 2147483647)
  else fp32.encode true (r32 ((fp32.decode old).add (fp32.decode v)))

/-- An entry of the accumulator file. -/
def accGet (m : Mem) (a : Nat) : Nat := m.num (4 * a) 4
/-- An entry written. -/
def accSet (m : Mem) (a v : Nat) : Mem := m.write (4 * a) (leBytes 4 v)

/-- The writes of one unit. -/
def applyAccWrite (m : Mem) (w : AccWrite) : Mem :=
  (w.values.foldl
    (fun (p : Mem × Nat) v => (accSet p.1 p.2 (accWord w.accum w.isInt (accGet p.1 p.2) v), p.2 + 1))
    (m, w.entry)).1

/-! ### Checks at issue -/

/-- The active tile for a unit due in a due cycle (R116): the newest one whose stamp is not later. -/
def CoreSt.tileAt (c : CoreSt) (due : Nat) : Tile :=
  match c.actives.find? fun p => p.1 ≤ due with
  | some p => p.2
  | none => {}

/-- First and last byte addresses of walk elements, read as words of the walk (R205, R207). -/
def Opnd.wordEnds (o : Opnd) (idx : List Nat) : List Nat :=
  idx.flatMap fun i =>
    let p := o.d.elemAt o.base i
    [p.1, p.1 + (p.2 + fmtBits o.d.fmt + 7) / 8 - 1]

/-- The scale addresses of walk elements of an MX operand. -/
def Opnd.wordScales (o : Opnd) (idx : List Nat) : List Nat := (idx.filterMap o.scaleAt).dedup

/-- The granules that a unit reads in one cycle, scales included, each with its operand number (R92): a scale in a
granule of the elements is part of the same access. -/
def Opnd.unitAccess (o : Opnd) (idx : List Nat) : List (Nat × Nat) :=
  let es := granules (o.wordEnds idx)
  let ss := (granules (o.wordScales idx)).filter fun g => !es.contains g
  es.map (fun g => (1, g)) ++ ss.map fun g => (5, g)

/-- The addresses of a list that lie in the core's own scratchpad, which alone has granules and banks (R88). -/
def spadOnly (k : Ctx) (c : CoreSt) (as : List Nat) : List Nat :=
  as.filter fun a => match ownLoc k.module c.lcore a with
    | .spad _ => true
    | _ => false

/-- The granules of the scratchpad that a unit would read, scales included. -/
def Opnd.unitJudged (k : Ctx) (c : CoreSt) (o : Opnd) (idx : List Nat) : List (Nat × Nat) :=
  let es := granules (spadOnly k c (o.wordEnds idx))
  let ss := (granules (spadOnly k c (o.wordScales idx))).filter fun g => !es.contains g
  es.map (fun g => (1, g)) ++ ss.map fun g => (5, g)

/-- R90, R112: a unit within two granules of two banks. -/
def unitBad (acc : List (Nat × Nat)) : Bool :=
  2 < acc.length || bankTwice (acc.map fun a => a.2)

/-- Reason 0x15 and the address check of a scratchpad operand of listed elements (R87): an element in a wrong place,
and an element in no window with whether it is a later one. -/
def spadPlaces (k : Ctx) (c : CoreSt) (as : List Nat) : Bool × Option Bool :=
  let locs := as.map fun a => ownLoc k.module c.lcore a
  let wrong := locs.any fun l => match l with | .acc _ | .otherWindow | .elsewhere => true | _ => false
  (wrong, (locs.findIdx? fun l => l == .unmapped).map fun i => i != 0)

/-- Elements of the walk an M source covers. -/
def walkAll (o : Opnd) : List Nat := List.range o.d.count

/-- The shadow-row elements that an MWLOAD reads, as walk indices. -/
def loadIdx (sh : Shape) (o : Opnd) (q : Nat) (two : Bool) (r : Nat) : List Nat :=
  let e := if two then 2 else 1
  (partElems (fmtBits o.d.fmt) e q).map fun k => tileIndex sh e r k

/-- All elements that an MWLOAD reads. -/
def loadAll (sh : Shape) (o : Opnd) (q : Nat) (two : Bool) : List Nat :=
  (List.range 64).flatMap fun r => loadIdx sh o q two r

/-- The range of an M source of listed elements, scales included (R95). -/
def Opnd.wordRange (o : Opnd) (idx : List Nat) : Option GRange :=
  granuleHull ((o.wordEnds idx ++ o.wordScales idx).map fun a => granuleOf (gaOff a))

/-- The extents of a stationary operand (R205). -/
def loadExtents (sh : Shape) (two : Bool) : Nat × Nat :=
  let e := if two then 2 else 1
  match sh with
  | .sq64 => (64, 64 * e)
  | .wd256 => (256 * e, 16)
  | .wd1024 => (1024 * e, 4)

/-- Judging MWLOAD (R113, R205). -/
def judgeLoad (k : Ctx) (c : CoreSt) (h q : Nat) (two : Bool) : Verdict :=
  let o := mkOpnd k.module c .consumer (resolveHandle c .m h)
  let f := o.d.fmt
  let ext := loadExtents c.shape two
  let base := descReasons c o ++ ringReasons k.module c .consumer true o
    ++ (if two && !(narrowFloat f || f == 0x10) then [(0x0B, some o.h)] else [])
    ++ (if o.d.rank ≠ 2 ∨ o.d.extent 0 ≠ ext.1 ∨ o.d.extent 1 ≠ ext.2 then [(0x0A, some o.h)] else [])
    ++ (if fmtOk f && (64 * (if two then 2 else 1) * fmtBits f / 8 ≤ 128 * q) then [(0x0D, some o.h)] else [])
  let idx := loadAll c.shape o q two
  let shaped := base.isEmpty && o.d.valid
  let places := if shaped then spadPlaces k c (o.wordEnds idx ++ o.wordScales idx) else (false, none)
  let rs := base
    ++ (if o.d.valid && base.all (fun r => 0x08 ≤ r.1 && r.1 != 0x0A)
          && (List.range 64).any (fun r => unitBad (o.unitJudged k c (loadIdx c.shape o q two r))) then
          [(0x07, some o.h)] else [])
    ++ (if places.1 then [(0x15, some o.h)] else [])
  match checks23 (badHandle [(h, o)]) rs with
  | some (code, d) => .skip code d
  | none =>
    match places.2 with
    | some later => .skip .addressUnmapped (unmappedDetail o.h later)
    | none =>
      let busy := if c.dueNow k.cycle < c.shadowFree then some 1 else none
      check8 k none (firstOf [scoreCheck k c (o.wordRange idx).toList [] [] true false busy, ringTest c .consumer o])

/-- The fields of a pass. -/
structure PassFields where
  h : Nat
  accum : Bool
  keep : Bool
  kind : PassKind
deriving DecidableEq, Repr

/-- The fields of MPASS, MPASSW and MPASSC. -/
def passFields : MOp → Option PassFields
  | .mpass h a k => some ⟨h.toNat, a, k, .one⟩
  | .mpassw h a k i j => some ⟨h.toNat, a, k, .piece i.toNat j.toNat⟩
  | .mpassc h a k => some ⟨h.toNat, a, k, .complex⟩
  | _ => none

/-- The operands of a pass: area, streaming source, imaginary area. -/
def passOpnds (k : Ctx) (c : CoreSt) (f : PassFields) : Opnd × Opnd × Opnd :=
  let r (j : Nat) := resolveHandle c .m ((f.h + j) % 256)
  (mkOpnd k.module c .producer (r 0), mkOpnd k.module c .consumer (r 1), mkOpnd k.module c .producer (r 2))

/-- The first accumulator entry of an area (R207). -/
def areaEntry (o : Opnd) : Nat := (gaOff o.base - 0x1000000) / 4

/-- Reason 0x09 of an accumulator area: format, window, alignment (R105, R166, R207). -/
def areaBad (k : Ctx) (c : CoreSt) (fmt w : Nat) (o : Opnd) : Bool :=
  match ownLoc k.module c.lcore o.base with
  | .acc a => o.d.fmt != fmt || a % 4 != 0 || a / 4 % w != 0 || o.d.ring
  | _ => true

/-- Sub-passes of a pass (R74, R210). -/
def passCount (kind : PassKind) (p : Pair) : Nat :=
  match kind, p with
  | .complex, .cplx n => 4 * n * n
  | _, _ => 1

/-- Elements per cell of a pass: 2 in two-pair mode (R108, R207). -/
def passE (t : Tile) (p : Pair) : Nat :=
  match t.fmt, p with
  | some _, _ => if t.two then 2 else 1
  | none, .real true _ _ _ => 2
  | none, _ => 1

/-- The accumulator format of a pair. -/
def pairAcc : Pair → Nat
  | .real _ true _ _ => 0x14
  | _ => 0x00

/-- The accumulator lines of an area (R106). -/
def areaLines (a w r : Nat) : Nat × Nat := (a / 64, (a + w * r - 1) / 64)

/-- The reasons of a pass (R105, R112, R117, R122, R203, R207 to R210). -/
def passReasons (k : Ctx) (c : CoreSt) (f : PassFields) (d s im : Opnd) : List (Nat × Option Nat) :=
  let sq := c.shape == .sq64
  let t := c.tileAt (c.dueNow k.cycle)
  let p := t.pair s.d.fmt
  let e := passE t p
  let r := s.d.extent 1
  let cplx := f.kind == .complex
  let areas := if cplx then [d, im] else [d]
  (areas.flatMap fun a => descReasons c a)
    ++ descReasons c s (loose := !sq) (bare := !sq)
    ++ (match f.kind, p with
        | _, .refused => [(0x05, some s.h)]
        | .complex, .cplx _ => []
        | .complex, _ => [(0x05, some s.h)]
        | _, .cplx _ => [(0x05, some s.h)]
        | .one, .real _ _ pa pb => if pa * pb = 1 then [] else [(0x05, some s.h)]
        | .piece i j, .real _ _ pa pb => if i < pa ∧ j < pb then [] else [(0x0D, some s.h)])
    ++ (if sq then ringReasons k.module c .consumer true s
        else if s.d.ring then [(0x08, some s.h)] else [])
    ++ (if p == .refused then [] else
          areas.flatMap fun a => if areaBad k c (pairAcc p) c.shape.w a then [(0x09, some a.h)] else [])
    ++ (if s.d.rank ≠ 2 ∨ s.d.extent 0 ≠ c.shape.k * e ∨ r = 0 ∨ 4096 < r then [(0x0A, some s.h)] else [])
    ++ (match t.fmt, p with
        | some _, .real two _ _ _ => if two == t.two then [] else [(0x0B, some s.h)]
        | some _, .cplx _ => if t.two then [(0x0B, some s.h)] else []
        | _, _ => [])
    ++ (if f.keep && (sq || 262144 < r * recordBytes c.shape e s.d.fmt) then [(0x0C, some s.h)] else [])
    ++ (if cplx && sq then [(0x0F, none)] else [])

/-- The walk indices of row g of a streaming source. -/
def rowIdx (o : Opnd) (g : Nat) : List Nat := (List.range (o.d.extent 0)).map fun j => g * o.d.extent 0 + j

/-- Judging a pass. -/
def judgePass (k : Ctx) (c : CoreSt) (f : PassFields) : Verdict :=
  let (d, s, im) := passOpnds k c f
  let sq := c.shape == .sq64
  let cplx := f.kind == .complex
  let named := [(f.h, d), (f.h + 1, s)] ++ (if cplx then [(f.h + 2, im)] else [])
  let base := passReasons k c f d s im
  let r := s.d.extent 1
  let shaped := base.isEmpty && sq && s.d.valid
  let idx := walkAll s
  let places := if shaped then spadPlaces k c (s.wordEnds idx ++ s.wordScales idx) else (false, none)
  let rs := base
    ++ (if sq && s.d.valid && base.all (fun r => 0x08 ≤ r.1 && r.1 != 0x0A)
          && (List.range r).any (fun g => unitBad (s.unitJudged k c (rowIdx s g))) then [(0x07, some s.h)] else [])
    ++ (if places.1 then [(0x15, some s.h)] else [])
  match checks23 (badHandle named) rs with
  | some (code, x) => .skip code x
  | none =>
    let out (a : Opnd) : Bool := 131071 < areaEntry a + c.shape.w * r - 1
    if out d then .skip .accRange d.h
    else if cplx && out im then .skip .accRange im.h
    else match places.2 with
      | some later => .skip .addressUnmapped (unmappedDetail s.h later)
      | none =>
        let busy := if c.dueNow k.cycle < c.passFree then some 0 else none
        check8 k none (firstOf
          [scoreCheck k c (if sq then (s.wordRange idx).toList else []) [] [] sq true busy,
           (if sq then ringTest c .consumer s else none)])

/-- Reason 0x09 of MZERO (R212). -/
def zeroBad (k : Ctx) (c : CoreSt) (o : Opnd) : Bool :=
  match ownLoc k.module c.lcore o.base with
  | .acc a =>
    !(o.d.fmt == 0x00 || o.d.fmt == 0x14) || o.d.rank != 1 || o.d.strideOf 0 != 4 || a % 256 != 0
      || o.d.extent 0 == 0 || 131072 - a / 4 < o.d.extent 0 || o.d.ring
  | _ => true

/-- The core as an instruction that needs the array's shape is judged: while an MSHAPE occupies the unit, by the shape and
the empty tiles that it brings, so that a pass under a shape not yet live meets the busy unit (R78) (DEDUCED, log 77). -/
def CoreSt.comingShape (c : CoreSt) : CoreSt :=
  match c.newShape with
  | some (_, sh) => { c with shape := sh, shadow := {}, actives := [] }
  | none => c

/-- Judging the M slot (R76) (DEDUCED, log 13). -/
def judgeM (k : Ctx) (c : CoreSt) (b : Bundle) : Verdict :=
  let op := b.m
  if !op.legal then .skip .illegalOp (encodeM op).toNat
  else match op with
    | .nop => .go
    | .mwload h q two => judgeLoad k c.comingShape h.toNat q.toNat two
    | .mswap => check8 k none (scoreCheck k c [] [] [] false false
        (if c.dueNow k.cycle < c.shapeFree then some 1 else none))
    | .mshape _ =>
      let due := c.dueNow k.cycle
      check8 k none (scoreCheck k c [] [] [] false false
        (if due < c.passFree then some 0 else if due < c.shadowFree then some 1 else none))
    | .mzero h =>
      let o := mkOpnd k.module c .producer (resolveHandle c .m h.toNat)
      match checks23 (badHandle [(h.toNat, o)])
          (descReasons c o ++ (if zeroBad k c o then [(0x09, some o.h)] else [])) with
      | some (code, x) => .skip code x
      | none => check8 k none (scoreCheck k c [] [] [] false false
          (if c.dueNow k.cycle < c.zeroFree then some 2 else none))
    | op => match passFields op with
      | some f => judgePass k c.comingShape f
      | none => .go

/-! ### Effects at issue -/

/-- The active tiles that a unit still to enter can meet, newest first. -/
def pruneActives (l : List (Nat × Tile)) (floor : Nat) : List (Nat × Tile) :=
  match l with
  | [] => []
  | p :: r => if p.1 ≤ floor then [p] else p :: pruneActives r floor

/-- The earliest due cycle of a unit that has not entered, at most the present one. -/
def CoreSt.oldestDue (c : CoreSt) (now : Nat) : Nat :=
  c.passes.foldl (fun a j => if j.next < j.rows * j.subs then min a (j.due + j.next) else a) now

/-- The ring that an operand releases (R102). -/
def releases (o : Opnd) : List Nat := if o.d.ring && o.d.release then [o.d.ctx] else []

/-- The effect of an M instruction that issues. -/
def applyM (k : Ctx) (c0 : CoreSt) (op : MOp) (c : CoreSt) : CoreSt :=
  let due := c0.dueNow k.cycle
  match op with
  | .mwload h q two =>
    let o := mkOpnd k.module c0 .consumer (resolveHandle c0 .m h.toNat)
    { c with
      shadowFree := due + 64
      shadow := { c.shadow with fmt := some o.d.fmt, two := two }
      loads := c.loads ++ [{ id := c.nextJob, bundle := c0.pc, due := due, part := q.toNat, two := two, src := o
                             shape := c0.shape }]
      engines := c.engines ++ [{ mclock := true, srcs := (o.wordRange (loadAll c0.shape o q.toNat two)).toList
                                 dst := none, relSrc := due + 64, relDst := 0, rings := releases o }]
      nextJob := c.nextJob + 1 }
  | .mswap =>
    { c with
      shadowFree := max c.shadowFree (due + 1)
      actives := pruneActives ((due + 1, c0.shadow) :: c.actives) (c.oldestDue due) }
  | .mshape n =>
    let o := c0.shape.leave
    { c with passFree := due + o, shadowFree := due + o, shapeFree := due + o, newShape := some (due + o, shapeOf n.toNat) }
  | .mzero h =>
    let o := mkOpnd k.module c0 .producer (resolveHandle c0 .m h.toNat)
    let n := o.d.extent 0
    { c with zeroFree := due + (n + 63) / 64
             zeros := c.zeros ++ [{ due := due, a0 := areaEntry o, n := n }] }
  | op => match passFields op with
    | none => c
    | some f =>
      let (d, s, im) := passOpnds k c0 f
      let t := c0.tileAt due
      let p := t.pair s.d.fmt
      let subs := passCount f.kind p
      let r := s.d.extent 1
      let a := areaLines (areaEntry d) c0.shape.w r
      let b := areaLines (areaEntry im) c0.shape.w r
      let job : PassJob :=
        { id := c.nextJob, bundle := c0.pc, kind := f.kind, shape := c0.shape, due := due, rows := r, subs := subs
          src := s, area := areaEntry d, areaIm := areaEntry im, accum := f.accum, keep := f.keep
          e := passE t p, runStep := k.runStep c0, occur := c0.occurrence c0.pc }
      { c with
        passFree := due + subs * r
        passes := c.passes ++ [job]
        accEntries := c.accEntries ++ [{ job := job.id, lo := a.1, hi := a.2 }]
          ++ (if f.kind == .complex then [{ job := job.id, lo := b.1, hi := b.2 }] else [])
        engines := c.engines ++ (if c0.shape == .sq64 then
            [{ mclock := true, srcs := (s.wordRange (walkAll s)).toList, dst := none, relSrc := due + r
               relDst := 0, rings := releases s }] else [])
        nextJob := c.nextJob + 1 }

/-- The pieces of a format's parts (R46). -/
def partPieces (f : Nat) : Nat := piecesOf (if fmtComplex f then fmtPart f else f)

/-- P of a skipped pass (R74, R213): for MPASSC 4 times the pieces of both formats, whatever the pair. -/
def skipCount (kind : PassKind) (t : Tile) (stream : Nat) : Nat :=
  match kind with
  | .complex => 4 * partPieces stream * partPieces (match t.fmt with | some f => f | none => standIn stream)
  | _ => 1

/-- The occupancy of a skipped M instruction (R213) on its path. -/
def skipM (k : Ctx) (c0 : CoreSt) (op : MOp) (code : FCode) (c : CoreSt) : CoreSt :=
  let due := c0.dueNow k.cycle
  let one := code == .illegalOp || code == .badHandle
  match op with
  | .mwload .. => { c with shadowFree := max c.shadowFree (due + (if one then 1 else 64)) }
  | .mswap => { c with shadowFree := max c.shadowFree (due + 1) }
  | .mshape _ =>
    let o := if one then 1 else c0.shape.leave
    { c with
      passFree := max c.passFree (due + o), shadowFree := max c.shadowFree (due + o)
      shapeFree := max c.shapeFree (due + o) }
  | .mzero h =>
    let o := mkOpnd k.module c0 .producer (resolveHandle c0 .m h.toNat)
    { c with zeroFree := max c.zeroFree (due + (if one then 1 else max 1 ((o.d.extent 0 + 63) / 64))) }
  | op => match passFields op with
    | none => c
    | some f =>
      let (_, s, _) := passOpnds k c0 f
      let readable := s.d.rank = 2 ∧ 1 ≤ s.d.extent 1 ∧ s.d.extent 1 ≤ 4096
      let o := if one ∨ ¬ readable then 1 else skipCount f.kind (c0.comingShape.tileAt due) s.d.fmt * s.d.extent 1
      { c with passFree := max c.passFree (due + o) }

/-! ### One cycle of the array -/

/-- An M or V access lost in a cycle: slot, bundle, detail word. -/
structure LostBank where
  slot : Slot
  bundle : Nat
  detail : Nat
deriving DecidableEq, Repr

/-- The arbitration of one instruction's accesses in one cycle (R91): the claims that stand, and the accesses that lose,
each with its operand, granule and the winning position. -/
def arbitrate (claims : List Claim) (pos : Nat) (acc : List (Nat × Nat)) : List Claim × List (Nat × Nat × Nat) :=
  match acc with
  | [] => (claims, [])
  | (op, g) :: r =>
    match claims.find? fun q => q.bank == bankOf g with
    | some q =>
      let (cs, ls) := arbitrate claims pos r
      (cs, (op, g, q.pos) :: ls)
    | none => arbitrate (claims ++ [{ bank := bankOf g, pos := pos }]) pos r

/-- The element group or row of a BANK_CONFLICT as its 18 bits show it (R92): what a longer index shows is a free value
(DESIGN CHOICE, log 84). -/
def groupField (idx : Nat) : Nat := if idx < 2 ^ 18 then idx else Config.freeField 0 idx % 2 ^ 18

/-- The BANK_CONFLICT of an instruction in a cycle (R92), where it lost anything. Of several operands that lose at the lowest
bank, the first that claims is named: the destination, then the sources in order, each before its scales (DESIGN CHOICE,
log 85). -/
def lostRecord (slot : Slot) (bundle idx : Nat) (lost : List (Nat × Nat × Nat)) : List LostBank :=
  match argMin (fun x => bankOf (lost.getD x (0, 0, 0)).2.1) (List.range lost.length) with
  | none => []
  | some x =>
    let l := lost.getD x (0, 0, 0)
    [{ slot := slot, bundle := bundle, detail := bankDetail (bankOf l.2.1) l.2.2 l.1 lost.length (groupField idx) }]

/-- An element read from the scratchpad, with lost granules as zeros (R91). -/
def spadElem (m : Mem) (lost : List Nat) (p : Nat × Nat) (w : Nat) : Nat :=
  leVal ((elemBytes w p).map fun a => if lost.contains (granuleOf (gaOff a)) then 0 else m.get (gaOff a))
    / 2 ^ p.2 % 2 ^ w

/-- A scale byte read from the scratchpad. -/
def spadScale (m : Mem) (lost : List Nat) (a : Option Nat) : Nat :=
  match a with
  | none => 0
  | some a => if lost.contains (granuleOf (gaOff a)) then 0 else (m.get (gaOff a)).toNat

/-- The granules that were lost. -/
def lostGranules (lost : List (Nat × Nat × Nat)) : List Nat := lost.map fun l => l.2.1

/-- A list of bytes with a run replaced, padded with zeros to reach it. -/
def splice (old : List Byte) (at_ : Nat) (new : List Byte) : List Byte :=
  let padded := old ++ List.replicate (at_ - old.length) 0
  padded.take at_ ++ new ++ padded.drop (at_ + new.length)

/-- One shadow row of an MWLOAD (R205). -/
def loadRow (c : CoreSt) (claims : List Claim) (j : LoadJob) : CoreSt × List Claim × List LostBank :=
  let e := if j.two then 2 else 1
  let w := fmtBits j.src.d.fmt
  let r := j.next
  let idx := loadIdx j.shape j.src j.part j.two r
  let (claims, lost) := arbitrate claims 2 (j.src.unitAccess idx)
  let ls := lostGranules lost
  let words := idx.map fun i => spadElem c.spad ls (j.src.d.elemAt j.src.base i) w
  let scales := idx.map fun i => BitVec.ofNat 8 (spadScale c.spad ls (j.src.scaleAt i))
  let at_ := (partElems w e j.part).headD 0
  let put (l : List (List Byte)) (row : List Byte) : List (List Byte) :=
    (l ++ List.replicate (r + 1 - l.length) []).set r row
  let rows := put c.shadow.rows (splice (c.shadow.rows.getD r []) (at_ * w / 8) (packWords w words))
  let scs := put c.shadow.scales (splice (c.shadow.scales.getD r []) at_ scales)
  ({ c with
     shadow := { c.shadow with rows := rows, scales := scs }
     loads := c.loads.map fun x => if x.id == j.id then { x with next := r + 1 } else x },
   claims, lostRecord .m j.bundle r lost)

/-- A unit enters the array (R115, R123, R210): its outputs are due L cycles later, and the lag is taken. -/
def enterUnit (c : CoreSt) (cycle : Nat) (j : PassJob) (us : List (Nat × Nat)) : CoreSt :=
  let now := c.dueNow cycle
  let g := j.next
  let lag := now - (j.due + g)
  let sub := g / j.rows
  let row := g % j.rows
  let per := j.subs / 4
  let imag := j.kind == .complex && 2 * per ≤ sub
  let base := if imag then j.areaIm else j.area
  let first := sub = 0 || (j.kind == .complex && sub = 2 * per)
  let entry := base + j.shape.w * row
  let vals := unitValues c.lcore j (c.tileAt (j.due + g)) us sub
  let w : AccWrite :=
    { due := now + j.shape.lat, entry := entry, accum := j.accum || !first, isInt := arrayInt j.src.d.fmt
      values := vals }
  { c with
    accWrites := c.accWrites ++ [w]
    lag := lag
    lagMax := max c.lagMax lag
    passes := c.passes.map fun x =>
      if x.id == j.id then { x with next := g + 1, lastWrite := now + j.shape.lat, lagMax := max x.lagMax lag }
      else x }

/-- Whether a unit's record lies in the stream buffer and landed before a cycle (R123), and its first position. -/
def CoreSt.recordAt (c : CoreSt) (j : PassJob) (cycle : Nat) : Nat × Option (List Byte) :=
  let n := recordBytes j.shape j.e j.src.d.fmt
  let g := j.next
  let freeing := !j.keep && (j.subs = 1 || (j.subs - 1) * j.rows ≤ g)
  let pos := c.streamHead + (if freeing then 0 else (g % j.rows) * n)
  let cells := c.stream.filter fun x => pos ≤ x.1 && x.1 < pos + n && x.2.2 < cycle
  (pos, if cells.length = n then
      some ((List.range n).map fun i => ((cells.find? fun x => x.1 == pos + i).map fun x => x.2.1).getD 0)
    else none)

/-- The pass whose unit enters next (R115). -/
def CoreSt.nextPass (c : CoreSt) : Option PassJob := c.passes.find? fun j => j.next < j.rows * j.subs

/-- The unit that waits in a cycle: due, of a WD shape (R123). -/
def CoreSt.waitingUnit (c : CoreSt) (cycle : Nat) : Option PassJob :=
  match c.nextPass with
  | some j => if j.shape != .sq64 && j.due + j.next ≤ c.dueNow cycle then some j else none
  | none => none

/-- R124, read as in log 10 (DEDUCED): the waiting unit is 8 cycles late and its record has not landed. -/
def CoreSt.holdsArray (c : CoreSt) (cycle : Nat) : Bool :=
  match c.waitingUnit cycle with
  | some j => 8 ≤ c.dueNow cycle - (j.due + j.next) && (c.recordAt j cycle).2.isNone
  | none => false

/-- A WD unit enters when its record has landed (R123), and its record is freed (R122, R210). -/
def enterRecord (c : CoreSt) (cycle : Nat) (j : PassJob) : CoreSt :=
  match c.recordAt j cycle with
  | (_, none) => c
  | (pos, some bs) =>
    let n := bs.length
    let c := enterUnit c cycle j (recordElems j.shape j.e j.src.d.fmt bs)
    let freeing := !j.keep && (j.subs = 1 || (j.subs - 1) * j.rows ≤ j.next)
    if freeing then
      { c with streamHead := pos + n, stream := c.stream.filter fun x => pos + n ≤ x.1 }
    else c

/-- An SQ64 row is read and enters (R115). -/
def enterRow (c : CoreSt) (cycle : Nat) (claims : List Claim) (j : PassJob) :
    CoreSt × List Claim × List LostBank :=
  let idx := rowIdx j.src j.next
  let (claims, lost) := arbitrate claims 2 (j.src.unitAccess idx)
  let ls := lostGranules lost
  let us := idx.map fun i =>
    (spadElem c.spad ls (j.src.d.elemAt j.src.base i) (fmtBits j.src.d.fmt), spadScale c.spad ls (j.src.scaleAt i))
  (enterUnit c cycle j us, claims, lostRecord .m j.bundle j.next lost)

/-- The lines that MZERO instructions write in a due cycle (R212). -/
def zeroLines (c : CoreSt) (now : Nat) (m : Mem) : Mem :=
  c.zeros.foldl
    (fun m z =>
      if z.due + 1 ≤ now ∧ now - (z.due + 1) < (z.n + 63) / 64 then
        let j := now - (z.due + 1)
        let lo := z.a0 + 64 * j
        m.zero (4 * lo) (4 * (min (lo + 63) (z.a0 + z.n - 1) + 1 - lo))
      else m)
    m

/-- The M unit in one cycle in which the array does not hold: shadow rows, units that enter, lines that are written. -/
def mCycle (c : CoreSt) (cycle : Nat) (claims : List Claim) : CoreSt × List Claim × List LostBank :=
  let now := c.dueNow cycle
  let load? := c.loads.find? fun j => j.next < 64 && j.due + j.next == now
  let pass? := match c.nextPass with
    | some j => if j.shape == .sq64 && j.due + j.next == now then some j else none
    | none => none
  let doLoad (c : CoreSt) (claims : List Claim) : CoreSt × List Claim × List LostBank :=
    match load? with
    | some j => loadRow c claims j
    | none => (c, claims, [])
  let doRow (c : CoreSt) (claims : List Claim) : CoreSt × List Claim × List LostBank :=
    match pass? with
    | some j => enterRow c cycle claims j
    | none => (c, claims, [])
  let older := match load?, pass? with
    | some l, some p => decide (l.id < p.id)
    | _, _ => true
  let (c, claims, l1) := if older then doLoad c claims else doRow c claims
  let (c, claims, l2) := if older then doRow c claims else doLoad c claims
  let c := match c.waitingUnit cycle with
    | some j => enterRecord c cycle j
    | none =>
      if pass?.isSome then c
      else if c.lag = 0 then c else { c with lag := c.lag - 1 }
  let acc := (c.accWrites.filter fun w => w.due == now).foldl applyAccWrite c.acc
  let acc := zeroLines c now acc
  ({ c with
     acc := acc
     accWrites := c.accWrites.filter fun w => w.due != now
     zeros := c.zeros.filter fun z => now < z.due + (z.n + 63) / 64
     loads := c.loads.filter fun j => j.next < 64 },
   claims, l1 ++ l2)

/-- What the array's end of work releases at the start of a cycle: accumulator entries, finished passes, a new shape. -/
def mSettle (c : CoreSt) (cycle : Nat) : CoreSt :=
  let now := c.dueNow cycle
  let gone := c.passes.filter fun j => j.rows * j.subs ≤ j.next && j.lastWrite < now
  let c := match gone.getLast? with
    | some j => { c with lagLast := j.lagMax }
    | none => c
  let c := { c with
    passes := c.passes.filter fun j => !(j.rows * j.subs ≤ j.next && j.lastWrite < now)
    accEntries := c.accEntries.filter fun e => !(gone.any fun j => j.id == e.job) }
  match c.newShape with
  | some (d, sh) =>
    if d ≤ now then { c with shape := sh, newShape := none, shadow := {}, actives := [] } else c
  | none => c

end Sys2Proof.Machine
end

