-- ==== Sys2Proof/Machine/Transc.lean ====
section
/-! DEFINITION. The transcendentals of arithmetic revision 1 (R53 to R60) and Philox-4x32-10 (R61, R62). -/

namespace Sys2Proof.Machine

/-- An FP32 pattern as a value. -/
def v32 (x : Nat) : Val := fp32.decode x

/-- Entry j of a table. -/
def entry (t : List Nat) (j : Nat) : Val := v32 (t.getD j 0)

/-- r(a + b). -/
def addR (a b : Val) : Val := r32 (a.add b)
/-- r(a * b). -/
def mulR (a b : Val) : Val := r32 (a.mul b)

/-- floor(v * 2^k) of a finite value. -/
def floorScaled (v : Val) (k : Int) : Int :=
  match v with
  | .fin n m e =>
    let s := e + k
    if 0 ≤ s then signed n (m * 2 ^ s.toNat) else (signed n m) / (2 ^ (-s).toNat : Nat)
  | _ => 0

/-- The value i / 2^k. -/
def fracVal (i : Int) (k : Nat) : Val := .fin (decide (i < 0)) i.natAbs (-(k : Int))

/-- The significand m of normalise(x) as a value in [1, 2), and its exponent (R53). -/
def normalise (m : Nat) (e : Int) : Val × Int :=
  (.fin false m (-(m.log2 : Int)), e + m.log2)

/-- VEXP2 (R56). -/
def vexp2 (x : Val) : Val :=
  match x with
  | .nan => .nan
  | x =>
    if !x.lt (Val.ofInt 128) then .inf false
    else if x.lt (Val.ofInt (-160)) then .fin false 0 0
    else
      let t := floorScaled x 6
      let k := t / 64
      let i := (t - 64 * k).toNat
      let f := r32 (x.add (fracVal t 6).neg)
      let p := mulR f (v32 0x3D635847)
      let p := addR (v32 0x3E75FDF0) p
      let p := mulR f p
      let p := addR (v32 0x3F317218) p
      let p := mulR f p
      let p := addR (Val.ofInt 1) p
      let q := mulR (entry tabT i) p
      r32 (q.scale k)

/-- VLOG2 (R57). -/
def vlog2 (x : Val) : Val :=
  match x with
  | .nan => .nan
  | .inf n => if n then .nan else .inf false
  | .fin _ 0 _ => .inf true
  | .fin true _ _ => .nan
  | .fin false m e =>
    let (mm, ex) := normalise m e
    let j := (floorScaled (mm.add (Val.ofInt (-1))) 6).toNat
    let d := mm.add (fracVal (64 + j) 6).neg
    let u := mulR d (entry tabRL j)
    let p := mulR u (v32 0xBEB8AA3B)
    let p := addR (v32 0x3EF6384F) p
    let p := mulR u p
    let p := addR (v32 0xBF38AA3B) p
    let p := mulR u p
    let p := addR (v32 0x3FB8AA3B) p
    let p := mulR u p
    r32 ((Val.ofInt ex).add (addR (entry tabL j) p))

/-- One refinement of R58: t := r(h y); t := r(t y); t := r(1.5 - t); y := r(y t). -/
def rsqStep (h y : Val) : Val :=
  let t := mulR h y
  let t := mulR t y
  let t := addR (.fin false 3 (-1)) t.neg
  mulR y t

/-- VRSQ (R58). -/
def vrsq (x : Val) : Val :=
  match x with
  | .nan => .nan
  | .inf n => if n then .nan else .fin false 0 0
  | .fin n 0 _ => .inf n
  | .fin true _ _ => .nan
  | .fin false m e =>
    let (m1, e1) := normalise m e
    let odd := e1 % 2 != 0
    let mm := if odd then m1.scale 1 else m1
    let ex := if odd then e1 - 1 else e1
    if mm.eq (Val.ofInt 1) then (Val.ofInt 1).scale (-(ex / 2))
    else
      let j := if mm.lt (Val.ofInt 2) then (floorScaled (mm.add (Val.ofInt (-1))) 6).toNat
               else 64 + (floorScaled (mm.add (Val.ofInt (-2))) 5).toNat
      let h := mm.scale (-1)
      (rsqStep h (rsqStep h (entry tabS j))).scale (-(ex / 2))

/-- One refinement of R59: t := r(m y); t := r(2 - t); y := r(y t). -/
def rcpStep (m y : Val) : Val := mulR y (addR (Val.ofInt 2) (mulR m y).neg)

/-- The sign of a value put on another. -/
def withSign (n : Bool) (v : Val) : Val := if n then v.neg else v

/-- VRCP (R59). -/
def vrcp (x : Val) : Val :=
  match x with
  | .nan => .nan
  | .inf n => .fin n 0 0
  | .fin n 0 _ => .inf n
  | .fin n m e =>
    let (mm, ex) := normalise m e
    let y :=
      if mm.eq (Val.ofInt 1) then Val.ofInt 1
      else
        let j := (floorScaled (mm.add (Val.ofInt (-1))) 6).toNat
        rcpStep mm (rcpStep mm (entry tabQ j))
    withSign n (r32 (y.scale (-ex)))

/-- The sign of a value. -/
def Val.sign : Val → Bool
  | .nan => false
  | .inf n => n
  | .fin n _ _ => n

/-- VTANH (R60). -/
def vtanh (x : Val) : Val :=
  match x with
  | .nan => .nan
  | x =>
    let a := x.abs
    let sg := x.sign
    if !a.lt (Val.ofInt 9) then withSign sg (Val.ofInt 1)
    else if a.lt (.fin false 1 (-12)) then x
    else if a.lt (.fin false 1 (-3)) then
      let x2 := mulR a a
      let p := mulR x2 (v32 0xBD5D0DD1)
      let p := addR (v32 0x3E088889) p
      let p := mulR x2 p
      let p := addR (v32 0xBEAAAAAB) p
      withSign sg (addR a (mulR (mulR a x2) p))
    else
      let e := vexp2 (mulR (r32 (a.scale 1)) (v32 0x3FB8AA3B))
      let y := addR (Val.ofInt 1) ((vrcp (addR e (Val.ofInt 1))).scale 1).neg
      withSign sg y

/-- One round of Philox-4x32 (R61). -/
def philoxRound (k0 k1 : Nat) (c : Nat × Nat × Nat × Nat) : Nat × Nat × Nat × Nat :=
  let (c0, c1, c2, c3) := c
  let p0 := 0xD2511F53 * c0
  let p1 := 0xCD9E8D57 * c2
  (bits p1 63 32 ^^^ c1 ^^^ k0, bits p1 31 0, bits p0 63 32 ^^^ c3 ^^^ k1, bits p0 31 0)

/-- n rounds from keys k0, k1. -/
def philoxRounds : Nat → Nat → Nat → Nat × Nat × Nat × Nat → Nat × Nat × Nat × Nat
  | 0, _, _, c => c
  | n + 1, k0, k1, c =>
    philoxRounds n ((k0 + 0x9E3779B9) % 2 ^ 32) ((k1 + 0xBB67AE85) % 2 ^ 32) (philoxRound k0 k1 c)

/-- The word of VRNG (R61). -/
def philox (seed lcore module stream runStep n : Nat) : Nat :=
  let c := philoxRounds 10 (bits seed 31 0) (bits seed 63 32)
    (n / 4, lcore + 2 ^ 11 * module + 2 ^ 17 * stream, bits runStep 31 0, bits runStep 63 32)
  match n % 4 with
  | 0 => c.1 | 1 => c.2.1 | 2 => c.2.2.1 | _ => c.2.2.2

/-- The element that VRNG writes for word w (R62): the destination format and the mode decide. -/
def rngElem (u01 : Bool) (fmt w : Nat) : Nat :=
  if !u01 then w
  else match fmt with
    | 0x00 => encodeElem 0x00 false (.fin false (bits w 31 8) (-24))
    | 0x02 => encodeElem 0x02 false (.fin false (bits w 31 24) (-8))
    | _ => encodeElem 0x01 false (.fin false (bits w 31 21) (-11))

end Sys2Proof.Machine
end

