-- ==== Sys2Proof/Machine/Vector.lean ====
section
/-! DEFINITION. The V slot and the vector engine (R129 to R150, R214 to R221): checks at issue, effects at issue, and
what the engine does in one cycle. -/

namespace Sys2Proof.Machine

/-! ### What an instruction names -/

/-- What a V instruction is about: its code, modifier bits, length, legacy flag, and its operands' raw handles. -/
structure VFields where
  code : VCode
  h : Nat
  md : Nat
  len : Nat
  legacy : Bool
deriving DecidableEq, Repr

/-- Bit i of a modifier word. -/
def modBit (md i : Nat) : Bool := bits md i i == 1

/-- The fields of a V instruction that shares the layout of R158. -/
def vFields (c : CoreSt) : VOp → Option VFields
  | .vec code h (.native md) => some ⟨code, h.toNat, md.toNat, c.vl, false⟩
  | .vec code h (.legacy n md) => some ⟨code, h.toNat, md.toNat, n.toNat, true⟩
  | _ => none

/-- VACC has a scale (R217) (DEDUCED, log 15). -/
def hasScale (md : Nat) : Bool := modBit md 2 || modBit md 4
/-- VACC has a bias (R217). -/
def hasBias (md : Nat) : Bool := modBit md 2 || modBit md 5
/-- Pair mode (R138, R216). -/
def isPair (f : VFields) : Bool := modBit f.md 3
/-- VGATHER in LOAD mode (R145). -/
def isLoad (f : VFields) : Bool := f.code == .vgather && modBit f.md 0

/-- The operand offsets of the sources (R157, R217). -/
def srcOffsets (f : VFields) : List Nat :=
  match f.code with
  | .vadd | .vsub | .vmul | .vmax | .vmin | .vcmp => [1, 2]
  | .vfma | .vsel => [1, 2, 3]
  | .vacc =>
    [1] ++ (if hasScale f.md then [2] else []) ++ (if hasBias f.md then [3] else [])
      ++ (if modBit f.md 11 then [4] else [])
  | _ => [1]

/-- The elements that an instruction processes: blocks times 16,384 for VPERM under the legacy flag (R134). -/
def vLength (f : VFields) : Nat :=
  if f.code == .vperm && f.legacy then 16384 * f.len else f.len

/-- The destination, absent for a LOAD. -/
def vDst (k : Ctx) (c : CoreSt) (f : VFields) : Option Opnd :=
  if isLoad f then none else some (mkOpnd k.module c .producer (resolveHandle c .v f.h))

/-- The sources in operand order (DEDUCED, log 27). -/
def vSrcs (k : Ctx) (c : CoreSt) (f : VFields) : List Opnd :=
  (srcOffsets f).map fun j => mkOpnd k.module c .consumer (resolveHandle c .v ((f.h + j) % 256))

/-- Lanes (R73, R145, R218). -/
def vLanes (f : VFields) (dst : Option Opnd) (srcs : List Opnd) : Nat :=
  match f.code with
  | .vgather => 16
  | .vperm => 128
  | _ =>
    if isPair f then 64
    else
      let w := (dst.toList ++ srcs).foldl (fun m o => max m o.d.vBits) 0
      if 32 ≤ w then 128 else if 16 ≤ w then 256 else 512

/-- Groups for a length (R129). -/
def groupsFor (len lanes : Nat) : Nat := (len + lanes - 1) / lanes

/-- Latency (R74). -/
def vLatency : VCode → Nat
  | .vadd | .vsub | .vmul | .vmax | .vmin | .vabs | .vcmp | .vsel => 4
  | .vcvt => 5 | .vfma => 6 | .vred | .vscan => 8 | .vacc | .vexp2 => 12
  | .vlog2 | .vrsq | .vrcp => 14 | .vtanh => 30 | .vperm => 128 | .vgather => 6

/-- Whether an operand lies in the accumulator window (R87). -/
def isAcc (k : Ctx) (c : CoreSt) (o : Opnd) : Bool :=
  match ownLoc k.module c.lcore o.base with
  | .acc _ => true
  | _ => false

/-- Whether the destination is an INT64 pair: in pair mode, an INT32 destination of any instruction but VCVT (R138,
R139; DEDUCED, log 18). -/
def pairDst (f : VFields) (dst : Option Opnd) : Bool :=
  isPair f && f.code != .vcvt && (match dst with | some d => d.d.fmt == 0x14 | none => false)

/-- Walk elements per processed element of a source: 2 for an INT64 pair, which in pair mode every source is but the
accumulator areas of VACC (R138, R139; DEDUCED, log 18). -/
def srcStep (f : VFields) (acc : Bool) : Nat := if isPair f && !(acc && f.code == .vacc) then 2 else 1

/-- The innermost extent of a reduction's rows (R142), counted in elements as V reads them: a complex source has two parts
per walk element (R131; DEDUCED, log 83). -/
def rowLen (o : Opnd) : Nat := if fmtComplex o.d.fmt then 2 * o.d.extent 0 else o.d.extent 0

/-- Elements that the destination takes. -/
def dstCount (f : VFields) (n : Nat) (srcs : List Opnd) (dst : Option Opnd) : Nat :=
  match f.code with
  | .vred => match srcs with | s :: _ => n / (max 1 (rowLen s)) | [] => 0
  | _ => if pairDst f dst then 2 * n else n

/-! ### Checks (R76, R130, R138 to R145) -/

/-- The elements lo to hi - 1 of group g. -/
def groupSpan (n lanes g : Nat) : Nat × Nat := (g * lanes, min n ((g + 1) * lanes))

/-- The granules of one group of a scratchpad operand, scales apart (R89, R214). -/
def Opnd.groupGranules (o : Opnd) (lo hi : Nat) : List Nat := granules (o.ends lo hi)
/-- The granules of the scales of one group. -/
def Opnd.scaleGranules (o : Opnd) (lo hi : Nat) : List Nat := granules (o.scaleEnds lo hi)

/-- The accumulator lines of elements lo to hi - 1 of an accumulator source (R104). -/
def accLinesOf (o : Opnd) (lo hi : Nat) : List Nat :=
  ((List.range (hi - lo)).map fun i => (gaOff (o.d.vElemAt o.base (lo + i)).1 - 0x1000000) / 256).dedup

/-- The elements of the destination that group g writes. -/
def dstSpan (f : VFields) (n lanes : Nat) (srcs : List Opnd) (dst : Option Opnd) (g : Nat) : Nat × Nat :=
  let (lo, hi) := groupSpan n lanes g
  match f.code with
  | .vred => match srcs with
    | s :: _ => (lo / (max 1 (rowLen s)), hi / (max 1 (rowLen s)))
    | [] => (0, 0)
  | _ => if pairDst f dst then (2 * lo, 2 * hi) else (lo, hi)

/-- The second area of a pair-mode VACC (R139): the source moved by its outer stride. -/
def secondArea (o : Opnd) : Opnd :=
  { o with base := (((o.base : Int) + o.d.strideOf (o.d.rank - 1)) % (2 ^ 64 : Nat)).toNat }

/-- The walk of one area: with two areas the outer dimension steps between them and is not walked, nor counted among the
elements of an area (DESIGN CHOICE, log 82). -/
def areaOpnd (f : VFields) (o : Opnd) : Opnd :=
  if modBit f.md 6 then { o with d := { o.d with rank := o.d.rank - 1 } } else o

/-- The accumulator areas that a VACC reads (R137, R139). -/
def vaccAreas (f : VFields) (o : Opnd) : List Opnd :=
  if modBit f.md 6 then [areaOpnd f o, areaOpnd f (secondArea o)] else [o]

/-- Reason 0x09 of an accumulator source (R166). -/
def accSrcBad (o : Opnd) : Bool :=
  !(o.d.fmt == 0x00 || o.d.fmt == 0x14) || gaOff o.base % 4 != 0
    || (List.range o.d.rank).any fun j => o.d.strideOf j % 4 != 0

/-- The reasons of R130 and R90 for an operand whose group g covers elements `span g`, those beyond the end of its walk
left out. Granules lie in the scratchpad alone (R88), so elements elsewhere count none. A VGATHER takes 2 granules per
group (R219), whose reason is 0x07 (DEDUCED, log 81). -/
def spadReasons (k : Ctx) (c : CoreSt) (o : Opnd) (groups : Nat) (span : Nat → Nat × Nat) (gather : Bool := false) :
    List (Nat × Option Nat) :=
  let sets := (List.range groups).flatMap fun g =>
    let lo := min (span g).1 o.d.vCount
    let hi := min (span g).2 o.d.vCount
    [granules (spadOnly k c (o.ends lo hi)), granules (spadOnly k c (o.scaleEnds lo hi))]
  (if sets.any (fun g => 8 < g.length) then [(0x10, some o.h)] else [])
    ++ (if sets.any (fun g => bankTwice g || (gather && 2 < g.length)) then [(0x07, some o.h)] else [])

/-- The rules of single instructions: pair mode (R138, R139), R140 to R145. The width of a complex format is that of its
parts, as R131 reads it, for VPERM and for VGATHER (DEDUCED, log 83). -/
def opReasons (k : Ctx) (c : CoreSt) (f : VFields) (n : Nat) (dst : Option Opnd) (srcs : List Opnd) :
    List (Nat × Option Nat) :=
  let dh := dst.map fun d => d.h
  let df := (dst.map fun d => d.d.fmt).getD 0
  let sf := srcs.map fun s => s.d.fmt
  let sh := srcs.head?.map fun s => s.h
  let pair : List (Nat × Option Nat) :=
    if !isPair f then []
    else
      (srcs.flatMap fun s => if s.d.fmt != 0x14 then [(0x11, some s.h)] else [])
      ++ (if f.code == .vcvt && !(df == 0x14 || df == 0x13 || df == 0x11 || df == 0x12 || df == 0x00 || df == 0x01
            || df == 0x02) then [(0x11, dh)] else [])
      ++ (if f.code == .vacc then
            match srcs with
            | s :: _ =>
              let areas := vaccAreas f s
              if areas.any fun a => gaOff a.base % 256 != 0
                  || (List.range (groupsFor n 64)).any fun g =>
                      (accLinesOf a (groupSpan n 64 g).1 (groupSpan n 64 g).2).length != 1 then [(0x11, some s.h)]
              else []
            | [] => []
          else [])
  let own : List (Nat × Option Nat) :=
    match f.code with
    | .vcmp => if fmtMX df then [(0x12, dh)] else []
    | .vsel =>
      let cf := sf.getD 0 0
      let af := sf.getD 1 0
      let bf := sf.getD 2 0
      if fmtMX cf then [(0x12, sh)]
      else if af ≠ bf ∨ af ≠ df ∨ fmtMX df then [(0x12, dh)] else []
    | .vred | .vscan =>
      match srcs with
      | s :: _ =>
        (if rowLen s = 0 ∨ n % (max 1 (rowLen s)) ≠ 0 then [(0x12, some s.h)] else [])
          ++ (if f.code == .vred && fmtMX df then [(0x12, dh)] else [])
      | [] => []
    | .vperm =>
      match srcs, dst with
      | s :: _, some d =>
        (if n % 16384 ≠ 0 ∨ s.d.fmt ≠ d.d.fmt ∨ fmtMX df ∨ !(s.d.vBits == 8 || s.d.vBits == 16 || s.d.vBits == 32) then
            [(0x12, dh)] else [])
          ++ (match s.range n, d.range n with
              | some a, some b => if (overlap a b).isSome then [(0x12, dh)] else []
              | _, _ => [])
      | _, _ => []
    | .vgather =>
      let f0 := sf.getD 0 0
      if isLoad f then
        (if 4096 < n ∨ fmtMX f0 ∨ !(fmtBits (fmtPart f0) == 8 || fmtBits (fmtPart f0) == 16 || fmtBits (fmtPart f0) == 32) then
          [(0x13, sh)] else [])
      else
        (if f0 = 0x11 ∨ f0 = 0x12 ∨ f0 = 0x13 ∨ f0 = 0x14 then [] else [(0x13, sh)])
          ++ (if df ≠ c.gatherFmt then [(0x13, dh)] else [])
    | _ => []
  pair ++ own

/-- The elements that a source covers in the walk order of V. -/
def srcSpan (f : VFields) (acc : Bool) (n lanes g : Nat) : Nat × Nat :=
  let (lo, hi) := groupSpan n lanes g
  (srcStep f acc * lo, srcStep f acc * hi)

/-- The reasons of R130 for windows and counts, with R87's place check kept apart. -/
def placeReasons (k : Ctx) (c : CoreSt) (f : VFields) (n lanes : Nat) (dst : Option Opnd) (srcs : List Opnd) :
    List (Nat × Option Nat) :=
  let accs := srcs.filter (isAcc k c)
  let g := groupsFor n lanes
  (match dst with
    | none => []
    | some d =>
      (if isAcc k c d then [(0x10, some d.h)] else [])
        ++ (if d.d.vCount < dstCount f n srcs dst then [(0x10, some d.h)] else []))
    ++ (srcs.flatMap fun s =>
        let acc := isAcc k c s
        let two := f.code == .vacc && modBit f.md 6 && acc
        let cnt := if two then (areaOpnd f s).d.vCount else s.d.vCount
        (if cnt < srcStep f acc * n then [(0x10, some s.h)] else [])
          ++ (if acc && accSrcBad s then [(0x09, some s.h)] else [])
          ++ (if acc && !two && (List.range g).any (fun i =>
                2 < (accLinesOf s (srcSpan f true n lanes i).1 (srcSpan f true n lanes i).2).length) then [(0x10, some s.h)]
              else []))
    ++ (if 1 < accs.length then [(0x10, (accs.getD 1 (accs.headD { h := 0, d := {}, base := 0 })).h |> some)] else [])
    ++ (match f.code, srcs with
        | .vacc, s :: _ => if isAcc k c s then [] else [(0x09, some s.h)]
        | _, _ => [])

/-- The addresses of an operand's elements and scales, for the place check of R87. -/
def vAddrs (o : Opnd) (cnt : Nat) : List Nat := o.ends 0 cnt ++ o.scaleEnds 0 cnt

/-- Elements of a source over the whole instruction. -/
def srcCount (f : VFields) (acc : Bool) (n : Nat) : Nat := srcStep f acc * n

/-- Reason 0x15 of an accumulator source whose walk leaves the window. -/
def accWalkBad (k : Ctx) (c : CoreSt) (as : List Nat) : Bool :=
  as.any fun a => match ownLoc k.module c.lcore a with | .acc _ | .unmapped => false | _ => true

/-- Judging a V instruction with an operand block. -/
def judgeVec (k : Ctx) (c : CoreSt) (f : VFields) : Verdict :=
  let busy : Option Nat := if k.cycle < c.vFree then some 0 else none
  if f.len = 0 then check8 k none (scoreCheck k c [] [] [] false false busy)
  else
    let dst := vDst k c f
    let srcs := vSrcs k c f
    let n := vLength f
    let named := (match dst with | some d => [(f.h, d)] | none => [])
      ++ ((srcOffsets f).zip srcs).map fun p => (f.h + p.1, p.2)
    let lanes := vLanes f dst srcs
    let g := groupsFor n lanes
    let base :=
      (match dst with
        | some d => descReasons c d ++ ringReasons k.module c .producer true d
        | none => [])
      ++ (srcs.flatMap fun s => descReasons c s ++ ringReasons k.module c .consumer true s)
    if (badHandle named).isNone && base.all (fun r => 0x08 ≤ r.1) then
      let spads := srcs.filter fun s => !isAcc k c s
      let counted := base ++ placeReasons k c f n lanes dst srcs ++ opReasons k c f n dst srcs
      let fits := counted.isEmpty
      let dAddr := match dst with | some d => vAddrs d (dstCount f n srcs dst) | none => []
      let dPlace := if fits then spadPlaces k c dAddr else (false, none)
      let sPlaces := spads.map fun s =>
        (s.h, if fits then spadPlaces k c (vAddrs s (srcCount f false n)) else (false, none))
      let aPlaces := (srcs.filter (isAcc k c)).map fun s =>
        let as := (if f.code == .vacc then vaccAreas f s else [s]).flatMap fun a => if fits then a.ends 0 (srcCount f true n) else []
        (s.h, accWalkBad k c as,
          as.findIdx? fun a => ownLoc k.module c.lcore a == .unmapped)
      let rs := counted
        ++ (match dst with | some d => spadReasons k c d g (dstSpan f n lanes srcs dst) (f.code == .vgather) | none => [])
        ++ (spads.flatMap fun s => spadReasons k c s g (srcSpan f false n lanes) (f.code == .vgather))
        ++ (match dst with | some d => if dPlace.1 then [(0x15, some d.h)] else [] | none => [])
        ++ (sPlaces.flatMap fun p => if p.2.1 then [(0x15, some p.1)] else [])
        ++ (aPlaces.flatMap fun p => if p.2.1 then [(0x15, some p.1)] else [])
      match checks23 none rs with
      | some (code, d) => .skip code d
      | none =>
        let un : List (Nat × Bool) :=
          (match dst, dPlace.2 with | some d, some l => [(d.h, l)] | _, _ => [])
            ++ (sPlaces.filterMap fun p => p.2.2.map fun l => (p.1, l))
            ++ (aPlaces.filterMap fun p => p.2.2.map fun i => (p.1, i != 0))
        match un with
        | (h, l) :: _ => .skip .addressUnmapped (unmappedDetail h l)
        | [] =>
          let reads := spads.filterMap fun s => s.range (srcCount f false n)
          let writes := (match dst with | some d => (d.range (dstCount f n srcs dst)).toList | none => [])
          let lines := ((srcs.filter (isAcc k c)).flatMap fun s =>
            (if f.code == .vacc then vaccAreas f s else [s]).flatMap fun a => accLinesOf a 0 (srcCount f true n)).dedup
          check8 k none (firstOf ([scoreCheck k c reads writes lines true false busy]
            ++ (match dst with | some d => [ringTest c .producer d] | none => [])
            ++ srcs.map (ringTest c .consumer)))
    else match checks23 (badHandle named) base with
      | some (code, d) => .skip code d
      | none => .go

/-- What a VRNG names: counter, destination, mode, stream, length. -/
structure RngFields where
  ctr : Nat
  h : Nat
  u01 : Bool
  stream : Nat
  len : Nat
deriving DecidableEq, Repr

/-- The fields of VRNG (R160). -/
def rngFields (c : CoreSt) : VOp → Option RngFields
  | .vrng k h u (.native st) => some ⟨k.toNat, h.toNat, u, st.toNat, c.vl⟩
  | .vrng k h u (.legacy n st) => some ⟨k.toNat, h.toNat, u, st.toNat, n.toNat⟩
  | _ => none

/-- The lanes of a VRNG. -/
def rngLanes (d : Opnd) : Nat := if 32 ≤ d.d.vBits then 128 else if 16 ≤ d.d.vBits then 256 else 512

/-- The destination formats of VRNG (R62). -/
def rngFmtOk (u01 : Bool) (f : Nat) : Bool := if u01 then f ≤ 0x02 else f == 0x14

/-- Judging VRNG (R62, R130, R220). -/
def judgeRng (k : Ctx) (c : CoreSt) (f : RngFields) : Verdict :=
  let busy : Option Nat := if k.cycle < c.vFree then some 0 else none
  if f.len = 0 then check8 k none (scoreCheck k c [] [] [] false false busy)
  else
    let d := mkOpnd k.module c .producer (resolveHandle c .v f.h)
    let base := descReasons c d ++ ringReasons k.module c .producer true d
      ++ (if rngFmtOk f.u01 d.d.fmt then [] else [(0x14, some d.h)])
      ++ (if isAcc k c d || d.d.vCount < f.len then [(0x10, some d.h)] else [])
    let ok := base.isEmpty && d.d.valid
    let lanes := rngLanes d
    let place := if ok then spadPlaces k c (vAddrs d f.len) else (false, none)
    let rs := base
      ++ (if d.d.valid && base.all (fun r => 0x08 ≤ r.1) then spadReasons k c d (groupsFor f.len lanes) (groupSpan f.len lanes) else [])
      ++ (if place.1 then [(0x15, some d.h)] else [])
    match checks23 (badHandle [(f.h, d)]) rs with
    | some (code, x) => .skip code x
    | none =>
      match place.2 with
      | some l => .skip .addressUnmapped (unmappedDetail d.h l)
      | none =>
        check8 k none (firstOf
          [scoreCheck k c [] (d.range f.len).toList [] true false busy, ringTest c .producer d])

/-- Judging the V slot (R76). -/
def judgeV (k : Ctx) (c : CoreSt) (b : Bundle) : Verdict :=
  let op := b.v
  if !op.legal || !op.formIs b.legacy then .skip .illegalOp (encodeV op).toNat
  else match vFields c op, rngFields c op with
    | some f, _ => judgeVec k c f
    | none, some f => judgeRng k c f
    | none, none => .go

/-! ### Effects at issue -/

/-- A V instruction put in flight. -/
def startV (k : Ctx) (c : CoreSt) (job : VJob) (srcs : List GRange) (dst : Option GRange) (rings : List Nat) :
    CoreSt :=
  { c with
    vFree := k.cycle + job.groups
    vjobs := c.vjobs ++ [job]
    engines := c.engines ++ [{ mclock := false, srcs := srcs, dst := dst, relSrc := k.cycle + job.groups
                               relDst := k.cycle + job.groups + job.lat, rings := rings }]
    nextJob := c.nextJob + 1 }

/-- The effect of a V instruction that issues. -/
def applyV (k : Ctx) (c0 : CoreSt) (op : VOp) (c : CoreSt) : CoreSt :=
  match vFields c0 op, rngFields c0 op with
  | some f, _ =>
    if f.len = 0 then { c with vFree := k.cycle + 1 }
    else
      let dst := vDst k c0 f
      let srcs := vSrcs k c0 f
      let n := vLength f
      let lanes := vLanes f dst srcs
      let spads := srcs.filter fun s => !isAcc k c0 s
      let job : VJob :=
        { id := c.nextJob, bundle := c0.pc, op := op, at_ := k.cycle, len := n, lanes := lanes
          groups := groupsFor n lanes, lat := if isLoad f then 1 else vLatency f.code, dst := dst
          srcs := srcs.map fun s => (s, isAcc k c0 s), runStep := k.runStep c0, module := k.module }
      startV k c job (spads.filterMap fun s => s.range (srcCount f false n))
        (dst.bind fun d => d.range (dstCount f n srcs dst)) (srcs.flatMap releases)
  | none, some f =>
    if f.len = 0 then { c with vFree := k.cycle + 1 }
    else
      let d := mkOpnd k.module c0 .producer (resolveHandle c0 .v f.h)
      let lanes := rngLanes d
      let job : VJob :=
        { id := c.nextJob, bundle := c0.pc, op := op, at_ := k.cycle, len := f.len, lanes := lanes
          groups := groupsFor f.len lanes, lat := 16, dst := some d, srcs := [], ctr := c0.counter f.ctr
          runStep := k.runStep c0, module := k.module }
      startV k c job [] (d.range f.len) []
  | none, none => c

/-- The occupancy of a skipped V instruction (R221). -/
def skipV (k : Ctx) (c0 : CoreSt) (op : VOp) (code : FCode) (c : CoreSt) : CoreSt :=
  let o : Nat :=
    if code == .illegalOp || code == .badHandle then 1
    else match vFields c0 op, rngFields c0 op with
      | some f, _ =>
        if f.code == .vperm then 128 * (vLength f / 16384)
        else groupsFor f.len (vLanes f (vDst k c0 f) (vSrcs k c0 f))
      | none, some f => groupsFor f.len (rngLanes (mkOpnd k.module c0 .producer (resolveHandle c0 .v f.h)))
      | none, none => 0
  match op with
  | .nop => c
  | _ => { c with vFree := max c.vFree (k.cycle + max 1 o) }

/-! ### Element functions (R132, R137 to R145, R215) -/

/-- The working format of elementwise arithmetic (R132): none for integer sources. -/
inductive Working where
  | exact | flt (f : FloatFmt) (code : Nat)
deriving DecidableEq, Repr

/-- The table of R132; part formats of complex operands. `acc` says that a source is an accumulator operand. -/
def workingOf (srcs : List Nat) (dst : Nat) (acc : Bool) : Working :=
  let all := dst :: srcs
  let anyInt := srcs.any fmtInt
  let mx := srcs.any fmtMX || fmtMX dst
  if srcs.all fmtInt then .exact
  else if all.any (fun f => fmtBits f == 32) || acc || anyInt
      || (all.contains 0x01 && (all.contains 0x02 || mx)) then .flt fp32 0x00
  else if all.contains 0x01 && all.all (fun f => f == 0x01 || (0x03 ≤ f && f ≤ 0x07) || fmtInt f) then .flt fp16 0x01
  else .flt bf16 0x02

/-- A value written to a destination: R39, or unchanged when the destination has the working format (R40). -/
def writeElem (d : Desc) (working : Option Nat) (v : Val) : Nat :=
  let f := fmtPart d.fmt
  encodeElem f (d.keepInf || working == some f) v

/-- Elementwise arithmetic on exact or widened values. -/
def arith (code : VCode) (a b c : Val) : Val :=
  match code with
  | .vadd => a.add b
  | .vsub => a.add b.neg
  | .vmul => a.mul b
  | .vfma => (a.mul b).add c
  | .vmax => a.max b
  | .vmin => a.min b
  | _ => match a with | .nan => .nan | v => v.abs

/-- A comparison of VCMP (R45, R140). -/
def vcmpRel (rel : Nat) (a b : Val) : Bool :=
  match rel with
  | 0 => a.eq b
  | 1 => !(a.eq b)
  | 2 => a.lt b
  | 3 => a.lt b || a.eq b
  | 4 => b.lt a
  | _ => b.lt a || a.eq b

/-- The activation of R137. -/
def activate (act : Nat) (v : Val) : Val :=
  match act with
  | 0 => v
  | 1 => relu v
  | _ => let r := relu v; if (Val.ofInt 6).lt r then Val.ofInt 6 else r
where
  relu (v : Val) : Val :=
    match v with
    | .nan => .nan
    | v => if (Val.fin false 0 0).lt v then v else .fin false 0 0

/-- The activation of an exact integer. -/
def activateInt (act : Nat) (i : Int) : Int :=
  match act with
  | 0 => i
  | 1 => max i 0
  | _ => sat i 0 6

/-- An INT64 from its two words (R138). -/
def int64Of (lo hi : Nat) : Int := sext (lo % 2 ^ 32 + 2 ^ 32 * (hi % 2 ^ 32)) 64

/-- Saturation to INT64. -/
def sat64 (i : Int) : Int := sat i (-(2 ^ 63)) (2 ^ 63 - 1)

/-- The integer of an exact integer value. -/
def Val.intOf : Val → Int
  | .fin n m e => signed n (m * 2 ^ e.toNat)
  | _ => 0

/-- The sums of R143 over one row: y for every element. `c` is the y of the last element of the block before. -/
def sumRow (vals : List Val) (j : Nat) (c : Option Val) (t : Val) : List Val :=
  match vals with
  | [] => []
  | v :: r =>
    let t := if j % 128 = 0 then v else t.add v
    let y := match c with | none => r32 t | some c => r32 (c.add t)
    y :: sumRow r (j + 1) (if j % 128 = 127 then some y else c) t

/-- The running results of a row (R142, R143); `isInt` rows are exact. -/
def scanRow (op : Nat) (isInt : Bool) (vals : List Val) : List Val :=
  match op, vals with
  | _, [] => []
  | 0, v :: r => if isInt then v :: runFold Val.add v r else sumRow (v :: r) 0 none v
  | 1, v :: r => v :: runFold Val.max v r
  | _, v :: r => v :: runFold Val.min v r
where
  runFold (f : Val → Val → Val) (acc : Val) (l : List Val) : List Val :=
    match l with
    | [] => []
    | v :: r => let a := f acc v; a :: runFold f a r

/-- What a group writes: values still to be converted, or bits as they are. -/
inductive VOut where
  | val (working : Option Nat) (v : Val)
  | raw (x : Nat)
deriving DecidableEq, Repr

/-- The value of element data of a source. -/
def srcVal (o : Opnd × Bool) (x : Nat × Nat) : Val := decodeElem (fmtPart o.1.d.fmt) x.1 x.2

/-- Element i of source j as read. -/
def datum (job : VJob) (j i : Nat) : Nat × Nat := (job.data.getD j []).getD i (0, 0)

/-- An INT64 result written to a pair (two elements) or converted. -/
def int64Outs (pairD : Bool) (i : Int) : List VOut :=
  if pairD then [.raw (toBits 64 i % 2 ^ 32), .raw (toBits 64 i / 2 ^ 32)] else [.val none (Val.ofInt i)]

/-- The result of VACC for one element (R137, R139). `a` is the accumulator word or the recombined integer
(DEDUCED, log 14). -/
def vaccElem (job : VJob) (f : VFields) (pairD : Bool) (i : Nat) : List VOut :=
  let act := bits f.md 1 0
  let src := job.srcs.head?
  let isInt := match src with | some s => s.1.d.fmt == 0x14 | none => false
  let two := modBit f.md 6
  let sc := hasScale f.md
  let bi := hasBias f.md
  let at1 := if two then 2 else 1
  let shift (lo : Nat) : Nat := 8 * bits f.md (lo + 1) lo
  let w0 := (datum job 0 i).1
  let carry : Int :=
    if modBit f.md 11 then
      let j := at1 + (if sc then 1 else 0) + (if bi then 1 else 0)
      int64Of (datum job j (2 * i)).1 (datum job j (2 * i + 1)).1
    else 0
  let wide : Int :=
    if isPair f then
      sat64 (sext w0 32 * 2 ^ shift 7 + (if two then sext (datum job 1 i).1 32 * 2 ^ shift 9 else 0) + carry)
    else sext w0 32
  if isInt && !sc && !bi then
    let v := activateInt act wide
    if isPair f then int64Outs pairD v else [.val none (Val.ofInt v)]
  else
    let v := if isInt then r32 (Val.ofInt wide) else fp32.decode w0
    let operand (src data : Nat) : Val :=
      if isPair f then r32 (Val.ofInt (int64Of (datum job data (2 * i)).1 (datum job data (2 * i + 1)).1))
      else match job.srcs[src]? with
        | some s => r32 (srcVal s (datum job data i))
        | none => .nan
    let v := if sc then r32 (v.mul (operand 1 at1)) else v
    let v := if bi then r32 (v.add (operand (if sc then 2 else 1) (at1 + (if sc then 1 else 0)))) else v
    let v := activate act v
    if pairD then int64Outs true (sat64 (v.toInt (-(2 ^ 63)) (2 ^ 63 - 1))) else [.val (some 0x00) v]

/-- The results of element i of an instruction with an operand block. -/
def vElem (job : VJob) (f : VFields) (i : Nat) : List VOut :=
  let pairD := pairDst f job.dst
  let df := match job.dst with | some d => fmtPart d.d.fmt | none => 0
  let fmts := job.srcs.map fun s => fmtPart s.1.d.fmt
  let word (j : Nat) : Int := int64Of (datum job j (2 * i)).1 (datum job j (2 * i + 1)).1
  let v (j : Nat) : Val := match job.srcs[j]? with | some s => srcVal s (datum job j i) | none => .nan
  let ones : Nat := 2 ^ fmtBits df - 1
  match f.code with
  | .vadd | .vsub | .vmul | .vfma | .vmax | .vmin | .vabs =>
    if isPair f then
      int64Outs pairD (sat64 (arith f.code (Val.ofInt (word 0)) (Val.ofInt (word 1)) (.fin false 0 0)).intOf)
    else match workingOf fmts df (job.srcs.any fun s => s.2) with
      | .exact => [.val none (Val.ofInt (arith f.code (v 0) (v 1) (v 2)).intOf)]
      | .flt w code => [.val (some code) (w.rne (arith f.code (w.rne (v 0)) (w.rne (v 1)) (w.rne (v 2))))]
  | .vcmp =>
    let p := if isPair f then vcmpRel (bits f.md 2 0) (Val.ofInt (word 0)) (Val.ofInt (word 1))
      else vcmpRel (bits f.md 2 0) (v 0) (v 1)
    if pairD then (if p then [.raw (2 ^ 32 - 1), .raw (2 ^ 32 - 1)] else [.raw 0, .raw 0])
    else [.raw (if p then ones else 0)]
  | .vsel =>
    if isPair f then
      let j := if word 0 ≠ 0 then 1 else 2
      let x := toBits 64 (word j)
      [.raw (x % 2 ^ 32), .raw (x / 2 ^ 32)]
    else [.raw (datum job (if (datum job 0 i).1 ≠ 0 then 1 else 2) i).1]
  | .vcvt =>
    -- A value beyond the destination's range takes R39 with the destination's descriptor, an MX source's as well
    -- (DEDUCED, log 14).
    if isPair f then [.val none (Val.ofInt (word 0))]
    else [.val none (v 0)]
  | .vexp2 => [.val (some 0x00) (vexp2 (r32 (v 0)))]
  | .vlog2 => [.val (some 0x00) (vlog2 (r32 (v 0)))]
  | .vrsq => [.val (some 0x00) (vrsq (r32 (v 0)))]
  | .vrcp => [.val (some 0x00) (vrcp (r32 (v 0)))]
  | .vtanh => [.val (some 0x00) (vtanh (r32 (v 0)))]
  | .vacc => vaccElem job f pairD i
  | .vperm =>
    let b := i / 16384
    let row := i % 16384 / 128
    let col := i % 128
    [.raw (datum job 0 (16384 * b + 128 * col + row)).1]
  | .vgather => [.raw (job.look.getD i 0)]
  | .vred | .vscan => []

/-- The results of a reduction or scan over the elements read so far: the rows' running results (R143). -/
def rowResults (job : VJob) (f : VFields) (upto : Nat) : List (List VOut) :=
  match job.srcs with
  | [] => []
  | s :: _ =>
    let x := max 1 (rowLen s.1)
    let isInt := fmtInt (fmtPart s.1.d.fmt)
    let wk : Option Nat := if isInt then none else some 0x00
    let val (i : Nat) : Val := if isInt then srcVal s (datum job 0 i) else r32 (srcVal s (datum job 0 i))
    (List.range ((upto + x - 1) / x)).map fun r =>
      let lo := r * x
      let hi := min upto (lo + x)
      (scanRow (bits f.md 1 0) isInt ((List.range (hi - lo)).map fun j => val (lo + j))).map fun v => .val wk v

/-- The outputs of group g with the destination index of the first (R214). -/
def groupOuts (k : Ctx) (lcore : Nat) (job : VJob) (g : Nat) : Nat × List VOut :=
  let (lo, hi) := groupSpan job.len job.lanes g
  match job.op with
  | .vec code h form =>
    let (md, lg) := match form with
      | .native m => (m.toNat, false)
      | .legacy _ m => (m.toNat, true)
    let f : VFields := ⟨code, h.toNat, md, job.len, lg⟩
    match code with
    | .vred =>
      let x := match job.srcs with | s :: _ => max 1 (rowLen s.1) | [] => 1
      let (a, b) := (lo / x, hi / x)
      (a, ((rowResults job f hi).drop a).take (b - a) |>.flatMap fun r => r.getLast?.toList)
    | .vscan => (lo, (((rowResults job f hi).flatMap id).drop lo).take (hi - lo))
    | _ =>
      let outs := (List.range (hi - lo)).flatMap fun i => vElem job f (lo + i)
      (if pairDst f job.dst then 2 * lo else lo, outs)
  | .vrng _ _ u01 form =>
    let stream := match form with | .native st => st.toNat | .legacy _ st => st.toNat
    let df := match job.dst with | some d => d.d.fmt | none => 0
    (lo, (List.range (hi - lo)).map fun i =>
      .raw (rngElem u01 df (philox k.region.seed lcore job.module stream job.runStep
        ((4 * job.ctr + (lo + i)) % 2 ^ 34))))
  | _ => (0, [])

/-! ### One cycle of the vector engine -/

/-- The bits of a run of outputs, and the scale bytes of an MX destination, one per block of 32 (R39, R40, R43). -/
def encodeOuts (d : Desc) (outs : List VOut) : List Nat × List Nat :=
  if fmtMX d.fmt then
    let vals := outs.map fun o => match o with | .val _ v => v | .raw _ => .nan
    let blocks := (List.range ((vals.length + 31) / 32)).map fun b => quantise d.fmt ((vals.drop (32 * b)).take 32)
    (blocks.flatMap fun b => b.2, blocks.map fun b => b.1)
  else
    (outs.map fun o => match o with | .val w v => writeElem d w v | .raw x => x, [])

/-- One byte of a run of elements: the bits that the elements of the run have in it, zero elsewhere (R36); where two
elements meet, the later one stands. -/
def byteOf (ps : List ((Nat × Nat) × Nat)) (w a : Nat) : Byte :=
  BitVec.ofNat 8 (ps.foldl
    (fun acc p =>
      let part (x : Nat) : Nat := x % 2 ^ w * 2 ^ p.1.2 / 256 ^ (a - p.1.1) % 256
      if p.1.1 ≤ a ∧ a < p.1.1 + (p.1.2 + w + 7) / 8 then
        (acc &&& (255 ^^^ part (2 ^ w - 1))) ||| part p.2
      else acc) 0)

/-- The cells that elements with given bits write from destination index lo on: whole elements, with byte masks. -/
def elemCells (o : Opnd) (lo : Nat) (xs : List Nat) : List (Nat × Byte) :=
  let w := o.d.vBits
  let ps := ((List.range xs.length).zip xs).map fun p => (o.d.vElemAt o.base (lo + p.1), p.2)
  if fmtSub o.d.fmt then
    let as := (ps.flatMap fun p => elemBytes w p.1).dedup
    as.map fun a => (a, byteOf ps w a)
  else ps.flatMap fun p => cellsAt p.1.1 (leBytes (w / 8) p.2)

/-- The destination accesses of a group: cells of elements (operand 0) and of scales (operand 4). -/
def groupWrite (k : Ctx) (c : CoreSt) (job : VJob) (g : Nat) : List (Nat × Byte) × List (Nat × Byte) :=
  match job.dst with
  | none => ([], [])
  | some d =>
    let (lo, outs) := groupOuts k c.lcore job g
    if outs.isEmpty then ([], [])
    else
      let (xs, ss) := encodeOuts d.d outs
      let cells := elemCells d lo xs
      let cells :=
        match job.op with
        | .vec .vred _ _ =>
          if fmtSub d.d.fmt && lo % 4 != 0 then
            let back := lo % 4
            let prev := (List.range g).flatMap fun i => (groupOuts k c.lcore job i).2
            let xs' := ((encodeOuts d.d prev).1.drop (lo - back)) ++ xs
            let touched := cells.map fun x => x.1
            (elemCells d (lo - back) xs').filter fun x => touched.contains x.1
          else cells
        | _ => cells
      let sc := (List.range ss.length).filterMap fun b =>
        (d.scaleAt (lo + 32 * b)).map fun a => (a, BitVec.ofNat 8 (ss.getD b 0))
      (cells, sc)

/-- The sources of a job with their operand numbers of R92: scratchpad sources from 1 on. -/
def numbered (srcs : List (Opnd × Bool)) (n : Nat) : List (Opnd × Bool × Nat) :=
  match srcs with
  | [] => []
  | (o, true) :: r => (o, true, 0) :: numbered r n
  | (o, false) :: r => (o, false, n) :: numbered r (n + 1)

/-- The elements of source j that group g reads. -/
def jobSpan (job : VJob) (acc : Bool) (g : Nat) : Nat × Nat :=
  match job.op with
  | .vec code h form =>
    let (md, lg) := match form with
      | .native m => (m.toNat, false)
      | .legacy _ m => (m.toNat, true)
    srcSpan ⟨code, h.toNat, md, job.len, lg⟩ acc job.len job.lanes g
  | _ => (0, 0)

/-- Whether a VACC job reads two areas. -/
def jobAreas (job : VJob) (o : Opnd) : List Opnd :=
  match job.op with
  | .vec .vacc h (.native m) => vaccAreas ⟨.vacc, h.toNat, m.toNat, job.len, false⟩ o
  | _ => [o]

/-- Data appended to the lists of a job, one list per source stream. -/
def appendData (old new : List (List (Nat × Nat))) : List (List (Nat × Nat)) :=
  match old, new with
  | [], ns => ns
  | os, [] => os
  | o :: os, n :: ns => (o ++ n) :: appendData os ns

/-- The reads of one group: claims, losses, and the data of every source stream. -/
def groupRead (c : CoreSt) (job : VJob) (g : Nat) (claims : List Claim) :
    List Claim × List (Nat × Nat × Nat) × List (List (Nat × Nat)) :=
  (numbered job.srcs 1).foldl
    (fun (st : List Claim × List (Nat × Nat × Nat) × List (List (Nat × Nat))) s =>
      let (claims, lost, data) := st
      let (o, acc, num) := s
      if acc then
        let (lo, hi) := jobSpan job true g
        let reads := (jobAreas job o).map fun a =>
          (List.range (hi - lo)).map fun i =>
            (c.acc.num (gaOff (a.d.vElemAt a.base (lo + i)).1 - 0x1000000) 4, 0)
        (claims, lost, data ++ reads)
      else
        let (lo, hi) := jobSpan job false g
        let (claims, l1) := arbitrate claims 3 ((o.groupGranules lo hi).map fun x => (num, x))
        let (claims, l2) := arbitrate claims 3 ((o.scaleGranules lo hi).map fun x => (4 + num, x))
        let els := (List.range (hi - lo)).map fun i =>
          (spadElem c.spad (lostGranules l1) (o.d.vElemAt o.base (lo + i)) o.d.vBits,
           spadScale c.spad (lostGranules l2) (o.scaleAt (lo + i)))
        (claims, lost ++ l1 ++ l2, data ++ [els]))
    (claims, [], [])

/-- The group whose access was lost at the lowest bank: the destination's group for operands 0 and 4, else the group
that is read (DEDUCED, log 17). -/
def lostGroup (lost : List (Nat × Nat × Nat)) (wr rd : Nat) : Nat :=
  match argMin (fun x => bankOf (lost.getD x (0, 0, 0)).2.1) (List.range lost.length) with
  | some x => if (lost.getD x (0, 0, 0)).1 % 4 = 0 then wr else rd
  | none => rd

/-- One job in one cycle: destination write first, then the sources (R91). The write is returned as cells. -/
def jobCycle (k : Ctx) (c : CoreSt) (t : Nat) (claims : List Claim) (job : VJob) :
    VJob × List Claim × List LostBank × List (Nat × Byte) :=
  let g := t - job.at_
  let wr := g - job.lat
  let writes := job.lat ≤ g && wr < job.groups && job.dst.isSome
  let (cells, sc) := if writes then groupWrite k c job wr else ([], [])
  let (claims, l0) := arbitrate claims 3 ((granules (cells.map fun x => x.1)).map fun x => (0, x))
  let (claims, l1) := arbitrate claims 3 ((granules (sc.map fun x => x.1)).map fun x => (4, x))
  let keep (l : List (Nat × Nat × Nat)) (x : Nat × Byte) : Bool := !(lostGranules l).contains (granuleOf (gaOff x.1))
  let out := (cells.filter (keep l0)) ++ (sc.filter (keep l1))
  let (claims, l2, data) := if g < job.groups then groupRead c job g claims else (claims, [], [])
  ({ job with data := if g < job.groups then appendData job.data data else job.data }, claims,
   lostRecord .v job.bundle (lostGroup (l0 ++ l1 ++ l2) wr g) (l0 ++ l1 ++ l2), out)

/-- Every job of the vector engine in one cycle, the older first (R91). -/
def jobsCycle (k : Ctx) (c : CoreSt) (t : Nat) (claims : List Claim) (jobs : List VJob) :
    List VJob × List Claim × List LostBank × List (Nat × Byte) :=
  match jobs with
  | [] => ([], claims, [], [])
  | j :: r =>
    let (j, claims, l, w) := jobCycle k c t claims j
    let (js, claims, ls, ws) := jobsCycle k c t claims r
    (j :: js, claims, l ++ ls, w ++ ws)

/-- The gather store in one cycle (R145), its misses counted without a bound (log 84): a LOAD writes the entries read a cycle
before and sets the table when its last group is read; a GATHER looks up the indices read a cycle before. `c0` is the start
of the cycle. -/
def gatherCycle (c0 : CoreSt) (t : Nat) (c : CoreSt) (job : VJob) : CoreSt × VJob :=
  match job.op with
  | .vec .vgather _ form =>
    let load := match form with | .native m => m.getLsbD 0 | .legacy _ m => m.getLsbD 0
    let g := t - job.at_
    if load then
      let c := if 1 ≤ g ∧ g ≤ job.groups then
          let (lo, hi) := groupSpan job.len 16 (g - 1)
          let store := c.gather ++ List.replicate (4096 - c.gather.length) 0
          { c with gather := (List.range (hi - lo)).foldl (fun l i => l.set (lo + i) (datum job 0 (lo + i)).1) store }
        else c
      let c := if g + 1 = job.groups then
          { c with gatherTN := job.len
                   gatherFmt := (match job.srcs with | s :: _ => s.1.d.fmt | [] => 0) }
        else c
      (c, job)
    else if 1 ≤ g ∧ g ≤ job.groups then
      let (lo, hi) := groupSpan job.len 16 (g - 1)
      let f := match job.srcs with | s :: _ => s.1.d.fmt | [] => 0x14
      let idx := (List.range (hi - lo)).map fun i => intElem f (datum job 0 (lo + i)).1
      let hit (x : Int) : Bool := decide (0 ≤ x) && decide (x < c0.gatherTN)
      let found := idx.map fun x => if hit x then c0.gather.getD x.toNat 0 else 0
      ({ c with gatherMiss := c.gatherMiss + (idx.filter fun x => !hit x).length },
       { job with look := job.look ++ found })
    else (c, job)
  | _ => (c, job)

/-- The gather accesses of all jobs. -/
def gatherAll (c0 : CoreSt) (t : Nat) (c : CoreSt) (jobs : List VJob) : CoreSt × List VJob :=
  match jobs with
  | [] => (c, [])
  | j :: r =>
    let (c, j) := gatherCycle c0 t c j
    let (c, js) := gatherAll c0 t c r
    (c, j :: js)

/-- The vector engine in one cycle. -/
def vCycle (k : Ctx) (c : CoreSt) (t : Nat) (claims : List Claim) : CoreSt × List Claim × List LostBank :=
  let (jobs, claims, lost, out) := jobsCycle k c t claims c.vjobs
  let (c', jobs) := gatherAll c t c jobs
  ({ c' with
     spad := c'.spad.writeCells (out.map fun x => (gaOff x.1, x.2))
     vjobs := jobs.filter fun j => t < j.at_ + j.groups + j.lat },
   claims, lost)

end Sys2Proof.Machine
end

