-- ==== Sys2Proof/Machine/XferLife.lean ====
section
/-! DEFINITION. The life of a transfer after its issue (R229 to R241, R243, R245, R250 to R255, R416): start conditions,
starts and merged runs, landing, completion, announces, and remote signals. Each step of a life is one operation, which
a command of its own performs; the clock performs those whose cycle the spec fixes. -/

namespace Sys2Proof.Machine

/-! ### Looking up -/

/-- The context of a core. -/
def State.ctx (s : State) (c : CoreSt) : Ctx :=
  { cycle := s.time.cycle, module := s.kol.module
    region := (s.region? c.region).getD
      { num := 0, x0 := 0, y0 := 0, x1 := 0, y1 := 0, phase := .parked } }

/-- A transfer of a core by queue and index: the one that holds the index, or an older one whose announce is still to
apply. -/
def CoreSt.xfer? (c : CoreSt) (q idx : Nat) : Option Xfer :=
  match (c.queue q).live.find? fun x => x.idx == idx && !x.freed with
  | some x => some x
  | none => (c.queue q).live.find? fun x => x.idx == idx

/-- A transfer changed. -/
def CoreSt.updXfer (c : CoreSt) (q idx gen : Nat) (f : Xfer → Xfer) : CoreSt :=
  c.updQueue q fun y => { y with live := y.live.map fun x => if x.idx == idx && x.gen == gen then f x else x }

/-- A transfer by queue, index and generation. -/
def State.xferOf (s : State) (l q idx gen : Nat) : Option Xfer :=
  (s.core? l).bind fun c => (c.queue q).live.find? fun x => x.idx == idx && x.gen == gen

/-- A delivery of a transfer changed. -/
def Xfer.updDelivery (x : Xfer) (member : Nat) (f : Delivery → Delivery) : Xfer :=
  { x with deliveries := x.deliveries.map fun d => if d.member == member then f d else d }

/-- The delivery to a member. -/
def Xfer.delivery? (x : Xfer) (member : Nat) : Option Delivery := x.deliveries.find? fun d => d.member == member

/-- Bytes of a delivery that have landed. -/
def Delivery.count (d : Delivery) : Nat := (d.landed.map fun l => l.2.1).foldl (· + ·) 0

/-- Every byte of a delivery has landed. -/
def Xfer.allLanded (x : Xfer) (d : Delivery) : Bool := decide (x.bytes ≤ d.count)

/-- A range [off, off + len) lies inside one of several ranges. -/
def covered (rs : List (Nat × Nat)) (off len : Nat) : Bool := rs.any fun r => r.1 ≤ off && off + len ≤ r.1 + r.2

/-- A range meets one of several ranges. -/
def meets (rs : List (Nat × Nat)) (off len : Nat) : Bool := rs.any fun r => r.1 < off + len && off < r.1 + r.2

/-! ### Start conditions (R250) -/

/-- Conditions served in order: each waits for the ones before it on its tally (R180). -/
def serveList (l : List Cond) (blocked : List Nat) (c : CoreSt) : CoreSt × List Cond :=
  match l with
  | [] => (c, [])
  | x :: r =>
    if !blocked.contains x.tally && x.count ≤ c.avail x.tally then
      let c := (c.takeTally x.tally x.count).updQueue x.q fun y => { y with live := y.live.map fun t =>
        if t.idx == x.idx && !t.freed then { t with condServed := true } else t }
      serveList r blocked c
    else
      let (c, rest) := serveList r (x.tally :: blocked) c
      (c, x :: rest)

/-- Every condition that can be served in this cycle. -/
def CoreSt.serveConds (c : CoreSt) : CoreSt :=
  let (c, rest) := serveList c.conds [] c
  { c with conds := rest }

/-- One condition served, when it is the first on its tally and the count suffices. -/
def CoreSt.serveOne (c : CoreSt) (q idx : Nat) : CoreSt :=
  match c.conds.find? fun x => x.q == q && x.idx == idx with
  | none => c
  | some x =>
    match c.conds.find? fun y => y.tally == x.tally with
    | some y =>
      if y == x && x.count ≤ c.avail x.tally then
        let c := c.takeTally x.tally x.count
        { c.updQueue q (fun z => { z with live := z.live.map fun t =>
            if t.idx == idx && !t.freed then { t with condServed := true } else t }) with
          conds := c.conds.filter fun y => y != x }
      else c
    | none => c

/-! ### Starting (R229, R230, R232, R416) -/

/-- Attributes without the start field, for the comparison of R232. -/
def XAttr.noStart (a : XAttr) : XAttr := { a with startEn := false, startTally := 0, startCount := 0 }

/-- The destination base of a delivery: the template with the member's core (R197). -/
def Xfer.dstBase (x : Xfer) (module member : Nat) : Nat :=
  match x.kind with
  | .put => x.dst.base
  | _ => coreGA module member (gaOff x.dst.base)

/-- Hulls as GA ranges in granules: the source, then the destinations (R230). -/
def Xfer.hulls (x : Xfer) (module : Nat) : (Nat × Nat) × List (Nat × Nat) :=
  let g (h : Nat × Nat) : Nat × Nat := (h.1 / 64, h.2 / 64)
  (g (x.src.d.hull x.src.base),
   if x.attr.stream then []
   else x.deliveries.map fun d => g (x.dst.d.hull (x.dstBase module d.member)))

/-- Two granule ranges meet. -/
def rangesMeet (a b : Nat × Nat) : Bool := a.1 ≤ b.2 && b.1 ≤ a.2

/-- The queue-order check of R230: read-after-write, write-after-read, write-after-write. -/
def orderClear (module : Nat) (old new : Xfer) : Bool :=
  let (os, od) := old.hulls module
  let (ns, nd) := new.hulls module
  !(od.any fun r => rangesMeet r ns) && !(nd.any fun r => rangesMeet r os)
    && !(nd.any fun r => od.any fun r' => rangesMeet r r')

/-- The transfers of a queue that have started and are not complete. -/
def Queue.open_ (q : Queue) : List Xfer := q.live.filter fun y => y.started.isSome && !y.complete && !y.discarded

/-- The queue-order check against several earlier transfers. -/
def orderFree (module : Nat) (olds : List Xfer) (x : Xfer) : Bool := olds.all fun y => orderClear module y x

/-- The next transfer of a queue that has not started. -/
def Queue.next? (q : Queue) : Option Xfer := q.live.find? fun x => x.started.isNone && !x.discarded && !x.freed

/-- Whether a transfer may start now (R229, R245). -/
def canStart (k : Ctx) (c : CoreSt) (q : Queue) (x : Xfer) : Bool :=
  x.condServed
    && !(k.region.phase == .stopping && k.region.stopKind == .stop)
    && (!(x.attr.stream && x.kind == .put) || decide (c.streamTail - c.streamHead + x.bytes ≤ 262144))
    && orderFree k.module q.open_ x

/-- A walk is one contiguous run of bytes. -/
def Desc.contiguous (d : Desc) : Bool :=
  let start : Nat × List Nat :=
    if fmtSub d.fmt then (d.extent 0 * fmtBits d.fmt / 8, (List.range (d.rank - 1)).map (· + 1))
    else (fmtBits d.fmt / 8, List.range d.rank)
  (start.2.foldl
    (fun (st : Nat × Bool) j =>
      (st.1 * d.extent j, st.2 && (d.extent j == 1 || d.strideOf j == (st.1 : Int))))
    (start.1, true)).2

/-- The memory target of a place: what a merged run must stay inside. -/
def targetOf (p : Place) : Option (Nat × Nat) :=
  match p with
  | .core l _ => some (0, l)
  | .well ph _ => some (1, ph)
  | .pool d _ => some (2, d)
  | .stack st _ => some (3, st)
  | .remote m => some (4, m)
  | _ => none

/-- A walk of n bytes is one contiguous run in one target. -/
def State.oneRun (s : State) (o : Opnd) (n : Nat) : Bool :=
  o.d.contiguous && (targetOf (s.place o.base)).isSome
    && targetOf (s.place o.base) == targetOf (s.place (o.base + n - 1))

/-- Whether y joins a merged run behind x, whose first member is `first` (R232). -/
def State.joins (s : State) (first x y : Xfer) (cycle : Nat) : Bool :=
  decide (y.accepted ≤ cycle) && !x.attr.stream && !y.attr.stream && x.kind == .put && y.kind == .put
    && decide (y.src.base = x.src.base + x.bytes) && decide (y.dst.base = x.dst.base + x.bytes)
    && s.oneRun first.src first.bytes && s.oneRun first.dst first.bytes
    && s.oneRun y.src y.bytes && s.oneRun y.dst y.bytes
    && targetOf (s.place y.src.base) == targetOf (s.place first.src.base)
    && targetOf (s.place y.dst.base) == targetOf (s.place first.dst.base)
    && !y.attr.startEn && !y.attr.noMerge && !first.attr.noMerge
    && y.attr.noStart == first.attr.noStart

/-- The transfers that a starting one gathers, at most 8 with it and 64 KiB. Each is held against the transfers before it that
have started and are not complete, the run's own among them, so that merging changes no bytes (R230, R232). -/
def State.gatherRun (s : State) (olds : List Xfer) (first x : Xfer) (rest : List Xfer) (n total cycle : Nat) : List Xfer :=
  match rest with
  | [] => []
  | y :: r =>
    if n < 8 ∧ total + y.bytes ≤ 65536 ∧ s.joins first x y cycle = true ∧ orderFree s.kol.module (x :: olds) y = true then
      y :: s.gatherRun (x :: olds) first y r (n + 1) (total + y.bytes) cycle
    else []

/-- The addresses of bytes off to off + len - 1 of a walk. -/
def chunkAddrs (o : Opnd) (base off len : Nat) : List GA := (List.range len).map fun i => o.d.byteAt base (off + i)

/-- The unit field of R241 for a place: well segment, pool-window segment or stack channel. -/
def unitOf (s : State) (p : Place) (g : GA) : Nat × Nat × Nat :=
  let _ := s
  match p with
  | .well _ o => (1, (if bits g 44 44 = 1 then bits g 33 26 else o / 2 ^ 26), 0)
  | .pool _ o => (1, o / 2 ^ 26, 0)
  | .stack st o => (2, channelOf o, st)
  | .remote _ => (3, 0, 0)
  | .control _ => (0, 0xFF, 0)
  | .unmapped => if gaSpace g = 1 then (1, (if bits g 44 44 = 1 then bits g 33 26 else bits g 29 26), 0)
      else if gaSpace g = 2 then (2, channelOf (bits g 37 0), bits g 44 40) else (0, 0, 0)
  | .unbacked =>
    if gaModule g != s.kol.module then (3, 0, 0)
    else if gaSpace g = 1 then (1, (if bits g 44 44 = 1 then bits g 33 26 else bits g 29 26), 0) else (0, 0, 0)
  | .core _ _ => (0, 0, 0)

/-- A fault found at a transfer's target, raised once per transfer and code (R240, R241) (DEDUCED, log 69). -/
def State.xferFault (s : State) (l : Nat) (x : Xfer) (code : FCode) (write : Bool) (g : GA) : State :=
  match s.core? l with
  | none => s
  | some c =>
    match (c.queue x.q).live.find? fun y => y.idx == x.idx && y.gen == x.gen with
    | none => s
    | some y =>
      if y.raised.contains code then s
      else
        let (tg, unit, st) := unitOf s (s.place g) g
        let s := s.updCore l fun c => c.updXfer x.q x.idx x.gen fun z => { z with raised := z.raised ++ [code] }
        s.raise l code (some .x) x.bundle (targetDetail tg write unit st x.q x.idx (c.step - x.step))

/-- The first address of a walk that the issuing core's router finds unbacked (R416). -/
def State.unbackedAt (s : State) (as : List GA) : Option GA := as.find? fun g => s.place g == .unbacked

/-- The read requests of a transfer whose source lies on another module, one per contiguous run, with the landing space
reserved for each (R395, R397). -/
def State.requestRuns (s : State) (l : Nat) (x : Xfer) (m : Nat) (rs : List (GA × Nat)) (off : Nat) : State :=
  match rs with
  | [] => s
  | (g, n) :: r =>
    let hdr : FlitHdr :=
      { dst := m, src := s.kol.module, srcCore := l, srcGA := g, dstGA := x.dst.base, payload := n
        tagIdx := x.idx, queue := x.q, issuer := l }
    let rd : RemoteRead := { core := l, q := x.q, idx := x.idx, gen := x.gen, off := off, len := n, module := m }
    let s := { s with fab := { s.fab with reads := s.fab.reads ++ [rd] } }
    let s := match s.route m with | some (p, _) => s.sendFlit p 1 0x02 hdr [] | none => s
    s.requestRuns l x m r (off + n)

/-- A transfer as its start marks it: the cycle, the place in the stream buffer, and the path of an MCAST, which is the mode
of its group at the core's last step boundary (R238). -/
def Xfer.begun (c : CoreSt) (cycle : Nat) (x : Xfer) : Xfer :=
  { x with
    started := some cycle
    chainMode := x.chainMode || (x.kind == .mcast && (match x.grp with | some g => c.chain.getD g false | none => false))
    deliveries := if x.attr.stream && x.kind == .put then x.deliveries.map fun d => { d with pos := some c.streamTail }
                  else x.deliveries }

/-- A transfer starts: its cycle, its place in the stream buffer, the router's check of its ends (R416), the request for
a source on another module (R397). -/
def State.startOne (s : State) (l : Nat) (x : Xfer) : State :=
  match s.core? l with
  | none => s
  | some c =>
    let reserve := x.attr.stream && x.kind == .put
    let s := s.updCore l fun c =>
      { c.updXfer x.q x.idx x.gen (Xfer.begun c s.time.cycle) with
        streamTail := c.streamTail + (if reserve then x.bytes else 0) }
    let src := s.unbackedAt (chunkAddrs x.src x.src.base 0 x.bytes)
    let dst : Option GA :=
      if x.attr.stream then none
      else x.deliveries.findSome? fun d =>
        s.unbackedAt (chunkAddrs x.dst (x.dstBase s.kol.module d.member) 0 x.bytes)
    let s := match src with | some g => s.xferFault l x .addressUnmapped false g | none => s
    let s := match dst with | some g => s.xferFault l x .addressUnmapped true g | none => s
    let m := gaModule x.src.base
    if m != s.kol.module && s.inMap m then s.requestRuns l x m (runsOf (chunkAddrs x.src x.src.base 0 x.bytes)) 0 else s

/-- Whether the region of a core is under STOP, or takes it in the present cycle: none of its queues starts a transfer
(R245). -/
def State.startsBarred (s : State) (l : Nat) : Bool :=
  match s.regionOf l with
  | some x => (x.phase == .stopping && x.stopKind == .stop) || s.stopDue x
  | none => true

/-- The head of a queue starts with its merged run, when R229 allows it. -/
def State.startQueue (s : State) (l q : Nat) : State :=
  match s.core? l with
  | none => s
  | some c =>
    let k := s.ctx c
    let y := c.queue q
    if s.startsBarred l || y.live.any fun x => x.started == some k.cycle then s
    else match y.next? with
      | none => s
      | some x =>
        if !canStart k c y x then s
        else
          let rest := (y.live.dropWhile fun z => !(z.idx == x.idx && z.gen == x.gen)).drop 1
          let run := x :: s.gatherRun y.open_ x x rest 1 x.bytes k.cycle
          run.foldl (fun s z => s.startOne l z) s

/-! ### Banks on the background path (R88, R93) -/

/-- A bank of a core taken for one background access of the present cycle; none when a scheduled access or an earlier
background one has it. -/
def State.takeBank (s : State) (l b : Nat) : Option State :=
  match s.core? l with
  | none => none
  | some c => if c.bgUsed.contains b then none else some (s.updCore l fun c => { c with bgUsed := b :: c.bgUsed })

/-! ### Places and faults at a target (R87, R223, R224, R239 to R243, R255, R302, R416) -/

/-- Whether a region that is LOADING or PARKING holds a die pool of this module (R302). -/
def State.poolRefusing (s : State) (p : Nat) : Bool :=
  s.regions.any fun x => (x.phase == .loading || x.phase == .parking) && x.place.pools.any fun b => b.1 == p

/-- How a place fails a transfer (R87, R223, R224, R243, R255, R302, R416): the code, or none when it serves. -/
def State.placeFault (s : State) (p : Place) (g : GA) (started : Option Nat) : Option FCode :=
  match p with
  | .core l o =>
    if s.refusing l then some .parkedTarget
    else if o < 0x1000000 then none else some .addressUnmapped
  | .remote _ => none
  | .control _ | .unmapped | .unbacked => some .addressUnmapped
  | p =>
    if s.placeParked p started
        || (gaSpace g == 1 && (if bits g 44 44 = 0 then s.refusing (gaCore g) else s.poolRefusing (bits g 50 45))) then
      some .parkedTarget
    else none

/-- The die of a near-memory place, for the counts of R239. -/
def dieOfPlace (p : Place) : Option Nat :=
  match p with
  | .well ph _ => some (dieOf ph)
  | .pool d _ => some d
  | _ => none

/-- A count kept per key. -/
def bump (l : List (Nat × Nat)) (k n : Nat) : List (Nat × Nat) :=
  match l with
  | [] => [(k, n)]
  | x :: r => if x.1 = k then (k, x.2 + n) :: r else x :: bump r k n

/-- The count of a key. -/
def countOf (l : List (Nat × Nat)) (k : Nat) : Nat := ((l.find? fun x => x.1 == k).map fun x => x.2).getD 0

/-- The first address of a list that lies in a well, a pool or a stack. -/
def State.memoryAt (s : State) (as : List GA) : Option GA :=
  as.find? fun g => match s.place g with | .well .. | .pool .. | .stack .. => true | _ => false

/-- The key of a well segment of 64 MiB in Alnico's counts (R293). -/
def segKey (phys off : Nat) : Nat := 16 * phys + off / 2 ^ 26

/-- What a granule read with errors leaves in Alnico's counts (R239, R347): key 2d of `eccDie` counts corrected, key 2d + 1
uncorrectable granules of die d; a corrected granule is rewritten in its port's next refresh slot. -/
def State.eccCount (s : State) (g : GA) (corrected : Bool) : State :=
  let s := match dieOfPlace (s.place g) with
    | some d => { s with mem := { s.mem with
        eccDie := bump s.mem.eccDie (if corrected then 2 * d else 2 * d + 1) 1
        rewrites := if corrected then s.mem.rewrites ++ [(d, g / 64)] else s.mem.rewrites } }
    | none => s
  match s.place g with
  | .well ph o => if corrected then { s with mem := { s.mem with eccWell := bump s.mem.eccWell (segKey ph o) 1 } } else s
  | _ => s

/-! ### The source, read once (R94, R197, R198) -/

/-- How one source byte is read: now, with a fault that makes it zero; in a bank of a core; or not yet. -/
inductive SrcByte where
  | now (b : Byte) (f : Option FCode)
  | bank (l o : Nat)
  | wait
deriving DecidableEq, Repr

/-- How the byte at an address is read in the present cycle: a scratchpad through its bank, another module's by its answer,
a memory unless its port refreshes (R226, R227). -/
def State.srcByte (s : State) (g : GA) (started : Option Nat) : SrcByte :=
  let p := s.place g
  match s.placeFault p g started with
  | some f => .now 0 (some f)
  | none => match p with
    | .core l o => .bank l o
    | .remote _ => .wait
    | p => if s.refreshing p then .wait else .now (s.placeByte p) none

/-- The address of source byte i. -/
def Xfer.srcAt (x : Xfer) (i : Nat) : GA := x.src.d.byteAt x.src.base i

/-- The source bytes of a chunk that have not been read. -/
def Xfer.missing (x : Xfer) (off len : Nat) : List Nat :=
  ((List.range len).map fun i => off + i).filter fun i => !(x.srcRead.any fun b => b.1 == i)

/-- The source bytes of a chunk as they were read. -/
def Xfer.readBytes (x : Xfer) (off len : Nat) : List Byte :=
  (List.range len).map fun i => ((x.srcRead.find? fun b => b.1 == off + i).map fun b => b.2).getD 0

/-- Source bytes read: kept, each once; with the last one the source range is released and a released ring slot drained
(R94, R102). -/
def State.noteRead (s : State) (l q idx gen : Nat) (cells : List (Nat × Byte)) : State :=
  match s.xferOf l q idx gen with
  | none => s
  | some x =>
    let new := cells.filter fun b => !(x.srcRead.any fun a => a.1 == b.1)
    let done := decide (x.bytes ≤ x.srcRead.length + new.length)
    let ends := done && decide (x.srcRead.length < x.bytes)
    s.updCore l fun c =>
      let c := c.updXfer q idx gen fun y => { y with srcRead := y.srcRead ++ new, srcDone := y.srcDone || done }
      if ends && x.src.d.ring && x.src.d.release then c.updRing x.src.d.ctx Ring.drain else c

/-- What ECC does to the bytes of a chunk that are read from a well, a pool or a stack (R239, R240): the bytes as delivered,
the fault, and the counts. `raw` are the bytes of an uncorrectable chunk as they are read. -/
def State.eccChunk (s : State) (l : Nat) (x : Xfer) (off : Nat) (cells : List (Nat × Byte)) (e : EccOutcome) :
    State × List (Nat × Byte) :=
  match e, s.memoryAt (cells.map fun b => x.srcAt b.1) with
  | .clean, _ => (s, cells)
  | _, none => (s, cells)
  | .corrected, some g => ((s.eccCount g true).xferFault l x .memCorrected false g, cells)
  | .uncorrectable raw, some g =>
    ((s.eccCount g false).xferFault l x .memUncorrectable false g,
     cells.map fun b => (b.1, raw.getD (b.1 - off) b.2))

/-- A read of a chunk's scratchpad bytes put on the background path, behind the transfers accepted before it (R93). -/
def insertPull (p : Pull) (l : List Pull) : List Pull :=
  match l with
  | [] => [p]
  | a :: r =>
    if a.accepted < p.accepted ∨ a.accepted = p.accepted ∧ a.issuer ≤ p.issuer then a :: insertPull p r else p :: a :: r

/-- The source of a chunk read as far as the present cycle lets it: bytes of memories at once, bytes of scratchpads through
the background path, zeros once the source's module is lost (R265). -/
def State.pullChunk (s : State) (l : Nat) (x : Xfer) (off len : Nat) (e : EccOutcome) : State :=
  let miss := x.missing off len
  if miss.isEmpty then s
  else if x.srcUnmapped then s.noteRead l x.q x.idx x.gen (miss.map fun i => (i, 0))
  else
    let reads := miss.map fun i => (i, s.srcByte (x.srcAt i) x.started)
    let now := reads.filterMap fun r => match r.2 with | .now b _ => some (r.1, b) | _ => none
    let fault := reads.findSome? fun r => match r.2 with | .now _ (some f) => some (f, x.srcAt r.1) | _ => none
    let bank := reads.any fun r => match r.2 with | .bank .. => true | _ => false
    let s := match fault with | some (f, g) => s.xferFault l x f false g | none => s
    let (s, now) := s.eccChunk l x off now e
    let s := if now.isEmpty then s else s.noteRead l x.q x.idx x.gen now
    let p : Pull := { accepted := x.accepted, issuer := l, q := x.q, idx := x.idx, gen := x.gen, off := off, len := len }
    if bank && !s.fab.pulls.contains p then { s with fab := { s.fab with pulls := insertPull p s.fab.pulls } } else s

/-- The scratchpad bytes that a read waits for: (source offset, core, scratchpad offset). -/
def State.bankBytes (s : State) (x : Xfer) (off len : Nat) : List (Nat × Nat × Nat) :=
  (x.missing off len).filterMap fun i =>
    match s.srcByte (x.srcAt i) x.started with | .bank l o => some (i, l, o) | _ => none

/-- One read on the background path in the present cycle: each granule whose bank is free (R93). -/
def State.servePull (s : State) (p : Pull) : State :=
  match s.xferOf p.issuer p.q p.idx p.gen with
  | none => s
  | some x =>
    let bs := s.bankBytes x p.off p.len
    let grans := (bs.map fun b => (b.2.1, granuleOf b.2.2)).dedup
    grans.foldl
      (fun s t => match s.takeBank t.1 (bankOf t.2) with
        | none => s
        | some s => s.noteRead p.issuer p.q p.idx p.gen
            ((bs.filter fun b => b.2.1 == t.1 && granuleOf b.2.2 == t.2).map fun b => (b.1, s.placeByte (.core t.1 b.2.2))))
      s

/-- Outbound payload reads of a cycle, in the issue order of their transfers; the reads that are done leave (R93). -/
def State.outbound (s : State) : State :=
  let s := s.fab.pulls.foldl State.servePull s
  let waits (p : Pull) : Bool := match s.xferOf p.issuer p.q p.idx p.gen with
    | some x => !x.complete && !x.discarded && !(s.bankBytes x p.off p.len).isEmpty
    | none => false
  { s with fab := { s.fab with pulls := s.fab.pulls.filter waits } }

/-! ### Landing (R231, R240, R241, R243, R252) -/

/-- A chunk of a delivery has landed. -/
def State.markLanded (s : State) (l q idx gen member off len : Nat) : State :=
  s.updCore l fun c => c.updXfer q idx gen fun y => y.updDelivery member fun d =>
    { d with landed := d.landed ++ [(off, len, s.time.cycle)], lastCycle := s.time.cycle }

/-- Payload into a stream buffer (R119, R121): a delivery of a group reserves its place as its first byte arrives; none
when it cannot reserve. -/
def State.landStream (s : State) (l : Nat) (x : Xfer) (member off : Nat) (bs : List Byte) : Option State :=
  match s.core? member, x.delivery? member with
  | some m, some d =>
    let pos? : Option Nat := match d.pos with
      | some p => some p
      | none => if m.streamTail - m.streamHead + x.bytes ≤ 262144 then some m.streamTail else none
    pos?.map fun p =>
      let cells := (List.range bs.length).map fun i => (p + off + i, bs.getD i 0, s.time.cycle)
      let s := s.updCore member fun m =>
        { m with stream := m.stream ++ cells, streamTail := if d.pos.isSome then m.streamTail else m.streamTail + x.bytes }
      s.updCore l fun c => c.updXfer x.q x.idx x.gen fun y => y.updDelivery member fun d => { d with pos := some p }
  | _, _ => some s

/-- The write packets of a chunk whose destination lies on another module, one per contiguous run; the announce rides on
the transfer's last byte (R395, R396). -/
def State.sendRuns (s : State) (l : Nat) (x : Xfer) (m : Nat) (rs : List (GA × Nat)) (last : Bool) (bs : List Byte) : State :=
  match rs with
  | [] => s
  | (g, n) :: r =>
    let fin := last && r.isEmpty
    let hdr : FlitHdr :=
      { dst := m, src := s.kol.module, srcCore := l, dstGA := g, payload := n
        tagIdx := x.idx, queue := x.q, issuer := l
        sigCore := if x.attr.annEn then x.attr.annCore else 0, sigTally := if x.attr.annEn then x.attr.annTally else 0
        sigCount := if x.attr.annEn then x.attr.annCount else 0, sigLast := x.attr.annEn && fin }
    let s := match s.route m with | some (p, _) => s.sendFlit p 0 0x01 hdr (bs.take n) | none => s
    s.sendRuns l x m r last (bs.drop n)

/-- Bytes of a delivery that have been sent to another module. -/
def Delivery.sentCount (d : Delivery) : Nat := (d.sent.map fun r => r.2).foldl (· + ·) 0

/-- Every byte of a delivery has landed, or is on its way to another module. -/
def Xfer.allSent (x : Xfer) (d : Delivery) : Bool := x.allLanded d || decide (x.bytes ≤ d.sentCount)

/-- A chunk sent to another module: its announce rides on the last byte to leave, unless it has been withdrawn (R252,
R253). -/
def State.sendChunk (s : State) (l : Nat) (x : Xfer) (d : Delivery) (m off : Nat) (bs : List Byte) : State :=
  let last := decide (x.bytes ≤ d.sentCount + bs.length) && !d.withdrawn
  let s := s.sendRuns l x m (runsOf (chunkAddrs x.dst x.dst.base off bs.length)) last bs
  s.updCore l fun c => c.updXfer x.q x.idx x.gen fun y => y.updDelivery d.member fun d =>
    { d with sent := d.sent ++ [(off, bs.length)] }

/-- Payload waiting in the landing buffer of a core, in bytes (R94). -/
def CoreSt.landingBytes (c : CoreSt) : Nat := (c.landing.map fun w => w.cells.length).foldl (· + ·) 0

/-- The free bytes of a core's landing buffer of 32 KiB. -/
def CoreSt.landingRoom (c : CoreSt) : Nat := 32768 - c.landingBytes

/-- A chunk whose bytes have all been read put to its destination, as far as the present cycle lets it: the bytes that it
took. Bytes that the place refuses are dropped with their fault, bytes of a scratchpad wait in the landing buffer, which
takes what it has room for, and a memory takes none while its port refreshes. -/
def State.putChunk (s : State) (l : Nat) (x : Xfer) (d : Delivery) (off : Nat) (bs : List Byte) : State × Nat :=
  let n := bs.length
  if x.attr.stream then
    match s.landStream l x d.member off bs with
    | some s => (s.markLanded l x.q x.idx x.gen d.member off n, n)
    | none => (s, 0)
  else
    let as := chunkAddrs x.dst (x.dstBase s.kol.module d.member) off n
    let g := as.headD 0
    let p := s.place g
    match s.placeFault p g x.started, p with
    | some f, _ => ((s.xferFault l x f true g).markLanded l x.q x.idx x.gen d.member off n, n)
    | none, .remote m => (s.sendChunk l x d m off bs, n)
    | none, .core t _ =>
      let k := min n (((s.core? t).map CoreSt.landingRoom).getD 0)
      if k = 0 then (s, 0)
      else
        let w : Landing :=
          { issuer := l, q := x.q, idx := x.idx, gen := x.gen, member := d.member, off := off, len := k
            cells := ((as.take k).zip bs).map fun a => (gaOff a.1, a.2) }
        (s.updCore t fun tc => { tc with landing := tc.landing ++ [w] }, k)
    | none, p =>
      if s.refreshing p then (s, 0)
      else
        (((as.zip bs).foldl (fun s a => s.putByte (s.place a.1) a.2) s).markLanded l x.q x.idx x.gen d.member off n, n)

/-- One step of a chunk in the present cycle: its source, then its destination; what is left of it (DEDUCED, log 70). -/
def State.stepChunk (s : State) (k : Chunk) : State × Option Chunk :=
  match s.xferOf k.issuer k.q k.idx k.gen with
  | none => (s, none)
  | some x =>
    if x.discarded then (s, none)
    else
      let s := s.pullChunk k.issuer x k.off k.len k.ecc
      match s.xferOf k.issuer k.q k.idx k.gen with
      | none => (s, none)
      | some x =>
        match x.delivery? k.member with
        | none => (s, none)
        | some d =>
          if !(x.missing k.off k.len).isEmpty then (s, some k)
          else
            let (s, n) := s.putChunk k.issuer x d k.off (x.readBytes k.off k.len)
            (s, if n < k.len then some { k with off := k.off + n, len := k.len - n } else none)

/-- Every chunk on its way steps once, in arrival order (R93). -/
def State.stepChunks (s : State) : State :=
  let (s, rest) := s.fab.chunks.foldl
    (fun (a : State × List Chunk) k =>
      let (s, r) := a.1.stepChunk k
      (s, a.2 ++ r.toList))
    (s, [])
  { s with fab := { s.fab with chunks := rest } }

/-- Inbound payload of a core written in the present cycle: each granule whose bank is free, in arrival order (R93). -/
def State.landOne (s : State) (l : Nat) (w : Landing) : State × Landing :=
  ((w.cells.map fun x => granuleOf x.1).dedup).foldl
    (fun (a : State × Landing) g => match a.1.takeBank l (bankOf g) with
      | none => a
      | some s =>
        (s.updCore l fun c => { c with spad := c.spad.writeCells (w.cells.filter fun x => granuleOf x.1 == g) },
         { a.2 with cells := a.2.cells.filter fun x => granuleOf x.1 != g }))
    (s, w)

/-- The inbound payload of a core in one cycle: what is written, and the chunks that have landed with it. It takes the
banks that issued claims leave (R93; DEDUCED, log 26). -/
def State.inbound (s : State) (l : Nat) : State :=
  match s.core? l with
  | none => s
  | some c =>
    let (s, ws) := c.landing.foldl
      (fun (a : State × List Landing) w =>
        let (s, w) := a.1.landOne l w
        (s, a.2 ++ [w]))
      (s, [])
    let s := s.updCore l fun c => { c with landing := ws.filter fun w => !w.cells.isEmpty }
    (ws.filter fun w => w.cells.isEmpty && w.outer.isNone).foldl
      (fun s w => s.markLanded w.issuer w.q w.idx w.gen w.member w.off w.len) s

/-! ### BYTES_LANDED (R231, R233, R234) -/

/-- The chunks of a delivery that have landed or are on their way. -/
def State.onWay (s : State) (l : Nat) (x : Xfer) (d : Delivery) : List (Nat × Nat) :=
  (d.landed.map fun r => (r.1, r.2.1)) ++ d.sent
    ++ (s.fab.chunks.filterMap fun k =>
      if k.issuer == l && k.q == x.q && k.idx == x.idx && k.gen == x.gen && k.member == d.member then some (k.off, k.len)
      else none)
    ++ s.cores.flatMap fun c => c.landing.filterMap fun w =>
      if w.outer.isNone && w.issuer == l && w.q == x.q && w.idx == x.idx && w.gen == x.gen && w.member == d.member then
        some (w.off, w.len) else none

/-- The member before one in chain order. -/
def Xfer.before? (x : Xfer) (member : Nat) : Option Nat :=
  ((x.deliveries.takeWhile fun d => d.member != member).getLast?).map fun d => d.member

/-- Every byte of a range lies in one of several ranges. -/
def allCovered (rs : List (Nat × Nat)) (off len : Nat) : Bool :=
  (List.range len).all fun i => rs.any fun r => r.1 ≤ off + i && off + i < r.1 + r.2

/-- The first cycle in which a chunk can land on its path (R233, R234, R237, R238): the class latency and the path rate from
the start, or, behind a forwarding member, the latency of its hop from the cycle of the forward (DEDUCED, log 12). -/
def State.landFloor (s : State) (l : Nat) (x : Xfer) (d : Delivery) (off len : Nat) : Nat :=
  let t := x.started.getD 0
  let n := d.count + len
  let own : EndPlace := .core l (s.coreDie l)
  let src := s.endOf l x.src.base
  let mem : EndPlace := .core d.member (s.coreDie d.member)
  match x.kind with
  | .put =>
    let dst := if x.attr.stream then own else s.endOf l x.dst.base
    t + max (s.pathLatency false own src) (s.pathLatency false own dst)
      + max (s.rateCycles own src n) (s.rateCycles own dst n)
  | _ =>
    if !x.chainMode then t + s.pathLatency false src mem + s.ns 10 + s.rateCycles src mem n
    else match x.before? d.member with
      | none => t + s.pathLatency false src mem + s.rateCycles src mem n
      | some b =>
        let from_ := (d.forwarded.filter fun r => r.1 < off + len && off < r.1 + r.2.1).foldl (fun a r => max a r.2.2) t
        from_ + s.pathLatency false (.core b (s.coreDie b)) mem

/-- The delivery of a chunk that a path may bring now: inside the transfer, not brought before, and in chain order behind
the member that forwards it. `sent` says that it is on its way to another module, whose landing is still to come. -/
def State.chunkOpen (s : State) (l q idx member off len : Nat) : Option (Xfer × Delivery × Bool) :=
  match (s.core? l).bind fun c => c.xfer? q idx with
  | none => none
  | some x =>
    match x.delivery? member with
    | none => none
    | some d =>
      let ready := x.started.isSome && !x.complete && !x.discarded && decide (0 < len) && decide (off + len ≤ x.bytes)
      let landed := meets (d.landed.map fun r => (r.1, r.2.1)) off len
      if !ready || landed then none
      else if allCovered d.sent off len then some (x, d, true)
      else if meets (s.onWay l x d) off len then none
      else if x.chainMode && (x.before? member).isSome && !allCovered (d.forwarded.map fun r => (r.1, r.2.1)) off len then none
      else some (x, d, false)

/-- The parts of a chunk whose bytes go to one target: (offset, length). -/
def partsOf (t : Nat → Option (Nat × Nat)) (off len : Nat) : List (Nat × Nat) :=
  match len with
  | 0 => []
  | k + 1 =>
    match partsOf t (off + 1) k with
    | [] => [(off, 1)]
    | (a, n) :: r => if t off == t a then (off, n + 1) :: r else (off, 1) :: (a, n) :: r

/-- What tells the targets of destination bytes apart: the memory, or that there is none. -/
def State.dstTarget (s : State) (x : Xfer) (member i : Nat) : Option (Nat × Nat) :=
  if x.attr.stream then none
  else
    let g := x.dst.d.byteAt (x.dstBase s.kol.module member) i
    if (s.placeFault (s.place g) g x.started).isSome then none else targetOf (s.place g)

/-- BYTES_LANDED (R231): a chunk that its path brings sets out for its storage, and steps at once as far as it can; one that
another module took is now in its storage there. -/
def State.bytesLanded (s : State) (l q idx member off len : Nat) (e : EccOutcome) : State :=
  match s.chunkOpen l q idx member off len with
  | none => s
  | some (x, _, true) => s.markLanded l x.q x.idx x.gen member off len
  | some (x, _, false) =>
    (partsOf (s.dstTarget x member) off len).foldl
      (fun s p =>
        let (s, r) := s.stepChunk
          { issuer := l, q := x.q, idx := x.idx, gen := x.gen, member := member, off := p.1, len := p.2, ecc := e }
        { s with fab := { s.fab with chunks := s.fab.chunks ++ r.toList } })
      s

/-- The first cycle of a chunk that BYTES_LANDED brings; one that only sets out for another module has none. -/
def State.chunkFloor (s : State) (l q idx member off len : Nat) : Nat :=
  match s.chunkOpen l q idx member off len with
  | none => 0
  | some (x, d, sent) =>
    let far := match s.dstTarget x member off with | some (4, _) => true | _ => false
    if far && !sent then 0 else s.landFloor l x d off len

/-- The first cycle in which a member can send a chunk on: 16 after its last byte landed; none while some has not. -/
def State.forwardCycle (s : State) (l q idx member off len : Nat) : Nat :=
  match ((s.core? l).bind fun c => c.xfer? q idx).bind fun x => x.delivery? member with
  | none => 0
  | some d =>
    let rs := d.landed.filter fun r => r.1 < off + len && off < r.1 + r.2.1
    if allCovered (rs.map fun r => (r.1, r.2.1)) off len then rs.foldl (fun t r => max t (r.2.2 + 16)) 0 else 0

/-- CHAIN_FORWARD (R198, R238): a member sends a chunk on 16 cycles after it landed. -/
def State.chainForward (s : State) (l q idx member off len : Nat) : State :=
  match (s.core? l).bind fun c => c.xfer? q idx with
  | none => s
  | some x =>
    match x.delivery? member with
    | none => s
    | some d =>
      let due := allCovered ((d.landed.filter fun r => r.2.2 + 16 ≤ s.time.cycle).map fun r => (r.1, r.2.1)) off len
      let next := ((x.deliveries.dropWhile fun y => y.member != member).drop 1).head?
      match next with
      | some n =>
        if x.chainMode && due && decide (0 < len) && !meets (n.forwarded.map fun r => (r.1, r.2.1)) off len then
          s.updCore l fun c => c.updXfer x.q x.idx x.gen fun y => y.updDelivery n.member fun z =>
            { z with forwarded := z.forwarded ++ [(off, len, s.time.cycle)] }
        else s
      | none => s

/-! ### Completion (R231, R193, R196) -/

/-- Whether a transfer completes now: all bytes landed, and every earlier one of its queue complete. -/
def canComplete (earlier : List Xfer) (x : Xfer) : Bool :=
  x.started.isSome && !x.complete && !x.discarded && x.deliveries.all (fun d => x.allLanded d)
    && earlier.all fun y => y.complete || y.freed

/-- The oldest transfer of a queue that is not complete, with the ones before it. -/
def firstOpen (l done : List Xfer) : Option (List Xfer × Xfer) :=
  match l with
  | [] => none
  | x :: r => if x.complete then firstOpen r (done ++ [x]) else some (done, x)

/-- TRANSFER_COMPLETE: the oldest open transfer of the queue completes; a QUEUE ring fills (R102), indices free. -/
def CoreSt.completeOne (c : CoreSt) (q : Nat) : CoreSt :=
  match firstOpen (c.queue q).live [] with
  | none => c
  | some (earlier, x) =>
    if !canComplete earlier x then c
    else
      let c := c.updXfer q x.idx x.gen fun y => { y with complete := true }
      let c := if x.dst.d.ring && !x.attr.stream then
          c.updRing x.dst.d.ctx fun r => { r.fill with p := r.p - 1 } else c
      c.updQueue q Queue.free

/-- Completions until none is due; the count of transfers bounds them. -/
def CoreSt.completeAll (n : Nat) (c : CoreSt) (q : Nat) : CoreSt :=
  match n with
  | 0 => c
  | k + 1 => (c.completeOne q).completeAll k q

/-! ### Announces (R252, R253, R255) -/

/-- The core that a delivery announces to. -/
def Xfer.annTarget (x : Xfer) (d : Delivery) : Nat := match x.kind with | .put => x.attr.annCore | _ => d.member

/-- The detail word of a fault against the issuer for its announce (R255). -/
def annDetail (own : Bool) (x : Xfer) (steps : Nat) : Nat :=
  (if own then 0 else 3) + 4 + 8 * x.attr.annTally + 2 ^ 16 * x.q + 2 ^ 18 * x.idx + 2 ^ 22 * min steps 511 + 2 ^ 31

/-- Whether an earlier announce of the queue to the same core of the same module is still to apply (R252). -/
def earlierAnnounce (module : Nat) (l : List Xfer) (x : Xfer) (target : Nat) : Bool :=
  match l with
  | [] => false
  | y :: r =>
    if y.idx == x.idx && y.gen == x.gen then false
    else (y.attr.annEn && !y.discarded && y.dstModule module == x.dstModule module
        && y.deliveries.any fun d => y.annTarget d == target && !d.announced && !d.withdrawn)
      || earlierAnnounce module r x target

/-- The landing point of a delivery's last byte (R252). -/
def State.lastPoint (s : State) (l : Nat) (x : Xfer) (d : Delivery) (target : Nat) : LandPoint :=
  if x.attr.stream then .core d.member
  else
    let off := match d.landed.getLast? with | some r => r.1 + r.2.1 - 1 | none => 0
    s.landPoint l target (x.dst.d.byteAt (x.dstBase s.kol.module d.member) off)

/-- ANNOUNCE_APPLIED (R252, R255). The announce of a transfer to another module rides on its last byte; that module applies it,
and reports to this one where it cannot. -/
def State.announceApplied (s : State) (l q idx member : Nat) : State :=
  match s.core? l with
  | none => s
  | some c =>
    match (c.queue q).live.find? fun x => x.idx == idx && x.attr.annEn && !x.discarded
        && x.deliveries.any fun d => d.member == member && !d.announced && !d.withdrawn with
    | none => s
    | some x =>
      match x.delivery? member with
      | none => s
      | some d =>
        let target := x.annTarget d
        let own := x.dstModule s.kol.module == s.kol.module
        let ready := x.allLanded d && !earlierAnnounce s.kol.module (c.queue q).live x target
          && (!own || decide (d.lastCycle + s.landLatency (s.lastPoint l x d target) target ≤ s.time.cycle))
        if !ready then s
        else
          let s := s.updCore l fun c =>
            (c.updXfer q x.idx x.gen fun y => y.updDelivery member fun z => { z with announced := true }).updQueue q
              Queue.free
          let det := annDetail own x (c.step - x.step)
          if !own then s
          else if (s.core? target).isNone then s.raise l .addressUnmapped (some .x) x.bundle det
          else if s.refusing target then s.raise l .parkedTarget (some .x) x.bundle det
          else s.addTally target x.attr.annTally x.attr.annCount 2 none 0

/-- Whether ANNOUNCE_TIMEOUT is due for a delivery at the end of a cycle (R253): bytes that land in the cycle of the limit are
in time (R7) (DEDUCED, log 41). -/
def announceLate (k : Ctx) (x : Xfer) (d : Delivery) : Bool :=
  x.attr.annEn && !x.discarded && !d.announced && !d.withdrawn && !x.allLanded d
    && (match x.started with | some t => decide (t + k.region.annLimit ≤ k.cycle) | none => false)

/-- ANNOUNCE_TIMEOUT: the announce of a delivery is withdrawn; raised once per transfer. -/
def State.announceTimeout (s : State) (l q idx member : Nat) : State :=
  match s.core? l with
  | none => s
  | some c =>
    match c.xfer? q idx with
    | none => s
    | some x =>
      match x.delivery? member with
      | none => s
      | some d =>
        if !announceLate (s.ctx c) x d then s
        else
          let seen := x.raised.contains .announceTimeout
          let s := s.updCore l fun c => c.updXfer q x.idx x.gen fun y =>
            { y.updDelivery member (fun z => { z with withdrawn := true }) with
              raised := if seen then y.raised else y.raised ++ [.announceTimeout] }
          if seen then s
          else
            let g := if x.attr.stream then coreGA s.kol.module l 0 else x.dstBase s.kol.module member
            let (tg, _, st) := unitOf s (s.place g) g
            s.raise l .announceTimeout (some .x) x.bundle (targetDetail tg true 0 st q idx (c.step - x.step))

/-- Every announce timeout of a core that is due. -/
def State.announceTimeouts (s : State) (l : Nat) : State :=
  match s.core? l with
  | none => s
  | some c =>
    let k := s.ctx c
    let late := c.queues.flatMap fun q => q.live.flatMap fun x =>
      (x.deliveries.filter (announceLate k x)).map fun d => (x.q, x.idx, d.member)
    late.foldl (fun s e => s.announceTimeout l e.1 e.2.1 e.2.2) s

/-! ### Remote signals (R251, R254, R255) -/

/-- Whether a transfer that a signal follows has landed all of its bytes; toward another module, has sent them all, behind
which that module holds the signal. -/
def aheadLanded (c : CoreSt) (a : Nat × Nat × Nat) : Bool :=
  match (c.queue a.1).live.find? fun x => x.idx == a.2.1 && x.gen == a.2.2 with
  | some x => x.complete || x.deliveries.all fun d => x.allSent d
  | none => true

/-- A signal of a core of this module meets its target (R255). -/
def State.coreSignal (s : State) (g : Signal) : State :=
  let own := g.module == s.kol.module
  let det := tsigDetail own g.tally
  if !own then
    let hdr : FlitHdr :=
      { dst := g.module, src := s.kol.module, srcCore := g.issuer, sigCore := g.lcore, sigTally := g.tally
        sigCount := g.count }
    match s.route g.module with
    | some (p, _) => s.sendFlit p 0 0x04 hdr []
    | none => s
  else if (s.core? g.lcore).isNone then s.raise g.issuer .addressUnmapped (some .s) g.bundle det
  else if s.refusing g.lcore then s.raise g.issuer .parkedTarget (some .s) g.bundle det
  else s.addTally g.lcore g.tally g.count 1 none 0

/-- The announce of a host's packet meets its target (R328): a failure is an ERROR packet and no core fault
(DEDUCED, log 36). -/
def State.hostAnnounce (s : State) (g : Signal) (session stream psn : Nat) : State :=
  if (s.core? g.lcore).isNone || 48 ≤ g.tally || g.count == 0 then s.cmtError session stream psn .addressUnmapped
  else if s.refusing g.lcore then s.cmtError session stream psn .parkedTarget
  else s.addTally g.lcore g.tally g.count 2 none 0

/-- The report of a fault that this module finds at a target for a core of another one, sent to it over the route (R255,
R416). -/
def State.reportBack (s : State) (m : Nat) (r : TargetReport) : State := s.sendMsg m 0x09 r.issuer (.targetReport r)

/-- A signal that came from another module meets its target; a failure is reported back, since it is its sender's fault
(R255, R416). -/
def State.remoteSignal (s : State) (g : Signal) (m src : Nat) (r : TargetReport) : State :=
  if (s.core? g.lcore).isNone || 48 ≤ g.tally || g.count == 0 then s.reportBack m { r with fault := FCode.addressUnmapped.num }
  else if s.refusing g.lcore then s.reportBack m { r with fault := FCode.parkedTarget.num }
  else s.addTally g.lcore g.tally g.count src none 0

/-- Whether the bytes that came ahead of a signal from another module, from the same issuer, are still on their way to their
storage (R252, R254). -/
def State.laneBusy (s : State) (g : Signal) : Bool :=
  match g.origin with
  | .remoteTsig m | .remoteAnnounce m _ _ =>
    s.fab.jobs.any fun j => j.stamp < g.stamp && match j.fin with
      | .outerWrite _ h => h.src == m && h.issuer == g.issuer
      | _ => false
  | _ => false

/-- Whether an earlier signal goes before another: on the lane to another module, and among the announces of one queue of a
core of another module to one core (R252, R254). -/
def Signal.before (own : Nat) (h g : Signal) : Bool :=
  decide (h.id < g.id) && h.issuer == g.issuer && match h.origin, g.origin with
    | .core, .core => h.module == g.module && g.module != own
    | .remoteAnnounce a p _, .remoteAnnounce b q _ => a == b && p == q && h.lcore == g.lcore
    | _, _ => false

/-- Whether a signal in flight may meet its target now (R252, R254): its latency has passed, and what goes before it is
done. -/
def State.signalReady (s : State) (g : Signal) : Bool :=
  let clear := match g.origin with
    | .core => (match s.core? g.issuer with
      | some c => g.ahead.all (aheadLanded c)
      | none => true)
    | _ => true
  clear && decide (g.issued + g.latency ≤ s.time.cycle) && !s.laneBusy g
    && !(s.fab.signals.any fun h => h.before s.kol.module g)

/-- REMOTE_TSIG_APPLIED (R254, R255): at its latency, and behind the transfers of its lane. -/
def State.signalApplied (s : State) (id : Nat) : State :=
  match s.fab.signals.find? fun g => g.id == id with
  | none => s
  | some g =>
    if !s.signalReady g then s
    else
      let s := { s with fab := { s.fab with signals := s.fab.signals.filter fun h => h.id != id } }
      match g.origin with
      | .core => s.coreSignal g
      | .host a b p => s.hostAnnounce g a b p
      | .remoteTsig m =>
        s.remoteSignal g m 1 { fault := 0, issuer := g.issuer, tsig := true, write := true, unit := g.tally, bundle := g.bundle }
      | .remoteAnnounce m q idx =>
        s.remoteSignal g m 2 { fault := 0, issuer := g.issuer, queue := q, idx := idx, announce := true, write := true, unit := g.tally }

/-- A signal put in flight. -/
def State.putSignal (s : State) (g : Signal) : State :=
  { s with fab := { s.fab with signals := s.fab.signals ++ [{ g with id := s.fab.nextSig }], nextSig := s.fab.nextSig + 1 } }

/-- The transfers ahead of the signals that cores sent in the present cycle, once the transfers that start in it have started
(R254). -/
def State.settleLanes (s : State) : State :=
  let upd (g : Signal) : Signal :=
    if g.origin == .core && g.issued == s.time.cycle then
      match s.core? g.issuer with
      | some c => { g with ahead := laneAhead s.kol.module g.module c }
      | none => g
    else g
  { s with fab := { s.fab with signals := s.fab.signals.map upd } }

/-- BACKGROUND_PATH_ACCESS, outbound: a read of source bytes of a started transfer put on the path (R93, R94). -/
def State.readAhead (s : State) (l q idx off len : Nat) : State :=
  match (s.core? l).bind fun c => c.xfer? q idx with
  | none => s
  | some x =>
    if x.started.isSome && !x.complete && !x.discarded && decide (0 < len) && decide (off + len ≤ x.bytes)
        && !(s.bankBytes x off len).isEmpty then
      let p : Pull := { accepted := x.accepted, issuer := l, q := x.q, idx := x.idx, gen := x.gen, off := off, len := len }
      if s.fab.pulls.contains p then s else { s with fab := { s.fab with pulls := insertPull p s.fab.pulls } }
    else s

end Sys2Proof.Machine
end

