-- ==== Sys2Proof/Machine/Combiner.lean ====
section
/-! DEFINITION. The narrow-access combiner (R98, R99), its accesses to the accumulator window (R104), and tally signals
of requesters that are no core (R247). Accesses wait in their order; one cycle serves what entries, banks and ports
let it. -/

namespace Sys2Proof.Machine

/-! ### Entries (R98, R99) -/

/-- The requesters whose bytes an entry holds, or whose read it is. -/
def CombEntry.reqs (e : CombEntry) : List Requester :=
  (e.bytes.map fun b => b.req) ++ match e.read with | some r => [r.req] | none => []

/-- Whether an entry holds a requester's bytes. -/
def CombEntry.has (e : CombEntry) (req : Requester) : Bool := e.bytes.any fun b => b.req == req

/-- Two entries share a requester. -/
def CombEntry.shares (a b : CombEntry) : Bool := a.reqs.any fun r => b.reqs.contains r

/-- Bytes merged into an entry: later bytes over earlier (R98). -/
def CombEntry.merge (e : CombEntry) (req : Requester) (stamp : Nat) (cells : List (Nat × Byte)) : CombEntry :=
  { e with bytes := (e.bytes.filter fun b => !(cells.any fun x => x.1 == b.at_))
      ++ cells.map fun x => { at_ := x.1, val := x.2, req := req, stamp := stamp } }

/-- The entries that leave with picked ones, and those that stay, oldest first: an entry before one that leaves leaves too
when they share a requester, whose writes reach the banks in its order (R99). -/
def leaving (p : CombEntry → Bool) (l : List CombEntry) : List CombEntry × List CombEntry :=
  l.foldr
    (fun e (a : List CombEntry × List CombEntry) =>
      if p e || a.1.any e.shares then (e :: a.1, a.2) else (a.1, e :: a.2))
    ([], [])

/-- Entries that leave the open list for the background path, oldest first. -/
def CoreSt.flushIf (c : CoreSt) (p : CombEntry → Bool) : CoreSt :=
  let (out, keep) := leaving p c.combiner
  { c with flushes := c.flushes ++ out, combiner := keep }

/-- Flushes that are writes: their entries are in use until the bank has taken them. -/
def CoreSt.flushWrites (c : CoreSt) : Nat := (c.flushes.filter fun e => e.read.isNone).length

/-- An access taken by the combiner (R98): a write merges into the open entry of its granule or opens one of the 16, a read
lets its granule's entry and its requester's entries leave and follows them. None when no entry is free. -/
def CoreSt.combTake (c : CoreSt) (cycle : Nat) (a : CombAcc) : Option CoreSt :=
  match a.cells with
  | some cells =>
    if c.combiner.any fun e => e.granule == a.granule then
      some (({ c with combiner := c.combiner.map fun (e : CombEntry) =>
        if e.granule == a.granule then e.merge a.req a.stamp cells else e }).flushIf fun e => 64 ≤ e.bytes.length)
    else if c.combiner.length + c.flushWrites < 16 then
      some (({ c with combiner := c.combiner ++
        [({ granule := a.granule, bytes := [], opened := cycle } : CombEntry).merge a.req a.stamp cells] }).flushIf
          fun e => 64 ≤ e.bytes.length)
    else none
  | none =>
    let c := c.flushIf fun e => e.granule == a.granule || e.has a.req
    some { c with flushes := c.flushes ++
      [{ granule := a.granule, bytes := [], opened := cycle
         read := some { req := a.req, at_ := a.at_, len := a.len, sink := a.sink } }] }

/-- All 16 entries open: the oldest leaves, unless one is leaving already. -/
def CoreSt.combRoom (c : CoreSt) : CoreSt :=
  match c.combiner with
  | e :: _ => if c.flushWrites = 0 then c.flushIf fun x => x == e else c
  | [] => c

/-- The waiting accesses of a core taken in order; one that must wait holds back those of its requester behind it. -/
def CoreSt.combScan (cycle : Nat) (c : CoreSt) : CoreSt :=
  let (c, rest) := c.combWait.foldl
    (fun (a : CoreSt × List CombAcc) w =>
      if a.2.any fun r => r.req == w.req then (a.1, a.2 ++ [w])
      else match a.1.combTake cycle w with
        | some c => (c, a.2)
        | none => (a.1.combRoom, a.2 ++ [w]))
    (c, [])
  { c with combWait := rest }

/-- COMBINER_ENTRY_TIMEOUT: entries open for 64 cc flush (R98). -/
def CoreSt.combTimeout (c : CoreSt) (cycle : Nat) : CoreSt := c.flushIf fun e => e.opened + 64 ≤ cycle

/-- REQUESTER_FENCE: every entry with the requester's bytes flushes (R98). -/
def State.requesterFence (s : State) (req : Requester) : State :=
  { s with cores := s.cores.map fun c => c.flushIf fun e => e.has req }

/-! ### Serving (R93, R99, R104) -/

/-- A job changed. -/
def State.updJob (s : State) (stamp : Nat) (f : Job → Job) : State :=
  { s with fab := { s.fab with jobs := s.fab.jobs.map fun j => if j.stamp == stamp then f j else j } }

/-- Bytes that a combiner read has taken go to the access that waits for them, or out. -/
def State.deliverRead (s : State) (l : Nat) (req : Requester) (sink : ReadSink) (bs : List Byte) : State :=
  match sink with
  | none => s.emit (.combRead req l bs)
  | some (stamp, off) => s.updJob stamp fun j => { j with got := j.got ++ cellsAt off bs }

/-- One flush or read at its bank: a masked write, or the bytes of the read. -/
def State.combPerform (s : State) (l : Nat) (e : CombEntry) : State :=
  match e.read with
  | some r =>
    s.deliverRead l r.req r.sink (((s.core? l).map fun c => c.spad.read (64 * e.granule + r.at_) r.len).getD [])
  | none => s.updCore l fun c => { c with spad := c.spad.writeCells (e.bytes.map fun b => (64 * e.granule + b.at_, b.val)) }

/-- The flushes and reads of a core in one cycle, oldest first: each whose bank is free, unless one before it that waits has
its granule or shares a requester (R93, R98, R99). -/
def State.combServe (s : State) (l : Nat) : State :=
  match s.core? l with
  | none => s
  | some c =>
    let (s, rest) := c.flushes.foldl
      (fun (a : State × List CombEntry) e =>
        if a.2.any fun r => r.granule == e.granule || r.shares e then (a.1, a.2 ++ [e])
        else match a.1.takeBank l (bankOf e.granule) with
          | none => (a.1, a.2 ++ [e])
          | some s => (s.combPerform l e, a.2))
      (s, [])
    s.updCore l fun c => { c with flushes := rest }

/-- Line reads that the vector engine makes in the present cycle (R104). -/
def CoreSt.vLineReads (c : CoreSt) (cycle : Nat) : Nat :=
  (c.vjobs.flatMap fun j =>
    let g := cycle - j.at_
    if g < j.groups then
      j.srcs.flatMap fun s =>
        if s.2 then
          (jobAreas j s.1).flatMap fun a => accLinesOf a (jobSpan j true g).1 (jobSpan j true g).2
        else []
    else []).dedup.length

/-- Line writes that the array and MZERO leave free in the present cycle (R104). -/
def CoreSt.freeWrites (c : CoreSt) (cycle : Nat) : Nat :=
  let now := c.dueNow cycle
  let array := !c.arrayHold && c.accWrites.any fun w => w.due == now
  let zero := !c.arrayHold && c.zeros.any fun z => z.due + 1 ≤ now && now - (z.due + 1) < (z.n + 63) / 64
  (if array then 0 else 1) + (if zero then 0 else 1)

/-- Whether words of a port meet: one entry, or one requester, whose order stands. -/
def AccWord.meets (a b : AccWord) : Bool := a.entry == b.entry || a.req == b.req

/-- ACCUMULATOR_COMBINER_ACCESS: the waiting words of a core in one cycle, in arrival order, one word to each slot that the
array, MZERO and the vector engine leave free (R104). -/
def State.accServe (s : State) (l : Nat) : State :=
  match s.core? l with
  | none => s
  | some c =>
    let (s, rest, _, _) := c.accPort.foldl
      (fun (a : State × List AccWord × Nat × Nat) w =>
        let (s, rest, wr, rd) := a
        if rest.any w.meets then (s, rest ++ [w], wr, rd)
        else match w.value with
          | some v =>
            if wr = 0 then (s, rest ++ [w], wr, rd)
            else (s.updCore l fun c => { c with acc := accSet c.acc w.entry v }, rest, wr - 1, rd)
          | none =>
            if rd = 0 then (s, rest ++ [w], wr, rd)
            else (s.deliverRead l w.req w.sink (c.acc.read (4 * w.entry) 4), rest, wr, rd - 1))
      (s, [], c.freeWrites s.time.cycle, 2 - c.vLineReads s.time.cycle)
    s.updCore l fun c => { c with accPort := rest }

/-- Whether a core's combiner still holds bytes of the write with a number. -/
def CoreSt.holdsStamp (c : CoreSt) (stamp : Nat) : Bool :=
  (c.combWait.any fun a => a.stamp == stamp && a.cells.isSome)
    || (c.combiner ++ c.flushes).any (fun e => e.bytes.any fun b => b.stamp == stamp)
    || c.accPort.any fun w => w.stamp == stamp && w.value.isSome

/-- Whether a part of a read that is still on its way waits in a core. -/
def CoreSt.readsStamp (c : CoreSt) (stamp : Nat) : Bool :=
  let mine (k : ReadSink) : Bool := match k with | some p => p.1 == stamp | none => false
  (c.combWait.any fun a => mine a.sink)
    || ((c.flushes.filterMap fun e => e.read).any fun r => mine r.sink)
    || c.accPort.any fun w => mine w.sink

/-! ### Tally signals (R247) -/

/-- Whether writes of a requester with numbers below a bound still wait on their way to a core's banks. -/
def CoreSt.combHolds (c : CoreSt) (req : Requester) (stamp : Nat) : Bool :=
  (c.combWait.any fun a => a.req == req && a.stamp < stamp && a.cells.isSome)
    || (c.combiner ++ c.flushes).any (fun e => e.bytes.any fun b => b.req == req && b.stamp < stamp)
    || c.accPort.any fun w => w.req == req && w.stamp < stamp && w.value.isSome

/-- Whether a write of a requester with a number below a bound has parts that have not reached a core's combiner yet. -/
def State.jobHolds (s : State) (l : Nat) (req : Requester) (stamp : Nat) : Bool :=
  s.fab.jobs.any fun j => j.req == some req && j.stamp < stamp && j.data.isSome && j.todo.any fun p =>
    match s.place (j.ga + p.1) with | .core k _ => k == l | _ => false

/-- Tally signals whose requester has no earlier write waiting are applied, in arrival order (R99, R247). -/
def State.applySigs (s : State) (l : Nat) : State :=
  match s.core? l with
  | none => s
  | some c =>
    let held (g : SigWait) : Bool := c.combHolds g.req g.stamp || s.jobHolds l g.req g.stamp
    let ready := c.sigWait.filter fun g => !held g
    let s := s.updCore l fun c => { c with sigWait := c.sigWait.filter held }
    ready.foldl (fun s g => s.addTally l g.tally g.count 3 none 0) s

/-- Whether a value may be written to TALLY_SIGNAL (R247, R343). -/
def sigValueOk (v : Nat) : Bool := v < 2 ^ 18 && bits v 5 0 ≤ 47 && bits v 17 6 != 0

/-- The next number of an access. -/
def State.nextStamp (s : State) : State := { s with fab := { s.fab with nextStamp := s.fab.nextStamp + 1 } }

/-- A write to TALLY_SIGNAL that has passed its checks (R247): the count is added behind the requester's earlier writes. -/
def State.tallySignal (s : State) (req : Requester) (l v : Nat) : State :=
  let g : SigWait := { req := req, stamp := s.fab.nextStamp, tally := bits v 5 0, count := bits v 17 6 }
  (s.nextStamp.updCore l fun c => { c with sigWait := c.sigWait ++ [g] }).applySigs l

/-! ### Accesses (R86, R98) -/

/-- The parts of an access, as (offset, length): it splits at a granule boundary, lower address first (R98). -/
def granuleParts (off n : Nat) : List (Nat × Nat) :=
  let k := min n (64 - off % 64)
  [(off, k), (off + k, n - k)].filter fun p => p.2 != 0

/-- An access that waits at a core's combiner, in the scratchpad, under a number. -/
def State.combPut (s : State) (l : Nat) (req : Requester) (stamp off len : Nat) (data : Option (List Byte))
    (sink : ReadSink) : State :=
  let a : CombAcc :=
    { req := req, stamp := stamp, granule := granuleOf off, at_ := off % 64, len := len
      cells := data.map fun bs => cellsAt (off % 64) bs, sink := sink }
  s.updCore l fun c => { c with combWait := c.combWait ++ [a] }

/-- The aligned words of an access to the accumulator window, queued for its ports (R86, R104). -/
def State.accPut (s : State) (l : Nat) (req : Requester) (stamp off len : Nat) (data : Option (List Byte))
    (sink : ReadSink) : State :=
  let ws : List AccWord := (List.range (len / 4)).map fun i =>
    { req := req, stamp := stamp, entry := off / 4 + i
      value := data.map fun bs => leVal ((bs.drop (4 * i)).take 4)
      sink := sink.map fun k => (k.1, k.2 + 4 * i) }
  s.updCore l fun c => { c with accPort := c.accPort ++ ws }

/-- ADDRESS_UNMAPPED against the core whose window an access of a prep core or of debug misses or may not write: detail
word [0] is 1 for a read-only window (R86; DEDUCED, log 86). An access of the host transport raises no core fault (R328). -/
def State.windowFault (s : State) (l : Nat) (req : Requester) (readOnly : Bool) : State :=
  match req with
  | .prep _ | .debug => s.raise l .addressUnmapped none 0 (if readOnly then 1 else 0)
  | .cmt _ _ | .host => s

/-- Whether every window of a core is writable: its region is IDLE or LOADING (R86). -/
def State.windowsOpen (s : State) (l : Nat) : Bool :=
  match s.regionOf l with
  | some x => x.phase == .idle || x.phase == .loading
  | none => false

/-- Bytes written into a core's windows past the combiner. -/
def State.putWindow (s : State) (l off : Nat) (bs : List Byte) : State :=
  s.updCore l fun c => (cellsAt off bs).foldl (fun c x => c.putByte x.1 x.2) c

/-- One part of an access through a combiner (R86): a write, or a read without data. Answers whether the window took it. -/
def State.combPart (s : State) (l : Nat) (req : Requester) (stamp off len : Nat) (data : Option (List Byte))
    (sink : ReadSink) : State × Bool :=
  match windowOf off with
  | none => (s.windowFault l req false, false)
  | some (.spad, o) => (s.combPut l req stamp o len data sink, true)
  | some (.acc, o) => if o % 4 = 0 ∧ len % 4 = 0 then (s.accPut l req stamp o len data sink, true) else (s, false)
  | some _ => match data with
    | some bs => if s.windowsOpen l then (s.putWindow l off bs, true) else (s.windowFault l req true, false)
    | none =>
      (s.deliverRead l req sink (((s.core? l).map fun c => (List.range len).map fun i => c.byteAt (off + i)).getD []), true)

/-- The combiner of a core takes what waits before it, in one cycle of its own. -/
def State.combEnter (s : State) (l : Nat) : State := s.updCore l (CoreSt.combScan s.time.cycle)

/-- An access of 1 to 32 B through a core's combiner (R98). -/
def State.combAccess (s : State) (l : Nat) (req : Requester) (off len : Nat) (data : Option (List Byte)) : State :=
  if len = 0 || 32 < len then s
  else ((granuleParts off len).foldl
    (fun (u : State) p =>
      (u.combPart l req s.fab.nextStamp p.1 p.2 (data.map fun bs => (bs.drop (p.1 - off)).take p.2) none).1)
    s.nextStamp).combEnter l

/-- COMBINER_WRITE (R98, R104). -/
def State.combWrite (s : State) (l : Nat) (req : Requester) (off : Nat) (bs : List Byte) : State :=
  s.combAccess l req off bs.length (some bs)

/-- COMBINER_READ (R98, R104). -/
def State.combRead (s : State) (l : Nat) (req : Requester) (off len : Nat) : State := s.combAccess l req off len none

end Sys2Proof.Machine
end

