-- ==== Sys2Proof/Machine/Access.lean ====
section
/-! DEFINITION. Accesses of requesters that are no core's instruction (R26, R86, R98, R225 to R227, R240, R327 to R330, R385,
R397): each waits for the banks and ports that its parts need, a cycle at a time, and then has its end. -/

namespace Sys2Proof.Machine

/-! ### Regions and inputs (R275, R297) -/

/-- Whether a die lies in a region's rectangle (R297). -/
def Region.hasDie (x : Region) (d : Nat) : Bool :=
  x.y0 ≤ d / 8 && d / 8 ≤ x.y1 && x.x0 ≤ d % 8 && d % 8 ≤ x.x1

/-- The region of a die. -/
def State.regionOfDie (s : State) (d : Nat) : Option Region := s.regions.find? fun x => x.hasDie d

/-- The region that an address belongs to while it runs. -/
def State.runningAt (s : State) (g : GA) : Option Region :=
  let r : Option Region := match s.place g with
    | .core l _ => s.regionOf l
    | .well ph _ => (s.cores.find? fun c => c.phys == ph).bind fun c => s.region? c.region
    | .pool d _ => s.regionOfDie d
    | .stack _ _ => s.regions.find? fun x => x.tensors.any fun t => t.1 ≤ g && g < t.1 + t.2
    | _ => none
  match r with
  | some x => if x.phase == .running then some x else none
  | none => none

/-- A host input of a region's run, into its run record (R275, R281): the digest and the run step. -/
def State.noteInput (s : State) (r : Nat) (payload : List Nat) (step : Nat) : State :=
  s.updRegion r fun x => { x with runRec := x.runRec.map fun q =>
    if q.ended.isNone then { q with inputs := q.inputs ++ [(Config.digestOf payload, step)] } else q }

/-- The run step in which something reaches an address of a region: that of the core whose window or well it is, else that of
the region's lowest-numbered core (DEDUCED, log 87). -/
def State.inputStep (s : State) (x : Region) (g : GA) : Nat :=
  let own : Option CoreSt := match s.place g with
    | .core l _ => s.core? l
    | .well ph _ => s.cores.find? fun c => c.phys == ph
    | _ => none
  match own.orElse fun _ => (s.coresOf x.num).head? with
  | some c => c.step - x.base
  | none => 0

/-- Bytes that reach a RUNNING region from the host are an input of its run, at the step in which they land (R275, R281). -/
def State.noteBytes (s : State) (g : GA) (bs : List Byte) : State :=
  match s.runningAt g with
  | some x => s.noteInput x.num (g :: bs.map BitVec.toNat) (s.inputStep x g)
  | none => s

/-! ### What ends of accesses send (R326, R328, R329, R396) -/

/-- A stream of a session. -/
def State.stream? (s : State) (session n : Nat) : Option Stream :=
  s.host.streams.find? fun x => x.session == session && x.num == n

/-- A stream changed. -/
def State.updStream (s : State) (session n : Nat) (f : Stream → Stream) : State :=
  { s with host := { s.host with
      streams := s.host.streams.map fun x => if x.session == session && x.num == n then f x else x } }

/-- An ACK: the last PSN received in order, and the landed PSN. -/
def State.sendAck (s : State) (x : Stream) : State :=
  let s := s.updStream x.session x.num fun y => { y with sinceAck := 0 }
  if x.next = 0 then s else s.emit (s.cmtOut x (x.next - 1) 0x05 x.landed 0 [])

/-- READ_DATA packets of up to 8,192 B, n at most. -/
def State.sendData (s : State) (session num n : Nat) (g : GA) (bs : List Byte) : State :=
  match n with
  | 0 => s
  | k + 1 =>
    if bs.isEmpty then s
    else (s.cmtSend session num 0x04 g 0 (bs.take 8192)).sendData session num k (g + 8192) (bs.drop 8192)

/-- A packet for another module goes on along the route (R396). -/
def State.forward (s : State) (vl kind : Nat) (hdr : FlitHdr) (data : List Byte) : State :=
  match s.route hdr.dst with
  | some (p, _) => s.sendFlit p vl kind { hdr with hops := hdr.hops + 1 } data
  | none => s

/-- Bytes sent back in packets of up to 64 KiB, n at most (R396). -/
def State.respond (s : State) (n : Nat) (hdr : FlitHdr) (bs : List Byte) : State :=
  match n with
  | 0 => s
  | k + 1 =>
    if bs.isEmpty then s
    else (s.forward 2 0x03 { hdr with payload := (bs.take 65536).length } (bs.take 65536)).respond k hdr (bs.drop 65536)

/-! ### Pieces and faults -/

/-- The pieces of an access, as (offset, length): none crosses a boundary of k bytes (R98). -/
def accessPieces (k g n : Nat) : List (Nat × Nat) :=
  let a := min n (k - g % k)
  (if n = 0 then [] else [(0, a)])
    ++ (List.range ((n - a + k - 1) / k)).map fun i => (a + k * i, min k (n - a - k * i))

/-- How a place refuses an access of a requester that is no core (R86, R224, R243, R255, R327, R416). The windows of a core
answer for themselves. -/
def State.reqFault (s : State) (g : GA) (since : Nat) : Option FCode :=
  match s.place g with
  | .core l _ =>
    match s.regionOf l with
    | none => some .addressUnmapped
    | some x => if x.phase == .parking then some .parkedTarget else none
  | .well .. | .pool .. | .stack .. => if s.placeParked (s.place g) (some since) then some .parkedTarget else none
  | .control _ | .remote _ | .unmapped | .unbacked => some .addressUnmapped

/-- How a piece of an access is refused: bytes of another module's transfer as a transfer's are (R87, R255, R302). -/
def State.jobFault (s : State) (j : Job) (g : GA) : Option FCode :=
  match j.req with
  | some _ => s.reqFault g j.since
  | none => s.placeFault (s.place g) g (some j.since)

/-- The first of two faults. -/
def firstFault {α : Type} (a b : Option α) : Option α := match a with | some f => some f | none => b

/-- A piece that fails: a write is dropped, a read gives zeros (R241, R328). -/
def Job.fail (j : Job) (f : FCode) (off n : Nat) : Job :=
  { j with
    fault := firstFault j.fault (some (f, j.ga + off))
    got := if j.data.isSome then j.got else j.got ++ cellsAt off (List.replicate n 0) }

/-- A piece of another module's access to the scratchpad of a core: payload waits in the landing buffer, a read takes a bank
that is free (R93, R94). -/
def State.outerPiece (s : State) (j : Job) (l o off n : Nat) : Option State :=
  match j.data with
  | some bs =>
    if (((s.core? l).map CoreSt.landingRoom).getD 0) < n then none
    else
      let w : Landing :=
        { outer := some j.stamp, issuer := l, q := 0, idx := 0, gen := 0, member := l, off := off, len := n
          cells := cellsAt o ((bs.drop off).take n) }
      some (s.updCore l fun c => { c with landing := c.landing ++ [w] })
  | none =>
    (s.takeBank l (bankOf (granuleOf o))).map fun s =>
      s.updJob j.stamp fun j => { j with got := j.got ++ cellsAt off (((s.core? l).map fun c => c.spad.read o n).getD []) }

/-- A piece of an access tried in the present cycle; none when it waits, for room, for a bank or for a refresh (R226,
R227). -/
def State.servePiece (s : State) (j : Job) (off n : Nat) : Option State :=
  let g := j.ga + off
  let part := j.data.map fun bs => (bs.drop off).take n
  match s.jobFault j g, s.place g with
  | some f, _ => some (s.updJob j.stamp fun j => j.fail f off n)
  | none, .core l o =>
    match j.req with
    | none => s.outerPiece j l o off n
    | some q =>
      let (t, ok) := s.combPart l q j.stamp o n part (if part.isNone then some (j.stamp, off) else none)
      some (if ok then t else t.updJob j.stamp fun j => j.fail .addressUnmapped off n)
  | none, p =>
    if s.refreshing p then none
    else match part with
      | some bs => some ((cellsAt g bs).foldl (fun s c => s.putByte (s.place c.1) c.2) s)
      | none => some (s.updJob j.stamp fun j =>
          { j with got := j.got ++ (List.range n).map fun i => (off + i, s.placeByte (s.place (g + i))) })

/-! ### The life of an access -/

/-- The stream whose order an access keeps (R327). -/
def JobEnd.stream : JobEnd → Option (Nat × Nat)
  | .cmtWrite a b _ | .cmtAnnounce a b _ _ _ _ | .cmtRead a b _ | .cmtFence a b _ | .cmtClose a b _ => some (a, b)
  | _ => none

/-- Whether an access waits for one before it: a packet for the packets of its stream to land, any other for the parts of its
requester's accesses to be on their way (R99, R327). -/
def Job.behind (j i : Job) : Bool :=
  match j.fin.stream with
  | some p => i.fin.stream == some p
  | none => j.req.isSome && i.req == j.req && !i.todo.isEmpty

/-- Whether nothing of an access is left on its way. -/
def State.jobDone (s : State) (j : Job) : Bool :=
  j.todo.isEmpty && match j.data with
    | some _ => s.cores.all fun c => !c.holdsStamp j.stamp && !(c.landing.any fun w => w.outer == some j.stamp)
    | none => decide (j.len ≤ j.got.length)

/-- The bytes that an access has read. -/
def Job.bytes (j : Job) : List Byte :=
  (List.range j.len).map fun i => ((j.got.find? fun b => b.1 == i).map fun b => b.2).getD 0

/-- What ECC does to the bytes of such a read (R239, R240): the error goes to its requester. -/
def State.eccReq (s : State) (g : GA) (bs : List Byte) (e : EccOutcome) : State × List Byte × Option (FCode × GA) :=
  match e, s.memoryAt ((List.range bs.length).map fun i => g + i) with
  | .clean, _ => (s, bs, none)
  | _, none => (s, bs, none)
  | .corrected, some a => (s.eccCount a true, bs, some (.memCorrected, a))
  | .uncorrectable raw, some a =>
    (s.eccCount a false, if raw.length = bs.length then raw else bs, some (.memUncorrectable, a))

/-- The PSN of a packet whose bytes have landed, with every byte before them (R329). -/
def State.cmtLanded (s : State) (session num psn : Nat) : State :=
  s.updStream session num fun y => { y with landed := if psn < y.next then psn else y.landed }

/-- The ERROR packet of a packet whose target failed (R328). -/
def State.cmtFault (s : State) (session num psn : Nat) (f : Option (FCode × GA)) : State :=
  match f with
  | some (c, _) => s.cmtError session num psn c
  | none => s

/-- The announce of a WRITE_ANNOUNCE put in flight once its bytes have landed (R252, R328). -/
def State.hostAnnouncePut (s : State) (session num psn port : Nat) (g : GA) (n : Nat) (a : AnnWord) : State :=
  s.putSignal
    { id := 0, issuer := 2 ^ 20 + 64 * session + num, module := s.kol.module, lcore := a.lcore, tally := a.tally
      count := a.count, issued := s.time.cycle
      latency := s.landLatency (s.outerPoint (port / 2) a.lcore (g + (n - 1))) a.lcore, ahead := [], bundle := 0
      origin := .host session num psn }

/-- The announce on the last byte of another module's packet put in flight once the packet has landed (R252). -/
def State.outerAnnounce (s : State) (port stamp : Nat) (hdr : FlitHdr) : State :=
  if hdr.sigLast && 0 < hdr.sigCount then
    let last := hdr.dstGA + (max hdr.payload 1 - 1)
    s.putSignal
      { id := 0, issuer := hdr.issuer, module := s.kol.module, lcore := hdr.sigCore
        tally := hdr.sigTally, count := hdr.sigCount, issued := s.time.cycle
        latency := s.landLatency (s.outerPoint (edgeOfPort port) hdr.sigCore last) hdr.sigCore, ahead := []
        bundle := 0, origin := .remoteAnnounce hdr.src hdr.queue hdr.tagIdx, stamp := stamp }
  else s

/-- The fault of another module's access reported to the module of its issuer (R241, R416). -/
def State.reportFault (s : State) (hdr : FlitHdr) (write : Bool) (f : Option (FCode × GA)) : State :=
  match f with
  | none => s
  | some (c, g) =>
    let (_, unit, st) := unitOf s (s.place g) g
    s.reportBack hdr.src
      { fault := c.num, issuer := hdr.issuer, queue := hdr.queue, idx := hdr.tagIdx, write := write, unit := unit, stack := st }

/-- The end of an access. -/
def State.finishJob (s : State) (j : Job) : State :=
  match j.fin with
  | .prep h =>
    let (s, bs, f) := s.eccReq j.ga j.bytes j.ecc
    let code := (firstFault j.fault f).map fun f => f.1
    s.emit (.prepRead h bs (code.isNone || code == some .memCorrected))
  | .store h => if j.fault.isSome then s.emit (.prepRead h [] false) else s
  | .cmtWrite a b p => ((s.noteBytes j.ga (j.data.getD [])).cmtFault a b p j.fault).cmtLanded a b p
  | .cmtAnnounce a b p port n w =>
    (((s.noteBytes j.ga (j.data.getD [])).cmtFault a b p j.fault).cmtLanded a b p).hostAnnouncePut a b p port j.ga n w
  | .cmtRead a b p =>
    let (s, bs, f) := s.eccReq j.ga j.bytes j.ecc
    ((s.sendData a b (j.len / 8192 + 1) j.ga bs).cmtFault a b p (firstFault j.fault f)).cmtLanded a b p
  | .cmtFence a b p =>
    let s := s.cmtLanded a b p
    match s.stream? a b with
    | some x => s.sendAck x
    | none => s
  | .cmtClose a b seq =>
    let s := { s with host := { s.host with
      streams := s.host.streams.filter fun x => !(x.session == a && x.num == b && x.closing) } }
    s.done a seq 0x0401 .ok []
  | .answer _ h =>
    let (s, bs, f) := s.eccReq j.ga j.bytes j.ecc
    (s.respond (h.payload / 65536 + 1)
      { dst := h.src, src := s.kol.module, srcCore := h.srcCore, dstGA := h.dstGA
        tagIdx := h.tagIdx, queue := h.queue, issuer := h.issuer } bs).reportFault h false (firstFault j.fault f)
  | .outerWrite port h => (s.reportFault h true j.fault).outerAnnounce port j.stamp h
  | .debug => s

/-- The pieces of one access that the present cycle can place. -/
def State.placeJob (s : State) (j : Job) : State :=
  let (s, rest) := j.todo.foldl
    (fun (a : State × List (Nat × Nat)) p => match a.1.servePiece j p.1 p.2 with
      | some s => (s, a.2)
      | none => (a.1, a.2 ++ [p]))
    (s, [])
  s.updJob j.stamp fun j => { j with todo := rest }

/-- The access of a number. -/
def State.job? (s : State) (stamp : Nat) : Option Job := s.fab.jobs.find? fun j => j.stamp == stamp

/-- A function applied to every access in turn that need not wait for one before it. -/
def State.eachJob (s : State) (f : State → Job → State) : State :=
  (s.fab.jobs.map fun j => j.stamp).foldl
    (fun s k => match s.job? k with
      | none => s
      | some j => if s.fab.jobs.any fun i => i.stamp < j.stamp && j.behind i then s else f s j)
    s

/-- An access that is done has its end; one of debug stays for its command, which takes it away. -/
def State.endJob (s : State) (j : Job) : State :=
  if s.jobDone j && j.fin != .debug then
    { s with fab := { s.fab with jobs := s.fab.jobs.filter fun i => i.stamp != j.stamp } }.finishJob j
  else s

/-- An access put in the queue of accesses. -/
def State.addJob (s : State) (req : Option Requester) (g : GA) (len : Nat) (data : Option (List Byte)) (ecc : EccOutcome)
    (fin : JobEnd) : State :=
  let j : Job :=
    { stamp := s.fab.nextStamp, req := req, ga := g, len := len, data := data, ecc := ecc, since := s.time.cycle, fin := fin
      todo := accessPieces (if req.isSome then 32 else 64) g len }
  let t := s.nextStamp
  { t with fab := { t.fab with jobs := t.fab.jobs ++ [j] } }

/-- An access put in the queue, with the parts that need no bank in the present cycle carried out at once. Where a write may
go follows R86 and R327 (DEDUCED, log 37). -/
def State.access (s : State) (req : Option Requester) (g : GA) (len : Nat) (data : Option (List Byte)) (ecc : EccOutcome)
    (fin : JobEnd) : State :=
  ((s.addJob req g len data ecc fin).eachJob State.placeJob).eachJob State.endJob

/-! ### The background path of one cycle (R88, R93) -/

/-- The entries that a CMT fence flushes, as long as it waits for the packets before it to land (R98, R329). -/
def State.fenceWork (s : State) : State :=
  s.fab.jobs.foldl
    (fun s j => match j.fin with
      | .cmtFence a b _ => s.requesterFence (.cmt a b)
      | _ => s) s

/-- The background path of a cycle, once the scheduled accesses have claimed their banks: outbound reads, the chunks that are
on their way, inbound writes, then the combiner's accesses and what waits for them. -/
def State.background (s : State) : State :=
  let ls := s.cores.map fun c => c.lcore
  let s := s.outbound.stepChunks
  let s := ls.foldl State.inbound s
  let s := s.eachJob State.placeJob
  let s := (ls.foldl State.combEnter s).fenceWork
  let s := ls.foldl State.combServe s
  ls.foldl State.applySigs (s.eachJob State.endJob)

end Sys2Proof.Machine
end

