-- ==== Sys2Proof/Machine/Issue.lean ====
section
/-! DEFINITION. Issue (R66 to R72, R76 to R80, R84, R97, R153, R154, R185, R202, R248, R249, R283): a bundle is presented,
judged, held or issued. -/

namespace Sys2Proof.Machine

/-! ### Judging a bundle -/

/-- The verdicts of the four slots. -/
structure Verdicts where
  s : Verdict
  x : Verdict
  m : Verdict
  v : Verdict
deriving DecidableEq, Repr

/-- A verdict by slot. -/
def Verdicts.at_ (w : Verdicts) : Slot → Verdict
  | .s => w.s | .x => w.x | .m => w.m | .v => w.v

/-- The four slots in the order of R82. -/
def allSlots : List Slot := [.s, .x, .m, .v]

/-- The position of a slot. -/
def slotPos : Slot → Nat
  | .s => 0 | .x => 1 | .m => 2 | .v => 3

/-- Whether a slot of a presented bundle was skipped by a limit (R97, R185). -/
def Presented.out (p : Presented) (sl : Slot) : Bool := p.skipped.getD (slotPos sl) false

/-- Whether a bundle's slots are all skipped: a reserved flag bit, or a HALT whose reserved bits are set (R80, R153). None of
them holds it or raises a fault of its own. -/
def stopsWhole (b : Bundle) : Bool := b.reserved != 0 || haltBroken b

/-- The core as the other slots of a bundle see it when its RADV issues: the move of the ring is visible in the cycle in which
it takes place (R102, R201; DEDUCED, log 88). -/
def CoreSt.moved (c : CoreSt) (op : XOp) : CoreSt :=
  match op with
  | .radv tail ctx => c.updRing ctx.toNat fun r => if tail then r.drain else r.fill
  | _ => c

/-- The verdicts of a bundle against a core; a slot that a limit has skipped holds nothing. -/
def judge (k : Ctx) (c : CoreSt) (p : Presented) : Verdicts :=
  if stopsWhole p.b then { s := .go, x := .go, m := .go, v := .go }
  else
    let f (sl : Slot) (v : Verdict) : Verdict := if p.out sl then .go else v
    let x := judgeX k c p.b
    let c' := if x.isGo && !p.out .x then c.moved p.b.x else c
    { s := f .s (judgeS k c' p.b), x := f .x x, m := f .m (judgeM k c' p.b), v := f .v (judgeV k c' p.b) }

/-- A wait or full-queue hold of a verdict. -/
def Verdict.wait : Verdict → Option (Nat × Nat)
  | .hold w _ => w
  | _ => none

/-- A check-8 hold of a verdict. -/
def Verdict.c8 : Verdict → Option Check8
  | .hold _ c => c
  | _ => none

/-- Whether a verdict holds its bundle. -/
def Verdict.holds : Verdict → Bool
  | .hold .. => true
  | _ => false

/-! ### Configuration at a boundary (R72, R338) -/

/-- Whether a buffered entry is due at the boundary that begins an Invar step. -/
def CfgEntry.dueAt (e : CfgEntry) (cycle step base : Nat) : Bool :=
  match e.target with
  | .next => decide (e.cycle < cycle)
  | .step j => base + j == step
  | .start => false

/-- The value that a configuration register takes; TWO_PHASE_CTRL is the one of class B (R343). -/
def CoreSt.cfgWrite (c : CoreSt) (e : CfgEntry) : CoreSt :=
  if e.off = 0x100 then { c with twoPhase := e.value } else c

/-- The Invar step that a marker begins. -/
def CoreSt.nextStep (c : CoreSt) : Nat := if c.begun then c.step + 1 else c.step

/-- The configuration that action 2 of R72 leaves. -/
def CoreSt.withCfg (c : CoreSt) (cycle base : Nat) : CoreSt :=
  let due := c.cfg.filter fun e => e.dueAt cycle c.nextStep base
  due.foldl CoreSt.cfgWrite { c with cfg := c.cfg.filter fun e => !e.dueAt cycle c.nextStep base }

/-- A core has applied, or lost, its entry of a register write; REG_APPLIED follows the last core (R317)
(DEDUCED, log 29). -/
def State.ticketMark (s : State) (id lcore : Nat) (step : Option Nat) : State :=
  let upd (t : Ticket) : Ticket :=
    if t.id == id && t.waits.contains lcore then
      { t with waits := t.waits.filter fun x => x != lcore, applied := t.applied ++ [(lcore, step)] } else t
  let s := { s with host := { s.host with tickets := s.host.tickets.map upd } }
  match s.host.tickets.find? fun t => t.id == id && t.waits.isEmpty with
  | none => s
  | some t =>
    let s := { s with host := { s.host with tickets := s.host.tickets.filter fun x => x.id != id } }
    s.tell t.session .regApplied ([.num t.seq] ++ t.applied.flatMap fun a =>
      [.num a.1, match a.2 with | some x => .num x | none => .flag false])

/-! ### Stopping a core -/

/-- A core that issues nothing more in this run segment: the bundle it holds is presented again when it resumes. -/
def CoreSt.halted (c : CoreSt) (r : RunState) : CoreSt :=
  { c with run := r, presented := none
           waiting := (match c.presented with | some p => [p.b] | none => []) ++ c.waiting }

/-- Whether a stop keeps a core from presenting a bundle (R83, R299). -/
def CoreSt.stopsHere (c : CoreSt) (cycle : Nat) (b : Bundle) : Bool :=
  (match c.stopFrom with | some t => decide (t ≤ cycle) | none => false)
    || (b.marker && c.begun && (match c.stopBefore with | some k => decide (k ≤ c.step + 1) | none => false))

/-! ### Issuing -/

/-- The tallies that a STEP mask names and finds nonzero, as they stood at the start of the cycle (R72, R178). -/
def badTallies (c : CoreSt) (mask : Nat) : List Nat :=
  (List.range 48).filter fun t => bits mask (t / 2) (t / 2) == 1 && c.tallies.getD t 0 != 0

/-- The detail word of TALLY_IMBALANCE (R178). -/
def imbalanceDetail (c : CoreSt) (bad : List Nat) : Nat :=
  bad.headD 0 + 64 * bad.length + 4096 * c.tallies.getD (bad.headD 0) 0

/-- The STEP check of a marker bundle: the detail word when it fails. -/
def stepCheck (c : CoreSt) (b : Bundle) (skipped : Bool) : Option Nat :=
  match b.s with
  | .step m =>
    if skipped || b.reserved != 0 then none
    else match badTallies c m.toNat with
      | [] => none
      | bad => some (imbalanceDetail c bad)
  | _ => none

/-- The region whose run a core is in. -/
def State.runOf (s : State) (c : CoreSt) : Nat := ((s.region? c.region).map fun x => x.num).getD 0

/-- Actions 2 and 3 of R72. Run step 0 clears the slip counter (R277); the configuration writes that apply are inputs of the
run at this step (R275). -/
def State.boundary (s : State) (l : Nat) (base : Nat) : State :=
  match s.core? l with
  | none => s
  | some c =>
    let due := c.cfg.filter fun e => e.dueAt s.time.cycle c.nextStep base
    let step := c.nextStep
    let s := s.updCore l fun c =>
      { c.withCfg s.time.cycle base with
        step := step, begun := true, stepCycle := s.time.cycle, occur := []
        slip := if c.begun then c.slip else 0
        chain := match s.region? c.region with | some x => x.chainMode | none => c.chain }
    due.foldl (fun s e => (s.noteInput (s.runOf c) [e.off, e.value] (step - base)).ticketMark e.ticket l (some step)) s

/-- One slot of an issuing bundle: a skip is recorded and leaves what a skip leaves, an instruction has its effect. -/
def State.issueSlot (s : State) (k : Ctx) (c0 : CoreSt) (b : Bundle) (sl : Slot) (v : Verdict) (out : Bool) : State :=
  let l := c0.lcore
  let skip (code : FCode) (s : State) : State :=
    match sl with
    | .s => s
    | .x => skipX k c0 b.x code s
    | .m => s.updCore l (skipM k c0 b.m code)
    | .v => s.updCore l (skipV k c0 b.v code)
  if out then skip .holdLimit s
  else match v with
    | .skip code d => skip code (s.raise l code (some sl) c0.pc d)
    | _ => match sl with
      | .s => applyS k c0 b.s s
      | .x => applyX k c0 b.x s
      | .m => s.updCore l (applyM k c0 b.m)
      | .v => s.updCore l (applyV k c0 b.v)

/-- The occupancy of slots that are skipped with their whole bundle (R79, R153). -/
def State.skipRest (s : State) (k : Ctx) (c0 : CoreSt) (b : Bundle) : State :=
  s.updCore c0.lcore fun c => skipV k c0 b.v .slotConflict (skipM k c0 b.m .slotConflict c)

/-- The place of a bundle in the run step counted (R278). -/
def CoreSt.countOccur (c : CoreSt) (idx : Nat) : CoreSt := { c with occur := bump c.occur idx 1 }

/-- The end of an issuing bundle: the successor's index and cycle, the loops, the end of instruction memory (R66, R154,
R172 to R177). `ok` says that the S instruction was not skipped (DEDUCED, log 23). -/
def State.finish (s : State) (c0 : CoreSt) (b : Bundle) (ok halt : Bool) : State :=
  let l := c0.lcore
  let s := s.updCore l fun c =>
    let (c, next) := advancePc c0 b ok c
    let c := c.countOccur c0.pc
    { c with
      pc := next
      lastIdx := c0.pc
      nextIssue := s.time.cycle + successorDelay c0 b
      presented := none
      run := if halt then .halted else c.run }
  match s.core? l with
  | none => s
  | some c =>
    if c.run == .running && 16384 ≤ c.pc then
      let s := s.raise l .illegalOp (some .s) c0.pc (2 ^ 30)
      s.updCore l fun c => { c with run := .halted }
    else s

/-- A replay stop of the bundle form that this bundle is: the region stops as under STOP (R245, R283). -/
def State.replayHit (s : State) (k : Ctx) (c0 : CoreSt) : State :=
  match k.region.replayStop with
  | some (.bundle j core idx occ) =>
    if core = c0.lcore ∧ j = k.runStep c0 ∧ idx = c0.pc ∧ occ = c0.occurrence c0.pc then
      let s := s.updRegion k.region.num fun x => { x with replayStop := none }
      s.stopRegionNow k.region.num (fun x => x == c0.lcore) (s.time.cycle + 1) (s.time.cycle + 40) .stop .replay 0
    else s
  | _ => s

/-- A bundle issues (R72, R76, R79, R82) (DEDUCED, log 22). -/
def State.issueBundle (s : State) (l : Nat) (p : Presented) (w : Verdicts) : State :=
  match s.core? l with
  | none => s
  | some c =>
    let k := s.ctx c
    let b := p.b
    let failed := if b.marker then stepCheck c b (p.out .s) else none
    let s := match failed with
      | some d => s.raise l .tallyImbalance (some .s) c.pc d true
      | none => s
    if failed.isSome && k.region.policy .tallyImbalance != .log then s.updCore l fun c => c.halted .stopped
    else
      let s := if b.marker then s.boundary l k.region.base else s
      match s.core? l with
      | none => s
      | some c0 =>
        let halt := b.s == .halt || haltBroken b
        if b.reserved != 0 then
          let s := s.raise l .illegalOp (some .s) c0.pc (2 ^ 31 + b.flagByte)
          ((s.skipRest k c0 b).finish c0 b (b.s == .halt) halt).replayHit k c0
        else if haltBroken b then
          let s := s.raise l .illegalOp (some .s) c0.pc (encodeS b.s).toNat
          ((s.skipRest k c0 b).finish c0 b false true).replayHit k c0
        else
          let moved := if w.x.isGo && !p.out .x then c0.moved b.x else c0
          let view (sl : Slot) : CoreSt := if sl == .x then c0 else moved
          let s := allSlots.foldl (fun s sl => s.issueSlot k (view sl) b sl (w.at_ sl) (p.out sl)) s
          let ok := w.s.isGo && !p.out .s
          -- Start conditions, those of this bundle among them, go before a TTAKE of the same cycle (R180).
          let s := s.updCore l CoreSt.serveConds
          let s := if ok then s.takeNow l c0.pc b.s else s
          (s.finish c0 b ok (b.s == .halt)).replayHit k c0

/-! ### Holds and their limits -/

/-- The detail word of HOLD_LIMIT: the word of the hold, with bit 31 for a ring (R97). -/
def holdDetail (f : Check8) : Nat :=
  match f.code with
  | .ringUnderrun | .ringOverrun => f.detail + 2 ^ 31
  | _ => f.detail

/-- HOLD_LIMIT on every slot that check 8 still holds (R97) (DEDUCED, log 24). -/
def State.holdLimits (s : State) (l : Nat) (p : Presented) (w : Verdicts) : State × Presented :=
  allSlots.foldl
    (fun (st : State × Presented) sl =>
      match (w.at_ sl).c8 with
      | some f =>
        let d := (st.2.lastC8.getD (slotPos sl) none).getD (holdDetail f)
        let bundle := ((st.1.core? l).map fun c => c.pc).getD 0
        (st.1.raise l .holdLimit (some sl) bundle d, { st.2 with skipped := st.2.skipped.set (slotPos sl) true })
      | none => st)
    (s, p)

/-- WAIT_TIMEOUT of a bundle: once, against the first slot held by a wait or a full queue, else against an array hold
(R248, R249); the waits are abandoned (R185, R202). -/
def State.waitLimits (s : State) (l : Nat) (p : Presented) (w : Verdicts) (array : Bool) : State × Presented :=
  let held := [Slot.s, Slot.x].filter fun sl => (w.at_ sl).wait.isSome
  let bundle := ((s.core? l).map fun c => c.pc).getD 0
  match held with
  | sl :: _ =>
    let (code, x) := (w.at_ sl).wait.getD (0, 0)
    (s.raise l .waitTimeout (some sl) bundle (waitDetail code x),
     { p with timedOut := true, skipped := held.foldl (fun k sl => k.set (slotPos sl) true) p.skipped })
  | [] =>
    if array then
      let unit := match (s.core? l).bind fun c => c.nextPass with | some j => j.next | none => 0
      (s.raise l .waitTimeout (some .m) bundle (waitDetail 5 unit), { p with timedOut := true })
    else (s, p)

/-- The bundle that a core presents in the present cycle: the held one, one that was given, or the one in instruction
memory at its index (R66, R151; DESIGN CHOICE, log 3). -/
def CoreSt.candidate (c : CoreSt) (cycle : Nat) : Option Presented :=
  match c.presented with
  | some p => some p
  | none =>
    if cycle < c.nextIssue then none
    else match c.waiting with
      | b :: _ => some { b := b, since := cycle }
      | [] =>
        if c.pc < 16384 then
          some { b := decodeBundle (bundleOfBytes (c.imem.read (16 * c.pc) 16)), since := cycle }
        else none

/-- The judged core: for a marker, as actions 2 and 3 of R72 would leave it, so that its waits are those of the step that it
begins (R72, R279). -/
def judgedCore (k : Ctx) (c : CoreSt) (b : Bundle) : CoreSt :=
  if b.marker then { c.withCfg k.cycle k.region.base with step := c.nextStep, begun := true, occur := [] } else c

/-- A core presents its bundle in the present cycle: it stops, issues, or holds it (R67) (DEDUCED, log 25). -/
def State.tryIssue (s : State) (l : Nat) : State :=
  match s.core? l with
  | none => s
  | some c =>
    let k := s.ctx c
    if c.run != .running || !k.region.live then s
    else match c.candidate k.cycle with
      | none => s
      | some p =>
        if c.stopsHere k.cycle p.b then s.updCore l fun c => c.halted .stopped
        else
          let s := s.updCore l fun c =>
            { c with presented := some p
                     waiting := if c.presented.isNone then c.waiting.drop 1 else c.waiting }
          let w := judge k (judgedCore k c p.b) p
          let (s, p') :=
            if k.region.sbLimit ≤ p.sbCount then s.holdLimits l p w else (s, p)
          let w' := judge k (judgedCore k c p'.b) p'
          let (s, p'') :=
            if k.region.waitLimit ≤ p'.waitCount && !p'.timedOut then s.waitLimits l p' w' c.arrayHold else (s, p')
          let w'' := judge k (judgedCore k c p''.b) p''
          let held := c.arrayHold || allSlots.any fun sl => (w''.at_ sl).holds
          if held then s.updCore l fun c => { c with presented := some p'' }
          else s.issueBundle l p'' w''

/-- The end of a held cycle: the hold counters of the presented bundle (R97, R248) and the slip (R69, R277). An array hold
inside a delay moves the issue cycle of the bundle to come (R67, R124), and is counted apart. -/
def CoreSt.countHold (k : Ctx) (c : CoreSt) : CoreSt :=
  if c.run != .running then c
  else match c.presented with
  | none =>
    if c.arrayHold && k.region.live then
      { c.addSlip 1 with nextIssue := max c.nextIssue k.cycle + 1, holdRun := c.holdRun + 1 }
    else { c with holdRun := 0 }
  | some p =>
    let w := judge k (judgedCore k c p.b) p
    let waits := c.arrayHold || allSlots.any fun sl => (w.at_ sl).wait.isSome
    let sbs := allSlots.any fun sl => (w.at_ sl).c8.isSome
    { c.addSlip 1 with
      holdRun := 0
      presented := some { p with
        waitCount := p.waitCount + (if waits then 1 else 0)
        sbCount := p.sbCount + (if sbs then 1 else 0)
        lastC8 := allSlots.map fun sl => (w.at_ sl).c8.map holdDetail } }

/-- WAIT_TIMEOUT of an array hold that no presented bundle carries, once, against slot M and the bundle to come (R124, R249;
DEDUCED, log 28). -/
def State.holdTimeout (s : State) (l : Nat) : State :=
  match s.core? l with
  | none => s
  | some c =>
    let k := s.ctx c
    if c.presented.isNone && c.arrayHold && c.holdRun == k.region.waitLimit then
      s.raise l .waitTimeout (some .m) c.pc (waitDetail 5 (match c.nextPass with | some j => j.next | none => 0))
    else s

end Sys2Proof.Machine
end

