-- ==== Sys2Proof/Machine/Parking.lean ====
section
/-! DEFINITION. Parking units (R242, R243, R306): when a park or a reopening takes effect, and when the drain of a unit ends.
The clock settles both in every cycle; PARK_TAKES_EFFECT and UNIT_PARKED let it run to them. -/

namespace Sys2Proof.Machine

/-- The first multiple of 65,536 cc after a cycle. -/
def nextTurn (cycle : Nat) : Nat := (cycle / 65536 + 1) * 65536

/-- A parking entry changed. -/
def State.updPark (s : State) (u : ParkUnit) (f : ParkEntry → ParkEntry) : State :=
  { s with mem := { s.mem with parked := s.mem.parked.map fun e => if e.unit == u then f e else e } }

/-- The entry of a unit. -/
def State.parkEntry (s : State) (u : ParkUnit) : Option ParkEntry := s.mem.parked.find? fun e => e.unit == u

/-- Whether a unit's P is the next step boundary of its core (R242): a well's while the core's region is RUNNING and the core
has not halted, a pool window's as long as the die has a logical core. -/
def State.stepsOn (s : State) (u : ParkUnit) (watch : Option Nat) : Bool :=
  match watch.bind s.core? with
  | none => false
  | some c => match u with
    | .pool .. => true
    | _ => c.run != .halted && (match s.region? c.region with | some x => x.phase == .running | none => false)

/-- The effect cycle P of a waiting entry once it has come (R12, R242): its Invar multiple, or the first step boundary of its
core after the command. -/
def State.parkNow (s : State) (e : ParkEntry) (p : Option Nat) : Option Nat :=
  match p with
  | some t => if t ≤ s.time.cycle then some t else none
  | none => (e.watch.bind s.core?).bind fun c => if e.since < c.stepCycle then some c.stepCycle else none

/-- P of an entry that waits on: a boundary that no longer comes gives way to the next Invar multiple (R242). -/
def State.parkWait (s : State) (e : ParkEntry) (p : Option Nat) : Option Nat :=
  if p.isSome || s.stepsOn e.unit e.watch then p else some (nextTurn s.time.cycle)

/-- The event that acknowledges a park or reopen command with its cycle P (R242). -/
def State.parkAck (s : State) (e : ParkEntry) (p : Nat) : State :=
  if e.session = 0 then s else s.done e.session e.seq 0x0304 .ok [.num p]

/-- Whether an address lies in a unit. -/
def State.inUnit (s : State) (u : ParkPlace) (g : GA) : Bool := parkPlaceOf (s.place g) == some u

/-- Whether a transfer that reached a unit before P has bytes in it that are still to be served. -/
def State.xferIn (s : State) (u : ParkPlace) (p : Nat) (x : Xfer) : Bool :=
  (match x.started with | some t => decide (t < p) | none => false) && !x.complete && !x.discarded
    && (((x.missing 0 x.bytes).any fun i => s.inUnit u (x.srcAt i))
      || (!x.attr.stream && x.deliveries.any fun d => (List.range x.bytes).any fun i =>
        !covered (d.landed.map fun r => (r.1, r.2.1)) i 1 && s.inUnit u (x.dst.d.byteAt (x.dstBase s.kol.module d.member) i)))

/-- Whether requests that reached a unit before P are still to be served (R243). -/
def State.drainBusy (s : State) (u : ParkPlace) (p : Nat) : Bool :=
  (s.cores.any fun c => c.queues.any fun q => q.live.any fun x => s.xferIn u p x)
    || s.fab.jobs.any fun j => decide (j.since < p) && j.todo.any fun t => s.inUnit u (j.ga + t.1)

/-- One entry in the present cycle: a park or a reopening that takes effect, a drain that ends, with its requests or 10 µs
after P (R243). -/
def State.settlePark (s : State) (e : ParkEntry) : State :=
  match e.phase with
  | .pending p => match s.parkNow e p with
    | some t => s.updPark e.unit fun e => { e with phase := .draining t }
    | none => s.updPark e.unit fun e => { e with phase := .pending (s.parkWait e p) }
  | .draining t =>
    if t + s.ns 10000 ≤ s.time.cycle || !s.drainBusy e.place t then
      (s.updPark e.unit fun e => { e with phase := .parked }).parkAck e t
    else s
  | .reopening p => match s.parkNow e p with
    | some t => { s with mem := { s.mem with parked := s.mem.parked.filter fun x => x.unit != e.unit } }.parkAck e t
    | none => s.updPark e.unit fun e => { e with phase := .reopening (s.parkWait e p) }
  | .parked => s

/-- Every entry in the present cycle; park commands wait while the management harts restart (R306). -/
def State.settleParks (s : State) : State := if s.fw.mgmtDown then s else s.mem.parked.foldl State.settlePark s

end Sys2Proof.Machine
end

