-- ==== Sys2Proof/Machine/Clock.lean ====
section
/-! DEFINITION. One core-clock cycle of the module (R65, R66, R75, R93, R124, R180): what every core, its queues, its array
and its vector engine do in it, and the end of a region's run (R83, R179, R281). A step on an empty queue is one such cycle
(DESIGN CHOICE, log 1). -/

namespace Sys2Proof.Machine

/-! ### Queues -/

/-- Completions, freed indices and served start conditions of a core in one cycle. -/
def CoreSt.queueSettle (c : CoreSt) : CoreSt :=
  let c := c.serveConds
  (List.range 4).foldl (fun c q => (c.completeAll 16 q).updQueue q Queue.free) c

/-- Under STOP, transfers that a core has accepted since are discarded as well (R245). -/
def State.dropUnderStop (s : State) (l : Nat) : State :=
  match s.regionOf l with
  | some x => if x.phase == .stopping && x.stopKind == .stop then s.updCore l CoreSt.discardUnstarted else s
  | none => s

/-- The queue work of a core at the start of a cycle: what completes or is served in it. -/
def State.queueWork (s : State) (l : Nat) : State := s.updCore l CoreSt.queueSettle

/-- The starts of a core's queues in a cycle, behind its issue (R229, R245). -/
def State.startWork (s : State) (l : Nat) : State :=
  (List.range 4).foldl (fun s q => s.startQueue l q) (s.dropUnderStop l)

/-! ### Engines -/

/-- The bank conflicts of a cycle raised in order (R82, R92). -/
def State.raiseLost (s : State) (l : Nat) (ls : List LostBank) : State :=
  ls.foldl (fun s x => s.raise l .bankConflict (some x.slot) x.bundle x.detail) s

/-- The array and the vector engine of a core in one cycle, from the accumulator file of the cycle's start: with the claims of
every scheduled access. -/
def enginesCycle (k : Ctx) (c : CoreSt) (acc0 : Mem) : CoreSt × List Claim × List LostBank × List LostBank :=
  let (c1, claims, lm) :=
    if c.arrayHold then ({ c with frozen := c.frozen + 1 }, c.claims, []) else mCycle c k.cycle c.claims
  let (c2, claims, lv) := vCycle k { c1 with acc := acc0 } k.cycle claims
  ({ c2 with acc := c1.acc, claims := [] }, claims, lm, lv)

/-- The combiner's words at a core's accumulator ports, then its array and its vector engine, which leave the banks that they
have claimed to the background path (R88, R93, R104). -/
def State.coreEngines (s : State) (l : Nat) : State :=
  match s.core? l with
  | none => s
  | some c =>
    let acc0 := c.acc
    let s := s.accServe l
    match s.core? l with
    | none => s
    | some c =>
      let (c', claims, lm, lv) := enginesCycle (s.ctx c) c acc0
      let s := s.updCore l fun _ => { c' with bgUsed := claims.map fun x => x.bank }
      (s.raiseLost l lm).raiseLost l lv

/-- What a core does in a cycle after its bundle. -/
def State.coreCycle (s : State) (l : Nat) : State :=
  match s.core? l with
  | none => s
  | some c => ((s.updCore l (CoreSt.countHold (s.ctx c))).holdTimeout l).coreEngines l

/-! ### The start of the next cycle -/

/-- Whether an engine entry releases its sources now. -/
def EngineEntry.due (c : CoreSt) (t : Nat) (e : EngineEntry) : Bool :=
  !e.srcDone && decide (e.relSrc ≤ if e.mclock then c.dueNow t else t)

/-- Released sources drain their ring slots, and entries that hold nothing leave (R95, R102). -/
def CoreSt.settleEngines (c : CoreSt) (t : Nat) : CoreSt :=
  let ctxs := (c.engines.filter fun e => e.due c t).flatMap fun e => e.rings
  let es := (c.engines.map fun e => { e with srcDone := e.srcDone || e.due c t }).filter fun e =>
    !e.srcDone || e.inUse c t
  ctxs.foldl (fun c k => c.updRing k Ring.drain) { c with engines := es }

/-- SLIP_BUDGET on the first held cycle of a pass under TRAP (R124) (DEDUCED, log 28). -/
def State.slipBudget (s : State) (l : Nat) : State :=
  match s.core? l with
  | none => s
  | some c =>
    match c.nextPass, s.regionOf l with
    | some j, some x =>
      if c.arrayHold && x.trap && !j.slipRaised then
        let s := s.updCore l fun c =>
          { c with passes := c.passes.map fun y => if y.id == j.id then { y with slipRaised := true } else y }
        s.raise l .slipBudget (some .m) j.bundle (j.next % 4096 + 4096 * 8)
      else s
    | _, _ => s

/-- What the start of a cycle settles on a core. -/
def State.coreSettle (s : State) (l : Nat) : State :=
  let t := s.time.cycle
  let s := s.updCore l fun c =>
    let c := ((mSettle { c with rings0 := c.rings } t).settleEngines t).combTimeout t
    { c with arrayHold := c.holdsArray t }
  s.slipBudget l

/-- The core cycles of a management tick of 1 ms (R307). -/
def State.tickLength (s : State) : Nat := if s.slow then 3000000 else 3300000

/-- Time moves by some cycles; the Invar cycle count has 64 bits (R65). -/
def State.passTime (s : State) (n : Nat) : State :=
  let k := s.time.tickCc + n
  let t : Time := { s.time with
    cycle := (s.time.cycle + n) % 2 ^ 64
    tick := s.time.tick + k / s.tickLength
    tickCc := k % s.tickLength }
  { s with time := t, glb := { s.glb with bcast0 := s.glb.bcast } }

/-! ### The end of a run (R83, R179, R281, R299) -/

/-- Nothing of a core is in flight: transfers complete or discarded, array and vector engine at rest, payload landed. A
pass that an array hold keeps does not count (DEDUCED, log 68). -/
def CoreSt.drained (c : CoreSt) : Bool :=
  (c.queues.all fun q => q.live.all fun x => x.complete || x.discarded || x.freed)
    && c.vjobs.isEmpty && c.landing.isEmpty
    && (c.arrayHold || (c.passes.isEmpty && c.loads.isEmpty && c.zeros.isEmpty && c.accWrites.isEmpty))

/-- Combiner traffic of a core that waits. -/
def CoreSt.combIdle (c : CoreSt) : Bool :=
  c.combiner.isEmpty && c.flushes.isEmpty && c.combWait.isEmpty && c.accPort.isEmpty && c.sigWait.isEmpty

/-- A transfer that has started and is not complete has an end on a core of a list. -/
def Xfer.touches (module : Nat) (ls : List Nat) (x : Xfer) : Bool :=
  let on (g : GA) : Bool := gaModule g == module && gaSpace g == 0 && ls.contains (gaCore g)
  x.started.isSome && !x.complete && !x.discarded
    && (on x.src.base || x.deliveries.any fun d => on (x.dstBase module d.member))

/-- Whether every transfer of a region, and for HALT every one to or from its cores, has ended. -/
def State.regionDrained (s : State) (x : Region) : Bool :=
  let ls := (s.coresOf x.num).map fun c => c.lcore
  (s.coresOf x.num).all CoreSt.drained
    && (x.stopKind != .halt
      || s.cores.all fun c => c.queues.all fun q => q.live.all fun y => !y.touches s.kol.module ls)

/-- The last complete run step of a core (R281), none before the end of run step 0. -/
def CoreSt.lastStep (c : CoreSt) (base : Nat) (atMarker : Bool) : Option Nat :=
  if !c.begun then none
  else
    let k := c.step - base
    if c.run == .halted || atMarker then some k else if k = 0 then none else some (k - 1)

/-- Whether a core stands before a step marker: the next bundle it would issue carries the flag. -/
def CoreSt.atMarker (c : CoreSt) : Bool :=
  let next : Option Bundle := match c.waiting with
    | b :: _ => some b
    | [] => if c.pc < 16384 then some (decodeBundle (bundleOfBytes (c.imem.read (16 * c.pc) 16))) else none
  match next with
  | some b => b.marker
  | none => false

/-- The last complete run step of a region: the lowest of its cores, all ones when some core has completed none. -/
def State.regionLastStep (s : State) (x : Region) : Nat :=
  let ks := (s.coresOf x.num).map fun c => c.lastStep x.base c.atMarker
  if ks.contains none then 2 ^ 64 - 1
  else match ks.filterMap id with
    | [] => 2 ^ 64 - 1
    | k :: r => r.foldl min k

/-- The counters of the run record (R281): core, 0 slip, 1 choice count, 2 CHOICE_LOST, with the value. -/
def State.runCounters (s : State) (r : Nat) (final : Bool) : List (Nat × Nat × Nat) :=
  (s.coresOf r).flatMap fun c =>
    (c.lcore, 0, c.slip) :: if final then [(c.lcore, 1, c.choices), (c.lcore, 2, c.choiceLost)] else []

/-- The end of a run that has begun: the record closes, goes to the ledger, and is sent (R281, R318)
(DEDUCED, log 19). -/
def State.endRun (s : State) (r : Nat) (why : EndReason) : State :=
  match s.region? r with
  | none => s
  | some x =>
    match x.runRec with
    | none => s
    | some q =>
      if q.ended.isSome || !x.ran then s
      else
        let q := { q with counters := q.counters ++ s.runCounters r true
                          ended := some (s.regionLastStep x, why) }
        (s.updRegion r fun x => { x with runRec := some q }).notify .runEnd [.run q]

/-- Whether every core of a region stands before one step marker, none of them halted: RESUME may go on (R299). -/
def State.resumable (s : State) (x : Region) : Bool :=
  let cs := s.coresOf x.num
  x.loaded && x.ran && !x.spoiled && cs.all (fun c => c.run == .stopped && c.begun && c.atMarker)
    && match cs.head? with
      | some c => cs.all fun d => d.step == c.step
      | none => false

/-- A stop that has been served is forgotten. -/
def CoreSt.clearStop (c : CoreSt) : CoreSt := { c with stopBefore := none, stopFrom := none }

/-- The run state of a core as its region enters IDLE. -/
def CoreSt.rest (c : CoreSt) : CoreSt := if c.run == .running then (c.halted .stopped).clearStop else c.clearStop

/-- Whether a region stands where a barrier starts it: idle and loaded, and for a resume before the marker of the
barrier's step (R261, R263). -/
def State.arrived (s : State) (b : Barrier) (x : Region) : Bool :=
  x.phase == .idle && x.loaded && if b.resume then
      s.resumable x && (s.coresOf x.num).all fun c => decide (c.step + 1 = x.base + b.step)
    else !x.ran && !x.spoiled

/-- The cycle that this module reports for a barrier (R261, R263): that in which its last region became IDLE, for a pace pause
that in which its last core stopped (R276), and none before the command that asks for the barrier (DEDUCED, log 89). -/
def State.readyCycle (s : State) (b : Barrier) : Nat :=
  (b.regions.filterMap s.region?).foldl (fun m x => max m (if b.pace = 0 then x.idleAt else x.lastStop)) b.asked

/-- The regions of a barrier hold what its master names (R261). -/
def State.matchesMaster (s : State) (b : Barrier) : Bool :=
  b.want.all fun w => b.regions.any fun r => match s.region? r with
    | some x => x.digest == w.1 && x.record == w.2
    | none => false

/-- The numbers from here up are barriers of a member that waits for the master's request. -/
def ownSeq : Nat := 2 ^ 32

/-- A module whose regions stand ready for a barrier counts as arrived, and reports it to the master (R261, R263). Nothing
is reported while the management harts restart (R306). -/
def State.arriveRegion (s : State) (seq : Nat) : State :=
  let own := s.kol.module
  match s.fab.barriers.find? fun b => b.seq == seq with
  | none => s
  | some b =>
    let here := b.phase == .arrival && seq < ownSeq && !s.fw.mgmtDown && !(b.arrivals.any fun a => a.1 == own)
      && b.regions.all fun r => match s.region? r with | some x => s.arrived b x | none => false
    if !here then s
    else
      let ok := s.matchesMaster b
      let t := s.readyCycle b
      let s := { s with fab := { s.fab with barriers := s.fab.barriers.map fun (b : Barrier) =>
        if b.seq == seq && ok then { b with arrivals := b.arrivals ++ [(own, t)] } else b } }
      if s.kol.inDomain && !s.kol.isMaster then s.sendMsg s.kol.master 0x06 0 (.solderArrival seq ok t) else s

/-- The modules that hold a region's object: its Solder set (R261, R276). -/
def State.solderSet (s : State) (x : Region) : List Nat :=
  if !s.kol.inDomain then [s.kol.module]
  else match x.obj with
    | some o => (s.kol.module :: (List.range 64).filter fun m => o.modules.testBit m).dedup
    | none => [s.kol.module]

/-- Whether this module runs the phases of a barrier over members (R261). -/
def State.leads (s : State) (members : List Nat) : Bool := members.length ≤ 1 || s.kol.isMaster

/-- The opening of a barrier over regions of this module and members of the domain (R261, R280): the master requests it of
the others. Answers with its number, which a member that does not lead takes above `ownSeq`. -/
def State.openBarrier (s : State) (regions : List Nat) (step : Nat) (resume replace : Bool) (pace asked : Nat)
    (clients : List (Nat × Nat × Nat)) : State × Nat :=
  let xs := regions.filterMap fun r => s.region? r
  let members := (s.kol.module :: xs.flatMap s.solderSet).dedup
  let lead := s.leads members
  let seq := 1 + if lead then s.fab.barrierSeq else s.fab.barriers.foldl (fun m b => max m b.seq) ownSeq
  let base := match xs with | [] => none | x :: r => some (r.foldl (fun (m : Region) y => if y.num < m.num then y else m) x).base
  let b : Barrier :=
    { seq := seq, regions := regions, members := members
      step := step, replace := replace, opened := s.time.tick, phase := .arrival, arrivals := [], t := none
      confirms := [], clients := clients, resume := resume, pace := pace, asked := asked, base := base }
  let s := { s with fab := { s.fab with barriers := s.fab.barriers ++ [b], barrierSeq := if lead then seq else s.fab.barrierSeq } }
  let want := xs.map fun x => (x.digest, x.record)
  (if 1 < members.length && s.kol.isMaster then
    s.flood 0x06 { dst := 0, src := 0, body := some (.solderRequest seq step resume replace pace asked (base.getD 0) members want) } []
  else s, seq)

/-- The next run step before whose marker a region pauses by its pace or declares a Solder step (R263, R276), above the
steps that its cores have begun and the step of its last pause. -/
def State.nextPause (s : State) (x : Region) : Option Nat :=
  let top := ((s.coresOf x.num).map fun c => if c.begun then c.step - x.base + 1 else 1).foldl max (x.paused + 1)
  let pace := if x.paceP = 0 then none else some ((top + x.paceP - 1) / x.paceP * x.paceP)
  let declared := (x.solderSteps.filterMap fun p => if top ≤ p.1 then some p.1 else none)
  declared.foldl (fun o k => optMin o k) pace

/-- The cores of a region stop before the marker of its next pause. -/
def State.armPause (s : State) (r : Nat) : State :=
  match s.region? r with
  | none => s
  | some x =>
    let k := s.nextPause x
    let s := s.updRegion r fun x => { x with pauseFor := k }
    match k with
    | none => s
    | some k => s.updCoresOf r fun c => { c with stopBefore := optMin c.stopBefore (x.base + k) }

/-- A region begins its pause: it stops as at a Solder step (R276). A set over several modules pauses under a barrier that the
master opens, and a region of another module waits for its request. -/
def State.pacePause (s : State) (r : Nat) : State :=
  match s.region? r with
  | none => s
  | some x =>
    if x.phase != .running then s
    else match s.nextPause x with
      | none => s
      | some k =>
        let declared := x.solderSteps.find? fun p => p.1 == k
        let s := s.updRegion r fun x => { x with pauseFor := some k }
        let s := s.updCoresOf r fun c => { c with stopBefore := optMin c.stopBefore (x.base + k) }
        let set := s.solderSet x
        let (s, goal) : State × StopGoal :=
          if declared.isNone && set.length ≤ 1 then (s, .pace)
          else
            let (s, seq) := s.openBarrier [r] k true (match declared with | some p => p.2 | none => false)
              (if declared.isSome then 0 else x.paceI) 0 []
            (s, .solder seq)
        (s.toStopping r .stopStep goal 0).updRegion r fun x => { x with committed := true }

/-- A core of a RUNNING region has stopped before the marker of the region's pause. -/
def pauseReached (cs : List CoreSt) (x : Region) : Bool :=
  x.phase == .running && match x.pauseFor with
    | some k => cs.any fun c => c.run == .stopped && c.begun && decide (c.step + 1 = x.base + k)
    | none => false

/-- What an L2 or L3 reset clears of a core (R107, R128, R146, R338, R351); scratchpad, accumulator file, stationary
registers and shape stand until the next load. -/
def CoreSt.resetClears (c : CoreSt) : CoreSt :=
  { c with
    run := .stopped, presented := none, waiting := [], stopBefore := none, stopFrom := none
    conds := [], engines := [], accEntries := []
    rings := c.rings.map fun r => r.map fun r => { r with head := 0, tail := 0, f := 0, p := 0 }
    newShape := none, passes := [], loads := [], zeros := [], accWrites := [], vjobs := []
    lag := 0, frozen := 0, arrayHold := false, holdRun := 0, vFree := 0, passFree := 0, shadowFree := 0, shapeFree := 0
    zeroFree := 0
    streamHead := 0, streamTail := 0, stream := [], gather := [], gatherTN := 0
    landing := [], combiner := [], flushes := [], combWait := [], accPort := [], sigWait := [], claims := [], cfg := [] }

/-- The prep harts of a region reset (R26): local SRAM cleared, and no read of theirs is answered any more (DESIGN CHOICE,
log 90). -/
def State.resetPrep (s : State) (x : Region) : State :=
  let mine (h : Nat) : Bool := x.hasDie (h / 4)
  let keep (j : Job) : Bool := match j.fin with | .prep h => !mine h | _ => true
  { s with
    mem := { s.mem with prep :=
      ((List.range 48).filter x.hasDie).foldl (fun m d => Mem.zero m (4 * d * 2 ^ 21) (4 * 2 ^ 21)) s.mem.prep }
    fab := { s.fab with
      jobs := s.fab.jobs.filter keep
      reads := s.fab.reads.filter fun r => !(2048 ≤ r.core && mine (r.core - 2048)) } }

/-- Reads of requesters that lose their parts in some cores: the bytes that are missing are zeros (DESIGN CHOICE, log 90). -/
def State.loseReads (s : State) (p : CoreSt → Bool) : State :=
  let gap (j : Job) : List Nat := (List.range j.len).filter fun i =>
    !(j.got.any fun b => b.1 == i) && !(j.todo.any fun t => t.1 ≤ i && i < t.1 + t.2)
  { s with fab := { s.fab with jobs := s.fab.jobs.map fun (j : Job) =>
      if j.data.isNone && s.cores.any (fun c => p c && c.readsStamp j.stamp) then
        { j with got := j.got ++ (gap j).map fun i => (i, 0) } else j } }

/-- An L2 reset of a region whose transfers have drained (R26, R351, R352): its buffered writes are not applied, its cores are
cleared, open combiner entries with them, and it accepts only LOAD and PARK. -/
def State.resetRegion (s : State) (r : Nat) : State :=
  let s := (s.coresOf r).foldl (fun s c => c.cfg.foldl (fun s e => s.ticketMark e.ticket c.lcore none) s) s
  let s := ((s.loseReads fun c => c.region == r).updCoresOf r CoreSt.resetClears).ledger 1 [.num 2, .num 0, .level (.l2 r)]
  let s := match s.region? r with | some x => s.resetPrep x | none => s
  s.updRegion r fun x => { x with resetting := false, spoiled := true, paceP := 0, paceI := 0, hostPace := none }

/-- The slip counts of a region's cores, stored at a Solder step or a pace pause (R277). -/
def State.storeSlips (s : State) (r : Nat) : State :=
  s.updRegion r fun x => { x with runRec := x.runRec.map fun q => { q with counters := q.counters ++ s.runCounters r false } }

/-- REGION_ENTERS_IDLE (R83, R179, R263, R276, R281): a region none of whose cores issues, with its transfers ended and its
combiner empty; one that an L2 reset stops discards what its combiner holds (R107; DESIGN CHOICE, log 40). -/
def State.enterIdle (s : State) (r : Nat) : State :=
  match s.region? r with
  | none => s
  | some x =>
    let cs := s.coresOf x.num
    if x.phase != .stopping || (cs.any fun c => c.run == .running) || !s.regionDrained x then s
    else if !(cs.all CoreSt.combIdle) && !x.resetting then
      s.updCoresOf r fun c => c.flushIf fun _ => true
    else
      let cause := if x.goal != .fault then 0 else if x.stopKind == .halt then 2 else 1
      let s := (s.updCoresOf r CoreSt.rest).setPhase r .idle cause
      let s := s.updRegion r fun x => { x with idleAt := s.time.cycle }
      let s := match x.waiter with
        | some w => (s.updRegion r fun x => { x with waiter := none }).done w.1 w.2.1 w.2.2 .ok []
        | none => s
      let s := if x.resetting then s.resetRegion r else s
      match x.goal with
      | .solder seq => (s.storeSlips r).arriveRegion seq
      | .pace => s.storeSlips r
      | _ =>
        let s := s.updRegion r fun x => { x with committed := false }
        match s.region? r with
        | some y => if s.resumable y then s
          else s.endRun r (if x.goal == .command && x.stopKind != .halt then .host else x.stopKind)
        | none => s

/-- The cores of a RUNNING region have stopped at its replay stop in step form (R283). -/
def replayReached (cs : List CoreSt) (x : Region) : Bool :=
  x.phase == .running && match x.replayStop with
    | some (.step k) => cs.any fun c => c.run == .stopped && c.begun && decide (c.step = x.base + k) && c.atMarker
    | _ => false

/-- What a cycle settles for a region: a HALT of every core, a pause that is reached, the way into IDLE. -/
def State.regionSettle (s : State) (r : Nat) : State :=
  match s.region? r with
  | none => s
  | some x =>
    if !x.live then s
    else
      let cs := s.coresOf r
      let busy := cs.any fun c => c.run == .running
      let s := if busy then s.updRegion r fun x => { x with lastStop := s.time.cycle } else s
      let s := if x.phase == .running && cs.all (fun c => c.run == .halted) then
          s.toStopping r .halt .fault 2 else s
      let s := if replayReached cs x then s.toStopping r .stopStep .replay 0 else s
      let s := if pauseReached cs x then s.pacePause r else s
      s.enterIdle r

/-! ### One cycle -/

/-- The numbers of the cores, in order. -/
def State.coreNums (s : State) : List Nat := s.cores.map fun c => c.lcore

/-- A function applied for every core in turn. -/
def State.eachCore (s : State) (f : State → Nat → State) : State := s.coreNums.foldl f s

/-- Siuri drains the choice logs to the sessions that subscribe to CHOICE events (R278, R318), at management ticks. -/
def State.drainChoices (s : State) : State :=
  if s.fw.mgmtDown || !(s.host.sessions.any fun x => x.wants .choice) then s
  else s.cores.foldl
    (fun s c =>
      if c.choiceLog.isEmpty then s
      else (s.updCore c.lcore fun c => { c with choiceLog := [] }).notify .choice
        ([.num c.region, .num c.lcore] ++ c.choiceLog.map Item.entry) (some c.lcore)) s

/-- Time passes; a tick that comes drains the choice logs, and parks whose cycle has come take effect. -/
def State.passDrain (s : State) (n : Nat) : State :=
  let t := s.passTime n
  (if t.time.tick = s.time.tick then t else t.drainChoices).settleParks

/-- The end of a cycle: its tallies, the transfers that start in it, and its faults (R82, R180, R229, R253, R254). -/
def State.endCycle (s : State) : State :=
  let t := s.time.cycle
  let s := s.eachCore fun s l => s.updCore l (CoreSt.settleTallies t)
  let s := (s.eachCore State.startWork).settleLanes
  let s := s.eachCore State.announceTimeouts
  let s := s.eachCore State.settleFaults
  s.eachCore fun s l => s.updCore l fun c => { c with bgUsed := List.range 32 }

/-- One core-clock cycle. -/
def State.cc (s : State) : State :=
  let s := s.eachCore State.queueWork
  let s := (s.eachCore State.tryIssue).settleParks
  let s := s.eachCore State.coreCycle
  let s := s.background.endCycle.passDrain 1
  let s := s.eachCore State.coreSettle
  (s.regions.map fun x => x.num).foldl State.regionSettle s

/-- Some cycles. -/
def State.advance (n : Nat) (s : State) : State :=
  match n with
  | 0 => s
  | k + 1 => State.advance k s.cc

/-- A core on which a cycle changes nothing. -/
def CoreSt.quiet (c : CoreSt) : Bool :=
  c.run != .running && c.drained && c.combIdle && c.engines.isEmpty && c.conds.isEmpty && c.claims.isEmpty
    && !c.arrayHold && c.lag == 0 && c.newShape.isNone && (c.queues.all fun q => q.live.isEmpty)
    && c.fresh.isEmpty && c.due.isEmpty && c.taken.all fun v => v == 0

/-- A module in which a cycle moves only the time. -/
def State.quiet (s : State) : Bool :=
  s.cores.all CoreSt.quiet && s.fab.chunks.isEmpty && s.fab.pulls.isEmpty && s.fab.jobs.isEmpty
    && s.regions.all fun x => !x.live

/-- The clock runs to a cycle that lies ahead; while nothing is at work the time moves at once. -/
def State.advanceTo (s : State) (t : Nat) : State :=
  if t ≤ s.time.cycle then s
  else if s.quiet then s.passDrain (t - s.time.cycle) else s.advance (t - s.time.cycle)

/-- Cycles while a core presents a held bundle, at most n. -/
def State.advanceHeld (n l : Nat) (s : State) : State :=
  match n with
  | 0 => s
  | k + 1 =>
    match (s.core? l).bind fun c => c.presented with
    | none => s
    | some _ => State.advanceHeld k l s.cc

end Sys2Proof.Machine
end

