-- ==== Sys2Proof/Machine/SlotS.lean ====
section
/-! DEFINITION. The rows of the S slot: presenting a bundle that carries the instruction in its slot (DESIGN CHOICE, log 3).
What the slot then does when the bundle issues is judged and applied by `judgeS` and `applyS`. -/

namespace Sys2Proof.Machine

/-- The outcome type of every meaning. -/
abbrev Res := Host.Outcome State Fault Refusal

/-- A bundle given to a core. It waits behind the bundles given before; the first of them is presented at the core's issue
cycle, to which the clock runs (R66, R67). A core that is not running presents nothing, and there is none to present it
where no region holds the number. -/
def presentTo (l : Nat) (b : Bundle) (s : State) : Res :=
  match s.core? l with
  | none => .next s
  | some c =>
    if c.run != .running then .next s
    else
      let first := c.presented.isNone && c.waiting.isEmpty
      let s := s.updCore l fun c => { c with waiting := c.waiting ++ [b] }
      if first then .next (((s.advance (c.nextIssue - s.time.cycle)).queueWork l).tryIssue l) else .next s

/-- A bundle with a NOP in a slot. -/
def withNop (b : Bundle) (slot : Slot) : Bundle :=
  match slot with
  | .s => { b with s := .nop }
  | .x => { b with x := .nop }
  | .m => { b with m := .nop }
  | .v => { b with v := .nop }

/-- NOP (R154). -/
def execNop (core : Nat) (b : Bundle) (slot : Slot) (s : State) : Res := presentTo core (withNop b slot) s

/-- HALT (R179). -/
def execHalt (core : Nat) (b : Bundle) (s : State) : Res :=
  presentTo core { b with s := .halt } s

/-- STEP (R178). -/
def execStep (core : Nat) (b : Bundle) (mask : BitVec 24) (s : State) : Res :=
  presentTo core { b with s := .step mask } s

/-- CSET (R170). -/
def execCset (core : Nat) (b : Bundle) (cd : BitVec 3) (src : CsetSrc) (s : State) : Res :=
  presentTo core { b with s := .cset cd src } s

/-- CADD (R170). -/
def execCadd (core : Nat) (b : Bundle) (cd ca : BitVec 3) (src : CaddSrc) (s : State) : Res :=
  presentTo core { b with s := .cadd cd ca src } s

/-- CCOPY (R170). -/
def execCcopy (core : Nat) (b : Bundle) (cd ca : BitVec 3) (s : State) : Res :=
  presentTo core { b with s := .ccopy cd ca } s

/-- CMP (R171). -/
def execCmp (core : Nat) (b : Bundle) (pd : BitVec 2) (rel ca : BitVec 3) (src : CmpSrc) (s : State) : Res :=
  presentTo core { b with s := .cmp pd rel ca src } s

/-- BR (R172). -/
def execBr (core : Nat) (b : Bundle) (pp : BitVec 2) (always sense : Bool) (target : BitVec 14) (s : State) : Res :=
  presentTo core { b with s := .br pp always sense target } s

/-- SETVL (R173). -/
def execSetvl (core : Nat) (b : Bundle) (src : SetvlSrc) (s : State) : Res :=
  presentTo core { b with s := .setvl src } s

/-- WAITC (R177). -/
def execWaitc (core : Nat) (b : Bundle) (src : WaitcSrc) (s : State) : Res :=
  presentTo core { b with s := .waitc src } s

/-- TSIG_LOCAL (R181). -/
def execTsigLocal (core : Nat) (b : Bundle) (t : BitVec 6) (n : BitVec 12) (s : State) : Res :=
  presentTo core { b with s := .tsigLocal t n } s

/-- TSIG_REMOTE (R181). -/
def execTsigRemote (core : Nat) (b : Bundle) (t : BitVec 6) (h n : BitVec 8) (s : State) : Res :=
  presentTo core { b with s := .tsigRemote t h n } s

/-- TWAIT (R182). -/
def execTwait (core : Nat) (b : Bundle) (t : BitVec 6) (n : BitVec 12) (s : State) : Res :=
  presentTo core { b with s := .twait t n } s

/-- TWAITANY (R183). -/
def execTwaitany (core : Nat) (b : Bundle) (t : BitVec 6) (k1 cd : BitVec 3) (n : BitVec 8) (s : State) : Res :=
  presentTo core { b with s := .twaitany t k1 cd n } s

/-- TTAKE (R184). -/
def execTtake (core : Nat) (b : Bundle) (t : BitVec 6) (n : BitVec 12) (s : State) : Res :=
  presentTo core { b with s := .ttake t n } s

/-- DADV (R168). -/
def execDadv (core : Nat) (b : Bundle) (h : BitVec 8) (dim : BitVec 3) (src : DadvSrc) (s : State) : Res :=
  presentTo core { b with s := .dadv h dim src } s

/-- LOOP (R174). -/
def execLoop (core : Nat) (b : Bundle) (cl : BitVec 3) (len1 : BitVec 14) (src : LoopSrc) (s : State) : Res :=
  presentTo core { b with s := .loop cl len1 src } s

end Sys2Proof.Machine
end

