-- ==== Sys2Proof/Machine/CoreEvents.lean ====
section
/-! DEFINITION. The rows that happen inside cores and between them: array events (R115, R124), limits (R97, R248, R253),
the life of a transfer, signals, the background path, the combiner, and a region's way into IDLE. An event of a fixed cycle
that lies ahead first lets the clock run to it. -/

namespace Sys2Proof.Machine

/-- An operation on a core; a number that no loaded region holds names no core, and nothing happens. -/
def onCore (l : Nat) (f : State → State) (s : State) : Res :=
  match s.core? l with
  | none => .next s
  | some _ => .next (f s)

/-- REMOTE_TSIG_APPLIED (R251, R254, R255). -/
def execRemoteTsigApplied (id : Nat) (s : State) : Res :=
  match s.fab.signals.find? fun g => g.id == id with
  | none => .next s
  | some g => .next ((s.advanceTo (g.issued + g.latency)).signalApplied id)

/-- CHAIN_FORWARD (R198, R238): the clock runs to the 16th cycle after the chunk landed. -/
def execChainForward (core q idx member off len : Nat) (s : State) : Res :=
  onCore core
    (fun s => (s.advanceTo (s.forwardCycle core q idx member off len)).chainForward core q idx member off len) s

/-- The cycles until the unit of a core's next pass is due, on the due clock. -/
def unitWait (c : CoreSt) (cycle : Nat) : Option Nat :=
  c.nextPass.map fun j => (j.due + j.next) - c.dueNow cycle

/-- UNIT_ENTERS_ARRAY (R115, R123): the clock runs to the unit's due cycle and through it. -/
def execUnitEntersArray (core : Nat) (s : State) : Res :=
  onCore core
    (fun s => match (s.core? core).bind fun c => unitWait c s.time.cycle with
      | some n => (s.advance n).cc
      | none => s)
    s

/-- The cycles until a waiting unit is 8 late. -/
def lagWait (c : CoreSt) (cycle : Nat) : Option Nat :=
  match c.nextPass with
  | some j => if j.shape == .sq64 then none else some (j.due + j.next + 8 - c.dueNow cycle)
  | none => none

/-- ARRAY_HOLD (R124): the clock runs to the cycle in which the waiting unit is 8 late; the array holds when its record
has not landed. -/
def execArrayHold (core : Nat) (s : State) : Res :=
  onCore core
    (fun s => match (s.core? core).bind fun c => lagWait c s.time.cycle with
      | some n =>
        let s := s.advance n
        (s.updCore core fun c => { c with arrayHold := c.holdsArray s.time.cycle }).slipBudget core
      | none => s)
    s

/-- The check-8 cycles that a held bundle has left. -/
def holdLeft (x : Region) (c : CoreSt) : Nat := match c.presented with | some p => x.sbLimit - p.sbCount | none => 0

/-- The wait cycles that a held bundle has left. -/
def waitLeft (x : Region) (c : CoreSt) : Nat := match c.presented with | some p => x.waitLimit - p.waitCount | none => 0

/-- A limit of a held bundle: the clock runs while the bundle is held, and the bundle is presented again. -/
def limitOn (left : Region → CoreSt → Nat) (core : Nat) (s : State) : Res :=
  onCore core
    (fun s => match s.core? core, s.regionOf core with
      | some c, some x => if c.presented.isSome then (State.advanceHeld (left x c) core s).tryIssue core else s
      | _, _ => s)
    s

/-- HOLD_LIMIT (R97). -/
def execHoldLimit (core : Nat) (s : State) : Res := limitOn holdLeft core s

/-- WAIT_TIMEOUT (R185, R202, R248, R249). -/
def execWaitTimeout (core : Nat) (s : State) : Res := limitOn waitLeft core s

/-- ANNOUNCE_TIMEOUT (R253): the clock runs through the cycle of the limit, which bytes that land in it still meet (R7). -/
def execAnnounceTimeout (core q idx member : Nat) (s : State) : Res :=
  onCore core
    (fun s => match (s.core? core).bind fun c => c.xfer? q idx, s.regionOf core with
      | some x, some r => match x.started with
        | some t => (s.advanceTo (t + r.annLimit + 1)).announceTimeout core q idx member
        | none => s
      | _, _ => s)
    s

/-- REGION_ENTERS_IDLE (R83, R179). -/
def execRegionEntersIdle (region : Nat) (s : State) : Res := .next (s.regionSettle region)

/-- TRANSFER_START (R229, R230, R232, R416). -/
def execTransferStart (core q : Nat) (s : State) : Res := onCore core (fun s => s.startQueue core q) s

/-- START_CONDITION_SERVED (R250). -/
def execStartConditionServed (core q idx : Nat) (s : State) : Res :=
  onCore core (fun s => s.updCore core fun c => c.serveOne q idx) s

/-- BYTES_LANDED (R231, R233, R234, R240, R241, R243): the clock runs to the first cycle in which the path can bring the
chunk. -/
def execBytesLanded (core q idx member off len : Nat) (ecc : EccOutcome) (s : State) : Res :=
  onCore core
    (fun s => (s.advanceTo (s.chunkFloor core q idx member off len)).bytesLanded core q idx member off len ecc) s

/-- TRANSFER_COMPLETE (R231, R196, R102). -/
def execTransferComplete (core q : Nat) (s : State) : Res :=
  onCore core (fun s => s.updCore core fun c => c.completeOne q) s

/-- TAG_INDEX_FREE (R193). -/
def execTagIndexFree (core q : Nat) (s : State) : Res :=
  onCore core (fun s => s.updCore core fun c => c.updQueue q Queue.free) s

/-- ANNOUNCE_APPLIED (R252, R255). -/
def execAnnounceApplied (core q idx member : Nat) (s : State) : Res :=
  onCore core (fun s => s.announceApplied core q idx member) s

/-- BACKGROUND_PATH_ACCESS (R93, R94): one cycle of the clock, in which the path serves what waits; a read of source bytes
is put on it first. -/
def execBackgroundPathAccess (core : Nat) (path : BgPath) (s : State) : Res :=
  onCore core
    (fun s => match path with
      | .outbound q idx off len => (s.readAhead core q idx off len).cc
      | .inbound => s.cc
      | .combiner => s.cc)
    s

/-- COMBINER_WRITE (R98, R104). -/
def execCombinerWrite (core : Nat) (req : Requester) (off : Nat) (bytes : List Byte) (s : State) : Res :=
  onCore core (fun s => s.combWrite core req off bytes) s

/-- COMBINER_READ (R98, R104). -/
def execCombinerRead (core : Nat) (req : Requester) (off len : Nat) (s : State) : Res :=
  onCore core (fun s => s.combRead core req off len) s

/-- COMBINER_ENTRY_TIMEOUT (R98): the clock runs to the oldest entry's 64th cycle. -/
def execCombinerEntryTimeout (core : Nat) (s : State) : Res :=
  onCore core
    (fun s => match (s.core? core).bind fun c => c.combiner.head? with
      | some e =>
        let s := s.advanceTo (e.opened + 64)
        s.updCore core fun c => c.combTimeout s.time.cycle
      | none => s)
    s

/-- REQUESTER_FENCE (R98). -/
def execRequesterFence (req : Requester) (s : State) : Res := .next (s.requesterFence req)

/-- ACCUMULATOR_COMBINER_ACCESS (R104): one cycle of the clock, in which the ports serve what waits. -/
def execAccumulatorCombinerAccess (core : Nat) (s : State) : Res := onCore core (fun s => s.cc) s

end Sys2Proof.Machine
end

