-- ==== Sys2Proof/Machine/Registers.lean ====
section
/-! DEFINITION. The registers (R331 to R349): addresses, views, apply classes, values, clearing reads, the indirect pair
and the configuration buffer; and a region's pace (R276, R366), which one of them sets. -/

namespace Sys2Proof.Machine

/-! ### Addresses, views and apply classes (R331, R332, R336, R337) -/

/-- A register's place: block class, instance, offset. -/
structure RegLoc where
  cls : Nat
  inst : Nat
  off : Nat
deriving DecidableEq, Repr

/-- The place that a control-space address of this module names; none when the address breaks R331 or R333. -/
def State.regLoc (s : State) (g : GA) : Option RegLoc :=
  if gaModule g = s.kol.module ∧ gaSpace g = 3 ∧ bits g 41 20 = 0 ∧ bits g 19 0 % 8 = 0 then
    some { cls := bits g 55 53, inst := bits g 52 42, off := bits g 19 0 }
  else none

/-- Apply classes (R337); `ro` is a register without one. -/
inductive RClass where
  | b | q | i | ro
deriving DecidableEq, Repr

/-- A register's unprivileged view (0 none, 1 RO, 2 RW), privileged view (1 RO, 2 RW) and apply class. -/
structure RegInfo where
  u : Nat
  p : Nat
  cls : RClass
deriving DecidableEq, Repr

/-- A read-only register. -/
def roInfo : RegInfo := { u := 1, p := 1, cls := .ro }
/-- A quiescent register. -/
def qInfo : RegInfo := { u := 1, p := 2, cls := .q }
/-- An immediate register of the privileged view. -/
def iInfo : RegInfo := { u := 0, p := 2, cls := .i }

/-- The core block (R343). -/
def coreReg (o : Nat) : Option RegInfo :=
  if o ≤ 0x78 then some roInfo
  else if 0x80 ≤ o ∧ o ≤ 0xC0 then some qInfo
  else if o = 0xC8 then some roInfo
  else if o = 0x100 then some { u := 2, p := 2, cls := .b }
  else if o = 0x140 then some roInfo
  else if o = 0x148 then some { u := 2, p := 2, cls := .i }
  else if 0x1000 ≤ o ∧ o < 0x1400 then some roInfo
  else if 0x2000 ≤ o ∧ o < 0x3000 then some roInfo
  else none

/-- The region block (R345). -/
def regionReg (o : Nat) : Option RegInfo :=
  if o ≤ 0x10 then some roInfo
  else if o ≤ 0x30 then some qInfo
  else if o = 0x38 then some { u := 1, p := 2, cls := .i }
  else if o ≤ 0x58 then some qInfo
  else if o = 0x60 ∨ o = 0x68 then some roInfo
  else none

/-- The die block (R347). -/
def dieReg (o : Nat) : Option RegInfo :=
  if o ≤ 0x20 then some roInfo else if o = 0x40 ∨ o = 0x48 ∨ o = 0x50 then some iInfo else none

/-- The edge block (R348). -/
def edgeReg (o : Nat) : Option RegInfo :=
  if 0x08 ≤ o ∧ o ≤ 0x28 then some roInfo
  else if 0x40 ≤ o ∧ o ≤ 0x58 then some roInfo
  else if o = 0x60 ∨ o = 0x68 then some roInfo
  else if o = 0x80 ∨ o = 0x88 ∨ o = 0x90 then some iInfo
  else none

/-- The global block (R349). -/
def globalReg (o : Nat) : Option RegInfo :=
  if o ≤ 0x18 then some roInfo
  else if 0x40 ≤ o ∧ o ≤ 0x58 then some qInfo
  else if 0x100 ≤ o ∧ o ≤ 0x178 then some iInfo
  else if 0x400 ≤ o ∧ o < 0x1400 ∧ o % 256 < 152 then some { u := 1, p := 2, cls := .i }
  else none

/-- The register at a place; none when the place is unmapped (R331, R332). A class 0 place names a logical core only while
a loaded object covers it. -/
def State.regInfo (s : State) (r : RegLoc) : Option RegInfo :=
  match r.cls with
  | 0 => if (s.core? r.inst).isSome then coreReg r.off else none
  | 1 => if r.inst < 48 then dieReg r.off else none
  | 2 => if r.inst < 4 then edgeReg r.off else none
  | 3 => if r.inst < 8 then regionReg r.off else none
  | 4 => if r.inst = 0 then globalReg r.off else none
  | 5 => if r.inst < 8 then coreReg r.off else none
  | 6 => if r.inst < 48 then coreReg r.off else none
  | _ => if r.inst < 16 then coreReg r.off else none

/-- A view with which a requester comes: none, unprivileged, privileged for reads alone, privileged (R336, R385). -/
inductive View where
  | none | u | pRead | p
deriving DecidableEq, Repr

/-- The view of a requester (R315, R327, R336, R385). -/
def State.viewOf (s : State) (q : Requester) : View :=
  match q with
  | .prep _ => .u
  | .cmt _ _ => .none
  | .host => .p
  | .debug => match s.sec.level with
    | .closed => .none
    | .observe => .pRead
    | .full => .p

/-- Whether a register is one of an indirect pair (R341). -/
def isIndirect (r : RegLoc) : Bool :=
  (r.cls == 1 && 0x40 ≤ r.off && r.off ≤ 0x50) || (r.cls == 2 && 0x80 ≤ r.off && r.off ≤ 0x90)

/-- Whether a view may read a register; the indirect pair is refused at OBSERVE (R385). -/
def View.reads (v : View) (i : RegInfo) (r : RegLoc) : Bool :=
  match v with
  | .none => false
  | .u => 1 ≤ i.u
  | .pRead => !isIndirect r
  | .p => true

/-- Whether a view may write a register that is writable at all. -/
def View.writes (v : View) (i : RegInfo) : Bool :=
  match v with
  | .none | .pRead => false
  | .u => i.u == 2
  | .p => i.p == 2

/-- How a register access is refused. -/
inductive RegErr where
  | bad | priv | state
deriving DecidableEq, Repr

/-! ### Targets of a write (R332, R334, R335) -/

/-- A word of a BCAST_GROUP mask. -/
def State.bcastWord (s : State) (n w : Nat) : Nat := countOf s.glb.bcast (n * 32 + w)

/-- A word of a BCAST_GROUP mask as it stood at the start of the present cycle (R15, R335). -/
def State.bcastStart (s : State) (n w : Nat) : Nat := countOf s.glb.bcast0 (n * 32 + w)

/-- The cores that a write to a place of class 0, 5, 6 or 7 reaches. -/
def State.regTargets (s : State) (r : RegLoc) : List Nat :=
  match r.cls with
  | 0 => (s.cores.filter fun c => c.lcore == r.inst).map fun c => c.lcore
  | 5 => (s.coresOf r.inst).map fun c => c.lcore
  | 6 => (s.cores.filter fun c => dieOf c.phys == r.inst).map fun c => c.lcore
  | 7 => (s.cores.filter fun c => (s.bcastStart r.inst (c.lcore / 64)).testBit (c.lcore % 64)).map fun c => c.lcore
  | _ => []

/-- The regions whose state decides a class Q write (R337, R349). -/
def State.regRegions (s : State) (r : RegLoc) : List Region :=
  match r.cls with
  | 3 => (s.region? r.inst).toList
  | 4 => s.regions
  | _ => (s.regTargets r).filterMap fun l => s.regionOf l

/-! ### Values -/

/-- A number from a list of (position, value) fields. -/
def packFields (l : List (Nat × Nat)) : Nat := l.foldl (fun a f => a + 2 ^ f.1 * f.2) 0

/-- A Bool as a bit. -/
def bit (b : Bool) : Nat := if b then 1 else 0

/-- A mask of the indices of listed transfers. -/
def idxMask (l : List Xfer) : Nat := packFields ((l.map fun x => (x.idx, 1)).dedup)

/-- The cause for which a held bundle holds (R343), the lowest where several hold. -/
def CoreSt.holdCause (k : Ctx) (c : CoreSt) : Nat :=
  match c.presented with
  | none => 0
  | some p =>
    let w := judge k (judgedCore k c p.b) p
    let of (v : Verdict) : List Nat :=
      (match v.wait with
        | some (4, _) => [2]
        | some (h, _) =>
          (match replayIndex k c (h == 3) with
            | some (some _) => if h = 1 ∨ h = 3 then [7] else [1]
            | _ => [1])
        | none => [])
      ++ (match v.c8 with
        | some f => match f.code with
          | .ringUnderrun | .ringOverrun => [5]
          | _ => if f.detail % 16 = 15 then [4] else [3]
        | none => [])
    let cs := (allSlots.flatMap fun sl => of (w.at_ sl)) ++ if c.arrayHold then [6] else []
    cs.foldl (fun a b => if a = 0 then b else min a b) 0

/-- The 32 bytes of a fault record as a number (R344). -/
def FRec.word (module : Nat) (f : FRec) : Nat :=
  packFields
    [(0, f.step), (64, f.off), (96, f.detail), (128, f.bundle),
     (142, match f.slot with | some sl => slotPos sl | none => 0),
     (144, f.lcore.getD 0x7FF), (160, f.code.num), (168, bit f.lcore.isNone), (169, bit f.closing),
     (170, bit f.slot.isNone), (176, module), (192, f.cycle)]

/-- The 16 bytes of a choice log entry as a number (R278, R343). -/
def choiceWord (e : ChoiceEntry) : Nat :=
  packFields [(0, e.runStep), (64, e.bundle), (78, e.occurrence), (96, e.index), (99, bit e.isTag)]

/-- The active tile of a core (R343). -/
def CoreSt.activeTile (c : CoreSt) (cycle : Nat) : Tile := c.tileAt (c.dueNow cycle)

/-- Bytes that lie landed in the stream buffer. -/
def CoreSt.streamLanded (c : CoreSt) : Nat := (c.stream.filter fun x => c.streamHead ≤ x.1).length

/-- Word w of a number. -/
def word64 (x w : Nat) : Nat := x / 2 ^ (64 * w) % 2 ^ 64

/-- QUEUE_STATUS (R343). -/
def queueStatus (q : Queue) : Nat :=
  let h := q.live.filter fun x => !x.freed
  packFields [(0, idxMask h), (16, idxMask (h.filter fun x => x.complete)),
    (32, idxMask (h.filter fun x => x.discarded)), (48, q.count % 65536)]

/-- The value of a core register (R343). -/
def State.coreRegValue (s : State) (c : CoreSt) (o : Nat) : Nat :=
  let k := s.ctx c
  match o with
  | 0x00 => packFields [(0, c.lcore), (11, c.region), (14, s.kol.module)]
  | 0x08 =>
    let st := match c.run with
      | .stopped => 0
      | .halted => 2
      | .running => if c.presented.isSome then 3 else 1
    packFields [(0, st), (2, c.holdCause k), (5, if c.run == .halted then c.lastIdx else c.pc), (19, bit c.diverged)]
  | 0x10 => c.step
  | 0x18 => s.time.cycle
  | 0x20 => c.slip
  | 0x28 => c.choices
  | 0x30 => c.choiceLost
  | 0x38 => match c.presented with
    | some p => packFields [(0, p.sbCount), (32, p.waitCount)]
    | none => 0
  | 0x40 =>
    let xs := (c.queues.flatMap fun q => q.live).filter fun x =>
      let v := x.live k.module c.lcore
      !(v.reads.isEmpty && v.writes.isEmpty)
    packFields [(0, xs.length), (8, c.enginesUsed k.cycle),
      (16, (c.accEntries.map fun e => e.job).dedup.length), (32, c.sbTraps), (48, c.sbHolds)]
  | 0x48 =>
    let t := c.activeTile k.cycle
    packFields [(0, match c.shape with | .sq64 => 0 | .wd256 => 1 | .wd1024 => 2), (2, bit t.two),
      (3, t.fmt.getD 0x1F), (8, c.lag), (12, c.lagLast), (16, c.lagMax), (20, bit c.arrayHold), (32, c.slipTraps)]
  | 0x50 => packFields [(0, c.streamLanded), (19, c.streamTail - c.streamHead - c.streamLanded)]
  | 0x58 =>
    packFields [(0, c.gatherTN), (13, c.gatherFmt),
      (32, if c.gatherMiss < 2 ^ 32 then c.gatherMiss else Config.freeField 1 c.gatherMiss % 2 ^ 32)]
  | 0xC0 => packFields [(0, packFields ((List.range 4).map fun i => (i, bit (c.preds.getD i false)))), (8, c.vl)]
  | 0xC8 => packFields [(0, c.loops.length), (4, match c.loops.head? with | some e => e.stop | none => 0)]
  | 0x100 => c.twoPhase
  | 0x140 =>
    packFields [(0, (if c.bankSel then c.bank1 else c.bank0).length), (5, bit c.bankSel), (16, c.faultLost)]
  | 0x148 => 0
  | o =>
    if 0x60 ≤ o ∧ o ≤ 0x78 then queueStatus (c.queue ((o - 0x60) / 8))
    else if 0x80 ≤ o ∧ o ≤ 0xB8 then c.counter ((o - 0x80) / 8)
    else if 0x1000 ≤ o ∧ o < 0x1400 then
      let b := if o < 0x1200 then c.bank0 else c.bank1
      match b[(o - 0x1000) % 512 / 32]? with
      | some f => word64 (f.word k.module) (o % 32 / 8)
      | none => 0
    else if 0x2000 ≤ o ∧ o < 0x3000 then
      match c.choiceLog[(o - 0x2000) / 16]? with
      | some e => word64 (choiceWord e) (o % 16 / 8)
      | none => 0
    else 0

/-- The number of a region state (R345). -/
def Phase.num : Phase → Nat
  | .parked => 0 | .idle => 1 | .running => 2 | .defining => 3 | .loading => 4 | .stopping => 5 | .parking => 6
  | .repairing => 7

/-- A region that is not defined: its registers read as after reset (R345) (DEDUCED, log 45). -/
def noRegion (r : Nat) : Region := { num := r, x0 := 0, y0 := 0, x1 := 0, y1 := 0, phase := .parked }

/-- The value of a region register (R345). -/
def State.regionRegValue (s : State) (r o : Nat) : Nat :=
  let d := (s.region? r).isSome
  let x := (s.region? r).getD (noRegion r)
  match o with
  | 0x00 => if d then packFields [(0, x.phase.num), (3, 1), (4, bit x.loaded), (8, x.y0), (11, x.x0), (14, x.y1),
      (17, x.x1)] else 0
  | 0x08 => x.base
  | 0x10 => x.record
  | 0x18 => x.sbLimit
  | 0x20 => x.waitLimit
  | 0x28 => x.annLimit
  | 0x30 => x.solderLead
  | 0x38 => packFields [(0, x.paceP), (16, x.paceI)]
  | 0x60 => packFields ((List.range x.groups.length).map fun g => (g, 1))
  | 0x68 => packFields ((List.range x.groups.length).map fun g => (g, bit (x.chainMode.getD g false)))
  | o => if 0x40 ≤ o ∧ o ≤ 0x58 then x.policies.getD ((o - 0x40) / 8) 0 else 0

/-- A failed core (R293): in the defect map, or without its lock until the next READY entry (R367). -/
def State.failed (s : State) (phys : Nat) : Bool := s.mem.defects.contains phys || s.mem.lockLost.contains phys

/-- The temperature measured for a key, 0 when none was measured. -/
def tempOf (l : List (Nat × Int)) (k : Nat) : Int := ((l.find? fun x => x.1 == k).map fun x => x.2).getD 0

/-- The corrections of a well in the last 24 h: the sum over its 16 segments (R293). -/
def State.wellErrors (s : State) (phys : Nat) : Nat :=
  ((List.range 16).map fun k => countOf s.mem.eccWell (16 * phys + k)).foldl (· + ·) 0

/-- An avoided core (R293): more than 64 corrections, or within 5 °C of the alarm at 95 °C (in 1/16 °C). -/
def State.avoided (s : State) (phys : Nat) : Bool :=
  !s.failed phys && (64 < s.wellErrors phys || decide (90 * 16 ≤ tempOf s.pwr.dieTemps phys))

/-- A usable core (R293). -/
def State.usable (s : State) (phys : Nat) : Bool := !s.failed phys && !s.avoided phys

/-- The physical cores of a die (R23). -/
def coresOfDie (d : Nat) : List Nat := (List.range 26).map fun k => 26 * d + k

/-- The neighbour of a die in a direction: 0 north, 1 east, 2 south, 3 west. -/
def neighbour (d dir : Nat) : Option Nat :=
  match dir with
  | 0 => if 8 ≤ d then some (d - 8) else none
  | 1 => if d % 8 < 7 then some (d + 1) else none
  | 2 => if d < 40 then some (d + 8) else none
  | _ => if 0 < d % 8 then some (d - 1) else none

/-- A link marked down (R238, R273). -/
def State.meshMarked (s : State) (d dir : Nat) : Bool :=
  s.mem.meshDown.contains (d, dir) || s.mem.badLinks.contains (d, dir)

/-- A signed number in 16 bits. -/
def s16 (x : Int) : Nat := (x % 65536).toNat

/-- The place of a die's indirect pair, or of an edge block's. -/
def State.indirect (s : State) (cls inst : Nat) : Indirect :=
  ((if cls = 1 then s.glb.indDie else s.glb.indEdge)[inst]?).getD {}

/-- The value of a die register (R347). -/
def State.dieRegValue (s : State) (d o : Nat) : Nat :=
  match o with
  | 0x00 =>
    let r := s.regionOfDie d
    let pool := (s.regions.filter fun x => x.loaded).findSome? fun x => (x.place.pools.find? fun b => b.2 == d).map fun b => b.1
    packFields [(0, match r with | some x => x.num | none => 0), (3, bit r.isSome),
      (4, bit (match r with | some x => x.phase != .parked && x.phase != .defining | none => false)),
      (5, pool.getD 0), (11, bit pool.isSome), (12, ((coresOfDie d).filter s.usable).length)]
  | 0x08 =>
    let ts := (coresOfDie d).map (tempOf s.pwr.dieTemps)
    packFields [(0, s16 (ts.foldl max (ts.headD 0))), (16, s16 (tempOf s.pwr.ndieTemps d))]
  | 0x10 => 16 * (d % 25)
  | 0x18 =>
    let dirs := List.range 4
    packFields ((dirs.map fun i => (i, bit ((neighbour d i).isSome && !s.meshMarked d i)))
      ++ (dirs.map fun i => (4 + i, bit (s.meshMarked d i))) ++ [(16, countOf s.mem.meshRetries d % 65536)])
  | 0x20 => packFields [(0, countOf s.mem.eccDie (2 * d) % 2 ^ 32), (32, countOf s.mem.eccDie (2 * d + 1) % 2 ^ 32)]
  | 0x40 => (s.indirect 1 d).addr
  | 0x50 => packFields [(0, bit (s.indirect 1 d).auto), (2, bit (s.indirect 1 d).fault)]
  | _ => 0

/-- The stacks hotter than 85 °C refresh twice as often (R227). -/
def State.stackHot (s : State) (st : Nat) : Bool := s.mem.hot.contains st

/-- The value of an edge register (R348). -/
def State.edgeRegValue (s : State) (e o : Nat) : Nat :=
  if 0x08 ≤ o ∧ o ≤ 0x28 then
    let st := 5 * e + (o - 8) / 8
    let parked := (List.range 32).map fun ch =>
      (10 + ch, bit (s.mem.parked.any fun y => y.place == .channel st ch && y.phase == .parked))
    packFields ([(0, ((tempOf s.pwr.stackTemps st / 16) % 256).toNat), (8, bit (s.stackHot st)),
      (9, bit (s.mem.spareUsed.contains st))] ++ parked)
  else if 0x40 ≤ o ∧ o ≤ 0x58 then
    match s.kol.ports[4 * e + (o - 0x40) / 8]? with
    | some p => packFields [(0, bit p.up), (1, bit p.trained), (2, bit p.reroute), (16, p.retryRC % 65536),
        (32, p.partner.getD 0), (38, bit p.partner.isSome)]
    | none => 0
  else if o = 0x60 ∨ o = 0x68 then
    match s.eth[2 * e + (o - 0x60) / 8]? with
    | some p => packFields [(0, bit p.up), (1, bit p.speed400), (2, bit (p.rxPause.any fun q => q != 0)),
        (16, p.fec % 65536)]
    | none => 0
  else match o with
    | 0x80 => (s.indirect 2 e).addr
    | 0x90 => packFields [(0, bit (s.indirect 2 e).auto), (2, bit (s.indirect 2 e).fault)]
    | _ => 0

/-- The value of a global register (R349). -/
def State.globalRegValue (s : State) (o : Nat) : Nat :=
  match o with
  | 0x00 =>
    packFields [(0, s.kol.module), (6, bit s.kol.inDomain), (7, bit s.kol.isMaster),
      (8, match s.pwr.state with | .ready => 1 | .active => 2 | _ => 0), (10, bit s.slow)]
  | 0x08 => s.time.cycle
  | 0x10 => packFields [(0, s.glb.parityCount % 2 ^ 32), (32, s.glb.parityLast % 2 ^ 32)]
  | 0x18 => s.glb.walks % 2 ^ 32
  | o =>
    if 0x40 ≤ o ∧ o ≤ 0x58 then s.glb.policies.getD ((o - 0x40) / 8) 0
    else if 0x100 ≤ o ∧ o ≤ 0x178 then s.glb.backup.getD ((o - 0x100) / 8) 0
    else if 0x400 ≤ o ∧ o < 0x1400 then s.bcastWord ((o - 0x400) / 256) (o % 256 / 8)
    else 0

/-- The value of a register other than IND_DATA. -/
def State.regValue (s : State) (r : RegLoc) : Nat :=
  match r.cls with
  | 0 => match s.core? r.inst with
    | some c => s.coreRegValue c r.off
    | none => 0
  | 1 => s.dieRegValue r.inst r.off
  | 2 => s.edgeRegValue r.inst r.off
  | 3 => s.regionRegValue r.inst r.off
  | 4 => s.globalRegValue r.off
  | _ => 0

/-! ### Clearing reads (R339, R344) -/

/-- A read of FAULT_COUNT swaps the recording bank for the other, emptied one. -/
def CoreSt.swapBank (c : CoreSt) : CoreSt :=
  if c.bankSel then { c with bankSel := false, bank0 := [], faultLost := 0 }
  else { c with bankSel := true, bank1 := [], faultLost := 0 }

/-- A key removed from a list of counts. -/
def clearCount (l : List (Nat × Nat)) (k : Nat) : List (Nat × Nat) := l.filter fun x => x.1 != k

/-- What a read of a register with RC fields clears. -/
def State.regClear (s : State) (r : RegLoc) : State :=
  match r.cls with
  | 0 => s.updCore r.inst fun c =>
    match r.off with
    | 0x40 => { c with sbTraps := 0, sbHolds := 0 }
    | 0x48 => { c with lagMax := 0, slipTraps := 0 }
    | 0x58 => { c with gatherMiss := 0 }
    | 0x140 => c.swapBank
    | _ => c
  | 1 => match r.off with
    | 0x18 => { s with mem := { s.mem with meshRetries := clearCount s.mem.meshRetries r.inst } }
    | 0x20 => { s with mem := { s.mem with eccDie := clearCount s.mem.eccDie (2 * r.inst + 1) } }
    | 0x50 => { s with glb := { s.glb with indDie := updAt s.glb.indDie r.inst fun i => { i with fault := false } } }
    | _ => s
  | 2 =>
    if 0x40 ≤ r.off ∧ r.off ≤ 0x58 then
      { s with kol := { s.kol with
        ports := updAt s.kol.ports (4 * r.inst + (r.off - 0x40) / 8) fun p => { p with retryRC := 0 } } }
    else if r.off = 0x60 ∨ r.off = 0x68 then
      { s with eth := updAt s.eth (2 * r.inst + (r.off - 0x60) / 8) fun p => { p with fec := 0 } }
    else if r.off = 0x90 then
      { s with glb := { s.glb with indEdge := updAt s.glb.indEdge r.inst fun i => { i with fault := false } } }
    else s
  | 4 => if r.off = 0x10 then { s with glb := { s.glb with parityCount := 0 } } else s
  | _ => s

/-! ### The indirect pair (R341, R342) -/

/-- The offsets of a block's indirect pair. -/
def indOffset (cls : Nat) : Nat := if cls = 1 then 0x40 else 0x80

/-- The number of words of an indirect target, none outside R342. -/
def indWords (cls kind unit sub : Nat) : Option Nat :=
  match cls, kind with
  | 2, 1 => if unit < 4 ∧ sub < 8 then some 0x1000 else none
  | 2, 2 => if unit < 2 ∧ sub < 4 then some 0x1000 else none
  | 2, 3 => if unit < 5 ∧ sub ≤ 32 then some 0x400 else none
  | 2, 4 => if unit < 5 ∧ sub ≤ 32 then some 0x40 else none
  | 1, 5 => if unit = 0 ∧ sub ≤ 26 then some 0x40 else none
  | _, _ => none

/-- An indirect pair changed. -/
def State.updInd (s : State) (cls inst : Nat) (f : Indirect → Indirect) : State :=
  if cls = 1 then { s with glb := { s.glb with indDie := updAt s.glb.indDie inst f } }
  else { s with glb := { s.glb with indEdge := updAt s.glb.indEdge inst f } }

/-- The word count of the target at an indirect pair's address, when the word lies in it. -/
def indTarget (cls : Nat) (i : Indirect) : Option Nat :=
  match indWords cls (bits i.addr 63 56) (bits i.addr 55 48) (bits i.addr 47 40) with
  | some n => if bits i.addr 31 0 < n then some n else none
  | none => none

/-- The advance after an access: not past the target's last word. -/
def Indirect.bump (i : Indirect) (n : Nat) : Indirect :=
  if i.auto && bits i.addr 31 0 + 1 < n then { i with addr := i.addr + 1 } else i

/-- An access outside its target: INDIRECT_RANGE and IND_CTRL [2]. -/
def State.indFail (s : State) (cls inst : Nat) : State :=
  (s.updInd cls inst fun i => { i with fault := true }).raiseFree .indirectRange

/-- The word of an indirect target; one that nothing has written is a free value (DESIGN CHOICE, log 20). -/
def State.indWord (s : State) (cls inst addr : Nat) : Nat :=
  match s.glb.indWords.find? fun (w : Nat × Nat × Nat × Nat) => w.1 == cls && w.2.1 == inst && w.2.2.1 == addr with
  | some w => w.2.2.2
  | none => Config.freeIndirect cls inst addr % 2 ^ 32

/-- A read of IND_DATA. -/
def State.indRead (s : State) (cls inst : Nat) : State × Nat :=
  let i := s.indirect cls inst
  match indTarget cls i with
  | none => (s.indFail cls inst, 0)
  | some n => (s.updInd cls inst fun i => i.bump n, s.indWord cls inst i.addr)

/-- A write of IND_DATA. -/
def State.indWrite (s : State) (cls inst v : Nat) : State :=
  let i := s.indirect cls inst
  match indTarget cls i with
  | none => s.indFail cls inst
  | some n =>
    let s := { s with glb := { s.glb with
      indWords := (s.glb.indWords.filter fun (w : Nat × Nat × Nat × Nat) => !(w.1 == cls && w.2.1 == inst && w.2.2.1 == i.addr))
        ++ [(cls, inst, i.addr, v % 2 ^ 32)] } }
    s.updInd cls inst fun i => i.bump n

/-- Whether a place is an IND_DATA. -/
def isIndData (r : RegLoc) : Bool := (r.cls == 1 && r.off == 0x48) || (r.cls == 2 && r.off == 0x88)

/-- A read of any register; `clear` is false for debug at OBSERVE (R339). -/
def State.regReadAt (s : State) (r : RegLoc) (clear : Bool) : State × Nat :=
  if isIndData r then s.indRead r.cls r.inst
  else (if clear then s.regClear r else s, s.regValue r)

/-- A read with its checks (R331, R333, R336): unmapped, then the view. -/
def State.regReadCheck (s : State) (v : View) (g : GA) : Except RegErr RegLoc :=
  match s.regLoc g with
  | none => .error .bad
  | some r =>
    match s.regInfo r with
    | none => .error .bad
    | some i =>
      if 5 ≤ r.cls then .error .bad
      else if !v.reads i r then .error .priv
      else .ok r

/-! ### Pace (R276, R366) -/

/-- The stops that a running region's cores keep: its pause and its replay stop. -/
def State.armReplay (s : State) (r : Nat) : State :=
  match s.region? r with
  | some x => match x.replayStop with
    | some (.step k) => s.updCoresOf r fun c => { c with stopBefore := optMin c.stopBefore (x.base + k + 1) }
    | _ => s
  | none => s

/-- Pauses and replay stops of a region that runs set afresh. -/
def State.rearm (s : State) (r : Nat) : State :=
  match s.region? r with
  | some x =>
    if x.phase == .running then
      ((s.updCoresOf r fun c => { c with stopBefore := none }).armPause r).armReplay r
    else s
  | none => s

/-- The first run step that no core of a region has begun. -/
def State.freshStep (s : State) (x : Region) : Nat :=
  ((s.coresOf x.num).map fun c => if c.begun then c.step - x.base + 1 else 0).foldl max 0

/-- A pace in force, logged with the run step from which it applies. -/
def State.putPace (s : State) (r p i : Nat) : State :=
  let s := s.updRegion r fun x => { x with paceP := p, paceI := i }
  match s.region? r with
  | none => s
  | some x =>
    let from_ := (if p = 0 then none else s.nextPause { x with solderSteps := [] }).getD (s.freshStep x)
    (s.updRegion r fun x => { x with runRec := x.runRec.map fun q => { q with paces := q.paces ++ [(from_, p, i)] } }).rearm r

/-- A pace that the host sets: while the cap governor acts it waits until the governor stops (R366). -/
def State.setPace (s : State) (r p i : Nat) : State :=
  match s.region? r with
  | some x => if x.hostPace.isSome then s.updRegion r fun x => { x with hostPace := some (p, i) } else s.putPace r p i
  | none => s

/-- Whether a pace is in range (R276). -/
def paceOk (p i : Nat) : Bool := decide (p ≤ 65535) && ((p == 0 && i == 0) || (65536 ≤ i && i ≤ 16777216))

/-! ### Writes -/

/-- Whether a value may be written to a core register. -/
def coreValueOk (o v : Nat) : Bool :=
  if 0x80 ≤ o ∧ o ≤ 0xB8 then decide (v < 2 ^ 32)
  else if o = 0xC0 then decide (v < 2 ^ 33) && bits v 7 4 == 0 && decide (bits v 32 8 ≤ 16777216)
  else if o = 0x100 then decide (v < 128)
  else if o = 0x148 then sigValueOk v
  else false

/-- Whether a value may be written to a region register. -/
def regionValueOk (o v : Nat) : Bool :=
  match o with
  | 0x18 => 256 ≤ v && v ≤ 16777216
  | 0x20 => 65536 ≤ v && v ≤ 4294967295
  | 0x28 => 65536 ≤ v && v ≤ 4294967295
  | 0x30 => 65536 ≤ v && v ≤ 16777216
  | 0x38 => decide (v < 2 ^ 41) && paceOk (bits v 15 0) (bits v 40 16)
  | o => 0x40 ≤ o && o ≤ 0x58 && policyRegOk ((o - 0x40) / 8 + 1) v

/-- Whether a value may be written to an indirect pair's register k: 0 address, 1 data, 2 control. -/
def indValueOk (k v : Nat) : Bool :=
  match k with
  | 0 => decide (v < 2 ^ 64) && bits v 39 32 == 0
  | 1 => decide (v < 2 ^ 32)
  | _ => decide (v < 2)

/-- Whether a value may be written to a global register. -/
def State.globalValueOk (s : State) (o v : Nat) : Bool :=
  if 0x40 ≤ o ∧ o ≤ 0x58 then policyRegOk ((o - 0x40) / 8 + 5) v
  else if 0x100 ≤ o ∧ o ≤ 0x178 then decide (v < 2 ^ 64)
  else
    let w := o % 256 / 8
    decide (v < 2 ^ 64) && (List.range 64).all fun b => !v.testBit b || decide (64 * w + b < s.coreCount)

/-- Whether a value may be written at a place: no reserved or read-only bit, in its range (R333, R345, R346). -/
def State.regValueOk (s : State) (r : RegLoc) (v : Nat) : Bool :=
  match r.cls with
  | 1 => indValueOk ((r.off - 0x40) / 8) v
  | 2 => indValueOk ((r.off - 0x80) / 8) v
  | 3 => regionValueOk r.off v
  | 4 => s.globalValueOk r.off v
  | _ => coreValueOk r.off v

/-- A core as its presentation in the present cycle would leave it. -/
def State.soon (s : State) (l : Nat) : Option CoreSt := ((s.queueWork l).tryIssue l).core? l

/-- Whether a core's marker of an Invar step has issued, or issues in the present cycle (R338) (DEDUCED, log 32). -/
def State.markerIssued (s : State) (l step : Nat) : Bool :=
  match s.soon l with
  | some c => c.begun && decide (step ≤ c.step)
  | none => false

/-- Whether a core begins a step in the present cycle. -/
def State.stepsNow (s : State) (l : Nat) : Bool :=
  match s.core? l, s.soon l with
  | some c, some d => d.begun && (!c.begun || c.step != d.step)
  | _, _ => false

/-- Whether a core's buffer takes an entry: it matches an existing one, or there is room (R338). -/
def CoreSt.cfgRoom (c : CoreSt) (off : Nat) (f : ApplyForm) : Bool :=
  decide (c.cfg.length < 32) || c.cfg.any fun e => e.off == off && e.target == f

/-- Whether the state of its targets refuses a write (R317, R337, R338). -/
def State.regStateBad (s : State) (r : RegLoc) (i : RegInfo) (f : ApplyForm) : Bool :=
  match i.cls with
  | .q => (s.regRegions r).any fun x => x.phase == .running
  | .b => (s.regTargets r).any fun l =>
    match s.core? l, s.regionOf l with
    | some c, some x =>
      !c.cfgRoom r.off f || (match f with
        | .next => false
        | .step k => s.markerIssued l (x.base + k)
        | .start => x.phase == .running)
    | _, _ => false
  | _ => false

/-- A write's checks in order: the place, a writable register, the view, the value (R331, R333, R334, R336, R345)
(DEDUCED, log 30). -/
def State.regWriteCheck (s : State) (v : View) (g : GA) (f : ApplyForm) (value : Nat) : Except RegErr (RegLoc × RegInfo) :=
  match s.regLoc g with
  | none => .error .bad
  | some r =>
    match s.regInfo r with
    | none => .error .bad
    | some i =>
      if i.cls == .ro then .error .bad
      else if !v.writes i then .error .priv
      else if !s.regValueOk r value then .error .bad
      else if s.regStateBad r i f then .error .state
      else .ok (r, i)

/-- A buffered entry put last into a core's configuration buffer, in place of one with its register and target; the ticket of
a replaced entry, if any (R314, R338). An entry of an earlier cycle that a boundary of the present one applies is not
replaced (R12). -/
def CoreSt.buffer (c : CoreSt) (e : CfgEntry) (steps : Bool) : CoreSt × Option Nat :=
  let same (y : CfgEntry) : Bool :=
    y.off == e.off && y.target == e.target && !(steps && y.target == .next && decide (y.cycle < e.cycle))
  ({ c with cfg := (c.cfg.filter fun y => !same y) ++ [e] }, (c.cfg.find? same).map fun y => y.ticket)

/-- A class B write on one core (R337, R338). -/
def State.bufferWrite (s : State) (l off value ticket : Nat) (f : ApplyForm) : State :=
  match s.core? l with
  | none => s
  | some c =>
    let e : CfgEntry := { off := off, value := value, target := f, cycle := s.time.cycle, ticket := ticket }
    let (c', old) := c.buffer e (s.stepsNow l)
    let s := s.updCore l fun _ => c'
    match old with
    | some t => if t = ticket then s else s.ticketMark t l none
    | none => s

/-- A class Q or I write on a core. -/
def State.coreRegPut (s : State) (q : Requester) (l o v : Nat) : State :=
  if o = 0x148 then s.tallySignal q l v
  else if o = 0xC0 then
    s.updCore l fun c => { c with preds := (List.range 4).map fun i => v.testBit i, vl := bits v 32 8 }
  else s.updCore l fun c => c.setCounter ((o - 0x80) / 8) v

/-- A write on a region register. -/
def State.regionRegPut (s : State) (r o v : Nat) : State :=
  match o with
  | 0x18 => s.updRegion r fun x => { x with sbLimit := v }
  | 0x20 => s.updRegion r fun x => { x with waitLimit := v }
  | 0x28 => s.updRegion r fun x => { x with annLimit := v }
  | 0x30 => s.updRegion r fun x => { x with solderLead := v }
  | 0x38 => s.setPace r (bits v 15 0) (bits v 40 16)
  | o => s.updRegion r fun x => { x with policies := setAt x.policies ((o - 0x40) / 8) v }

/-- A write on an indirect pair's register. -/
def State.indPut (s : State) (cls inst o v : Nat) : State :=
  match (o - indOffset cls) / 8 with
  | 0 => s.updInd cls inst fun i => { i with addr := v }
  | 1 => s.indWrite cls inst v
  | _ => s.updInd cls inst fun i => { i with auto := v % 2 == 1 }

/-- A count of a key set. -/
def putCount (l : List (Nat × Nat)) (k v : Nat) : List (Nat × Nat) :=
  if v = 0 then clearCount l k else clearCount l k ++ [(k, v)]

/-- A write on a global register. -/
def State.globalRegPut (s : State) (o v : Nat) : State :=
  if o ≤ 0x58 then { s with glb := { s.glb with policies := setAt s.glb.policies ((o - 0x40) / 8) v } }
  else if o ≤ 0x178 then { s with glb := { s.glb with backup := setAt s.glb.backup ((o - 0x100) / 8) v } }
  else { s with glb := { s.glb with bcast := putCount s.glb.bcast ((o - 0x400) / 256 * 32 + o % 256 / 8) v } }

/-- A write that has passed its checks (R334, R337). -/
def State.regPut (s : State) (q : Requester) (r : RegLoc) (i : RegInfo) (f : ApplyForm) (v ticket : Nat) : State :=
  match r.cls with
  | 1 => s.indPut 1 r.inst r.off v
  | 2 => s.indPut 2 r.inst r.off v
  | 3 => s.regionRegPut r.inst r.off v
  | 4 => s.globalRegPut r.off v
  | _ => (s.regTargets r).foldl
    (fun s l => if i.cls == .b then s.bufferWrite l r.off v ticket f else s.coreRegPut q l r.off v) s

/-- A fresh ticket for a register write whose entries wait (R317). -/
def State.newTicket (s : State) (session seq : Nat) (waits : List Nat) : State × Nat :=
  let id := s.host.nextTicket + 1
  ({ s with host := { s.host with
      nextTicket := id
      tickets := s.host.tickets ++ [{ id := id, session := session, seq := seq, waits := waits }] } }, id)

/-! ### Accesses by prep cores, debug and register-space writers (R333, R336) -/

/-- A register read by a requester that is no mailbox session: the value, and false with the PRIVILEGE fault or an error
where it is refused. -/
def State.reqRead (s : State) (q : Requester) (g : GA) : State × Nat × Bool :=
  match s.regReadCheck (s.viewOf q) g with
  | .ok r =>
    let (s, v) := s.regReadAt r (s.viewOf q != .pRead)
    (s, v, true)
  | .error .priv => (s.raiseFree .privilege, 0, false)
  | .error _ => (s, 0, false)

/-- A register write by such a requester, in the NEXT form (R337). -/
def State.reqWrite (s : State) (q : Requester) (g : GA) (v : Nat) : State × Bool :=
  match s.regWriteCheck (s.viewOf q) g .next v with
  | .ok (r, i) => (s.regPut q r i .next v 0, true)
  | .error .priv => (s.raiseFree .privilege, false)
  | .error _ => (s, false)

/-- A refused access given back to its requester (R240, R333). -/
def State.refusedTo (s : State) (q : Requester) : State :=
  match q with
  | .prep h => s.emit (.prepRead h [] false)
  | _ => s.emit (.regRead 0 false)

/-- A write with its outcome: one that is refused is dropped, and the error goes back. -/
def State.writeReply (q : Requester) (x : State × Bool) : State := if x.2 then x.1 else x.1.refusedTo q

/-- The outcome of a read given back. -/
def State.readReply (x : State × Nat × Bool) : State := x.1.emit (.regRead x.2.1 x.2.2)

/-- REGISTER_WRITE (R337). -/
def execRegisterWrite (req : Requester) (ga : GA) (value : Nat) (s : State) : Res :=
  .next (State.writeReply req (s.reqWrite req ga value))

/-- The address of a core's register (R331). -/
def State.coreRegGA (s : State) (l off : Nat) : GA := s.kol.module * 2 ^ 58 + 3 * 2 ^ 56 + l * 2 ^ 42 + off

/-- TALLY_SIGNAL (R247): a write to the core's register of that name; a count of 0 or a tally above 47 is refused as any
write to a register is (R333). -/
def execTallySignal (req : Requester) (core value : Nat) (s : State) : Res :=
  .next (State.writeReply req (s.reqWrite req (s.coreRegGA core 0x148) value))

/-- FAULT_COUNT_READ (R344). -/
def execFaultCountRead (core : Nat) (s : State) : Res :=
  onCore core
    (fun s =>
      let r : RegLoc := { cls := 0, inst := core, off := 0x140 }
      (s.regClear r).emit (.regRead (s.regValue r) true))
    s

/-- RC_FIELD_READ (R339). -/
def execRcFieldRead (req : Requester) (ga : GA) (s : State) : Res := .next (State.readReply (s.reqRead req ga))

/-- IND_DATA_READ (R341). -/
def execIndDataRead (req : Requester) (ga : GA) (s : State) : Res := .next (State.readReply (s.reqRead req ga))

/-- IND_DATA_WRITE (R341). -/
def execIndDataWrite (req : Requester) (ga : GA) (value : Nat) (s : State) : Res :=
  .next (State.writeReply req (s.reqWrite req ga value))

/-! ### The parity walker (R340) -/

/-- The CONFIG_PARITY detail word. -/
def parityDetail (off cls inst : Nat) (entry : Bool) : Nat :=
  packFields [(0, off / 8 % 2 ^ 17), (17, cls), (20, inst), (31, bit entry)]

/-- A mismatch that the walker finds. -/
def State.parityHit (s : State) (h : ParityHit) : State :=
  let count (d : Nat) (s : State) : State :=
    ({ s with glb := { s.glb with parityCount := min (s.glb.parityCount + 1) (2 ^ 32 - 1), parityLast := d } }).raiseModule
      .configParity d
  match h with
  | .register cls inst off =>
    match s.regInfo { cls := cls, inst := inst, off := off } with
    | some i =>
      if (i.cls == .ro && !(cls == 3 && off == 0x10)) || 5 ≤ cls then s else count (parityDetail off cls inst false) s
    | none => s
  | .entry l off pos =>
    match (s.core? l).bind fun c => c.cfg[pos]? with
    | some e =>
      if e.off != off then s
      else
        let s := s.updCore l fun c => { c with cfg := c.cfg.eraseIdx pos }
        count (parityDetail off 0 l true) (s.ticketMark e.ticket l none)
    | none => s

/-- The management clock reaches a tick (DESIGN CHOICE, log 9). -/
def State.atTick (s : State) (now : Nat) : State :=
  if now ≤ s.time.tick then s else { s with time := { s.time with tick := now } }.drainChoices

/-- PARITY_WALK (R340): one walk in a tick. -/
def execParityWalk (now : Nat) (hits : List ParityHit) (s : State) : Res :=
  let s := s.atTick now
  let s := hits.foldl State.parityHit s
  .next { s with glb := { s.glb with walks := (s.glb.walks + 1) % 2 ^ 32 } }

end Sys2Proof.Machine
end

