-- ==== Sys2Proof/Machine/Memory.lean ====
section
/-! DEFINITION. Prep cores (R26, R86, R98, R225, R333), refresh (R226, R227), the rows of parking (R242 to R244), and mesh
links that go down (R238). -/

namespace Sys2Proof.Machine

/-! ### Prep cores (R26) -/

/-- The region of a prep hart is powered. -/
def State.prepOn (s : State) (hart : Nat) : Bool :=
  match s.regionOfDie (hart / 4) with
  | some x => x.phase == .idle || x.phase == .running || x.phase == .stopping || x.phase == .loading
  | none => false

/-- How a prep hart is named in packets: R395 gives the issuer 11 bits for a logical core, and the harts stand above them
(DESIGN CHOICE, log 91). -/
def prepIssuer (hart : Nat) : Nat := 2048 + hart

/-- The write packet of a prep hart to another module (R26, R395). -/
def State.remoteStore (s : State) (hart m : Nat) (g : GA) (bs : List Byte) : State :=
  match s.route m with
  | some (p, _) => s.sendFlit p 0 0x01
      { dst := m, src := s.kol.module, srcCore := prepIssuer hart, dstGA := g, payload := bs.length
        issuer := prepIssuer hart } bs
  | none => s

/-- A prep hart's load from another module: the request goes out and its landing space is reserved (R397). -/
def State.prepRemoteLoad (s : State) (hart m : Nat) (g : GA) (n : Nat) : State :=
  match s.route m with
  | none => s.emit (.prepRead hart (List.replicate n 0) false)
  | some (p, _) =>
    { s.sendFlit p 1 0x02 { dst := m, src := s.kol.module, srcCore := prepIssuer hart, srcGA := g, payload := n
                            issuer := prepIssuer hart } [] with
      fab := { s.fab with reads := s.fab.reads ++
        [{ core := prepIssuer hart, q := 0, idx := 0, gen := 0, off := 0, len := n, module := m }] } }

/-- A prep hart's load: over a register's view, from another module, or as an access that waits for its banks and ports. -/
def State.prepLoad (s : State) (hart : Nat) (g : GA) (n : Nat) (e : EccOutcome) : State :=
  match s.place g with
  | .control _ =>
    if g % 8 = 0 ∧ n = 8 then
      let (s, v, ok) := s.reqRead (.prep hart) g
      s.emit (.prepRead hart (if ok then leBytes 8 v else List.replicate n 0) ok)
    else s.emit (.prepRead hart (List.replicate n 0) false)
  | .remote m => s.prepRemoteLoad hart m g n
  | _ => s.access (some (.prep hart)) g n none e (.prep hart)

/-- A prep hart's store. -/
def State.prepStore (s : State) (hart : Nat) (g : GA) (bs : List Byte) : State :=
  match s.place g with
  | .control _ =>
    if g % 8 = 0 ∧ bs.length = 8 then State.writeReply (.prep hart) (s.reqWrite (.prep hart) g (leVal bs))
    else s.refusedTo (.prep hart)
  | .remote m => s.remoteStore hart m g bs
  | _ => s.access (some (.prep hart)) g bs.length (some bs) .clean (.store hart)

/-- PREP_CORE_ACCESS (R26). -/
def execPrepCoreAccess (hart : Nat) (acc : PrepAcc) (s : State) : Res :=
  if 192 ≤ hart then .refused (.noSuchPort hart)
  else if !s.prepOn hart then .next s
  else match acc with
    | .load g n e => .next (s.prepLoad hart g n e)
    | .store g bs => .next (s.prepStore hart g bs)

/-! ### Refresh (R226, R227) -/

/-- The first cycle, from one on, of the refresh slot of a die. -/
def slotFrom (cycle d : Nat) : Nat :=
  let start := 16 * (d % 25)
  let r := cycle % 400
  if start ≤ r ∧ r < start + 16 then cycle else cycle + (start + 400 - r) % 400

/-- WELL_REFRESH_SLOT (R226, R239): the clock runs to the slot; corrected granules are rewritten, and what the patrol
scrub corrects is counted. A key below 19,968 is a segment of a well of the die, any other its pool. -/
def execWellRefreshSlot (die : Nat) (corrected : List (Nat × Nat)) (s : State) : Res :=
  if 48 ≤ die then .refused (.noSuchPort die)
  else
    let s := s.advanceTo (slotFrom s.time.cycle die)
    let mine := corrected.filter fun c => 19968 ≤ c.1 || dieOf (c.1 / 16) == die
    .next { s with mem := { s.mem with
      rewrites := s.mem.rewrites.filter fun r => r.1 != die
      eccDie := mine.foldl (fun l c => bump l (2 * die) c.2) s.mem.eccDie
      eccWell := mine.foldl (fun l c => if c.1 < 19968 then bump l c.1 c.2 else l) s.mem.eccWell } }

/-- The refresh interval of a stack's channels in cc: 3.9 µs, half of it above 85 °C (R227). -/
def State.refreshGap (s : State) (st : Nat) : Nat := if s.stackHot st then s.ns 1950 else s.ns 3900

/-- STACK_REFRESH (R227): the refresh of a channel begins, an interval after the one before it, or the one that runs ends after
its 160 ns. -/
def execStackRefresh (stack ch : Nat) (begins : Bool) (s : State) : Res :=
  if 20 ≤ stack ∨ 32 ≤ ch then .refused (.noSuchPort stack)
  else
    let k := stack * 64 + ch
    if begins then
      if s.mem.refreshing.contains k then .next s
      else
        let s := if s.mem.stackLast.any fun x => x.1 == k then s.advanceTo (countOf s.mem.stackLast k + s.refreshGap stack) else s
        .next { s with mem := { s.mem with
          refreshing := s.mem.refreshing ++ [k]
          stackBusy := putCount s.mem.stackBusy k (s.time.cycle + s.ns 160)
          stackLast := clearCount s.mem.stackLast k ++ [(k, s.time.cycle)] } }
    else if s.mem.refreshing.contains k then
      let s := s.advanceTo (countOf s.mem.stackBusy k)
      .next { s with mem := { s.mem with
        refreshing := s.mem.refreshing.filter fun x => x != k
        stackBusy := clearCount s.mem.stackBusy k } }
    else .next s

/-! ### Parking units (R242, R243) -/

/-- PARK_TAKES_EFFECT (R242, R243, R244, R306): the clock runs to P when it is a multiple that lies ahead, and what is due
takes effect: a unit that parks begins to drain, a unit that reopens serves again. -/
def execParkTakesEffect (unit : ParkUnit) (s : State) : Res :=
  match s.parkEntry unit with
  | none => .next s
  | some e =>
    match e.phase with
    | .pending p | .reopening p => .next (match s.parkWait e p with
      | some t => (s.advanceTo t).settleParks
      | none => s.settleParks)
    | _ => .next s

/-- UNIT_PARKED (R243, R306): the drain has ended, or the clock runs to P + 10 µs. -/
def execUnitParked (unit : ParkUnit) (drained : Bool) (s : State) : Res :=
  match s.parkEntry unit with
  | none => .next s
  | some e =>
    match e.phase with
    | .draining p => .next ((if drained then s else s.advanceTo (p + s.ns 10000)).settleParks)
    | _ => .next s

/-! ### Mesh links (R238, R293) -/

/-- A group moves to chain mode, with its event; its issuers take it over at their step boundaries. -/
def State.toChain (s : State) (r g : Nat) : State :=
  match s.region? r with
  | none => s
  | some x =>
    if x.chainMode.getD g true then s
    else (s.updRegion r fun x => { x with chainMode := setAt x.chainMode g true }).notify .groupMode
      [.num r, .num g, .flag true]

/-- The groups of a region whose tree holds one of some links. -/
def Region.groupsOn (x : Region) (links : List (Nat × Nat)) : List Nat :=
  (List.range x.place.trees.length).filter fun g => match x.place.trees[g]? with
    | some (some t) => t.any links.contains
    | _ => false

/-- MESH_LINK_DOWN (R238, R293): both directions of a link are marked, the CRC retries it made since the last count are added
to its die's, and the groups whose tree holds it move to chain mode. -/
def execMeshLinkDown (die dir retries : Nat) (s : State) : Res :=
  if 48 ≤ die ∨ 4 ≤ dir then .refused (.noSuchPort die)
  else
    let ends := (die, dir) :: (match neighbour die dir with | some n => [(n, (dir + 2) % 4)] | none => [])
    let s := { s with mem := { s.mem with
      meshDown := s.mem.meshDown ++ ends.filter fun e => !s.mem.meshDown.contains e
      meshRetries := bump s.mem.meshRetries die retries } }
    .next ((s.regions.flatMap fun x => (x.groupsOn ends).map fun g => (x.num, g)).foldl
      (fun s (m : Nat × Nat) => s.toChain m.1 m.2) s)

end Sys2Proof.Machine
end

