-- ==== Sys2Proof/Machine/Placement.lean ====
section
/-! DEFINITION. Alnico: the placement of a region (R293, R294, R296), mesh connectivity for multicast trees (R237, R238),
stack tensors (R288), and retiming (R290). -/

namespace Sys2Proof.Machine

/-! ### Slots and cores (R294) -/

/-- Enabled cores per C-die (R24). -/
def State.perDie (s : State) : Nat := if s.part.cores1104 then 23 else 25

/-- The dies of a region, row-major. -/
def Region.dies (x : Region) : List Nat := (List.range 48).filter x.hasDie

/-- The physical cores of a region. -/
def Region.cores (x : Region) : List Nat := x.dies.flatMap coresOfDie

/-- A step of the rule: the slots taken so far as (slot position, physical core). -/
abbrev Taken := List (Nat × Nat)

/-- Whether a physical core is taken. -/
def Taken.has (t : Taken) (p : Nat) : Bool := t.any fun x => x.2 == p

/-- The core that a slot holds. -/
def Taken.at_ (t : Taken) (i : Nat) : Option Nat := (t.find? fun x => x.1 == i).map fun x => x.2

/-- Step 3: active slot k of a die takes the die's k-th usable core. -/
def State.stepThree (s : State) (dies : List Nat) (e n : Nat) : Taken :=
  (List.range n).filterMap fun i =>
    (dies[i / e]?).bind fun d => (((coresOfDie d).filter s.usable)[i % e]?).map fun p => (i, p)

/-- The nearest free core of other dies for a slot of die d: least distance, lowest die, lowest core. -/
def nearestFree (dies : List Nat) (d : Nat) (t : Taken) (ok : Nat → Bool) : Option Nat :=
  let free := (dies.filter fun o => o != d).flatMap fun o => (coresOfDie o).filter fun p => ok p && !t.has p
  argMin (fun p => hops d (dieOf p)) free

/-- Step 4 for one slot. -/
def State.stepFour (s : State) (dies : List Nat) (e : Nat) (t : Taken) (i : Nat) : Taken :=
  if (t.at_ i).isSome then t
  else match dies[i / e]? with
    | none => t
    | some d =>
      let own := (coresOfDie d).find? fun p => s.avoided p && !t.has p
      match own, nearestFree dies d t s.usable, nearestFree dies d t s.avoided with
      | some p, _, _ => t ++ [(i, p)]
      | none, some p, _ => t ++ [(i, p)]
      | none, none, some p => t ++ [(i, p)]
      | none, none, none => t

/-- Step 5 for one idle slot. -/
def State.stepFive (s : State) (dies : List Nat) (e : Nat) (t : Taken) (i : Nat) : Taken :=
  match dies[i / e]? with
  | none => t
  | some d =>
    let free (ok : Nat → Bool) := (coresOfDie d).find? fun p => ok p && !t.has p
    match free s.usable, free s.avoided with
    | some p, _ => t ++ [(i, p)]
    | none, some p => t ++ [(i, p)]
    | none, none => t

/-- The slots of a region with N active ones after R294. -/
def State.slots (s : State) (x : Region) (n : Nat) : Taken :=
  let e := s.perDie
  let active := (List.range n).foldl (s.stepFour x.dies e) (s.stepThree x.dies e n)
  ((List.range (e * x.dies.length)).drop n).foldl (s.stepFive x.dies e) active

/-! ### Trees (R237, R238) -/

/-- A die that a tree reaches, with the link that enters it: a die and a direction. -/
abbrev Reached := List (Nat × Option (Nat × Nat))

/-- Whether a tree has reached a die. -/
def Reached.has (r : Reached) (d : Nat) : Bool := r.any fun x => x.1 == d

/-- The dies one healthy link further. -/
def State.spread (s : State) (r : Reached) : Reached :=
  r.foldl
    (fun a x => (List.range 4).foldl
      (fun (a : Reached) dir => match neighbour x.1 dir with
        | some n => if s.meshMarked x.1 dir || a.has n then a else a ++ [(n, some (x.1, dir))]
        | none => a) a) r

/-- Spreading repeated. -/
def State.reach (s : State) (n : Nat) (r : Reached) : Reached :=
  match n with
  | 0 => r
  | k + 1 => s.reach k (s.spread r)

/-- The links from a die back to the root, at most n. -/
def Reached.path (r : Reached) (n d : Nat) : List (Nat × Nat) :=
  match n with
  | 0 => []
  | k + 1 => match (r.find? fun x => x.1 == d).bind fun x => x.2 with
    | some l => l :: r.path k l.1
    | none => []

/-- The tree of a group over healthy links, as its links: shortest paths from the die of its first member, where R237 leaves
the die at which a source enters open (DESIGN CHOICE, log 92); none when a member's die is out of reach. -/
def State.treeOf (s : State) (ds : List Nat) : Option (List (Nat × Nat)) :=
  match ds with
  | [] => some []
  | d :: r =>
    let all := s.reach 48 [(d, none)]
    if r.all all.has then some (r.flatMap (all.path 48)).dedup else none

/-! ### Stack tensors (R288) -/

/-- The GA of a stack offset of this module. -/
def State.stackGA (s : State) (st off : Nat) : GA := s.kol.module * 2 ^ 58 + 2 * 2 ^ 56 + st * 2 ^ 40 + off

/-- The occupied ranges of stacks, as GA and size, without those of one region. -/
def State.occupied (s : State) (but : Option Nat) : List (GA × Nat) :=
  (s.host.allocs.map fun a => (a.ga, a.size))
    ++ (s.regions.filter fun x => some x.num != but).flatMap fun x => x.tensors

/-- Whether two ranges of addresses meet. -/
def gaMeet (a b : GA × Nat) : Bool := a.1 < b.1 + b.2 && b.1 < a.1 + a.2

/-- Whether a range is a legal tensor place: a stack address of this module, inside its stack, of whole 8 KiB. -/
def State.stackRange (s : State) (g : GA) (n : Nat) : Bool :=
  match s.place g with
  | .stack _ o => n % 8192 == 0 && n != 0 && decide (o + n ≤ stackSize)
  | _ => false

/-- The least of a list. -/
def least (l : List Nat) : Option Nat :=
  match l with
  | [] => none
  | a :: r => some (r.foldl min a)

/-- The lowest free aligned offset of a stack for a size. -/
def State.freeIn (s : State) (st n : Nat) (occ : List (GA × Nat)) : Option GA :=
  let base := s.stackGA st 0
  let cands := base :: (occ.map fun a => (a.1 + a.2 + 8191) / 8192 * 8192)
  least (cands.filter fun g => s.stackRange g n && g / 2 ^ 40 == base / 2 ^ 40 && !occ.any fun a => gaMeet (g, n) a)

/-- The lowest free place in the lowest-numbered stack with room. -/
def State.freePlace (s : State) (n : Nat) (occ : List (GA × Nat)) : Option GA :=
  (List.range 20).findSome? fun st => s.freeIn st n occ

/-- The reason that a chosen place of a tensor gives, against the allocations of others and the object's own (R292; DEDUCED,
log 44). -/
def State.tensorBad (s : State) (g : GA) (n : Nat) (occ own : List (GA × Nat)) : Option Nat :=
  if !s.stackRange g n || own.any (gaMeet (g, n)) then some 0x0B
  else if occ.any (gaMeet (g, n)) then some 0x0C
  else none

/-- Tensors being placed: their GAs, the GAs that the command still gives, the ranges taken, and the reasons of refusal. -/
structure Placing where
  out : List GA := []
  given : List GA
  own : List (GA × Nat)
  bad : List Nat := []
deriving DecidableEq, Repr

/-- One tensor placed: at its fixed GA, at one that the command gives, or at the lowest free offset (R288). -/
def State.placeTensor (s : State) (occ : List (GA × Nat)) (p : Placing) (t : TensorDecl) : Placing :=
  match t.fixed, p.given with
  | some g, _ => { p with out := p.out ++ [g], own := p.own ++ [(g, t.size)], bad := p.bad ++ (s.tensorBad g t.size occ p.own).toList }
  | none, g :: rest =>
    { out := p.out ++ [g], given := rest, own := p.own ++ [(g, t.size)], bad := p.bad ++ (s.tensorBad g t.size occ p.own).toList }
  | none, [] => match s.freePlace t.size (occ ++ p.own) with
    | some g => { p with out := p.out ++ [g], own := p.own ++ [(g, t.size)] }
    | none => { p with out := p.out ++ [0], bad := p.bad ++ [0x0B] }

/-- The GAs of declared tensors and the reasons of refusal: the fixed ones are taken before the others choose. -/
def State.placeTensors (s : State) (ts : List TensorDecl) (given : List GA) (occ : List (GA × Nat)) : List GA × List Nat :=
  let fixed := (ts.filter fun t => t.fixed.isSome).foldl (s.placeTensor occ) { given := [], own := [] }
  let float := (ts.filter fun t => t.fixed.isNone).foldl (s.placeTensor occ) { given := given, own := fixed.own }
  let size (t : TensorDecl) : List Nat := if t.size % 8192 != 0 || t.size == 0 then [0x0B] else []
  let gas := ts.foldl
    (fun (a : List GA × List GA) t => match t.fixed, a.2 with
      | some g, _ => (a.1 ++ [g], a.2)
      | none, g :: r => (a.1 ++ [g], r)
      | none, [] => (a.1 ++ [0], []))
    ([], float.out)
  (gas.1, ts.flatMap size ++ fixed.bad ++ float.bad)

/-! ### Affine terms (R285) -/

/-- The value of an affine term. -/
def affineAt (a : Affine) (i n : Nat) : Int := a.c0 + a.c1 * i + a.c2 * n + a.c3 * ((i / a.c4 : Nat) : Int)

/-- Coefficients of 32 bits, and a divisor of 1 or more. -/
def affineOk (a : Affine) : Bool :=
  [a.c0, a.c1, a.c2, a.c3].all (fun c => decide (-(2 ^ 31 : Int) ≤ c) && decide (c < 2 ^ 31)) && decide (1 ≤ a.c4)

/-- The class of an object core index. -/
def objClass (o : FliupObject) (n i : Nat) : Option Nat :=
  (o.classMap.find? fun r => decide (affineAt r.a 0 n ≤ (i : Int)) && decide ((i : Int) < affineAt r.b 0 n)).map fun r => r.cls

/-- Low bit and width of a GA field that a term is added to, by the space of the base (R28, R222, R224). -/
def gaFieldBits (f : GaField) (space : Nat) (pool : Bool) : Nat × Nat :=
  match f with
  | .module => (58, 6)
  | .lcore => (45, 11)
  | .pool => (45, 6)
  | .stack => (40, 5)
  | .offset => if space = 2 then (0, 38) else if space = 1 then (if pool then (0, 34) else (0, 30)) else (0, 45)

/-- A term added to a field of a base; none outside the field. -/
def addField (g : GA) (f : GaField) (v : Int) : Option GA :=
  let (lo, w) := gaFieldBits f (gaSpace g) (bits g 44 44 == 1)
  let old : Nat := g / 2 ^ lo % 2 ^ w
  let new : Int := old + v
  if 0 ≤ new ∧ new < 2 ^ w then some (g - old * 2 ^ lo + new.toNat * 2 ^ lo) else none

/-- The descriptor of a template for core index i as a number, none when a term leaves its field (R285, R287, R288). -/
def expandDesc (t : DescTemplate) (tensors : List GA) (i n : Nat) : Option Nat :=
  let base := bits t.raw 63 0
  let moved := t.terms.foldl (fun (g : Option GA) a => g.bind fun g => addField g a.1 (affineAt a.2 i n)) (some base)
  let based := match t.tensor with
    | none => moved
    | some k => match tensors[k]? with
      | none => none
      | some g => moved.bind fun b => if g + b < 2 ^ 64 then some (g + b) else none
  based.map fun b => t.raw / 2 ^ 64 % 2 ^ 448 * 2 ^ 64 + b

/-- The members of a group as object core indices, none outside [0, N). -/
def groupMembers (ranges : List (Affine × Affine)) (n : Nat) : Option (List Nat) :=
  let one (r : Affine × Affine) : List Int :=
    let a := affineAt r.1 0 n
    let b := affineAt r.2 0 n
    (List.range (b - a).toNat).map fun (k : Nat) => a + k
  let ms := ranges.flatMap one
  if ms.all fun m => decide (0 ≤ m) && decide (m < (n : Int)) then some (ms.map fun m => m.toNat) else none

/-! ### Retiming (R290) -/

/-- The place of a path end under a placement: slots, pool dies, tensor GAs. -/
def endPlace (own logBase : Nat) (t : Taken) (dies : List Nat) (tensors : List GA) (e : PathEnd) : EndPlace :=
  match e with
  | .core i => .core (logBase + i) (match t.at_ i with | some p => dieOf p | none => 0)
  | .pool j => .die (dies.getD j 0)
  | .tensor k => .stack (bits (tensors.getD k 0) 44 40)
  | .module m => if m = own then .module own else .module m

/-- The refresh cycles of a die's slot in [f, f + v) (R226). -/
def refreshCycles (d f v : Nat) : Nat :=
  let start := 16 * (d % 25)
  let upto (t : Nat) : Nat := t / 400 * 16 + min 16 (t % 400 - start)
  upto (f + v) - upto f

/-- The own-well die of a term, when both ends are one core. -/
def ownWell (a b : EndPlace) : Option Nat :=
  match a, b with
  | .core l d, .core k _ => if l = k then some d else none
  | _, _ => none

/-- The rounds of the refresh term: the value, or the largest of four rounds and a margin. -/
def refreshRounds (f base : Nat) (dies : List Nat) (n v top : Nat) : Nat :=
  match n with
  | 0 => top + 16 * ((top + 399) / 400 + 1)
  | k + 1 =>
    let w := base + (dies.map fun d => refreshCycles d f v).foldl (· + ·) 0
    if w = v then v else refreshRounds f base dies k w (max top w)

/-- The retimed value of an annotation under a placement (DESIGN CHOICE, log 21). -/
def State.retimed (s : State) (logBase : Nat) (t : Taken) (dies : List Nat) (tensors : List GA) (a : Annotation) : Nat :=
  let place (e : PathEnd) : EndPlace := endPlace s.kol.module logBase t dies tensors e
  let base := a.fixed + (a.terms.map fun p => p.mult * s.pathLatency p.signal (place p.a) (place p.b)).foldl (· + ·) 0
  let wells := a.terms.filterMap fun p => if p.signal then none else ownWell (place p.a) (place p.b)
  if wells.isEmpty then base else refreshRounds a.fixed base wells 4 base base

/-- A retimed value in the field that it fills. -/
def retimeOk (a : Annotation) (v : Nat) : Bool := if a.waitc then v ≤ 4194303 else v ≤ 255

/-- A bundle with a retimed field: the delay, or the immediate of its WAITC of form 0. -/
def retimeBundle (w : BitVec 128) (waitc : Bool) (v : Nat) : BitVec 128 :=
  let x := w.toNat
  if waitc then BitVec.ofNat 128 (x - bits x 105 84 * 2 ^ 84 + v * 2 ^ 84)
  else BitVec.ofNat 128 (x % 2 ^ 120 + v * 2 ^ 120)

/-- The image of a class with its retimed fields (R289, R290). -/
def retimeImage (image : List (BitVec 128)) (cls : Nat) (rs : List (Annotation × Nat)) : List (BitVec 128) :=
  rs.foldl (fun im r => if r.1.cls = cls then updAt im r.1.idx fun w => retimeBundle w r.1.waitc r.2 else im) image

/-! ### The check of a retimed schedule (R291) -/

/-- The cycles from which the pass path, the shadow path, the drain of an MSHAPE, the zero path and the V unit are free. -/
structure UnitUse where
  pass : Nat := 0
  shadow : Nat := 0
  shape : Nat := 0
  zero : Nat := 0
  v : Nat := 0
deriving DecidableEq, Repr

/-- An M instruction at a cycle of a run: whether its path is free, and the paths after it. The occupancies are those that its
fields and descriptors fix whatever the state (R74, R117): MSHAPE at least 144, a pass of one unit a row. -/
def unitM (k : Ctx) (c : CoreSt) (t : Nat) (op : MOp) (u : UnitUse) : Bool × UnitUse :=
  match op with
  | .nop | .illegal _ => (true, u)
  | .mwload .. => (decide (u.shadow ≤ t), { u with shadow := t + 64 })
  | .mswap => (decide (u.shape ≤ t), { u with shadow := max u.shadow (t + 1) })
  | .mshape _ => (decide (max u.pass u.shadow ≤ t), { u with pass := t + 144, shadow := t + 144, shape := t + 144 })
  | .mzero h =>
    let n := (mkOpnd k.module c .producer (resolveHandle c .m h.toNat)).d.extent 0
    (decide (u.zero ≤ t), { u with zero := t + if bits c.twoPhase 0 0 = 1 then 1 else (n + 63) / 64 })
  | .mpass .. | .mpassw .. | .mpassc .. =>
    let rows := match passFields op with
      | some f => (passOpnds k c f).2.1.d.extent 1
      | none => 1
    (decide (u.pass ≤ t), { u with pass := t + if bits c.twoPhase 0 0 = 1 then 1 else max 1 rows })

/-- A V instruction at a cycle of a run; one whose length the run has not set counts for one cycle. -/
def unitV (k : Ctx) (c : CoreSt) (t : Nat) (op : VOp) (u : UnitUse) : Bool × UnitUse :=
  match op with
  | .nop | .illegal _ => (true, u)
  | _ =>
    let o : Nat :=
      if bits c.twoPhase 0 0 = 1 then 1
      else match vFields c op, rngFields c op with
        | some f, _ =>
          if f.code == .vperm then 128 * (vLength f / 16384)
          else groupsFor f.len (vLanes f (vDst k c f) (vSrcs k c f))
        | none, some f => groupsFor f.len (rngLanes (mkOpnd k.module c .producer (resolveHandle c .v f.h)))
        | none, none => 1
    (decide (u.v ≤ t), { u with v := t + max 1 o })

/-- Whether a straight run of bundles ends with a bundle: its successor, or the successor's cycle, is not fixed. -/
def endsRun (b : Bundle) : Bool :=
  match b.s with
  | .br .. | .halt | .waitc (.reg _) | .loop _ _ (.reg _) | .illegal _ => true
  | .loop _ _ (.imm n) => n == 0
  | _ => b.reserved != 0

/-- A run being checked: its cycle, what is busy, the core's descriptors with the VL that the run has set, whether it holds a
retimed field, and whether an instruction meets its unit busy. -/
structure RunCheck where
  t : Nat := 0
  use : UnitUse := {}
  core : CoreSt
  retimed : Bool := false
  bad : Bool := false
  refused : Bool := false
deriving DecidableEq, Repr

/-- One bundle of a run (promise 3). -/
def RunCheck.bundle (k : Ctx) (r : RunCheck) (b : Bundle) (here : Bool) : RunCheck :=
  let m := unitM k r.core r.t b.m r.use
  let v := unitV k r.core r.t b.v m.2
  let retimed := r.retimed || here
  let bad := r.bad || !m.1 || !v.1
  let refused := r.refused || (retimed && bad)
  if endsRun b then { core := { r.core with vl := 0 }, refused := refused }
  else
    let vl := match b.s with
      | .setvl (.imm n) => n.toNat
      | .setvl _ => 0
      | _ => r.core.vl
    { t := r.t + successorDelay r.core b, use := v.2, core := { r.core with vl := vl }, retimed := retimed, bad := bad
      refused := refused }

/-- Whether no straight run of a class's image that holds a retimed field issues to a unit inside its occupancy, as far as
the bundles and descriptors alone fix it. -/
def imageUnitsOk (k : Ctx) (c : CoreSt) (image : List (BitVec 128)) (at_ : List Nat) : Bool :=
  let r := ((List.range image.length).zip image).foldl
    (fun (r : RunCheck) w => r.bundle k (decodeBundle w.2) (at_.contains w.1)) { core := { c with vl := 0 } }
  !r.refused

end Sys2Proof.Machine
end

