-- ==== Sys2Proof/Machine/Loader.lean ====
section
/-! DEFINITION. The loader: the bytes of an object (R285, R316), the reasons for which a load is refused (R286 to R292,
R298), the expansion of an object onto cores (R287), and what a load clears and keeps (R107, R128, R146, R280, R301). -/

namespace Sys2Proof.Machine

/-! ### The bytes of an object (R285, R316) -/

/-- A framed section: its type, where it begins, and the length of its content. -/
structure Section where
  typ : Nat
  off : Nat
  len : Nat
deriving DecidableEq, Repr

/-- What framing finds: the sections in order, and whether they fill the object's length, in increasing type order. -/
structure Framing where
  sections : List Section := []
  ok : Bool := true
deriving DecidableEq, Repr

/-- The sections from an offset on, n at most. -/
def frameFrom (m : Mem) (key length : Nat) (n : Nat) (off last : Nat) : Framing :=
  match n with
  | 0 => { ok := false }
  | k + 1 =>
    if off = length then {}
    else if length < off + 9 then { ok := false }
    else
      let t := (m.get (key + off)).toNat
      let len := leVal (m.read (key + off + 1) 8)
      if t ≤ last ∨ length < off + 9 + len then { ok := false }
      else
        let r := frameFrom m key length k (off + 9 + len) t
        { r with sections := { typ := t, off := off, len := len } :: r.sections }

/-- The sections of an object whose bytes lie at a stack address. -/
def State.frames (s : State) (g : GA) (length : Nat) : Framing :=
  frameFrom s.mem.stackMem (stackKey (bits g 44 40) (bits g 37 0)) length 257 0 0

/-- The bytes that the object digest covers: the nine sections in type order, an absent one as its type and eight zeros. -/
def State.objectBytes (s : State) (g : GA) (length : Nat) : List Nat :=
  let key := stackKey (bits g 44 40) (bits g 37 0)
  let f := s.frames g length
  (List.range 9).flatMap fun i =>
    match f.sections.find? fun x => x.typ == i + 1 with
    | some x => (s.mem.stackMem.read (key + x.off) (9 + x.len)).map BitVec.toNat
    | none => (i + 1) :: List.replicate 8 0

/-- The digest of an object that lies in a capacity stack. -/
def State.objectDigest (s : State) (g : GA) (length : Nat) : Nat := Config.digestOf (s.objectBytes g length)

/-- The bytes are nine sections or fewer of the types of R285, in their order (R292 FORMAT; DEDUCED, log 72). -/
def Framing.good (f : Framing) : Bool := f.ok && f.sections.all fun x => x.typ ≤ 9

/-! ### Reasons of refusal (R292) -/

/-- Two half-open ranges of numbers, as start and length, meet. -/
def numMeet (a n b m : Nat) : Bool := a < b + m && b < a + n

/-- The record word of R269 for a scoreboard policy. -/
def recordWord (trap : Bool) : Nat := 0x01010101 + (if trap then 2 ^ 32 else 0)

/-- The object keeps the limits of R285 on its sections. -/
def objShapeOk (o : FliupObject) : Bool :=
  o.classes.length ≤ 64 && o.classMap.length ≤ 256
    && (o.classes.all fun c => 1 ≤ c.image.length && c.image.length ≤ 16384 && c.counters.length ≤ 8
        && (c.counters.all fun v => decide (v < 2 ^ 32)) && c.vl ≤ 16777216 && c.tallies.length ≤ 48
        && (c.tallies.all fun v => v ≤ 4095) && decide (c.twoPhase < 128) && decide (c.shape < 3) && c.rings.length ≤ 32)
    && (o.templates.all fun t => decide (t.h < 256) && decide (t.raw < 2 ^ 512) && t.terms.length ≤ 3)
    && (o.groups.all fun g => g.length ≤ 16) && (o.annotations.all fun a => a.terms.length ≤ 4)
    && decide (o.modules < 2 ^ 64)

/-- Every affine term of the object keeps its coefficients' range. -/
def objAffineOk (o : FliupObject) : Bool :=
  (o.classMap.all fun r => affineOk r.a && affineOk r.b) && (o.templates.all fun t => t.terms.all fun a => affineOk a.2)
    && o.groups.all fun g => g.all fun r => affineOk r.1 && affineOk r.2

/-- Every index has a class that exists, and every template expands (R287). -/
def objExpands (o : FliupObject) (n : Nat) (tensors : List GA) : Bool :=
  (List.range n).all fun i =>
    match objClass o n i with
    | none => false
    | some k => decide (k < o.classes.length)
      && o.templates.all fun t => t.cls != k || (expandDesc t tensors i n).isSome

/-- A ring's geometry keeps R100. -/
def ringGeoOk (g : RingGeo) : Bool :=
  g.base % 64 == 0 && 3 ≤ g.n && g.n ≤ 16 && g.size % 64 == 0 && 64 ≤ g.size && g.size ≤ 1048576
    && decide (g.base + g.n * g.size ≤ 0x1000000) && (match g.queue with | some q => decide (q < 4) | none => true)

/-- A fault policy that an object may set on a region (R83, R85): codes 0x50 and above are no region settings, and
BARRIER_TIMEOUT is accepted only as STOP, its whole range. -/
def corePolicyOk (code p : Nat) : Bool :=
  match fcodeOf code with
  | some c => decide (c.num < 0x50) && c.range.1 ≤ p && p ≤ c.range.2
  | none => false

/-- The settings section keeps its ranges. -/
def settingsOk (z : ObjSettings) : Bool :=
  let inR (o : Option Nat) (lo hi : Nat) : Bool := match o with | some v => lo ≤ v && v ≤ hi | none => true
  (z.policies.all fun p => corePolicyOk p.1 p.2) && inR z.waitLimit 65536 4294967295
    && inR z.announceLimit 65536 4294967295 && inR z.sbHoldLimit 256 16777216 && inR z.solderLead 65536 16777216
    && paceOk z.paceP z.paceI

/-- Everything that a load fixes before it changes the region: slots, tensors, retimed fields, groups. -/
structure LoadPlan where
  slots : Taken
  tensors : List GA
  retimed : List (Annotation × Nat)
  groups : List (List Nat)
  trees : List (Option (List (Nat × Nat)))
deriving DecidableEq, Repr

/-- The reasons that the object and the counts alone decide: 0x01 to 0x07. -/
def State.loadReasons (s : State) (x : Region) (a : LoadArgs) : List Nat :=
  let o := a.object
  let d := x.dies.length
  let others := s.regions.filter fun y => y.num != x.num && y.loaded
  let usable := (x.cores.filter fun p => !s.failed p).length
  (if s.objectDigest a.ga a.length != a.digest then [0x01] else [])
    ++ (if o.version != 1 || !(s.frames a.ga a.length).good || !objShapeOk o then [0x02] else [])
    ++ (if o.record % 2 ^ 32 != 0x01010101 || 2 ^ 33 ≤ o.record then [0x03] else [])
    ++ (if a.n < o.nMin || o.nMax < a.n || (a.n - o.nMin) % o.nStep != 0 || s.coreCount < o.logBase + a.n then [0x04]
        else [])
    ++ (if (others.any fun y => numMeet o.logBase a.n y.logBase y.n || numMeet o.poolBase d y.poolBase y.dies.length)
          || 48 < o.poolBase + d then [0x05] else [])
    ++ (if s.perDie * d < a.n || usable < a.n then [0x06] else [])
    ++ (if (List.range 64).any fun m => o.modules.testBit m && !s.inMap m then [0x07] else [])

/-- The declared use of wells and die pools fits (R292; DEDUCED, log 44): each core's well its class's, and the region's pools
the sum over its cores. -/
def memoryFits (o : FliupObject) (n dies : Nat) : Bool :=
  let uses := (List.range n).filterMap fun i => (objClass o n i).bind fun k => o.classes[k]?
  uses.all (fun c => decide (c.wellUse ≤ 2 ^ 30)) && decide ((uses.map fun c => c.poolUse).foldl (· + ·) 0 ≤ dies * poolSize)

/-- The reasons that groups, rings, memory and settings decide: 0x08 to 0x0D; `placed` are the GAs of the tensors and the
reasons that they give. -/
def planReasons (x : Region) (a : LoadArgs) (placed : List GA × List Nat) : List Nat :=
  let o := a.object
  let members := o.groups.map fun g => groupMembers g a.n
  (if !objAffineOk o || !objExpands o a.n placed.1 || members.contains none then [0x08] else [])
    ++ (if o.classes.any fun c => c.rings.any fun r => match r with | some g => !ringGeoOk g | none => false then [0x09]
        else [])
    ++ (if 64 < o.groups.length || (members.any fun m => match m with
          | some l => l.isEmpty || decide (¬ l.Nodup)
          | none => false) then [0x0A] else [])
    ++ (if memoryFits o a.n x.dies.length then [] else [0x0B]) ++ placed.2
    ++ (if settingsOk o.settings then [] else [0x0D])

/-- The plan of a load that nothing has refused so far. -/
def State.loadPlan (s : State) (x : Region) (a : LoadArgs) (tensors : List GA) : LoadPlan :=
  let o := a.object
  let slots := s.slots x a.n
  let groups := o.groups.map fun g => ((groupMembers g a.n).getD []).map fun i => o.logBase + i
  let dieAt (l : Nat) : Nat := match slots.at_ (l - o.logBase) with | some p => dieOf p | none => 0
  { slots := slots
    tensors := tensors
    retimed := o.annotations.map fun y => (y, s.retimed o.logBase slots x.dies tensors y)
    groups := groups
    trees := groups.map fun g => s.treeOf ((g.map dieAt).dedup) }

/-! ### Expansion (R287) -/

/-- A ring context of an object (R100, R107). -/
def ringOfGeo (g : RingGeo) : Ring := { base := g.base, n := g.n, size := g.size, queue := g.queue }

/-- A list filled up to a length. -/
def padTo {α : Type} (n : Nat) (x : α) (l : List α) : List α := (l ++ List.replicate (n - l.length) x).take n

/-- The descriptor table of a core (R287): descriptors that no template gives stay invalid. -/
def expandTable (o : FliupObject) (cls i n : Nat) (tensors : List GA) : Mem :=
  (o.templates.filter fun t => t.cls == cls).foldl
    (fun m t => match expandDesc t tensors i n with
      | some v => m.write (64 * t.h) (leBytes 64 v)
      | none => m)
    []

/-- The instruction memory of an image. -/
def imageMem (image : List (BitVec 128)) : Mem :=
  Mem.write [] 0 (image.flatMap fun w => leBytes 16 w.toNat)

/-- A core after expansion: the clears of R107, R128 and R146, and the object's initial state (R280, R287). -/
def expandCore (region base : Nat) (o : FliupObject) (n : Nat) (p : LoadPlan) (replay : Option (List (Nat × List ChoiceEntry)))
    (i phys : Nat) : CoreSt :=
  let k := (objClass o n i).getD 0
  let c := (o.classes[k]?).getD { image := [] }
  { lcore := o.logBase + i
    region := region
    phys := phys
    step := base
    counters := padTo 8 0 c.counters
    vl := c.vl
    tallies := padTo 48 0 c.tallies
    twoPhase := c.twoPhase
    shape := if c.shape = 1 then .wd256 else if c.shape = 2 then .wd1024 else .sq64
    rings := padTo 32 none (c.rings.map fun r => r.map ringOfGeo)
    imem := imageMem (retimeImage c.image k p.retimed)
    desc := expandTable o k i n p.tensors
    chain := p.trees.map Option.isNone
    replay := replay.map fun l => ((l.find? fun e => e.1 == o.logBase + i).map fun e => e.2).getD [] }

/-- A list as numbers, after its length. -/
def counted {α : Type} (f : α → List Nat) (l : List α) : List Nat := l.length :: l.flatMap f

/-- The numbers that the digest of a placement record covers: all its fields but the digest (R296). -/
def Placement.numbers (x : Region) (p : Placement) : List Nat :=
  let opt (o : Option Nat) : List Nat := match o with | some v => [1, v] | none => [0, 0]
  let tree (t : Option (List (Nat × Nat))) : List Nat := match t with
    | some l => 1 :: counted (fun k => [k.1, k.2]) l
    | none => [0]
  [x.num, x.x0, x.y0, x.x1, x.y1]
    ++ counted (fun (b : Binding) => [b.lcore, b.phys, bit b.spare, bit b.avoided]) p.bindings
    ++ counted opt p.idleSlots ++ counted (fun (b : Nat × Nat) => [b.1, b.2]) p.pools
    ++ counted (fun (w : Nat × List Nat) => w.1 :: counted (fun n => [n]) w.2) p.spareWells
    ++ counted tree p.trees ++ counted (fun g => [g]) p.tensors ++ [bit p.clock300]
    ++ counted (fun (r : Nat × Nat × Bool × Nat) => [r.1, r.2.1, bit r.2.2.1, r.2.2.2]) p.retimed

/-- The placement record of a plan (R296) (DEDUCED, log 49). -/
def State.planPlacement (s : State) (x : Region) (o : FliupObject) (n : Nat) (p : LoadPlan) : Placement :=
  let e := s.perDie
  let held := p.slots.map fun t => t.2
  let r : Placement :=
    { bindings := (List.range n).filterMap fun i => (p.slots.at_ i).map fun ph =>
        { lcore := o.logBase + i, phys := ph, avoided := s.avoided ph
          spare := ph % 26 ≥ e || x.dies.getD (i / e) 0 != dieOf ph }
      idleSlots := ((List.range (e * x.dies.length)).drop n).map p.slots.at_
      pools := (List.range x.dies.length).map fun j => (o.poolBase + j, x.dies.getD j 0)
      spareWells := (List.range x.dies.length).map fun j =>
        (o.poolBase + j, (coresOfDie (x.dies.getD j 0)).filter fun ph => !held.contains ph && !s.failed ph)
      trees := p.trees
      tensors := p.tensors
      clock300 := s.slow
      retimed := p.retimed.map fun r => (r.1.cls, r.1.idx, r.1.waitc, r.2) }
  { r with digest := Config.digestOf (r.numbers x) }

/-! ### The check of a retimed schedule and the verdict on a load (R291, R292) -/

/-- The first core of a class, with its descriptors alone. -/
def classCore (o : FliupObject) (n : Nat) (p : LoadPlan) (k : Nat) : CoreSt :=
  let i := ((List.range n).find? fun i => objClass o n i == some k).getD 0
  { lcore := o.logBase + i, region := 0, phys := 0, desc := expandTable o k i n p.tensors
    twoPhase := match o.classes[k]? with | some c => c.twoPhase | none => 0 }

/-- Promise 3 over the straight runs of every class that hold a retimed field, as far as bundles and descriptors fix it. -/
def State.runsOk (s : State) (x : Region) (o : FliupObject) (n : Nat) (p : LoadPlan) : Bool :=
  (List.range o.classes.length).all fun k =>
    let mine := p.retimed.filter fun r => r.1.cls == k
    mine.isEmpty || imageUnitsOk { cycle := 0, module := s.kol.module, region := x } (classCore o n p k)
      (retimeImage ((o.classes[k]?.map CoreClass.image).getD []) k p.retimed) (mine.map fun r => r.1.idx)

/-- The check of R291: promise 3 where the encodings fix it, and for the rest, which rests on counters, VL, ring pointers and
moved descriptors, a free verdict (DESIGN CHOICE, log 21). An object without annotations has nothing to check. -/
def State.retimeChecked (s : State) (x : Region) (o : FliupObject) (n : Nat) (p : LoadPlan) : Bool :=
  o.annotations.isEmpty || (s.runsOk x o n p && Config.retimeVerdict x.digest (s.planPlacement x o n p).digest)

/-- A load checked: the lowest reason of refusal, or its plan (R292). -/
def State.checkLoad (s : State) (x : Region) (a : LoadArgs) : Except Nat LoadPlan :=
  let placed := s.placeTensors a.object.tensors a.floating (s.occupied (some x.num))
  match least (s.loadReasons x a ++ planReasons x a placed) with
  | some r => .error r
  | none =>
    let p := s.loadPlan x a placed.1
    if p.retimed.any fun r => !retimeOk r.1 r.2 then .error 0x0E
    else if !s.retimeChecked { x with digest := a.digest } a.object a.n p then .error 0x0F
    else .ok p

/-! ### What a load clears and moves (R301) -/

/-- A range of a memory moved onto another: the cells of the source at the destination's keys. -/
def Mem.moved (old : Mem) (src dst n : Nat) : List (Nat × Byte) :=
  (old.filter fun c => src ≤ c.1 && c.1 < src + n).map fun c => (c.1 - src + dst, c.2)

/-- Ranges moved at once, as (source, destination). -/
def Mem.moveAll (old : Mem) (n : Nat) (ms : List (Nat × Nat)) : Mem :=
  (ms.foldl (fun m x => Mem.zero m x.2 n) old).writeCells (ms.flatMap fun x => old.moved x.1 x.2 n)

/-- Contents of wells and pools after a load: zeroed, or kept by logical core and pool number. -/
def State.settleNear (s : State) (x : Region) (keep : Bool) (p : Placement) : State :=
  if keep then
    let wells := (p.bindings.filterMap fun b =>
      (x.place.bindings.find? fun (a : Binding) => a.lcore == b.lcore && a.phys != b.phys).map fun a =>
        (wellKey a.phys 0, wellKey b.phys 0))
    let pools := (p.pools.filterMap fun b =>
      (x.place.pools.find? fun (a : Nat × Nat) => a.1 == b.1 && a.2 != b.2).map fun a => (poolKey a.2 0, poolKey b.2 0))
    { s with mem := { s.mem with wells := s.mem.wells.moveAll (2 ^ 30) wells, pools := s.mem.pools.moveAll (2 ^ 33) pools } }
  else
    { s with mem := { s.mem with
        wells := x.dies.foldl (fun m d => Mem.zero m (wellKey (26 * d) 0) (26 * 2 ^ 30)) s.mem.wells
        pools := x.dies.foldl (fun m d => Mem.zero m (poolKey d 0) (2 ^ 33)) s.mem.pools } }

/-- The bytes of a range of a stack zeroed. -/
def State.zeroStack (s : State) (g : GA) (n : Nat) : State :=
  { s with mem := { s.mem with stackMem := Mem.zero s.mem.stackMem (stackKey (bits g 44 40) (bits g 37 0)) n } }

/-- Stack tensors zeroed, but under keep-near those that the region held already. -/
def State.settleTensors (s : State) (x : Region) (keep : Bool) (ts : List (GA × Nat)) : State :=
  ts.foldl (fun s t => if keep && x.tensors.contains t then s else s.zeroStack t.1 t.2) s

/-- Buffered writes of a region's cores dropped, reported as not applied (R338). -/
def State.dropBuffered (s : State) (r : Nat) : State :=
  (s.coresOf r).foldl
    (fun s c => c.cfg.foldl (fun s e => s.ticketMark e.ticket c.lcore none) s) s

/-- The policies of a region with an object's settings over the defaults (R85, R346). -/
def objPolicies (z : ObjSettings) : List Nat :=
  z.policies.foldl
    (fun l p => match fcodeOf p.1 with
      | some c => updAt l (c.num / 16 - 1) fun v => setPolicyField v c p.2
      | none => l)
    (noRegion 0).policies

/-- A region after a load was accepted (R285, R301, R366). -/
def loadedRegion (x : Region) (a : LoadArgs) (loadSeq : Nat) (p : LoadPlan) (place : Placement) : Region :=
  let o := a.object
  let z := o.settings
  let trap := a.policy.getD z.trap
  { num := x.num, x0 := x.x0, y0 := x.y0, x1 := x.x1, y1 := x.y1, phase := x.phase, waiter := x.waiter
    loaded := true
    obj := some o
    logBase := o.logBase
    n := a.n
    poolBase := o.poolBase
    digest := a.digest
    record := recordWord trap
    trap := trap
    base := loadSeq * 2 ^ 32
    seed := a.seed % 2 ^ 64
    loadSeq := loadSeq
    sbLimit := z.sbHoldLimit.getD (noRegion 0).sbLimit
    waitLimit := z.waitLimit.getD (noRegion 0).waitLimit
    annLimit := z.announceLimit.getD (noRegion 0).annLimit
    solderLead := z.solderLead.getD (noRegion 0).solderLead
    paceP := z.paceP
    paceI := z.paceI
    policies := objPolicies z
    groups := p.groups
    chainMode := p.trees.map Option.isNone
    solderSteps := z.solderSteps
    place := place
    tensors := p.tensors.zip (o.tensors.map fun t => t.size) }

/-- The run record that a load opens (R281). -/
def openRecord (x : Region) (clock300 : Bool) : RunRec :=
  { region := x.num, loadSeq := x.loadSeq, object := x.digest, record := x.record, n := x.n
    modules := (match x.obj with | some o => o.modules | none => 1)
    seed := x.seed, base := x.base, t0 := 0, clock300 := clock300, placements := [(0, x.place.digest)]
    tensors := ((match x.obj with | some o => o.tensors | none => []).zip x.place.tensors).filterMap fun (t : TensorDecl × GA) =>
      if t.1.fixed.isNone then some t.2 else none
    paces := [(0, x.paceP, x.paceI)] }

/-- The cores of an expanded object put in place of a region's old ones, in logical order. -/
def putCores (cs new : List CoreSt) (r lo : Nat) : List CoreSt :=
  let others := cs.filter fun c => c.region != r
  (others.filter fun c => c.lcore < lo) ++ new ++ others.filter fun c => lo ≤ c.lcore

/-- A load carried out on a region (R280, R287, R301). -/
def State.applyLoad (s : State) (x : Region) (a : LoadArgs) (p : LoadPlan) : State :=
  let s := (s.dropBuffered x.num).endRun x.num .host
  let s := { s with fw := { s.fw with loadSeq := s.fw.loadSeq + 1 } }
  let place := s.planPlacement x a.object a.n p
  let y := loadedRegion x a s.fw.loadSeq p place
  let s := s.settleNear x a.keepNear place
  let s := s.settleTensors x a.keepNear y.tensors
  let new := (List.range a.n).filterMap fun i => (p.slots.at_ i).map fun ph =>
    expandCore x.num y.base a.object a.n p (a.choiceLog) i ph
  let s := { s with cores := putCores s.cores new x.num a.object.logBase }
  s.updRegion x.num fun _ => { y with runRec := some (openRecord y s.slow) }

/-! ### Re-placement at a Solder step (R295) -/

/-- A core moved to another physical core: it keeps everything. -/
def moveCore (slots : Taken) (logBase : Nat) (trees : List (Option (List (Nat × Nat)))) (c : CoreSt) : CoreSt :=
  match slots.at_ (c.lcore - logBase) with
  | some ph => { c with phys := ph, chain := trees.map Option.isNone }
  | none => c

/-- The retimed instruction memory of a core under a new plan (R290, R295). -/
def retimeCore (o : FliupObject) (n logBase : Nat) (p : LoadPlan) (c : CoreSt) : CoreSt :=
  let k := (objClass o n (c.lcore - logBase)).getD 0
  match o.classes[k]? with
  | some y =>
    let patch (m : Mem) (r : Annotation × Nat) : Mem :=
      let w := retimeBundle (bundleOfBytes (m.read (16 * r.1.idx) 16)) r.1.waitc r.2
      if r.1.cls = k ∧ r.1.idx < y.image.length then m.write (16 * r.1.idx) (leBytes 16 w.toNat) else m
    { c with imem := p.retimed.foldl patch c.imem }
  | none => c

/-- Re-placement of a region before run step k: R294 on the present measures; a plan that R290 or R291 refuses is
abandoned, with an event. -/
def State.replaceRegion (s : State) (r k : Nat) : State :=
  match s.region? r with
  | none => s
  | some x =>
    match x.obj with
    | none => s
    | some o =>
      let a : LoadArgs := { region := r, ga := 0, length := 0, digest := x.digest, n := x.n, object := o }
      let p := s.loadPlan x a x.place.tensors
      if ((List.range x.n).any fun i => (p.slots.at_ i).isNone) || (p.retimed.any fun y => !retimeOk y.1 y.2) || !s.retimeChecked x o x.n p then
        s.notify .regionState [.num r, .phase x.phase, .phase x.phase, .num 0, .num 0x0F]
      else
        let place := s.planPlacement x o x.n p
        if place.bindings == x.place.bindings && place.idleSlots == x.place.idleSlots then s
        else
          let s := s.settleNear x true place
          let s := s.updCoresOf r fun c => retimeCore o x.n x.logBase p (moveCore p.slots x.logBase p.trees c)
          s.updRegion r fun x => { x with
            place := place, chainMode := p.trees.map Option.isNone
            runRec := x.runRec.map fun q => { q with placements := q.placements ++ [(k, place.digest)] } }

end Sys2Proof.Machine
end

