-- ==== Sys2Proof/Machine/Regions.lean ====
section
/-! DEFINITION. Commands on regions and what follows them: transitions (R299 to R303), the Solder barrier (R261 to R263), pace
pauses (R276), replay stops (R283), and parking units (R242). A command answers with the state, its status (R309) and the
payload of its reply. -/

namespace Sys2Proof.Machine

/-- Who sends a command: session, sequence, and whether the session is privileged. -/
structure Who where
  session : Nat
  seq : Nat
  priv : Bool
deriving DecidableEq, Repr

/-- The answer of a command. -/
abbrev Answer := State × Status × List Item

/-- A refusal: the state unchanged. -/
def State.refuse (s : State) (st : Status) : Answer := (s, st, [])

/-- A region in a transient state, committed to start included (R300). -/
def Region.busy (x : Region) : Bool :=
  x.committed || (match x.phase with
    | .defining | .loading | .stopping | .parking | .repairing => true
    | .parked | .idle | .running => false)

/-- The module is in READY or ACTIVE with no transition in progress. -/
def State.powered (s : State) : Bool := s.pwr.moving.isNone && (s.pwr.state == .ready || s.pwr.state == .active)

/-- A command's completion is owed by a region's transition. -/
def State.awaiting (s : State) (r : Nat) (w : Who) (code : Nat) : State :=
  s.updRegion r fun x => { x with waiter := some (w.session, w.seq, code) }

/-- The completion that a region's transition owes, sent. -/
def State.settleWaiter (s : State) (r : Nat) (st : Status) (items : List Item) : State :=
  match (s.region? r).bind fun x => x.waiter with
  | some w => (s.updRegion r fun x => { x with waiter := none }).done w.1 w.2.1 w.2.2 st items
  | none => s

/-- A command on one region: NOT_FOUND when it is not defined, BUSY_TRANSITION when it is in transition (R300). -/
def State.onRegion (s : State) (r : Nat) (f : Region → Answer) : Answer :=
  if 8 ≤ r then s.refuse .badArgument
  else match s.region? r with
    | none => s.refuse .notFound
    | some x => if x.busy then s.refuse .busyTransition else f x

/-! ### LOAD (R292, R299, R301) -/

/-- Whether a range lies in one host allocation (R316). -/
def State.inAlloc (s : State) (g : GA) (n : Nat) : Bool :=
  s.host.allocs.any fun a => a.ga ≤ g && g + n ≤ a.ga + a.size

/-- LOAD (DEDUCED, log 72). -/
def State.cmdLoad (s : State) (w : Who) (a : LoadArgs) : Answer :=
  if 8 ≤ a.region then s.refuse .badArgument
  else match s.region? a.region with
    | none => s.refuse (.loadRefused 0x10)
    | some x =>
      if x.phase == .running then s.refuse (.loadRefused 0x10)
      else if x.busy then s.refuse .busyTransition
      else if !s.inAlloc a.ga a.length then s.refuse .notFound
      else match s.checkLoad x a with
        | .error r => s.refuse (.loadRefused r)
        | .ok p =>
          let s := (s.applyLoad x a p).awaiting x.num w 0x0200
          let s := s.updRegion x.num fun x => { x with pendingLoad := some a }
          (s.setPhase x.num .loading 0, .accepted, [])

/-- LOAD_COMPLETE (R299): the region enters IDLE; COMMAND_DONE carries its step base and placement digest. -/
def execLoadComplete (region : Nat) (s : State) : Res :=
  match s.region? region with
  | none => .next s
  | some x =>
    if x.phase != .loading then .next s
    else
      let s := (s.updRegion region fun x => { x with pendingLoad := none }).setPhase region .idle 0
      .next (s.settleWaiter region .ok [.num x.base, .num x.place.digest])

/-! ### START, RESUME, SOLDER_STEP (R261, R263, R299) -/

/-- The regions of a list command: none when the list is empty, names one twice or names no region. -/
def State.regionList (s : State) (rs : List Nat) : Except Status (List Region) :=
  if rs.isEmpty || decide (¬ rs.Nodup) || rs.any (fun r => 8 ≤ r) then .error .badArgument
  else
    let xs := rs.filterMap s.region?
    if xs.length < rs.length then .error .notFound else .ok xs

/-- Regions committed to a barrier, and their arrival where they stand ready. -/
def State.commitTo (s : State) (rs : List Nat) (step : Nat) (resume replace : Bool) (w : Who)
    (code : Nat) : State :=
  let s := rs.foldl (fun s r => s.updRegion r fun x => { x with committed := true }) s
  let (s, seq) := s.openBarrier rs step resume replace 0 s.time.cycle [(w.session, w.seq, code)]
  s.arriveRegion seq

/-- START. -/
def State.cmdStart (s : State) (w : Who) (rs : List Nat) : Answer :=
  match s.regionList rs with
  | .error e => s.refuse e
  | .ok xs =>
    if xs.any Region.busy then s.refuse .busyTransition
    else if s.pwr.state != .active || s.pwr.moving.isSome then s.refuse .state
    else if xs.any fun x => x.phase != .idle || !x.loaded || x.ran || x.spoiled then s.refuse .state
    else (s.commitTo rs 0 false false w 0x0201, .accepted, [])

/-- The run step before whose marker a resumable region stands. -/
def State.resumeStep (s : State) (x : Region) : Nat :=
  match (s.coresOf x.num).head? with
  | some c => c.step + 1 - x.base
  | none => 0

/-- RESUME: the regions stand before one step marker each, all of the same run step. -/
def State.cmdResume (s : State) (w : Who) (rs : List Nat) : Answer :=
  match s.regionList rs with
  | .error e => s.refuse e
  | .ok xs =>
    let k := match xs.head? with | some x => s.resumeStep x | none => 0
    if xs.any Region.busy then s.refuse .busyTransition
    else if s.pwr.state != .active || s.pwr.moving.isSome then s.refuse .state
    else if xs.any fun x => x.phase != .idle || !s.resumable x || s.resumeStep x != k then s.refuse .state
    else (s.commitTo rs k true false w 0x0202, .accepted, [])

/-- Whether some core of a region has reached run step k. -/
def State.passed (s : State) (x : Region) (k : Nat) : Bool :=
  (s.coresOf x.num).any fun c => c.begun && decide (x.base + k ≤ c.step)

/-- A region taken to the marker of run step k for a barrier: a RUNNING one drains to it, an IDLE one stores its slip counts
where it stands (R263, R277). -/
def State.toMarker (s : State) (x : Region) (k seq : Nat) : State :=
  let s := if x.phase == .running then
      (s.updCoresOf x.num fun c => { c with stopBefore := optMin c.stopBefore (x.base + k) }).toStopping x.num
        .stopStep (.solder seq) 0
    else s.storeSlips x.num
  s.updRegion x.num fun x => { x with committed := true }

/-- SOLDER_STEP: running regions drain to the marker of run step k; a region that is IDLE arrives where it stands at it
(DEDUCED, log 38). -/
def State.cmdSolderStep (s : State) (w : Who) (rs : List Nat) (k : Nat) (replace : Bool) : Answer :=
  match s.regionList rs with
  | .error e => s.refuse e
  | .ok xs =>
    if k = 0 then s.refuse .badArgument
    else if xs.any Region.busy then s.refuse .busyTransition
    else if xs.any fun x => !((x.phase == .running || x.phase == .idle) && x.loaded) || s.passed x k then s.refuse .state
    else
      let (s, seq) := s.openBarrier rs k true replace 0 s.time.cycle [(w.session, w.seq, 0x0204)]
      ((xs.foldl (fun s x => s.toMarker x k seq) s).arriveRegion seq, .accepted, [])

/-! ### STOP, REPLAY_STOP (R283, R299) -/

/-- The highest Invar step that a core of a region has begun. -/
def State.topStep (s : State) (x : Region) : Nat :=
  ((s.coresOf x.num).filter fun c => c.begun).foldl (fun k c => max k c.step) x.base

/-- STOP. -/
def State.cmdStop (s : State) (w : Who) (r : Nat) (form : StopForm) : Answer :=
  s.onRegion r fun x =>
    if x.phase != .running then s.refuse .state
    else
      let s' := s.awaiting r w 0x0203
      match form with
      | .step => (s'.stopRegionStep r (s.topStep x) .stopStep .command 0, .accepted, [])
      | .now => (s'.stopRegionNow r (fun _ => true) s.time.cycle s.time.cycle .stop .command 0, .accepted, [])

/-- REPLAY_STOP. -/
def State.cmdReplayStop (s : State) (r : Nat) (form : ReplayForm) : Answer :=
  s.onRegion r fun x =>
    if !x.loaded then s.refuse .state
    else if (match form with
      | .step _ => false
      | .bundle _ c i o => (s.core? c).isNone || 16384 ≤ i || o = 0) then s.refuse .badArgument
    else ((s.updRegion r fun x => { x with replayStop := some form }).rearm r, .ok, [])

/-! ### DEFINE, UNDEFINE, PARK, REPAIR (R299, R302, R303) -/

/-- Two rectangles share a die. -/
def rectsMeet (x y : Region) : Bool := x.x0 ≤ y.x1 && y.x0 ≤ x.x1 && x.y0 ≤ y.y1 && y.y0 ≤ x.y1

/-- DEFINE: the number, then the rectangle, then the dies of other regions (DEDUCED, log 42). -/
def State.cmdDefine (s : State) (w : Who) (r x0 y0 x1 y1 : Nat) : Answer :=
  if 8 ≤ r then s.refuse .badArgument
  else if !s.powered then s.refuse .state
  else match s.region? r with
    | some x => s.refuse (if x.busy then .busyTransition else .state)
    | none =>
      if x1 < x0 || y1 < y0 || 8 ≤ x1 || 6 ≤ y1 then s.refuse .badArgument
      else
        let x : Region := { num := r, x0 := x0, y0 := y0, x1 := x1, y1 := y1, phase := .parked }
        if s.regions.any (rectsMeet x) then s.refuse .state
        else
          let s := { s with regions := s.regions ++ [x] }
          ((s.awaiting r w 0x0300).setPhase r .defining 0, .accepted, [])

/-- UNDEFINE. -/
def State.cmdUndefine (s : State) (w : Who) (r : Nat) : Answer :=
  s.onRegion r fun x =>
    if x.phase != .parked then s.refuse .state
    else
      let s := s.updRegion r fun x => { x with undefining := true }
      ((s.awaiting r w 0x0301).setPhase r .defining 0, .accepted, [])

/-- PARK: the combiners flush in the cycles that follow, and the run record closes (R281, R302). -/
def State.cmdPark (s : State) (w : Who) (r : Nat) (release : Bool) : Answer :=
  s.onRegion r fun x =>
    if x.phase != .idle then s.refuse .state
    else
      let s := (s.updCoresOf r fun c => c.flushIf fun _ => true).endRun r .host
      let s := s.updRegion r fun x => { x with release := release }
      ((s.awaiting r w 0x0302).setPhase r .parking 0, .accepted, [])

/-- The physical core that a logical core number names in a region's last placement: bound to it, or in the idle slot of that
position; in a region that was never placed the number counts its physical cores (R294, R303; DESIGN CHOICE, log 94). -/
def Region.physOf (x : Region) (l : Nat) : Option Nat :=
  match x.place.bindings.find? fun b => b.lcore == l with
  | some b => some b.phys
  | none =>
    if x.place.bindings.isEmpty then x.cores[l]?
    else match x.place.bindings.head? with
      | some b => if b.lcore + x.place.bindings.length ≤ l then
          (x.place.idleSlots[l - b.lcore - x.place.bindings.length]?).join else none
      | none => none

/-- The N-die that a region's last placement gave a pool number; in a region that was never placed the number counts its
dies. -/
def Region.poolDie (x : Region) (p : Nat) : Option Nat :=
  if x.place.pools.isEmpty then x.dies[p]? else (x.place.pools.find? fun b => b.1 == p).map fun b => b.2

/-- Spare well k of a pool in a region's last placement (R223). -/
def Region.spareAt (x : Region) (p k : Nat) : Option Nat :=
  (x.place.spareWells.find? fun w => w.1 == p).bind fun w => w.2[k]?

/-- Whether a RUNNING region holds an allocation in a stack. -/
def State.stackInUse (s : State) (st : Nat) : Bool :=
  s.regions.any fun x => x.phase == .running && x.tensors.any fun t => bits t.1 44 40 == st

/-- The status that refuses a repair action, if any. -/
def State.repairBad (s : State) (x : Region) (act : RepairAct) (force : Bool) : Option Status :=
  match act with
  | .coreSwap l => if (x.physOf l).isSome then none else some .notFound
  | .wellRow l seg => if 16 ≤ seg then some .badArgument else if (x.physOf l).isSome then none else some .notFound
  | .poolRow p seg => if 144 ≤ seg then some .badArgument else if (x.poolDie p).isSome then none else some .notFound
  | .stackChannel st ch =>
    if 20 ≤ st || 32 ≤ ch then some .badArgument
    else if s.mem.spareUsed.contains st || (s.stackInUse st && !force) then some .state
    else none

/-- REPAIR: a stack channel parks for the whole module meanwhile. -/
def State.cmdRepair (s : State) (w : Who) (r : Nat) (act : RepairAct) (force : Bool) : Answer :=
  s.onRegion r fun x =>
    if x.phase != .parked then s.refuse .state
    else match s.repairBad x act force with
      | some e => s.refuse e
      | none =>
        let s : State := match act with
          | .stackChannel st ch => { s with mem := { s.mem with parked := s.mem.parked ++
              [{ place := .channel st ch, unit := .channel st ch, phase := .pending (some (nextTurn s.time.cycle)) }] } }
          | _ => s
        let s := s.updRegion r fun x => { x with repairing := some act }
        ((s.awaiting r w 0x0303).setPhase r .repairing 0, .accepted, [])

/-- The clock runs until nothing waits for the banks of a region's cores, at most n cycles. -/
def State.drainBanks (n : Nat) (r : Nat) (s : State) : State :=
  match n with
  | 0 => s
  | k + 1 =>
    if (s.coresOf r).all fun c => c.combIdle && c.landing.isEmpty then s else State.drainBanks k r s.cc

/-- PARK ends: cores and prep cores lose power and their state; under release the tensors are freed (R302). -/
def State.finishPark (s : State) (x : Region) : State :=
  let s := ((s.dropBuffered x.num).resetPrep x).loseReads fun c => c.region == x.num
  let s := if x.release then x.tensors.foldl (fun s t => s.zeroStack t.1 t.2) s else s
  let s := { s with cores := s.cores.filter fun c => c.region != x.num }
  let s := s.updRegion x.num fun x => { x with
    loaded := false, ran := false, spoiled := false, obj := none, groups := [], chainMode := [], release := false
    solderSteps := [], replayStop := none, pauseFor := none, goal := .command
    tensors := if x.release then [] else x.tensors }
  s.setPhase x.num .parked 0

/-- UNDEFINE ends (R302). -/
def State.finishUndefine (s : State) (x : Region) : State :=
  let s := x.tensors.foldl (fun s t => s.zeroStack t.1 t.2) s
  let s := s.settleWaiter x.num .ok []
  let s := s.notify .regionState [.num x.num, .phase x.phase, .flag false, .num 0]
  { s with regions := s.regions.filter fun y => y.num != x.num }

/-- The spare rows of a bank (R303). -/
def spareRows : Nat := 32

/-- The key of a bank of an N-die. -/
def bankKey (die bank : Nat) : Nat := die * 2 ^ 20 + bank % 2 ^ 20

/-- Rows replaced on an N-die, each as bank and row, while its bank has spares: the rows, and the spares used. -/
def replaceRows (die : Nat) (used : List (Nat × Nat)) (rows : List (Nat × Nat)) : List (Nat × Nat) × List (Nat × Nat) :=
  rows.foldl
    (fun (a : List (Nat × Nat) × List (Nat × Nat)) r =>
      if countOf a.2 (bankKey die r.1) < spareRows then (a.1 ++ [r], bump a.2 (bankKey die r.1) 1) else a)
    ([], used)

/-- Granules written as zeros, from a key upward (R244). -/
def zeroGranules (m : Mem) (base : Nat) (gs : List Nat) : Mem := gs.foldl (fun m g => Mem.zero m (base + 64 * g) 64) m

/-- A well or row repair of a segment (R244, R303): `well` names the physical core and segment of a well, none a pool segment
whose bytes begin at `base`. The report lists the rows replaced, each as bank, row and the spares that remain in its bank,
then the granules zeroed. -/
def State.repairRows (s : State) (die base : Nat) (well : Option (Nat × Nat)) (rows : List (Nat × Nat)) (zeroed : List Nat) :
    State × List Item :=
  let (done, used) := replaceRows die s.mem.rowsUsed rows
  ({ s with mem := { s.mem with
      rowsUsed := used
      eccWell := match well with | some w => clearCount s.mem.eccWell (16 * w.1 + w.2) | none => s.mem.eccWell
      wells := if well.isSome then zeroGranules s.mem.wells base zeroed else s.mem.wells
      pools := if well.isSome then s.mem.pools else zeroGranules s.mem.pools base zeroed } },
   (done.flatMap fun r => [.num r.1, .num r.2, .num (spareRows - countOf used (bankKey die r.1))])
     ++ .num zeroed.length :: zeroed.map Item.num)

/-- A physical core put into the defect map (R293). -/
def State.markFailed (s : State) (ph : Nat) : State :=
  { s with mem := { s.mem with defects := if s.mem.defects.contains ph then s.mem.defects else s.mem.defects ++ [ph] } }

/-- The well of a repair action, as physical core and segment. -/
def Region.repairWell (x : Region) (act : RepairAct) : Option (Nat × Nat) :=
  match act with
  | .coreSwap l => (x.physOf l).map fun ph => (ph, 0)
  | .wellRow l seg => (x.physOf l).map fun ph => (ph, seg)
  | .poolRow p seg => if seg < 96 then none else (x.spareAt p ((seg - 96) / 16)).map fun ph => (ph, (seg - 96) % 16)
  | .stackChannel .. => none

/-- The spare cores that a region keeps: those that are not failed, above its capacity (R298). -/
def State.sparesLeft (s : State) (x : Region) : Nat :=
  (x.cores.filter fun ph => !s.failed ph).length - s.perDie * x.dies.length

/-- What a repair does, and its report (R303): a core swap marks the core, a channel takes its stack's spare. -/
def State.repairDone (s : State) (x : Region) (act : RepairAct) (rows : List (Nat × Nat)) (zeroed : List Nat) :
    State × List Item :=
  match act, x.repairWell act with
  | .coreSwap _, some w => let s := s.markFailed w.1; (s, [.num w.1, .num (s.sparesLeft x)])
  | .stackChannel st ch, _ =>
    ({ s with mem := { s.mem with
        spareUsed := s.mem.spareUsed ++ [st]
        stackMem := zeroGranules s.mem.stackMem (stackKey st 0) zeroed } },
     [.num st, .num ch] ++ .num zeroed.length :: zeroed.map Item.num ++ [.num 0])
  | _, some w => s.repairRows (dieOf w.1) (wellKey w.1 (w.2 * 2 ^ 26)) (some w) rows zeroed
  | .poolRow p seg, none => match x.poolDie p with
    | some d => s.repairRows d (poolKey d (seg * 2 ^ 26)) none rows zeroed
    | none => (s, [])
  | _, none => (s, [])

/-- REPAIR ends: `rows` were replaced and the granules `zeroed` of the unit could not be read (R244, R303). A repair that
failed (no `rows`) marks its core (R293), changes nothing else, and completes with STATE (DESIGN CHOICE, log 93). -/
def State.finishRepair (s : State) (x : Region) (rows : Option (List (Nat × Nat))) (zeroed : List Nat) : State :=
  let (s, items) : State × List Item := match x.repairing with
    | none => (s, [])
    | some act =>
      match rows with
      | none => (match x.repairWell act with | some w => s.markFailed w.1 | none => s, [])
      | some rows => s.repairDone x act rows zeroed
  let s := match x.repairing with
    | some (.stackChannel st ch) => { s with mem := { s.mem with
        parked := s.mem.parked.filter fun (e : ParkEntry) => !(e.place == ParkPlace.channel st ch && e.session == 0) } }
    | _ => s
  let s := (s.updRegion x.num fun x => { x with repairing := none }).setPhase x.num .parked 0
  s.settleWaiter x.num (if rows.isNone then .state else .ok) items

/-- REGION_TRANSITION_DONE (R299, R302, R303). -/
def execRegionTransitionDone (region : Nat) (rows : Option (List (Nat × Nat))) (zeroed : List Nat) (s : State) : Res :=
  match s.region? region with
  | none => .next s
  | some x => match x.phase with
    | .defining =>
      if x.undefining then .next (s.finishUndefine x)
      else .next ((s.setPhase region .parked 0).settleWaiter region .ok [])
    | .parking => .next (((s.drainBanks 65536 region).finishPark x).settleWaiter region .ok [])
    | .repairing => .next (s.finishRepair x rows zeroed)
    | _ => .next s

/-- REGION_STATUS: state, object digest, N, the run step of each core's last marker, the step base. -/
def State.cmdRegionStatus (s : State) (r : Nat) : Answer :=
  if 8 ≤ r then s.refuse .badArgument
  else match s.region? r with
    | none => s.refuse .notFound
    | some x =>
      let steps := (s.coresOf r).map fun c => Item.num (if c.begun then c.step - x.base else 2 ^ 64 - 1)
      (s, .ok, [.phase x.phase, .num x.digest, .num x.n, .num x.base] ++ steps)

/-! ### PARK_UNIT (R242) -/

/-- The physical place of a unit, with the core whose step boundary it waits for; the status that refuses it otherwise. -/
def State.unitPlace (s : State) (u : ParkUnit) : Except Status (ParkPlace × Option Nat) :=
  match u with
  | .well l seg =>
    if 16 ≤ seg then .error .badArgument
    else match s.core? l with
      | none => .error .notFound
      | some c => .ok (.well c.phys seg, some l)
  | .pool p seg =>
    if 144 ≤ seg then .error .badArgument
    else match s.poolBind p with
      | none => .error .notFound
      | some (d, spares) =>
        let watch := ((s.cores.filter fun c => dieOf c.phys == d).map fun c => c.lcore)
        if seg < 96 then .ok (.pool d seg, least watch)
        else match spares[(seg - 96) / 16]? with
          | some ph => .ok (.well ph ((seg - 96) % 16), least watch)
          | none => .error .notFound
  | .channel st ch => if 20 ≤ st ∨ 32 ≤ ch then .error .badArgument else .ok (.channel st ch, none)

/-- PARK_UNIT: park an open unit, or reopen a parked one. -/
def State.cmdParkUnit (s : State) (w : Who) (u : ParkUnit) (park : Bool) : Answer :=
  if !s.powered then s.refuse .state
  else match s.unitPlace u with
    | .error e => s.refuse e
    | .ok (pl, watch) =>
      let p := if s.stepsOn u watch then none else some (nextTurn s.time.cycle)
      let old := s.mem.parked.find? fun e => e.place == pl
      match old, park with
      | none, false => s.refuse .state
      | none, true =>
        ({ s with mem := { s.mem with parked := s.mem.parked ++
            [{ place := pl, unit := u, phase := .pending p, watch := watch, since := s.time.cycle
               session := w.session, seq := w.seq }] } }, .accepted, [])
      | some e, park =>
        if e.phase != .parked then s.refuse .busyTransition
        else if park then s.refuse .state
        else
          ({ s with mem := { s.mem with parked := s.mem.parked.map fun y =>
              if y.place == pl then
                { y with unit := u, phase := .reopening p, watch := watch, since := s.time.cycle
                         session := w.session, seq := w.seq }
              else y } }, .accepted, [])

/-! ### The Solder barrier (R261 to R263) -/

/-- A barrier of a sequence number. -/
def State.barrier? (s : State) (seq : Nat) : Option Barrier := s.fab.barriers.find? fun b => b.seq == seq

/-- A barrier changed. -/
def State.updBarrier (s : State) (seq : Nat) (f : Barrier → Barrier) : State :=
  { s with fab := { s.fab with barriers := s.fab.barriers.map fun b => if b.seq == seq then f b else b } }

/-- A barrier removed. -/
def State.dropBarrier (s : State) (seq : Nat) : State :=
  { s with fab := { s.fab with barriers := s.fab.barriers.filter fun b => b.seq != seq } }

/-- A member's report (R261): one that confirms is counted. -/
def State.solderArrived (s : State) (seq module : Nat) (confirms : Bool) (ready : Nat) : State :=
  s.updBarrier seq fun b =>
    if b.phase == .arrival && confirms && b.members.contains module && !b.arrivals.any (fun a => a.1 == module) then
      { b with arrivals := b.arrivals ++ [(module, ready)] }
    else b

/-- SOLDER_ARRIVAL (R261). -/
def execSolderArrival (seq module : Nat) (confirms : Bool) (ready : Nat) (s : State) : Res :=
  .next (s.solderArrived seq module confirms ready)

/-- The largest SOLDER_LEAD of a barrier's regions. -/
def State.leadOf (s : State) (b : Barrier) : Nat :=
  (b.regions.filterMap s.region?).foldl (fun m x => max m x.solderLead) 65536

/-- The first multiple of 65,536 from a cycle on. -/
def turnFrom (t : Nat) : Nat := (t + 65535) / 65536 * 65536

/-- The members of a barrier whose arrival is missing (R249, R261). -/
def Barrier.notArrived (b : Barrier) : List Nat := b.members.filter fun m => !(b.arrivals.any fun a => a.1 == m)

/-- The members of a barrier whose confirmation is missing. -/
def Barrier.notConfirmed (b : Barrier) : List Nat := b.members.filter fun m => !b.confirms.contains m

/-- The failure of a barrier (R262): its regions stay IDLE or drain to it, and every RUNNING region stops
(DEDUCED, log 47). -/
def State.failBarrier (s : State) (b : Barrier) (missing : List Nat) (phase : Nat) : State :=
  let s := s.dropBarrier b.seq
  let s := b.regions.foldl
    (fun s r => s.updRegion r fun x => { x with
      committed := false, goal := if x.goal == .solder b.seq then .fault else x.goal }) s
  let s := b.regions.foldl
    (fun s r => match s.region? r with
      | some x => if x.phase == .idle && x.ran && !s.resumable x then s.endRun r .stopStep else s
      | none => s) s
  let s := s.raiseModule .barrierTimeout (barrierDetail b.seq missing phase)
  if b.phase == .started then s
  else b.clients.foldl (fun s c => s.done c.1 c.2.1 c.2.2 .state []) s

/-- The first multiple of 65,536 cc at least SOLDER_LEAD after the latest ready cycle, or I after it for a pace pause (R261,
R276), and not before `floor`. -/
def State.turnOf (s : State) (b : Barrier) (floor : Nat) : Nat :=
  turnFrom (max (b.arrivals.foldl (fun m a => max m a.2) 0 + if b.pace = 0 then s.leadOf b else b.pace) (max b.floor floor))

/-- The re-placement that a barrier commits (R295), and the cycle in which its moves end: 1 GiB at 256 B/cc where a binding
changed. -/
def State.replaceFor (s : State) (b : Barrier) : State × Nat :=
  if !b.replace then (s, 0)
  else
    let place (s : State) : List Placement := (b.regions.filterMap s.region?).map fun x => x.place
    let t := b.regions.foldl (fun s r => s.replaceRegion r b.step) s
    (t, if place t == place s then 0 else s.time.cycle + 2 ^ 22)

/-- A barrier committed to T; one whose T has passed fails (R262). The master floods its T. -/
def State.commitAt (s : State) (b : Barrier) (t : Nat) : State :=
  if t < s.time.cycle then s.failBarrier b [s.kol.module] 1
  else
    let s := s.updBarrier b.seq fun b => { b with phase := .commit, t := some t }
    if s.leads b.members && 1 < b.members.length then
      s.flood 0x06 { dst := 0, src := 0, body := some (.solderCommit b.seq t) } []
    else s

/-- The commit of a barrier (R261, R262, R306): with every arrival in, the leading module sets T; a member takes the T that
reaches it. A re-placement is done first (R295). -/
def State.solderCommitted (s : State) (seq : Nat) (t : Option Nat) : State :=
  match s.barrier? seq with
  | none => s
  | some b =>
    if b.phase != .arrival || s.fw.mgmtDown then s
    else if s.leads b.members then
      if b.notArrived.isEmpty then
        let (s', moved) := s.replaceFor b
        s'.commitAt b (s.turnOf b moved)
      else s
    else match t with
      | some t => (s.replaceFor b).1.commitAt b t
      | none => s

/-- SOLDER_COMMIT. -/
def execSolderCommit (seq : Nat) (t : Option Nat) (s : State) : Res := .next (s.solderCommitted seq t)

/-- The request of the master at a member (R261, R263, R276): the regions that hold the objects it names are committed, under
the number of the request, and report when they stand ready. A barrier that the host has opened here is taken over
(DEDUCED, log 89). -/
def State.solderRequested (s : State) (seq step : Nat) (resume replace : Bool) (pace asked base : Nat) (members : List Nat)
    (want : List (Nat × Nat)) : State :=
  if seq ≤ s.fab.barrierSeq || !members.contains s.kol.module then s
  else
    let s := { s with fab := { s.fab with barrierSeq := seq } }
    let xs := want.filterMap fun w => s.regions.find? fun x => x.loaded && x.digest == w.1 && x.record == w.2
    let mine := xs.map fun x => x.num
    match s.fab.barriers.find? fun b => ownSeq ≤ b.seq && b.step == step && b.resume == resume && b.regions.all mine.contains with
    | some own =>
      let s := s.updBarrier own.seq fun b => { b with
        seq := seq, replace := replace, pace := pace, asked := max b.asked asked, base := some base, want := want
        members := members, opened := s.time.tick }
      let s := own.regions.foldl
        (fun s r => s.updRegion r fun x => { x with goal := if x.goal == .solder own.seq then .solder seq else x.goal }) s
      s.arriveRegion seq
    | none =>
      let b : Barrier :=
        { seq := seq, regions := mine, members := members, step := step, replace := replace, opened := s.time.tick
          phase := .arrival, arrivals := [], t := none, confirms := [], clients := [], resume := resume, pace := pace
          asked := asked, base := some base, want := want }
      let s := { s with fab := { s.fab with barriers := s.fab.barriers ++ [b] } }
      let s := xs.foldl
        (fun s x =>
          if x.busy || (x.phase != .idle && x.phase != .running) then s
          else if resume then s.toMarker x step seq
          else s.updRegion x.num fun x => { x with committed := true }) s
      s.arriveRegion seq

/-- Buffered START writes of a core apply (R317). -/
def CoreSt.takeStart (c : CoreSt) : CoreSt :=
  let due := c.cfg.filter fun e => e.target == .start
  due.foldl CoreSt.cfgWrite { c with cfg := c.cfg.filter fun e => e.target != .start }

/-- A region enters RUNNING in a cycle: its cores present their next bundles from then on; pauses and replay stops are set
(R261, R263, R276, R283). START writes apply at START and at RESUME (R338), where they are inputs of the run (R275). `base` is
the step base that a start takes from its barrier (R280), `at_` the run step before whose marker a resumed region stood. -/
def State.runRegion (s : State) (r t : Nat) (resume starts : Bool) (base : Option Nat) (at_ : Nat) : State :=
  let new (x : Region) : Nat := if resume then x.base else base.getD x.base
  let b := match s.region? r with | some x => new x | none => 0
  let s := if starts && resume then
      (s.coresOf r).foldl (fun s c => (c.cfg.filter fun e => e.target == .start).foldl
        (fun s e => s.noteInput r [e.off, e.value] at_) s) s
    else s
  let s := s.updCoresOf r fun c =>
    let c := if starts then c.takeStart else c
    let c := if resume then c else { c with step := b }
    { c with run := .running, nextIssue := t, presented := none, stopBefore := none, stopFrom := none }
  let s := s.updRegion r fun x => { x with
    committed := false, ran := true, goal := .command, stopKind := .host, pauseFor := none
    base := new x
    paused := if resume then at_ else 0
    t0 := if resume then x.t0 else t
    runRec := x.runRec.map fun q => if resume then q else { q with t0 := t, base := new x } }
  ((s.setPhase r .running 0).armPause r).armReplay r

/-- The start of a barrier's regions in its cycle T, to which the clock runs: every region that still stands ready starts,
and over several modules the confirmation goes out (R261). -/
def State.solderStarted (s : State) (b : Barrier) (t : Nat) : State :=
  let s := s.advanceTo t
  let starts := !b.resume || b.clients.any fun c => c.2.2 == 0x0202
  let s := b.regions.foldl
    (fun s r => match s.region? r with
      | some x => if x.phase == .idle && x.committed && x.loaded then s.runRegion r t b.resume starts b.base b.step else s
      | none => s) s
  let s := b.clients.foldl (fun s c => s.done c.1 c.2.1 c.2.2 .ok [.num t]) s
  if b.members.length ≤ 1 then s.dropBarrier b.seq
  else
    let own := s.kol.module
    (s.updBarrier b.seq fun b => { b with phase := .started, confirms := b.confirms ++ [own] }).flood 0x06
      { dst := 0, src := 0, body := some (.solderConfirm b.seq) } []

/-- SOLDER_T_START (R261, R262): the regions of a committed barrier start; a member that the commit has not reached by T fails
it. -/
def execSolderTStart (seq : Nat) (s : State) : Res :=
  match s.barrier? seq with
  | none => .next s
  | some b =>
    match b.phase, b.t with
    | .commit, some t => .next (s.solderStarted b t)
    | .arrival, _ => .next (if s.leads b.members then s else s.failBarrier b [s.kol.module] 1)
    | _, _ => .next s

/-- A start confirmation (R261): the last one ends the barrier. -/
def State.solderConfirmed (s : State) (seq module : Nat) : State :=
  let s := s.updBarrier seq fun b =>
    if b.members.contains module && !b.confirms.contains module then { b with confirms := b.confirms ++ [module] } else b
  match s.barrier? seq with
  | none => s
  | some b => if b.phase == .started && b.notConfirmed.isEmpty then s.dropBarrier seq else s

/-- SOLDER_CONFIRM. -/
def execSolderConfirm (seq module : Nat) (s : State) : Res := .next (s.solderConfirmed seq module)

/-- A setting that is in force (R322). -/
def State.setting (s : State) (k : Nat) : Nat := ((s.set.active.find? fun x => x.1 == k).map fun x => x.2).getD 0

/-- The Solder window in management ticks: key 0x0C in ms. -/
def State.solderWindow (s : State) : Nat := s.setting 0x0C

/-- BARRIER_TIMEOUT (R262): an arrival missing when the window closes, no commit by then, or a confirmation missing at T +
SOLDER_LEAD, to which the clock runs. -/
def execBarrierTimeout (seq now : Nat) (s : State) : Res :=
  let s := s.atTick now
  match s.barrier? seq with
  | none => .next s
  | some b =>
    match b.phase, b.t with
    | .arrival, _ => if b.opened + s.solderWindow ≤ s.time.tick then .next (s.failBarrier b b.notArrived 0) else .next s
    | .commit, _ => .next s
    | .started, some t =>
      let s := s.advanceTo (t + s.leadOf b)
      .next (s.failBarrier b b.notConfirmed 2)
    | .started, none => .next s

/-! ### Pace (R276) -/

/-- PACE_PAUSE: cores of the region stand before the marker of its next pause. -/
def execPacePause (region : Nat) (s : State) : Res :=
  match s.region? region with
  | none => .next s
  | some x => .next (if pauseReached (s.coresOf region) x then s.pacePause region else s)

/-- PACE_RESUME: the clock runs to the first multiple of 65,536 cc at least I cc after the last core stopped; deferred
while the management harts restart (R306). A set over several modules resumes by its barrier. -/
def execPaceResume (region : Nat) (s : State) : Res :=
  match s.region? region with
  | none => .next s
  | some x =>
    if x.phase != .idle || x.goal != .pace || !x.committed || s.fw.mgmtDown then .next s
    else
      let t := turnFrom (max (x.lastStop + x.paceI) s.time.cycle)
      .next ((s.advanceTo t).runRegion region t true false none (x.pauseFor.getD 0))

/-- PACE: the pace of a region. -/
def State.cmdPace (s : State) (r p i : Nat) : Answer :=
  if 8 ≤ r || !paceOk p i then s.refuse .badArgument
  else match s.region? r with
    | none => s.refuse .notFound
    | some _ => (s.setPace r p i, .ok, [])

end Sys2Proof.Machine
end

