-- ==== Sys2Proof/Machine/Kollek.lean ====
section
/-! DEFINITION. The Kollek domain: links and their health (R264, R393, R397 to R399), lost partners (R265), packets (R395,
R396), discovery, numbering and Invar alignment (R256, R361 to R363). -/

namespace Sys2Proof.Machine

/-- The state of a port. -/
def State.port (s : State) (p : Nat) : KPort := (s.kol.ports[p]?).getD {}

/-- An operation on a port that the part has. -/
def onPort (p : Nat) (f : State → State) (s : State) : Res :=
  if 16 ≤ p then .refused (.noSuchPort p) else .next (f s)

/-- A LINK event (R318): Ethernet or Kollek, port, up, 400 Gb/s, retries. -/
def State.linkEvent (s : State) (kollek : Bool) (p : Nat) (up : Bool) : State :=
  s.notify .link [.flag kollek, .num p, .flag up,
    .flag (!kollek && ((s.eth[p]?).getD {}).speed400), .num (if kollek then (s.port p).retryRC else 0)]

/-- The hops of the routes in use, kept for the members that a change of the links may cut off (R249 PARTNER_LOST)
(DEDUCED, log 48). -/
def State.noteRoutes (s : State) : State :=
  let note (l : List (Nat × Nat)) (x : Member) : List (Nat × Nat) :=
    match s.route x.num with
    | some (_, h) => (l.filter fun (p : Nat × Nat) => p.1 != x.num) ++ [(x.num, h)]
    | none => l
  { s with kol := { s.kol with lastHops := s.kol.members.foldl note s.kol.lastHops } }

/-- The port of order 1 of R258 to a module. -/
def firstPort (n d : Nat) : Nat := if n / 8 = d / 8 then localPort n d else globalPort n d

/-- The routes after a change in link health (R258, R264, R348): the members that no route reaches, each with the cycle since
which, and the ports that carry another member's traffic than the first order gives them. -/
def State.reroutes (s : State) : State :=
  let n := s.kol.module
  let cut := (s.kol.members.filter fun m => m.num != n && (s.route m.num).isNone).map fun m => m.num
  let used := (s.kol.members.filterMap fun m =>
    if m.num = n then none else match s.route m.num with
      | some (p, _) => if p = firstPort n m.num then none else some p
      | none => none)
  { s with kol := { s.kol with
      unreach := cut.map fun m => (m, ((s.kol.unreach.find? fun u => u.1 == m).map fun u => u.2).getD s.time.cycle)
      ports := (List.range s.kol.ports.length).zipWith (fun i (p : KPort) => { p with reroute := used.contains i }) s.kol.ports } }

/-- A change in a link's health, as it is known and flooded (R258; DESIGN CHOICE, log 11). -/
def State.noteLink (s : State) (m p : Nat) (up : Bool) : State :=
  let links := s.kol.links.filter fun l => l != (m, p) && !(portPartner m p == some l.1 && l.2 == p)
  { s with kol := { s.kol with links := if up then links ++ [(m, p)] else links } }.reroutes

/-- What a port that goes down has not got across goes on over the new routes in its order (R260); what is for the link or
flooded stays behind. -/
def State.resendFrom (s : State) (x : KPort) : State :=
  ((x.retry.map fun r => r.pkt) ++ x.queue).foldl
    (fun s k =>
      let unicast := (1 ≤ k.kind && k.kind ≤ 4) || (match k.hdr.body with | some m => !m.flooded | none => false)
      match (if unicast then s.route k.hdr.dst else none) with
      | some (p, _) => s.sendFlit p k.vl k.kind k.hdr k.data
      | none => s)
    s

/-- The numbers and the serials of the domain map, as a DOMAIN event shows them (R318). -/
def State.mapDigest (s : State) : Nat := Config.digestOf (s.kol.members.flatMap fun m => [m.num, m.serial])

/-- A DOMAIN event (R318): the module that is lost, or this one as it joins or is refused; the map's digest; the master. -/
def State.domainEvent (s : State) (m : Nat) (joined : Bool) : State :=
  s.notify .domain [.num m, .flag joined, .num s.mapDigest, .num s.kol.master]

/-- This module's identity, sent to the partner on a port (R361). -/
def State.identify (s : State) (port : Nat) : State :=
  s.sendFlit port 3 0x08
    { dst := 0, src := s.kol.module
      body := some (.identity s.sec.serial s.part.cores1104 s.part.grade300
        (if s.fw.runningB then s.fw.imageB else s.fw.imageA).version port) } []

/-- A port leaves the routes with its fault (R260, R399): the others learn of it, and its traffic moves. -/
def State.portDown (s : State) (p : Nat) (code : FCode) : State :=
  let x := s.port p
  if !x.up && !x.inRoutes then s
  else
    let s := s.noteRoutes.updPort p fun x =>
      { x with up := false, trained := false, inRoutes := false, missed := 0, retry := [], queue := [] }
    let s := ((s.raiseFree code).linkEvent true p false).reroutes
    (if s.kol.inDomain then
      s.flood 0x09 { dst := 0, src := 0, body := some (.linkHealth s.kol.module p false) } [] else s).resendFrom x

/-- Flits up to a sequence number have been received: they leave the retry buffer (R395, R398). -/
def KPort.acknowledge (x : KPort) (a : Nat) : KPort :=
  { x with retry := x.retry.filter fun r => (r.seq + r.pkt.flits + 2 ^ 33 - 2 - a % 2 ^ 32) % 2 ^ 32 < 2 ^ 31 }

/-- A packet received on a lane: the link's count, the credit it owes, and what its header acknowledges and returns; what
waited for those credits goes out. -/
def State.receive (s : State) (p vl kind : Nat) (hdr : FlitHdr) (flits : Nat) : State :=
  (s.updPort p fun x =>
    { x.acknowledge hdr.acked with
      expect := (x.expect + flits) % 2 ^ 32
      owed := if kind = 0 then x.owed else updAt x.owed vl fun c => c + flits
      spent := (List.range 4).map fun i => x.spent.getD i 0 - hdr.credits.getD i 0
      discarding := false }).pump p

/-- Whether a port takes a flit (R398): it is up, and not waiting for the one that failed. -/
def KPort.takes (x : KPort) (hdr : FlitHdr) : Bool := x.up && (!x.discarding || hdr.seqNo == x.expect)

/-! ### Links -/

/-- HEARTBEAT (R264): one sent, and one received or missed; the third missed in a row takes the link down. -/
def execHeartbeat (port : Nat) (received : Option FlitHdr) (s : State) : Res :=
  onPort port
    (fun s =>
      if !(s.port port).up then s
      else
        let s := s.sendFlit port 3 0x05 { dst := 0, src := s.kol.module } []
        match received with
        | some h => (s.receive port 3 0x05 h 1).updPort port fun x => { x with missed := 0 }
        | none =>
          let s := s.updPort port fun x => { x with missed := x.missed + 1 }
          if 3 ≤ (s.port port).missed then s.portDown port .linkDown else s)
    s

/-- LINK_DOWN (R399): a lane loses lock, or 3 heartbeats are missed. -/
def execLinkDown (port : Nat) (lane : Bool) (s : State) : Res :=
  onPort port (fun s => if lane || 3 ≤ (s.port port).missed then s.portDown port .linkDown else s) s

/-- Whether a port has reached a retry limit: one flit sent 4 times, or more than 256 retries in 1 ms (R399). -/
def KPort.overRetried (p : KPort) : Bool := p.retry.any (fun r => 4 ≤ r.tries) || 256 < p.retryMs

/-- LINK_RETRY_LIMIT (R399). -/
def execLinkRetryLimit (port : Nat) (s : State) : Res :=
  onPort port (fun s => if (s.port port).overRetried then s.portDown port .linkRetryLimit else s) s

/-- Whether an identity is accepted: signature, certificate by an unrevoked vendor slot (R361). -/
def State.identityOk (s : State) (i : Identity) : Bool :=
  i.sigOk && decide (i.certSlot < 4) && !s.sec.vendorRevoke.testBit i.certSlot

/-- The member of a serial number. -/
def State.memberOf (s : State) (serial : Nat) : Option Member := s.kol.members.find? fun m => m.serial == serial

/-- PORT_RETRAIN (R399): a failed attempt leaves the port out; a trained port rejoins when its verified partner is the one
that it held, or a spare link's partner is in the map. -/
def execPortRetrain (port : Nat) (result : RetrainEnd) (s : State) : Res :=
  onPort port
    (fun s =>
      if (s.port port).inRoutes || !(s.pwr.state == .ready || s.pwr.state == .active) then s
      else match result with
        | .failed => s
        | .trained i =>
          let s := s.updPort port fun x =>
            { x with up := true, trained := true, missed := 0, sendSeq := 0, expect := 0, retry := [], queue := []
                     spent := [0, 0, 0, 0], owed := [0, 0, 0, 0], discarding := false }
          let s := s.identify port
          let old := (s.port port).partner
          let spare := port == 7 || port == 15
          let same := old.isSome && (s.port port).partnerSerial == i.serial
          let joins := same || (spare && s.kol.inDomain && (s.memberOf i.serial).isSome)
          if !s.identityOk i then s.raiseModule .authFail (0x06 + 512 * i.certSlot)
          else if !joins then s
          else
            let s := s.updPort port fun x => { x with
              inRoutes := true, partnerSerial := i.serial
              partner := if same then x.partner else (s.memberOf i.serial).map fun m => m.num }
            let s := (s.linkEvent true port true).reroutes
            if s.kol.inDomain then s.flood 0x09 { dst := 0, src := 0, body := some (.linkHealth s.kol.module port true) } []
            else s)
    s

/-- The next master when one is lost: the lowest serial number of the members (R362). -/
def nextMaster (ms : List Member) (named : Nat) : Nat :=
  match ms.find? fun m => named != 0 && m.serial == named with
  | some m => m.num
  | none => match argMin (fun k => ((ms.find? fun m => m.num == k).map fun m => m.serial).getD 0) (ms.map fun m => m.num) with
    | some k => k
    | none => 0

/-- A prep hart's read of a lost module is answered with zeros (R265). -/
def State.answerLost (s : State) (r : RemoteRead) : State :=
  if 2048 ≤ r.core then s.emit (.prepRead (r.core - 2048) (List.replicate r.len 0) false) else s

/-- What ends for a transfer toward or from a lost module: its writes are dropped and its reads return zeros (R265). -/
def Xfer.loseModule (own m cycle : Nat) (x : Xfer) : Xfer :=
  let touches := gaModule x.src.base == m || (!x.attr.stream && gaModule x.dst.base == m)
  if m == own || !touches || x.started.isNone || x.complete || x.discarded then x
  else { x with
    srcUnmapped := x.srcUnmapped || gaModule x.src.base == m
    deliveries := x.deliveries.map fun d =>
      if gaModule x.dst.base == m && !x.attr.stream then
        { d with landed := [(0, x.bytes, cycle)], lastCycle := cycle, withdrawn := true }
      else d }

/-- PARTNER_LOST for one module (R264, R265): the map without it, the master chosen again, transfers and signals toward it
ended, its barriers failed; one between commit and T fails in its confirm phase. -/
def State.losePartner (s : State) (m : Nat) : State :=
  if !s.kol.inDomain || !(s.kol.members.any fun x => x.num == m) || m = s.kol.module then s
  else
    let s := s.noteRoutes
    let hops := countOf s.kol.lastHops m
    let s := (s.fab.reads.filter fun r => r.module == m).foldl State.answerLost s
    let members := s.kol.members.filter fun x => x.num != m
    let master := if s.kol.master = m then nextMaster members (s.setting 0x0D) else s.kol.master
    let s := { s with
      kol := { s.kol with members := members, master := master, isMaster := master == s.kol.module
                          lost := s.kol.lost ++ [m], unreach := s.kol.unreach.filter fun u => u.1 != m
                          links := s.kol.links.filter fun l => l.1 != m && portPartner l.1 l.2 != some m }
      fab := { s.fab with signals := s.fab.signals.filter fun g => g.module != m
                          reads := s.fab.reads.filter fun r => r.module != m }
      cores := s.cores.map fun (c : CoreSt) => { c with queues := c.queues.map fun (q : Queue) =>
        { q with live := q.live.map (Xfer.loseModule s.kol.module m s.time.cycle) } } }
    let s := (s.fab.barriers.filter fun (b : Barrier) => b.members.contains m).foldl
      (fun s b => match b.phase with
        | .arrival => s.failBarrier b b.notArrived 0
        | .commit => s
        | .started => s.failBarrier b b.notConfirmed 2) s
    (s.raiseModule .partnerLost (m + 64 * hops)).domainEvent m false

/-- PARTNER_LOST (R264): a member that no route has reached for 1 ms, to which the clock runs, is flooded as lost and removed
from the map; a member that a route reaches is not lost. -/
def execPartnerLost (m : Nat) (s : State) : Res :=
  match s.kol.unreach.find? fun u => u.1 == m with
  | none => .next s
  | some u =>
    let s := s.advanceTo (u.2 + s.ns 1000000)
    .next ((s.flood 0x09 { dst := 0, src := 0, body := some (.partnerLost m) } []).losePartner m)

/-! ### Link-level retry and credits (R397, R398) -/

/-- FAILED_FLIT (R398): the flit and every later one are discarded, and a NAK names it. -/
def execFailedFlit (port : Nat) (s : State) : Res :=
  onPort port
    (fun s =>
      if !(s.port port).up || (s.port port).discarding then s
      else
        (s.updPort port fun x => { x with discarding := true }).sendFlit port 3 0x00 { dst := 0, src := s.kol.module, nak := true }
          [])
    s

/-- The packets of the retry buffer sent again, with their numbers (R398). -/
def State.resend (s : State) (p : Nat) : State :=
  (s.port p).retry.foldl (fun s r => s.emit (.flit p r.pkt.vl r.pkt.kind r.pkt.hdr r.pkt.data))
    (s.updPort p fun x => { x with retry := x.retry.map fun r => { r with tries := r.tries + 1 } })

/-- NAK_RECEIVED (R398): every flit from the named one is sent again after the replay gap of 320 ns. An idle flit that names
none acknowledges and returns credits alone. -/
def execNakReceived (port : Nat) (hdr : FlitHdr) (s : State) : Res :=
  onPort port
    (fun s =>
      if !(s.port port).takes hdr then s
      else
        let s := s.receive port 3 0x00 hdr 1
        if !hdr.nak then s
        else
          let s := s.updPort port fun x =>
            { x with
              retryMs := (if x.retriesMs = s.time.tick then x.retryMs else 0) + 1, retriesMs := s.time.tick
              retryRC := min (x.retryRC + 1) 65535 }
          (s.advanceTo (s.time.cycle + s.ns 320)).resend port)
    s

/-- CREDIT_RETURN (R397): an idle flit returns the credits owed and acknowledges. -/
def execCreditReturn (port : Nat) (s : State) : Res :=
  onPort port (fun s => if !(s.port port).up then s else s.sendFlit port 3 0x00 { dst := 0, src := s.kol.module } []) s

/-- A packet on a port: counted; forwarded, or handed to its meaning. What comes from a lost module never arrives (R265). -/
def onPacket (port vl kind : Nat) (hdr : FlitHdr) (data : List Byte) (f : State → State) (s : State) : Res :=
  onPort port
    (fun s =>
      if !(s.port port).takes hdr then s
      else
        let s := s.receive port vl kind hdr (1 + (data.length + 255) / 256)
        if s.kol.lost.contains hdr.src then s
        else if hdr.dst = s.kol.module then f s else s.forward vl kind hdr data)
    s

/-! ### Packets (R395, R396) -/

/-- WRITE_FLIT (R93, R94, R241, R252, R396, R416): the bytes go to their storage as its banks and ports come free; a failure is
reported to the issuer's module, and an announce on the last byte is put in flight once they have landed. -/
def execWriteFlit (port : Nat) (hdr : FlitHdr) (data : List Byte) (s : State) : Res :=
  onPacket port 0 0x01 hdr data
    (fun s => s.access none hdr.dstGA (data.take hdr.payload).length (some (data.take hdr.payload)) .clean (.outerWrite port hdr)) s

/-- READ_REQUEST (R239, R240, R241, R395, R397, R416): the bytes are read as banks and ports come free, zeros where a place
refuses, and sent back on VL2; a failure is reported to the issuer's module. -/
def execReadRequest (port : Nat) (rd : ReadFlit) (s : State) : Res :=
  onPacket port 1 0x02 rd.hdr []
    (fun s => s.access none rd.hdr.srcGA rd.hdr.payload none rd.ecc (.answer port rd.hdr)) s

/-- The oldest reservation of a transfer shrinks by bytes that have arrived. -/
def takeRead (l : List RemoteRead) (core q idx n : Nat) : List RemoteRead :=
  match l with
  | [] => []
  | r :: t =>
    if r.core = core ∧ r.q = q ∧ r.idx = idx then
      (if n < r.len then [{ r with off := r.off + n, len := r.len - n }] else []) ++ t
    else r :: takeRead t core q idx n

/-- READ_RESPONSE (R94, R395, R397): the bytes are the source of their transfer, or go to the prep hart that asked. -/
def execReadResponse (port : Nat) (hdr : FlitHdr) (data : List Byte) (s : State) : Res :=
  onPacket port 2 0x03 hdr data
    (fun s =>
      match s.fab.reads.find? fun r => r.core == hdr.issuer && r.q == hdr.queue && r.idx == hdr.tagIdx with
      | none => s
      | some r =>
        let bs := (data.take hdr.payload).take r.len
        let s := { s with fab := { s.fab with reads := takeRead s.fab.reads r.core r.q r.idx bs.length } }
        if 2048 ≤ r.core then s.emit (.prepRead (r.core - 2048) bs true)
        else s.noteRead r.core r.q r.idx r.gen (cellsAt r.off bs))
    s

/-- BARE_TSIG_FLIT (R254, R255, R395): the signal has crossed its path, and meets its core behind the bytes of its lane. -/
def execBareTsigFlit (port : Nat) (hdr : FlitHdr) (s : State) : Res :=
  onPacket port 0 0x04 hdr []
    (fun s =>
      let id := s.fab.nextSig
      (s.putSignal
        { id := 0, issuer := hdr.srcCore, module := s.kol.module, lcore := hdr.sigCore, tally := hdr.sigTally
          count := hdr.sigCount, issued := s.time.cycle, latency := 0, ahead := [], bundle := 0
          origin := .remoteTsig hdr.src, stamp := s.fab.nextStamp }).signalApplied id)
    s

/-- A report of another module about a target there (R241, R255, R416): the fault is recorded against the issuing core, once
per transfer and code for its bytes. The report of a bare TSIG names no bundle (DESIGN CHOICE, log 95). -/
def State.reported (s : State) (r : TargetReport) : State :=
  match s.core? r.issuer, fcodeOf r.fault with
  | some c, some code =>
    if r.tsig then s.raise r.issuer code (some .s) r.bundle (tsigDetail false r.unit)
    else match c.xfer? r.queue r.idx with
      | none => s
      | some x =>
        let steps := c.step - x.step
        if r.announce then s.raise r.issuer code (some .x) x.bundle (annDetail false x steps)
        else if x.raised.contains code then s
        else
          (s.updCore r.issuer fun c => c.updXfer x.q x.idx x.gen fun z => { z with raised := z.raised ++ [code] }).raise
            r.issuer code (some .x) x.bundle (targetDetail 3 r.write r.unit r.stack x.q x.idx steps)
  | _, _ => s

/-! ### Discovery (R361 to R363) -/

/-- DISCOVERY_AND_IDENTITY (R361): a verified identity is kept, and this module's own answers it; one that fails is left out
with AUTH_FAIL. -/
def execDiscoveryAndIdentity (id : Identity) (s : State) : Res :=
  match s.kol.discovering with
  | none => .next s
  | some d =>
    if 16 ≤ id.port then .refused (.noSuchPort id.port)
    else if !s.identityOk id then .next (s.raiseModule .authFail (0x06 + 512 * id.certSlot))
    else
      let s := if id.near = 0 then
          (s.updPort id.port fun p => { p with up := true, trained := true, partnerSerial := id.serial }).identify id.port
        else s
      .next { s with kol := { s.kol with
        discovering := some { d with
          verified := (d.verified.filter fun v => v.port != id.port || v.near != id.near) ++ [id] } } }

/-- A verified link of the domain: the serial numbers of its ends, its port, and whether the two ends name one port (R256,
R361). -/
structure KLink where
  a : Nat
  b : Nat
  port : Nat
  agrees : Bool
deriving DecidableEq, Repr

/-- The verified links that discovery has heard of. -/
def linksOf (own : Nat) (vs : List Identity) : List KLink :=
  vs.map fun v =>
    { a := if v.near = 0 then own else v.near, b := v.serial, port := v.port
      agrees := match v.peer with | some p => p == v.port | none => true }

/-- The master among this module and those it has heard of: the named serial when present, else the lowest (R362). -/
def chooseMaster (own named : Nat) (ls : List KLink) : Nat :=
  let all := own :: ls.flatMap fun l => [l.a, l.b]
  if named != 0 && all.contains named then named else all.foldl min own

/-- Numbers of modules, by serial number. -/
abbrev Numbers := List (Nat × Nat)

/-- The number of a serial. -/
def Numbers.of (t : Numbers) (serial : Nat) : Option Nat := (t.find? fun x => x.1 == serial).map fun x => x.2

/-- What a link says of the number of one end by the other's: none for a spare (R256). -/
def KLink.gives (l : KLink) (t : Numbers) : List (Nat × Nat) :=
  let one (x y : Nat) : List (Nat × Nat) := match (t.of x).bind fun n => portPartner n l.port with
    | some m => [(y, m)]
    | none => []
  one l.a l.b ++ one l.b l.a

/-- One more breadth of numbers from the master on (R362). -/
def Numbers.grow (ls : List KLink) (t : Numbers) : Numbers :=
  ls.foldl (fun u l => (l.gives t).foldl (fun (u : Numbers) x => if (u.of x.1).isSome then u else u ++ [x]) u) t

/-- The numbers after some breadths. -/
def Numbers.walk (ls : List KLink) (n : Nat) (t : Numbers) : Numbers :=
  match n with
  | 0 => t
  | k + 1 => Numbers.walk ls k (t.grow ls)

/-- The numbers that the master's cabling gives. -/
def numbersFrom (ls : List KLink) (master : Nat) : Numbers := Numbers.walk ls 64 [(master, 0)]

/-- Whether a module's cabling contradicts R256: a link gives it another number, its ends name two ports, or its number is
another module's. -/
def contradicts (ls : List KLink) (t : Numbers) (serial : Nat) : Bool :=
  (ls.any fun l => (l.gives t).any fun x => x.1 == serial && t.of serial != some x.2)
    || (ls.any fun l => !l.agrees && l.b == serial)
    || match t.of serial with
      | some n => t.any fun x => x.2 == n && x.1 != serial
      | none => true

/-- The members of a domain: the numbered modules whose cabling contradicts nothing. -/
def State.membersOf (s : State) (ls : List KLink) (t : Numbers) (vs : List Identity) : List Member :=
  (t.filter fun x => !contradicts ls t x.1).map fun x =>
    { num := x.2, serial := x.1
      clock300 := if x.1 = s.sec.serial then s.part.grade300 else vs.any fun v => v.serial == x.1 && v.grade300 }

/-- Outside any domain: module 0, its own clock (R29, R362). -/
def State.solo (s : State) : State :=
  { s with kol := { s.kol with
      module := 0, inDomain := false, isMaster := false, master := 0, clock300 := false, members := []
      discovering := none, aligned := false, lost := [], links := [], unreach := []
      ports := s.kol.ports.map fun p => { p with inRoutes := false } } }

/-- The end of discovery (R257, R362): alone, refused where two paths disagree, or a member of a domain. -/
def State.closeDiscovery (s : State) (d : Discovery) : State :=
  let vs := d.verified
  let own := s.sec.serial
  let ls := linksOf own vs
  if !(vs.any fun v => v.near == 0) then s.solo
  else
    let master := chooseMaster own (s.setting 0x0D) ls
    let t := numbersFrom ls master
    if contradicts ls t own then s.solo.domainEvent 0 false
    else
      let n := (t.of own).getD 0
      let ms := s.membersOf ls t vs
      let num (x : Nat) : Option Nat := (ms.find? fun m => m.serial == x).map fun m => m.num
      let s := { s with kol := { s.kol with
        module := n, inDomain := true, isMaster := master == own, master := 0
        clock300 := ms.any fun m => m.clock300
        members := ms, discovering := none, lost := [], unreach := []
        links := ls.filterMap fun (l : KLink) => match num l.a, num l.b with
          | some a, some _ => if (portPartner a l.port).isSome then some (a, l.port) else none
          | _, _ => none } }
      let s := vs.foldl
        (fun s v => if v.near = 0 && (num v.serial).isSome then
            s.updPort v.port fun p => { p with inRoutes := true, partner := num v.serial } else s) s
      s.reroutes.domainEvent n true

/-- DISCOVERY_CLOSE (R362): every up port has a verified partner, or the window has ended. -/
def execDiscoveryClose (now : Nat) (s : State) : Res :=
  let s := s.atTick now
  match s.kol.discovering with
  | none => .next s
  | some d =>
    let all := (List.range 16).all fun p => !(s.port p).up || d.verified.any fun v => v.port == p && v.near == 0
    if (all && !d.verified.isEmpty) || d.since + 1000 * s.setting 0x0B ≤ s.time.tick then
      let s := s.closeDiscovery d
      .next (match d.client with | some w => s.done w.1 w.2 0x0B01 .ok [] | none => s)
    else .next s

/-- INVAR_ALIGNMENT (R363): the master floods its count, and a member takes that count and the path delay; this is the only
point at which the count may step backward. -/
def execInvarAlignment (count delay : Nat) (s : State) : Res :=
  if !s.kol.inDomain || s.kol.aligned || s.regions.any (fun x => x.phase == .running) then .next s
  else if s.kol.isMaster then
    .next ({ s with kol := { s.kol with aligned := true } }.flood 0x07
      { dst := 0, src := 0, body := some (.invarCount s.time.cycle) } [])
  else .next { s with
    time := { s.time with cycle := (count + delay) % 2 ^ 64 }
    kol := { s.kol with aligned := true } }

end Sys2Proof.Machine
end

