-- ==== Sys2Proof/Machine/Power.lean ====
section
/-! DEFINITION. Resets (R350 to R353), power states (R357 to R360), the cap governor and Constantan (R364 to R366), protective
halts (R367 to R369), pins and PMBus (R402 to R410). A reset takes its effect on the state at its source; RESET_COMPLETE is
its end in STANDBY. -/

namespace Sys2Proof.Machine

/-! ### Lifecycle and debug level -/

/-- The lifecycle state (R371): 0 BLANK, 1 PROVISIONED, 2 PRODUCTION, 3 RETURNED, by the highest bit burned. -/
def State.lifecycle (s : State) : Nat :=
  if s.sec.lifecycle.testBit 2 then 3 else if s.sec.lifecycle.testBit 1 then 2 else if s.sec.lifecycle.testBit 0 then 1 else 0

/-- BLANK and RETURNED: no identity key, vendor keys in place of owner keys (R310, R375). -/
def State.keyless (s : State) : Bool := s.lifecycle == 0 || s.lifecycle == 3

/-- The number of a debug level (R381). -/
def DbgLevel.num : DbgLevel → Nat
  | .closed => 0 | .observe => 1 | .full => 2

/-- A change of the debug level, with its ledger entry (R384). -/
def State.setLevel (s : State) (l : DbgLevel) (items : List Item) : State :=
  if s.sec.level == l && items.isEmpty then s
  else { s with sec := { s.sec with level := l } }.ledger 3 (.num l.num :: items)

/-- The debug level returns to CLOSED at its end (R384): in BLANK and RETURNED above STANDBY the end waits. -/
def State.debugEnd (s : State) : State :=
  if s.sec.level != .closed && s.sec.dbgUntil ≤ s.time.tick && !(s.keyless && s.powered) then s.setLevel .closed [] else s

/-! ### What falls with the rails, and with a reset (R351, R358) -/

/-- Commands that wait for regions, barriers or units that are gone end with STATE; buffered writes are not applied
(DEDUCED, log 55). -/
def State.abandon (s : State) : State :=
  let s := s.cores.foldl (fun s c => c.cfg.foldl (fun s e => s.ticketMark e.ticket c.lcore none) s) s
  let s := s.regions.foldl (fun s x => s.settleWaiter x.num .state []) s
  let s := s.fab.barriers.foldl
    (fun s b => if b.phase == .started then s else b.clients.foldl (fun s c => s.done c.1 c.2.1 c.2.2 .state []) s) s
  s.mem.parked.foldl
    (fun s e => if e.phase == .parked || e.session = 0 then s else s.done e.session e.seq 0x0304 .state []) s

/-- The runs that are open end (R281) (DEDUCED, log 54). -/
def State.endRuns (s : State) (why : EndReason) : State := s.regions.foldl (fun s x => s.endRun x.num why) s

/-- A module that leaves its domain with its Kollek ports idle (R351, R356). -/
def State.leaveDomain (s : State) : State :=
  let s := s.solo
  { s with kol := { s.kol with ports := List.replicate 16 {} } }

/-- What is lost as the rails of the C-dies, N-dies and stacks fall (R351, R358): regions, cores, near memory, stacks and
their allocations, the domain. -/
def State.loseRails (s : State) : State :=
  let s := s.abandon.leaveDomain
  { s with
    regions := [], cores := []
    mem := { s.mem with
      wells := [], pools := [], stackMem := [], prep := [], parked := [], stackBusy := [], stackLast := [], refreshing := [], rewrites := []
      meshDown := [], meshRetries := [] }
    fab := { s.fab with signals := [], barriers := [], reads := [], chunks := [], pulls := [], jobs := [] }
    host := { s.host with allocs := [], tickets := [] }
    glb := { s.glb with indDie := List.replicate 48 {} }
    pwr := { s.pwr with volts := [], gov := {}, refLocked := false } }

/-- STANDBY from READY or ACTIVE (R358, R359, R384). -/
def State.enterStandby (s : State) : State :=
  let s := s.loseRails
  { s with pwr := { s.pwr with state := .standby, moving := none } }.debugEnd

/-- What the restart of the management harts by a reset discards (R351): sessions, streams, event queues, staged settings;
the debug level is CLOSED (R382). -/
def State.loseManagement (s : State) : State :=
  { s with
    host := { s.host with sessions := [], streams := [], lastPort := [] }
    set := { s.set with staged := [], committing := none }
    fw := { s.fw with restart := none, mgmtDown := false, deferred := [] }
    sec := { s.sec with lcNonce := none, dbgNonce := none, level := .closed, dbgUntil := 0 } }

/-- Registers that a reset returns to their reset values, backup registers aside (R349, R354). -/
def Globals.cleared (g : Globals) : Globals :=
  { State.reset.glb with backup := g.backup, faults := g.faults, faultsRead := g.faultsRead }

/-- The state that both L0 and L1 lose (R351). -/
def State.loseL1 (s : State) : State :=
  let s := s.loseManagement.loseRails
  { s with glb := s.glb.cleared, eth := List.replicate 8 {}
           pwr := { s.pwr with state := .standby, moving := none } }

/-- What L0 loses beyond L1 (R351, R355): the Invar count, the load sequence, the ledger unless fused to be kept, the module's
fault records (DEDUCED, log 53). -/
def State.loseL0 (s : State) (keepLedger : Bool) : State :=
  let s := s.loseL1
  { s with
    time := { s.time with cycle := 0, tick := 0, tickCc := 0 }
    fw := { s.fw with loadSeq := 0 }
    glb := { s.glb with faults := [], faultsRead := 0 }
    pwr := { s.pwr with lastSync := none, alertFault := false, stInput := false, stTemp := false, stOther := false }
    host := if keepLedger then s.host else { s.host with ledger := [], ledgerSeq := 0 } }

/-! ### Resets (R350 to R353) -/

/-- The level that a source reaches by the RESET_MAP fuses (R350). -/
def State.sourceLevel (s : State) (r : RSource) : RLevel :=
  let fused (b : Nat) : RLevel := if s.sec.resetMap.testBit b then .l0 else .l1
  match r with
  | .powerOn => .l0
  | .pin => fused 0
  | .mailbox => fused 1
  | .watchdog => fused 2
  | .thermal => fused 3
  | .domain => fused 4
  | .security _ => if s.sec.resetMap.testBit 5 then .l1 else .l0

/-- The number of a source and its cause, as the reset entry carries them. -/
def RSource.num : RSource → Nat × Nat
  | .powerOn => (0, 0) | .pin => (1, 0) | .mailbox => (2, 0) | .watchdog => (3, 0) | .thermal => (4, 0) | .domain => (5, 0)
  | .security c => (6, c)

/-- A reset source (R353): a source at a level that is not higher merges into the reset in progress. -/
def State.beginReset (s : State) (r : RSource) (session seq : Nat) (powerLost : Bool := false) : State :=
  let lv := s.sourceLevel r
  let merges : Bool := match s.pwr.reset with
    | some q => q.level == .l0 || lv != .l0
    | none => false
  if merges then s
  else
    let s := s.endRuns .host
    let s := if lv == .l0 then s.loseL0 (s.sec.resetMap.testBit 7 && !powerLost) else s.loseL1
    { s with pwr := { s.pwr with
        reset := some { source := r, level := lv, session := session, seq := seq, since := s.time.tick } } }

/-- Whether an image verifies (R374). -/
def State.imageOk (s : State) (i : Image) : Bool := i.ok && decide (s.sec.rollback ≤ i.security)

/-- The image that the boot runs (R357): the verified one with the higher version; none when neither verifies. -/
def State.bootImage (s : State) : Option Bool :=
  match s.imageOk s.fw.imageA, s.imageOk s.fw.imageB with
  | true, true => some (decide (s.fw.imageA.version < s.fw.imageB.version))
  | true, false => some false
  | false, true => some true
  | false, false => none

/-- The image that runs. -/
def State.running (s : State) : Image := if s.fw.runningB then s.fw.imageB else s.fw.imageA

/-- ROLLBACK rises to the security version of an image that has reached its running state (R374). -/
def State.burnRollback (s : State) : State :=
  if s.keyless then s
  else { s with sec := { s.sec with rollback := max s.sec.rollback s.running.security } }

/-- A FIRMWARE event (R318). -/
def State.firmwareEvent (s : State) (fallback : Bool) : State :=
  s.notify .firmware [.flag s.fw.runningB, .num s.running.version, .flag fallback]

/-- The settings in force from a boot on (R322, R324, R375): the committed ones, or the defaults without a valid copy. -/
def State.bootSettings (s : State) : State :=
  if !s.keyless && (s.set.valid0 || s.set.valid1) then { s with set := { s.set with active := s.set.committed } }
  else { s with set := { s.set with active := defaultSettings } }.firmwareEvent true

/-- RESET_COMPLETE (R353, R357): STANDBY on a verified image, or the boot state; the reset entry in the ledger. -/
def execResetComplete (s : State) : Res :=
  match s.pwr.reset with
  | none => .next s
  | some r =>
    let s := { s with pwr := { s.pwr with reset := none, watchdogArmed := true } }
    let s : State := match s.bootImage with
      | none => { s with pwr := { s.pwr with state := .boot } }
      | some b =>
        { s with pwr := { s.pwr with state := .standby }, fw := { s.fw with runningB := b, fallback := false } }.burnRollback.bootSettings
    let s := s.ledger 1 [.num r.source.num.1, .num r.source.num.2, .level r.level]
    .next (if r.session = 0 then s else s.done r.session r.seq 0x0603 .ok [])

/-- POWER_ON (R357, R359): the standby rails come up while PWR_EN is high. Backup registers are zero when they were lost
(R354). -/
def execPowerOn (backupKept : Bool) (s : State) : Res :=
  if s.pwr.state != .off || !s.pwr.pwrEn then .next s
  else
    let s := if backupKept then s else { s with glb := { s.glb with backup := List.replicate 16 0 } }
    .next (s.beginReset .powerOn 0 0 !backupKept)

/-- OFF (R358): the always-on logic of E0 and the backup registers remain. -/
def State.enterOff (s : State) : State :=
  let s := s.loseManagement.loseL1
  { s with pwr := { s.pwr with state := .off, moving := none, reset := none } }

/-- A transition in progress that another event ends, with STATE for the command that asked for it. -/
def State.dropMoving (s : State) : State :=
  match s.pwr.moving with
  | none => s
  | some m =>
    let s := { s with pwr := { s.pwr with moving := none } }
    if m.session = 0 then s else s.done m.session m.seq 0x0600 .state []

/-- PWR_EN (R359): high from OFF is a power-on; low stops every RUNNING region and leads to OFF. -/
def execPwrEn (level : Bool) (s : State) : Res :=
  let s := { s with pwr := { s.pwr with pwrEn := level } }
  if level then .next (if s.pwr.state == .off then s.beginReset .powerOn 0 0 else s)
  else if s.pwr.state == .off then .next s
  else
    let s := s.dropMoving.moduleStop .stop 0
    .next { s with pwr := { s.pwr with moving := some { target := .off, session := 0, seq := 0 }, reset := none } }

/-- RST_IN (R350, R359, R403): a pulse of 10 µs or more; in OFF with PWR_EN high it is a power-on. -/
def execRstIn (micros : Nat) (s : State) : Res :=
  if micros < 10 then .next s
  else if s.pwr.state == .off then .next (if s.pwr.pwrEn then s.beginReset .powerOn 0 0 else s)
  else .next (s.beginReset .pin 0 0)

/-- MANAGEMENT_WATCHDOG (R350): 4 s without a kick, while it is armed. -/
def execManagementWatchdog (silentMs : Nat) (s : State) : Res :=
  .next (if s.pwr.state == .off || !s.pwr.watchdogArmed || silentMs < 4000 then s else s.beginReset .watchdog 0 0)

/-- SECURITY_VIOLATION (R387). -/
def execSecurityViolation (cause : Nat) (s : State) : Res :=
  if s.pwr.state == .off then .next s
  else .next ({ s with sec := { s.sec with violation := some cause } }.beginReset (.security cause) 0 0)

/-- An L2 reset (R352) (DEDUCED, log 40). -/
def State.resetL2 (s : State) (w : Who) (r : Nat) : Answer :=
  s.onRegion r fun x =>
    match x.phase with
    | .parked => ((s.ledger 1 [.num 2, .num 0, .level (.l2 r)]).done w.session w.seq 0x0603 .ok [], .accepted, [])
    | .idle => (((s.endRun r .host).resetRegion r).done w.session w.seq 0x0603 .ok [], .accepted, [])
    | _ =>
      let s := (s.awaiting r w 0x0603).updRegion r fun x => { x with resetting := true }
      (s.stopRegionNow r (fun _ => true) s.time.cycle s.time.cycle .stop .command 0, .accepted, [])

/-- An L3 reset (R352): only in an IDLE region (DEDUCED, log 39). -/
def State.resetL3 (s : State) (w : Who) (l : Nat) : Answer :=
  match s.core? l, s.regionOf l with
  | some c, some x =>
    if x.phase != .idle || x.busy then s.refuse .state
    else
      let s := s.endRun x.num .host
      let s := c.cfg.foldl (fun s e => s.ticketMark e.ticket l none) s
      let s := ((s.loseReads fun c => c.lcore == l).updCore l CoreSt.resetClears).updRegion x.num fun x => { x with spoiled := true }
      ((s.ledger 1 [.num 2, .num 0, .level (.l3 l)]).done w.session w.seq 0x0603 .ok [], .accepted, [])
  | _, _ => s.refuse .state

/-- RESET (R350, R352). -/
def State.cmdReset (s : State) (w : Who) (a : ResetArg) : Answer :=
  match a with
  | .l1 => (s.beginReset .mailbox w.session w.seq, .accepted, [])
  | .l2 r => s.resetL2 w r
  | .l3 l => s.resetL3 w l

/-- DOMAIN_RESET (R350): flooded, and taken by this module. -/
def State.cmdDomainReset (s : State) (w : Who) : Answer :=
  ((s.flood 0x09 { dst := 0, src := 0, body := some .domainReset } []).beginReset .domain w.session w.seq, .accepted, [])

/-- A flooded message passed on over the other ports, three hops at most (DESIGN CHOICE, log 11). -/
def State.passOn (s : State) (port kind : Nat) (hdr : FlitHdr) (msg : MgmtMsg) : State :=
  if 2 ≤ hdr.hops then s
  else ((List.range 16).filter fun p => p != port && s.portOk p).foldl
    (fun s p => s.sendFlit p 3 kind { hdr with hops := hdr.hops + 1, body := some msg } []) s

/-- What a message of kind Solder or management does (R241, R255, R258, R261 to R264, R276, R350). INVAR_ALIGNMENT and
DISCOVERY_AND_IDENTITY take the other kinds. -/
def State.onMessage (s : State) (src : Nat) (msg : MgmtMsg) : State :=
  match msg with
  | .domainReset => if s.pwr.reset.isSome then s else s.beginReset .domain 0 0
  | .partnerLost m => s.losePartner m
  | .targetReport r => s.reported r
  | .linkHealth m p up => if m = s.kol.module then s else s.noteLink m p up
  | .solderRequest seq step resume replace pace asked base members want =>
    s.solderRequested seq step resume replace pace asked base members want
  | .solderArrival seq ok ready => s.solderArrived seq src ok ready
  | .solderCommit seq t => s.solderCommitted seq (some t)
  | .solderConfirm seq => s.solderConfirmed seq src
  | .invarCount _ | .identity .. => s

/-- MANAGEMENT_FLIT (R258, R264, R350, R395): a message for this module is taken, one for another goes on along the route,
and a flooded one is taken and passed on. -/
def execManagementFlit (port : Nat) (hdr : FlitHdr) (msg : MgmtMsg) (s : State) : Res :=
  let kind := match msg with
    | .solderRequest .. | .solderArrival .. | .solderCommit .. | .solderConfirm .. => 0x06
    | .invarCount _ => 0x07
    | .identity .. => 0x08
    | _ => 0x09
  onPort port
    (fun s =>
      if !(s.port port).takes hdr then s
      else
        let s := s.receive port 3 kind hdr 1
        if s.kol.lost.contains hdr.src then s
        else if msg.flooded then (s.passOn port kind hdr msg).onMessage hdr.src msg
        else if hdr.dst = s.kol.module then s.onMessage hdr.src msg
        else s.forward 3 kind { hdr with body := some msg } [])
    s

/-! ### Power states (R358 to R360) -/

/-- No region is RUNNING or in a transient state. -/
def State.allQuiet (s : State) : Bool := s.regions.all fun x => x.phase != .running && !x.busy

/-- Whether READY is admitted from STANDBY (R359, R369, R386). -/
def State.readyAdmitted (s : State) : Bool :=
  !s.pwr.thermalHold && !s.pwr.inputHold && !s.pwr.thermTrip && (!s.keyless || s.sec.level == .full)

/-- READY entry begins (R360, R377, R406): discovery where a certificate is installed and REFCLK_IN is within tolerance. -/
def State.beginReady (s : State) : State :=
  { s with
    pwr := { s.pwr with refLocked := s.pwr.refIn, mayRejoin := false }
    kol := { s.kol with
      ports := List.replicate 16 {}, lost := [], lastHops := [], links := [], unreach := [], aligned := false
      discovering := if s.sec.cert && !s.keyless && s.pwr.refIn then
          some { since := s.time.tick, verified := [], client := none } else none } }

/-- POWER_STATE (R359). -/
def State.cmdPowerState (s : State) (w : Who) (t : PowerName) : Answer :=
  let go (s : State) (p : PState) : Answer :=
    ({ s with pwr := { s.pwr with moving := some { target := p, session := w.session, seq := w.seq } } }, .accepted, [])
  if s.pwr.moving.isSome then s.refuse .busyTransition
  else match t, s.pwr.state with
    | .standby, .standby | .ready, .ready | .active, .active => (s, .ok, [])
    | .off, .standby => go s .off
    | .ready, .standby => if s.readyAdmitted then go s.beginReady .ready else s.refuse .state
    | .active, .ready => go s .active
    | .ready, .active => if s.allQuiet then go s .ready else s.refuse .state
    | .standby, .ready | .standby, .active => if s.allQuiet then go s .standby else s.refuse .state
    | _, _ => s.refuse .state

/-- The pace of the host restored as the governor stops (R365). -/
def State.governorOff (s : State) : State :=
  let s := s.regions.foldl
    (fun s x => match x.hostPace with
      | some p => (s.updRegion x.num fun x => { x with hostPace := none }).putPace x.num p.1 p.2
      | none => s) s
  { s with pwr := { s.pwr with gov := { samples := s.pwr.gov.samples } } }

/-- READY entry ends (R273, R322, R360, R362): cores and links whose crossings could not be padded are failed, discovery
that is still open closes, and the cap is that of key 0x0E. -/
def State.enterReady (s : State) (cores : List Nat) (links : List (Nat × Nat)) : State :=
  let s := match s.kol.discovering with
    | some d => s.closeDiscovery d
    | none => s
  { s with
    mem := { s.mem with
      defects := (s.mem.defects ++ cores.filter fun p => decide (p < 1248)).dedup
      badLinks := (s.mem.badLinks ++ links).dedup, lockLost := [] }
    pwr := { s.pwr with state := .ready, volts := [], cap := s.setting 0x0E } }

/-- POWER_TRANSITION_COMPLETE (R359, R360) (DEDUCED, log 56). -/
def execPowerTransitionComplete (cores : List Nat) (links : List (Nat × Nat)) (s : State) : Res :=
  match s.pwr.moving with
  | none => .next s
  | some m =>
    let s := { s with pwr := { s.pwr with moving := none } }
    let finish (s : State) : State := if m.session = 0 then s else s.done m.session m.seq 0x0600 .ok []
    match m.target with
    | .ready =>
      if s.pwr.state == .active then
        let s := s.governorOff
        .next (finish { s with pwr := { s.pwr with state := .ready, volts := [] } })
      else .next (finish (s.enterReady cores links))
    | .active => .next (finish { s with pwr := { s.pwr with state := .active } })
    | .standby => .next (finish (s.endRuns .stop).enterStandby)
    | .off => .next (finish (s.endRuns .stop).enterStandby).enterOff
    | .boot => .next s

/-! ### Protective halts (R367 to R369) -/

/-- The rails are up, or on their way. -/
def State.railsUp (s : State) : Bool :=
  s.pwr.state == .ready || s.pwr.state == .active || s.pwr.moving.isSome

/-- The temperature of a place, kept. -/
def State.noteTemp (s : State) (p : TempPlace) (t : Int) : State :=
  let put (l : List (Nat × Int)) (k : Nat) : List (Nat × Int) := (l.filter fun x => x.1 != k) ++ [(k, t)]
  let s : State := match p with
    | .island ph => { s with pwr := { s.pwr with dieTemps := put s.pwr.dieTemps ph } }
    | .ndie d => { s with pwr := { s.pwr with ndieTemps := put s.pwr.ndieTemps d } }
    | .stack st => { s with
        pwr := { s.pwr with stackTemps := put s.pwr.stackTemps st }
        mem := { s.mem with hot := (s.mem.hot.filter fun k => k != st) ++ if 85 * 16 < t then [st] else [] } }
  let most (l : List (Nat × Int)) : Int := (l.map fun x => x.2).foldl max ((l.map fun x => x.2).headD 0)
  { s with pwr := { s.pwr with islandTemp := most s.pwr.dieTemps, stackTemp := most s.pwr.stackTemps } }

/-- A THERMAL_POWER event (R318). -/
def State.powerEvent (s : State) : State :=
  s.notify .thermalPower
    [.int s.pwr.islandTemp, .int s.pwr.stackTemp, .num s.pwr.vin, .num s.pwr.pin, .flag s.pwr.gov.acting,
     .flag s.pwr.refLocked]

/-- The alarm threshold of a place in 1/16 °C (R367); the halt threshold is 10 °C above it. -/
def alarmAt : TempPlace → Int
  | .stack _ => 85 * 16
  | _ => 95 * 16

/-- THERMAL_ALARM (R367): it only logs (DEDUCED, log 57). -/
def execThermalAlarm (place : TempPlace) (temp : Int) (s : State) : Res :=
  let s := s.noteTemp place temp
  if temp < alarmAt place || s.pwr.state == .off then .next s
  else .next ({ s with pwr := { s.pwr with stTemp := true } }.raiseFree .thermalAlarm).powerEvent

/-- THERMAL_HALT raised: every RUNNING region stops, the rails fall, and the module resets (R367). -/
def State.thermalHalt (s : State) : State :=
  let s := { s with pwr := { s.pwr with thermalHold := true, stTemp := true } }
  ((s.raiseFree .thermalHalt 3).endRuns .stop).beginReset .thermal 0 0

/-- THERMAL_HALT (R367): 10 °C above the alarm threshold for 1 ms. -/
def execThermalHalt (place : TempPlace) (temp : Int) (micros : Nat) (s : State) : Res :=
  let s := s.noteTemp place temp
  if temp < alarmAt place + 160 || micros < 1000 || s.pwr.state == .off then .next s else .next s.thermalHalt

/-- THERM_TRIP (R368): at 115 °C the power stages remove the rails; THERMAL_HALT is raised unless it has been. -/
def execThermTrip (temp : Int) (s : State) : Res :=
  if temp < 115 * 16 then .next s
  else
    let held := s.pwr.thermalHold
    let s := { s with pwr := { s.pwr with thermTrip := true } }
    if s.pwr.state == .off then .next s
    else if held then .next (if s.railsUp then s.beginReset .thermal 0 0 else s)
    else .next s.thermalHalt

/-- INPUT_POWER_HALT raised (R367, R410): below 40 V the module is OFF without its backup registers
(DEDUCED, log 51). -/
def State.inputHalt (s : State) (millivolts : Nat) : State :=
  let s := { s with pwr := { s.pwr with inputHold := true, stInput := true } }
  let s := ((s.dropMoving.raiseFree .inputPowerHalt 3).endRuns .stop).enterStandby
  if millivolts < 40000 then
    let s := s.enterOff
    { s with glb := { s.glb with backup := List.replicate 16 0 } }
  else s

/-- INPUT_POWER_HALT (R367, R410): outside 50 to 64 V for 1 ms, or above 320 A for 10 ms. -/
def execInputPowerHalt (millivolts milliamps micros : Nat) (s : State) : Res :=
  let s := { s with pwr := { s.pwr with vin := millivolts, iin := milliamps } }
  let volts := (millivolts < 50000 || 64000 < millivolts) && 1000 ≤ micros
  let amps := 320000 < milliamps && 10000 ≤ micros
  if !(volts || amps) || s.pwr.state == .off then .next s else .next (s.inputHalt millivolts)

/-- INPUT_BELOW_MAIN_RAIL_LIMIT (R410): below 42 V the rails stop before any STOP; below 40 V the module is OFF and its backup
registers are lost. -/
def execInputBelowMainRailLimit (millivolts : Nat) (s : State) : Res :=
  let s := { s with pwr := { s.pwr with vin := millivolts } }
  if 42000 ≤ millivolts then .next s
  else if s.pwr.state == .off then
    .next (if millivolts < 40000 then { s with glb := { s.glb with backup := List.replicate 16 0 } } else s)
  else
    let s := s.dropMoving.endRuns .stop
    let s := { s with regions := s.regions.map fun (x : Region) => { x with phase := .idle } }
    .next (s.inputHalt millivolts)

/-- ISLAND_LOCK_LOST (R64, R367): the island is powered down and failed until the next READY entry; its core holds nothing
any more (DEDUCED, log 52). -/
def execIslandLockLost (phys : Nat) (s : State) : Res :=
  if 1248 ≤ phys then .refused (.noSuchPort phys)
  else if !(s.pwr.state == .ready || s.pwr.state == .active) then .next s
  else
    let s := s.raiseFree .islandLockLost 3
    .next { s with
      mem := { s.mem with lockLost := (s.mem.lockLost ++ [phys]).dedup }
      cores := s.cores.map fun (c : CoreSt) =>
        if c.phys == phys then { lcore := c.lcore, region := c.region, phys := c.phys } else c }

/-- PROTECTIVE_HALT_CONDITION_CLEARED (R369). -/
def execProtectiveHaltConditionCleared (thermal : Bool) (s : State) : Res :=
  if thermal then .next { s with pwr := { s.pwr with thermalHold := false, thermTrip := false } }
  else .next { s with pwr := { s.pwr with inputHold := false } }

/-! ### Reference clock and SYNC_IN (R406, R407) -/

/-- REFCLK_LOSS (R406): the PLLs switch to the on-module oscillator; a member holds its Kollek transmitters idle and loses
its partners. -/
def execRefclkLoss (micros : Nat) (s : State) : Res :=
  if micros < 10 then .next s
  else
    let s := { s with pwr := { s.pwr with refIn := false, mayRejoin := false } }
    if !(s.pwr.state == .ready || s.pwr.state == .active) || !s.pwr.refLocked then .next s
    else
      let s := { s with pwr := { s.pwr with refLocked := false } }
      if !s.kol.inDomain then .next s.powerEvent
      else
        let lost := (s.kol.members.map fun m => m.num).filter fun m => m != s.kol.module
        let s := lost.foldl State.losePartner s
        .next { s with kol := { s.kol with ports := s.kol.ports.map fun (p : KPort) => { p with up := false, inRoutes := false } } }.powerEvent

/-- REFCLK_RETURN (R406): a module that left its domain may rejoin. -/
def execRefclkReturn (s : State) : Res :=
  .next { s with pwr := { s.pwr with refIn := true, mayRejoin := !s.pwr.refLocked } }

/-- SYNC_IN (R407): an edge latches the Invar count within 2 cc into a ledger entry; one within 1 ms of the last accepted
edge is ignored. -/
def execSyncIn (s : State) : Res :=
  let fresh : Bool := match s.pwr.lastSync with
    | some c => c + s.tickLength ≤ s.time.cycle
    | none => true
  if s.pwr.state == .off || !fresh then .next s
  else
    let count := s.time.cycle + Config.freeSkew s.time.draws % 5 - 2
    let s := { s with
      pwr := { s.pwr with lastSync := some s.time.cycle }
      time := { s.time with draws := s.time.draws + 1 } }
    .next (s.ledger 2 [.num count])

/-! ### Cap governor and Constantan (R364 to R366) -/

/-- The governor's pace on every RUNNING region, the host's kept aside. -/
def State.govern (s : State) (i : Nat) : State :=
  let s := s.regions.foldl
    (fun s x =>
      if x.phase != .running && !(x.goal == .pace && x.committed) then s
      else (s.updRegion x.num fun x => { x with hostPace := some (x.hostPace.getD (x.paceP, x.paceI)) }).putPace x.num 1 i) s
  { s with pwr := { s.pwr with gov := { s.pwr.gov with acting := true, interval := i, below := 0 } } }

/-- CAP_GOVERNOR (R365): the mean of the last 10 ticks against the cap (DEDUCED, log 58). -/
def execCapGovernor (now watts : Nat) (s : State) : Res :=
  let s := s.atTick now
  let xs := (watts :: s.pwr.gov.samples).take 10
  let s := { s with pwr := { s.pwr with pin := watts, gov := { s.pwr.gov with samples := xs } } }
  if s.pwr.state != .active then .next s
  else
    let total := xs.foldl (· + ·) 0
    let g := s.pwr.gov
    if s.pwr.cap * xs.length < total then
      if g.acting then .next (s.govern (min (2 * g.interval) 16777216))
      else .next (s.govern 65536).powerEvent
    else if total * 100 < s.pwr.cap * xs.length * 95 && g.acting then
      if g.below + 1 < 100 then .next { s with pwr := { s.pwr with gov := { g with below := g.below + 1 } } }
      else if g.interval / 2 < 65536 then .next s.governorOff.powerEvent
      else .next (s.govern (g.interval / 2))
    else .next { s with pwr := { s.pwr with gov := { g with below := 0 } } }

/-- POWER_CAP (R365): 2 to 16 kW. -/
def State.cmdPowerCap (s : State) (watts : Nat) : Answer :=
  if watts < 2000 || 16000 < watts then s.refuse .badArgument
  else ({ s with pwr := { s.pwr with cap := watts } }, .ok, [])

/-- CONSTANTAN_STEP (R364): in ACTIVE an island's voltage moves by one step of 2.5 mV, never below its floor. -/
def execConstantanStep (phys : Nat) (up : Bool) (s : State) : Res :=
  if 1248 ≤ phys then .refused (.noSuchPort phys)
  else if s.pwr.state != .active then .next s
  else
    let v := countOf s.pwr.volts phys
    .next { s with pwr := { s.pwr with volts := putCount s.pwr.volts phys (if up then v + 1 else v - 1) } }

/-- ALNICO_MEASURE_UPDATE (R293): temperatures by place (an island below 1,248, N-die d at 2,048 + d, stack st at 4,096 + st),
corrections of the last 24 h (a well segment below 19,968, die d's sum at 20,000 + d), and the CRC retries that the mesh links
of a die have made since the last update. -/
def execAlnicoMeasureUpdate (now : Nat) (temps : List (Nat × Int)) (counts : MeasureCounts) (s : State) : Res :=
  let s := s.atTick now
  let s := temps.foldl
    (fun s t => s.noteTemp (if t.1 < 1248 then .island t.1 else if t.1 < 4096 then .ndie (t.1 - 2048) else .stack (t.1 - 4096))
      t.2) s
  .next { s with mem := { s.mem with
    eccWell := counts.wells.foldl (fun l w => if w.1 < 19968 then putCount l w.1 w.2 else l) s.mem.eccWell
    eccDie := counts.wells.foldl (fun l w => if w.1 < 19968 then l else putCount l (2 * (w.1 - 20000)) w.2) s.mem.eccDie
    meshRetries := counts.retries.foldl (fun l r => bump l r.1 r.2) s.mem.meshRetries } }

/-! ### Pins and PMBus (R404, R405) -/

/-- ALERT# is driven low (R356, R404, R405): the boot state, a fault of E0, a protective halt or STOP fault not yet drained,
or a bit of STATUS_WORD; released during a reset and in OFF. -/
def State.alertLow (s : State) : Bool :=
  s.pwr.reset.isNone && s.pwr.state != .off
    && (s.pwr.state == .boot || s.pwr.e0Fault || s.pwr.alertFault || s.pwr.stInput || s.pwr.stTemp || s.pwr.stOther)

/-- PMBus answers from STANDBY entry on (R356, R405); the kinds 1 to 8 are the model's numbers of the commands, in R405's
order. -/
def onPmbus (kind : Nat) (items : State → List Item) (f : State → State) (s : State) : Res :=
  if s.pwr.reset.isSome || s.pwr.state == .off || s.pwr.state == .boot then .next s
  else .next ((f s).emit (.pmbus kind (items s)))

/-- READ_VIN. -/
def execReadVin (s : State) : Res := onPmbus 1 (fun s => [.num s.pwr.vin]) id s

/-- READ_IIN. -/
def execReadIin (s : State) : Res := onPmbus 2 (fun s => [.num s.pwr.iin]) id s

/-- READ_PIN. -/
def execReadPin (s : State) : Res := onPmbus 3 (fun s => [.num s.pwr.pin]) id s

/-- READ_TEMPERATURE_1: the hottest core island. -/
def execReadTemperature1 (s : State) : Res := onPmbus 4 (fun s => [.int s.pwr.islandTemp]) id s

/-- READ_TEMPERATURE_2: the hottest stack DRAM. -/
def execReadTemperature2 (s : State) : Res := onPmbus 5 (fun s => [.int s.pwr.stackTemp]) id s

/-- STATUS_WORD: input fault, temperature fault, other. -/
def execStatusWord (s : State) : Res :=
  onPmbus 6 (fun s => [.flag s.pwr.stInput, .flag s.pwr.stTemp, .flag s.pwr.stOther]) id s

/-- CLEAR_FAULTS clears STATUS_WORD. -/
def execClearFaults (s : State) : Res :=
  onPmbus 7 (fun _ => [])
    (fun s => { s with pwr := { s.pwr with stInput := false, stTemp := false, stOther := false } }) s

/-- MFR_SERIAL. -/
def execMfrSerial (s : State) : Res := onPmbus 8 (fun s => [.num s.sec.serial]) id s

end Sys2Proof.Machine
end

