-- ==== Sys2Proof/Machine/HostCmds.lean ====
section
/-! DEFINITION. The mailbox commands on sessions, streams, stack allocations, faults, records, settings and the domain
(R310, R311, R315, R316, R318, R322 to R324, R330, R361, R373, R378). Payloads are lists of items (DESIGN CHOICE, log 7). -/

namespace Sys2Proof.Machine

/-! ### Sessions (R310, R311, R378) -/

/-- A session by its number. -/
def State.session? (s : State) (n : Nat) : Option Session := s.host.sessions.find? fun x => x.num == n

/-- A session changed. -/
def State.updSession (s : State) (n : Nat) (f : Session → Session) : State :=
  { s with host := { s.host with sessions := s.host.sessions.map fun x => if x.num == n then f x else x } }

/-- A fresh nonce (R310, R376, R382): a free value (DESIGN CHOICE, log 20). -/
def State.draw (s : State) : State × Nat :=
  ({ s with time := { s.time with draws := s.time.draws + 1 } }, Config.freeNonce s.time.draws)

/-- Why a trailer is refused (R373), as a cause of R388: 2 the key digest, 1 the signature. An owner slot whose digest is all
zeros is empty (R371). -/
def State.trailerCause (s : State) (t : Trailer) : Option Nat :=
  let (digests, revoked) := if t.owner then (s.sec.owner, s.sec.ownerRevoke) else (s.sec.vendor, s.sec.vendorRevoke)
  match digests[t.slot]? with
  | none => some 2
  | some d =>
    if t.owner && d == 0 || d != t.keyDigest || revoked.testBit t.slot then some 2
    else if !t.sigOk then some 1
    else none

/-- AUTH_FAIL with its detail word (R388). -/
def State.authFail (s : State) (cause : Nat) (owner : Bool) (slot session : Nat) : State :=
  s.raiseModule .authFail (packFields [(0, cause), (8, bit owner), (9, slot % 4), (16, session % 65536)])

/-- A refusal with AUTH and its fault. -/
def State.authRefuse (s : State) (cause : Nat) (owner : Bool) (slot session : Nat) : Answer :=
  (s.authFail cause owner slot session, .auth, [])

/-- SESSION_OPEN, for the address and UDP port that it came from. -/
def State.cmdSessionOpen (s : State) (source : Nat × Nat) : Answer :=
  if 32 ≤ s.host.sessions.length then s.refuse .sessionLimit
  else
    let n := s.host.nextSession
    let x : Session := { num := n, lastTick := s.time.tick, idle := s.setting 0x09, source := source }
    ({ s with host := { s.host with sessions := s.host.sessions ++ [x], nextSession := n + 1 } }, .ok, [.num n])

/-- The privileged sessions that are open. -/
def State.privCount (s : State) : Nat := (s.host.sessions.filter fun x => x.priv).length

/-- SESSION_ELEVATE: a nonce for 10 s and one attempt, then the signature over it (R310, R378) (DEDUCED, log 59). -/
def State.cmdSessionElevate (s : State) (w : Who) (a : ElevateArg) : Answer :=
  match a with
  | .nonce =>
    if 16 ≤ s.privCount then s.refuse .sessionLimit
    else
      let (s, n) := s.draw
      (s.updSession w.session fun x => { x with nonce := some n, nonceAt := s.time.tick }, .ok,
        [.num n, .num w.session, .num s.sec.serial])
  | .auth nonce t =>
    let x := (s.session? w.session).getD { num := 0 }
    let live := x.nonce.isSome && s.time.tick ≤ x.nonceAt + 10000
    let s' := s.updSession w.session fun x => { x with nonce := none }
    if !live then s'.authRefuse 9 t.owner t.slot w.session
    else if x.nonce != some nonce then s'.authRefuse 1 t.owner t.slot w.session
    else if t.owner == s.keyless then s'.authRefuse 2 t.owner t.slot w.session
    else match s.trailerCause t with
      | some c => s'.authRefuse c t.owner t.slot w.session
      | none =>
        if !x.priv && 16 ≤ s.privCount then s'.refuse .sessionLimit
        else (s'.updSession w.session fun x =>
          { x with priv := true, signer := some (t.owner, t.slot), authFails := 0 }, .ok, [])

/-- A session closed: its unsent events, its subscription and its streams go with it (R311, R330). -/
def State.closeSession (s : State) (n : Nat) : State :=
  { s with host := { s.host with
      sessions := s.host.sessions.filter fun x => x.num != n
      streams := s.host.streams.filter fun x => x.session != n } }

/-- EVENT_SUBSCRIBE (R318): a mask and at most one destination on each network. -/
def State.cmdEventSubscribe (s : State) (w : Who) (mask : Nat) (dests : List EventDest) : Answer :=
  if 2 ^ 32 ≤ mask || dests.any (fun d => 2 ≤ d.network || 65536 ≤ d.port) || decide (¬ (dests.map fun d => d.network).Nodup)
  then s.refuse .badArgument
  else (s.updSession w.session fun x => { x with mask := mask, dests := dests }, .ok, [])

/-! ### Discovery replies -/

/-- The MAC address of EPn (R390). -/
def macOf (port : Nat) : Nat := (Config.macBase + port) % 2 ^ 48

/-- The link-local IPv6 address formed from a MAC by modified EUI-64 (R390). -/
def linkLocal (mac : Nat) : Nat :=
  let m := mac ^^^ 2 ^ 41
  0xFE80 * 2 ^ 112 + (m / 2 ^ 24) * 2 ^ 40 + 0xFFFE * 2 ^ 24 + m % 2 ^ 24

/-- The IPv6 address of a network (R390): the set one, else the link-local one of its lowest-numbered port. -/
def State.ipv6Of (s : State) (network : Nat) : Nat :=
  if s.setting (3 + network) = 0 then linkLocal (macOf (4 * network)) else s.setting (3 + network)

/-- DISCOVER: serial, ordering code, stepping class (A1), lifecycle, power state, module number, domain clock, the MAC
addresses of the eight ports, the IP addresses of the two networks, firmware version, record word. -/
def State.cmdDiscover (s : State) : Answer :=
  (s, .ok,
    [.num s.sec.serial, .flag s.part.cores1104, .flag s.part.grade300, .num 1, .num s.lifecycle, .power s.pwr.state,
     .num s.kol.module, .flag s.slow]
      ++ (List.range 8).map (fun p => .num (macOf p))
      ++ [.num (s.setting 1), .num (s.setting 2), .num (s.ipv6Of 0), .num (s.ipv6Of 1),
          .num s.running.version, .num (recordWord false)])

/-- What one INVENTORY reply holds at most (DESIGN CHOICE, log 7). -/
def replyMax : Nat := 1024

/-- INVENTORY: the parts of R315, from an offset, after the clock in use (R257). The repair spares are the stacks' spare
channels that are used up, and per row of banks what is left of its spare rows (R303). -/
def State.cmdInventory (s : State) (part : InvPart) (off : Nat) : Answer :=
  let items : List Item := match part with
    | .defects => (s.mem.defects ++ s.mem.lockLost).map Item.num ++ s.mem.badLinks.flatMap fun l => [.num l.1, .num l.2]
    | .placement => s.regions.flatMap fun x => [.num x.num, .place x.place]
    | .allocs => (s.occupied none).flatMap fun a => [.num a.1, .num a.2]
    | .spares => s.mem.spareUsed.map Item.num ++ s.mem.rowsUsed.flatMap fun r => [.num r.1, .num (spareRows - r.2)]
  (s, .ok, .flag s.slow :: (items.drop off).take replyMax)

/-- PARTNERS: LLDP neighbours per Ethernet port, the Kollek partner and link state per port. -/
def State.cmdPartners (s : State) : Answer :=
  let eth : List Item := s.eth.flatMap fun p => .num p.neighbours.length :: p.neighbours.flatMap fun n => [.num n.chassis, .num n.portId]
  let kol : List Item := s.kol.ports.flatMap fun p => [.flag p.up, match p.partner with | some n => .num n | none => .flag false]
  (s, .ok, eth ++ kol)

/-! ### Streams (R325, R329, R330) -/

/-- STREAM_OPEN: streams 0 to 63. -/
def State.cmdStreamOpen (s : State) (w : Who) (n : Nat) : Answer :=
  if 64 ≤ n then s.refuse .badArgument
  else if (s.stream? w.session n).isSome then s.refuse .state
  else ({ s with host := { s.host with streams := s.host.streams ++ [{ session := w.session, num := n }] } }, .ok, [])

/-- STREAM_CLOSE (R330): no new packets; the packets that are not applied are discarded, and COMMAND_DONE follows once the
applied ones have landed. -/
def State.cmdStreamClose (s : State) (w : Who) (n : Nat) : Answer :=
  if 64 ≤ n then s.refuse .badArgument
  else if (s.stream? w.session n).isNone then s.refuse .notFound
  else
    let s := s.updStream w.session n fun x => { x with closing := true, ahead := [], missing := none }
    (s.access (some (.cmt w.session n)) 0 0 none .clean (.cmtClose w.session n w.seq), .accepted, [])

/-! ### Stack allocations (R316) -/

/-- STACK_ALLOC: zeroed before the reply (DEDUCED, log 31). -/
def State.cmdStackAlloc (s : State) (size : Nat) (fixed : Option GA) : Answer :=
  if size = 0 || size % 8192 != 0 then s.refuse .badArgument
  else if !s.powered then s.refuse .state
  else
    let occ := s.occupied none
    let place : Option GA := match fixed with
      | some g => if s.stackRange g size && !occ.any (gaMeet (g, size)) then some g else none
      | none => s.freePlace size occ
    match place with
    | none => s.refuse .badArgument
    | some g =>
      let s := s.zeroStack g size
      ({ s with host := { s.host with allocs := s.host.allocs ++ [{ ga := g, size := size }] } }, .ok, [.num g])

/-- STACK_FREE. -/
def State.cmdStackFree (s : State) (g : GA) : Answer :=
  if !s.host.allocs.any fun a => a.ga == g then s.refuse .notFound
  else ({ s with host := { s.host with allocs := s.host.allocs.filter fun a => a.ga != g } }, .ok, [])

/-! ### Faults, ledger, records (R81, R278, R281, R344, R346, R355) -/

/-- Records of a core with its lost count, the recording bank swapped under drain. -/
def State.readFaults (s : State) (l : Nat) (drain : Bool) : State × List Item :=
  match s.core? l with
  | none => (s, [])
  | some c =>
    let bank := if c.bankSel then c.bank1 else c.bank0
    (if drain then s.updCore l CoreSt.swapBank else s, bank.map Item.fault ++ [.num c.faultLost])

/-- FAULT_READ: of a core, of the cores of a region, of the module; a module drain releases ALERT# (R404). -/
def State.cmdFaultRead (s : State) (scope : FaultScope) (drain : Bool) : Answer :=
  match scope with
  | .core l =>
    if (s.core? l).isNone then s.refuse .notFound
    else
      let (s, items) := s.readFaults l drain
      (s, .ok, items)
  | .region r =>
    if (s.region? r).isNone then s.refuse .notFound
    else
      let (s, items) := (s.coresOf r).foldl
        (fun (a : State × List Item) c =>
          let (s, i) := a.1.readFaults c.lcore drain
          (s, a.2 ++ i)) (s, [])
      (s, .ok, items)
  | .module =>
    let items := (s.glb.faults.drop s.glb.faultsRead).map Item.fault
    let s := if drain then { s with
        glb := { s.glb with faultsRead := s.glb.faults.length }
        pwr := { s.pwr with alertFault := false } } else s
    (s, .ok, items)

/-- FAULT_POLICY: a region's code while it is IDLE or LOADING; region 255 names the module-level codes, whose registers are
written while no region is RUNNING (R85, R346, R349) (DEDUCED, log 43). -/
def State.cmdFaultPolicy (s : State) (r code p : Nat) : Answer :=
  match fcodeOf code with
  | none => s.refuse .badArgument
  | some c =>
    let k := code / 16
    if r = 255 then
      let v := setPolicyField (s.glb.policies.getD (k - 5) 0) c p
      if k < 5 || 3 ≤ p || !policyRegOk k v then s.refuse .badArgument
      else if s.regions.any fun x => x.phase == .running then s.refuse .state
      else ({ s with glb := { s.glb with policies := setAt s.glb.policies (k - 5) v } }, .ok, [])
    else if 8 ≤ r || 5 ≤ k || 3 ≤ p then s.refuse .badArgument
    else match s.region? r with
      | none => s.refuse .notFound
      | some x =>
        let v := setPolicyField (x.policies.getD (k - 1) 0) c p
        if !policyRegOk k v then s.refuse .badArgument
        else if x.phase != .idle && x.phase != .loading then s.refuse .state
        else (s.updRegion r fun x => { x with policies := setAt x.policies (k - 1) v }, .ok, [])

/-- A ledger entry as a reply shows it. -/
def LedgerEntry.show (e : LedgerEntry) : List Item := [.num e.seq, .num e.kind, .num e.cycle] ++ e.items

/-- LEDGER_READ: entries from the oldest one present, up to 8,192 B (DESIGN CHOICE, log 7). -/
def State.cmdLedgerRead (s : State) (off len : Nat) : Answer :=
  if 8192 < len then s.refuse .badArgument
  else (s, .ok, ((s.host.ledger.drop off).take len).flatMap LedgerEntry.show)

/-- The run records that the ledger holds. -/
def State.ledgerRuns (s : State) : List RunRec :=
  s.host.ledger.flatMap fun e => e.items.filterMap fun i => match i with | .run q => some q | _ => none

/-- RUN_RECORD: by region and load sequence number (R280, R281). -/
def State.cmdRunRecord (s : State) (r seq : Nat) : Answer :=
  if 8 ≤ r then s.refuse .badArgument
  else
    let live := ((s.region? r).bind fun x => if x.ran then x.runRec else none).toList
    match (live ++ s.ledgerRuns).find? fun q => q.region == r && q.loadSeq == seq with
    | some q => (s, .ok, [.run q])
    | none => s.refuse .notFound

/-- CHOICE_LOG: the entries not yet drained (R278) (DEDUCED, log 33). -/
def State.cmdChoiceLog (s : State) (r l : Nat) : Answer :=
  match s.core? l with
  | some c =>
    if c.region != r then s.refuse .notFound
    else (s.updCore l fun c => { c with choiceLog := [] }, .ok, c.choiceLog.map Item.entry)
  | none => s.refuse .notFound

/-- BACKUP_REG (R354). -/
def State.cmdBackupReg (s : State) (i : Nat) (v : Option Nat) : Answer :=
  if 16 ≤ i then s.refuse .badArgument
  else match v with
    | none => (s, .ok, [.num (s.glb.backup.getD i 0)])
    | some v =>
      if 2 ^ 64 ≤ v then s.refuse .badArgument
      else ({ s with glb := { s.glb with backup := setAt s.glb.backup i v } }, .ok, [])

/-! ### Settings (R322 to R324, R375) -/

/-- The value of a key in a table. -/
def keyOf (l : List (Nat × Nat)) (k : Nat) : Option Nat := (l.find? fun x => x.1 == k).map fun x => x.2

/-- A key set in a table. -/
def setKey (l : List (Nat × Nat)) (k v : Nat) : List (Nat × Nat) :=
  if l.any fun x => x.1 == k then l.map fun x => if x.1 == k then (k, v) else x else l ++ [(k, v)]

/-- A table with the entries of another over it. -/
def overlay (l m : List (Nat × Nat)) : List (Nat × Nat) := m.foldl (fun l x => setKey l x.1 x.2) l

/-- An IPv4 address in [31:0] with its prefix in [37:32]: 0 is none, any other is unicast. -/
def ipv4Ok (v : Nat) : Bool :=
  v == 0 || (decide (v < 2 ^ 38) && bits v 31 0 != 0 && decide (bits v 31 0 < 0xE0000000) && decide (bits v 37 32 ≤ 32))

/-- An IPv6 address in [127:0] with its prefix in [135:128]: 0 is link-local only, any other is unicast. -/
def ipv6Ok (v : Nat) : Bool :=
  v == 0 || (decide (v < 2 ^ 136) && bits v 127 0 != 0 && bits v 127 120 != 255 && decide (bits v 135 128 ≤ 128))

/-- Whether a staged value is in its range (R322); `other` gives the value of another key as it is staged or committed. -/
def settingOk (k v : Nat) (other : Nat → Nat) : Bool :=
  match k with
  | 0x01 | 0x02 => ipv4Ok v
  | 0x03 | 0x04 => ipv6Ok v
  | 0x05 => decide (v < 2 ^ 24) && decide (bits v 11 0 ≤ 4094) && decide (bits v 23 12 ≤ 4094)
  | 0x06 => decide (v ≤ 7)
  | 0x07 => decide (1024 ≤ v) && decide (v ≤ 65535)
  | 0x08 => decide (1024 ≤ v) && decide (v ≤ 65535) && v != other 0x07
  | 0x09 => decide (1 ≤ v) && decide (v ≤ 600)
  | 0x0A => decide (50 ≤ v) && decide (v ≤ 10000)
  | 0x0B => decide (2 ≤ v) && decide (v ≤ 30)
  | 0x0C => decide (1 ≤ v) && decide (v ≤ 10000)
  | 0x0D => decide (v < 2 ^ 64)
  | _ => decide (2000 ≤ v) && decide (v ≤ 16000)

/-- Whether a key is in the table of R322. -/
def keyOk (k : Nat) : Bool := 1 ≤ k && k ≤ 0x0E

/-- The items of a table. -/
def tableItems (l : List (Nat × Nat)) : List Item := l.flatMap fun x => [.num x.1, .num x.2]

/-- SETTINGS_READ: committed values, and staged ones apart (R323). -/
def State.cmdSettingsRead (s : State) (key : Option Nat) : Answer :=
  match key with
  | none =>
    (s, .ok, [.num s.set.committed.length] ++ tableItems s.set.committed ++ tableItems s.set.staged)
  | some k =>
    if !keyOk k then s.refuse .notFound
    else (s, .ok, [match keyOf s.set.committed k with | some v => .num v | none => .flag false,
      match keyOf s.set.staged k with | some v => .num v | none => .flag false])

/-- SETTINGS_STAGE. -/
def State.cmdSettingsStage (s : State) (k v : Nat) : Answer :=
  if !keyOk k then s.refuse .notFound
  else if !settingOk k v (fun j => (keyOf (overlay s.set.committed s.set.staged) j).getD 0) then s.refuse .badArgument
  else ({ s with set := { s.set with staged := setKey s.set.staged k v } }, .ok, [])

/-- SETTINGS_COMMIT (R324): refused without an identity key (R375). -/
def State.cmdSettingsCommit (s : State) (w : Who) : Answer :=
  if s.set.committing.isSome then s.refuse .busyTransition
  else if s.keyless then s.refuse .state
  else
    ({ s with set := { s.set with
        staged := []
        committing := some { session := w.session, seq := w.seq, table := overlay s.set.committed s.set.staged } } },
      .accepted, [])

/-- The copy of the settings table that is not in use becomes valid or not. -/
def Settings.otherCopy (t : Settings) (ok : Bool) : Settings :=
  if t.copyB then { t with valid0 := ok } else { t with valid1 := ok }

/-- SETTINGS_COMMIT_COMPLETE (R309, R322, R324): the other copy, read back and signed, is selected; keys from 0x09 on act from
now on. A copy that does not verify, or that the flash does not take, leaves the previous one in use. -/
def execSettingsCommitComplete (result : CommitEnd) (s : State) : Res :=
  match s.set.committing with
  | none => .next s
  | some c =>
    let failed := { s with set := { s.set.otherCopy false with committing := none } }
    match result with
    | .ok =>
      let t := s.set.otherCopy true
      let s := { s with set := { t with
        committed := c.table, copyB := !t.copyB, counter := (t.counter + 1) % 2 ^ 32, committing := none
        active := overlay t.active (c.table.filter fun x => 0x09 ≤ x.1) } }
      .next (s.done c.session c.seq 0x0802 .ok [])
    | .verify => .next ((failed.authFail 5 false 0 c.session).done c.session c.seq 0x0802 .verify [])
    | .flash => .next (failed.done c.session c.seq 0x0802 .flash [])

/-! ### The domain (R315, R361) -/

/-- DOMAIN_MAP: own number, master, members with serials and the port of the route. -/
def State.cmdDomainMap (s : State) : Answer :=
  (s, .ok,
    [.num s.kol.module, .flag s.kol.inDomain, .num s.kol.master] ++ s.kol.members.flatMap fun m =>
      [.num m.num, .num m.serial, match s.route m.num with | some (p, _) => .num p | none => .flag false])

/-- REDISCOVER (R315, R362, R406): discovery runs again while nothing runs; a module that lost its reference needs it back
(DEDUCED, log 67). -/
def State.cmdRediscover (s : State) (w : Who) : Answer :=
  if !s.powered || s.regions.any (fun x => x.phase == .running) || !s.sec.cert || s.keyless
      || !(s.pwr.refLocked || s.pwr.mayRejoin) then s.refuse .state
  else if s.kol.discovering.isSome then s.refuse .busyTransition
  else
    let s := s.leaveDomain
    ({ s with
        pwr := { s.pwr with refLocked := true, mayRejoin := false }
        kol := { s.kol with
          discovering := some { since := s.time.tick, verified := [], client := some (w.session, w.seq) } } },
      .accepted, [])

end Sys2Proof.Machine
end

