-- ==== Sys2Proof/Machine/SecCmds.lean ====
section
/-! DEFINITION. Register commands (R315, R317, R333, R337), debug access (R385), firmware (R305, R306, R374), lifecycle (R376,
R377), debug tokens (R382 to R384) and attestation (R380, R381). -/

namespace Sys2Proof.Machine

/-! ### REG_READ and REG_WRITE -/

/-- The view of a session (R336). -/
def viewFor (priv : Bool) : View := if priv then .p else .u

/-- A refused register command: PRIVILEGE also raises its fault (R309, R336). -/
def State.regRefuse (s : State) (e : RegErr) : Answer :=
  match e with
  | .bad => s.refuse .badArgument
  | .priv => (s.raiseFree .privilege, .privilege, [])
  | .state => s.refuse .state

/-- The first error of some checks. -/
def firstErr {α : Type} (l : List (Except RegErr α)) : Option RegErr :=
  l.findSome? fun e => match e with | .error x => some x | .ok _ => none

/-- The results of checks that all pass. -/
def okList {α : Type} (l : List (Except RegErr α)) : List α :=
  l.filterMap fun e => match e with | .ok x => some x | .error _ => none

/-- REG_READ: 1 to 64 words; none is read when one is refused. -/
def State.cmdRegRead (s : State) (priv : Bool) (g : GA) (n : Nat) : Answer :=
  if n = 0 || 64 < n then s.refuse .badArgument
  else
    let cs := (List.range n).map fun i => s.regReadCheck (viewFor priv) (g + 8 * i)
    match firstErr cs with
    | some e => s.regRefuse e
    | none =>
      let (s, items) := (okList cs).foldl
        (fun (a : State × List Item) r =>
          let (s, v) := a.1.regReadAt r true
          (s, a.2 ++ [.num v])) (s, [])
      (s, .ok, items)

/-- The address of a register under a broadcast target: class in [13:11], instance in [10:0] of the target. -/
def State.bcastGA (s : State) (b : Option Nat) (g : GA) : GA :=
  match b with
  | none => g
  | some t => s.kol.module * 2 ^ 58 + 3 * 2 ^ 56 + (t / 2048 % 8) * 2 ^ 53 + (t % 2048) * 2 ^ 42 + g % 2 ^ 20

/-- A configuration write that applies at once, noted in the runs that it reaches (R275, R337); a buffered one is noted by the
boundary that applies it, and a change of pace by the pace items of the record. -/
def State.noteWrite (s : State) (r : RegLoc) (i : RegInfo) (g v : Nat) : State :=
  if i.cls != .i || r.cls == 3 then s
  else
    let xs := (((s.regRegions r).map fun x => x.num).dedup.filterMap s.region?).filter fun x => x.phase == .running
    xs.foldl (fun s x => s.noteInput x.num [g, v] (s.inputStep x g)) s

/-- REG_APPLIED at once, for a write whose entries wait nowhere (R317): each target core with its step. -/
def State.appliedNow (s : State) (w : Who) (ls : List Nat) : State :=
  s.tell w.session .regApplied ([.num w.seq] ++ ls.flatMap fun l =>
    [.num l, match s.core? l with | some c => .num c.step | none => .flag false])

/-- REG_WRITE: every write is checked before the first applies (R317, R333, R334). -/
def State.cmdRegWrite (s : State) (w : Who) (g : GA) (vs : List Nat) (b : Option Nat) (f : ApplyForm) : Answer :=
  if vs.isEmpty || 64 < vs.length then s.refuse .badArgument
  else
    let gs := (List.range vs.length).map fun i => (s.bcastGA b (g + 8 * i), vs.getD i 0)
    let cs := gs.map fun p => s.regWriteCheck (viewFor w.priv) p.1 f p.2
    match firstErr cs with
    | some e => s.regRefuse e
    | none =>
      let ws := (okList cs).zip gs
      let waits := (ws.flatMap fun p => if p.1.2.cls == .b then s.regTargets p.1.1 else []).dedup
      let events := f != .start
      let (s, t) : State × Nat :=
        if events && !waits.isEmpty then s.newTicket w.session w.seq waits else (s, 0)
      let s := ws.foldl
        (fun s p => (s.noteWrite p.1.1 p.1.2 p.2.1 p.2.2).regPut .host p.1.1 p.1.2 f p.2.2 t) s
      let s := if events && waits.isEmpty then
          s.appliedNow w (ws.flatMap fun p => s.regTargets p.1.1).dedup else s
      (s, .ok, [])

/-! ### DEBUG_ACCESS (R333, R385) -/

/-- The status that a fault of an access gives. -/
def faultStatus (f : Option FCode) : Status :=
  match f with
  | some .addressUnmapped => .badArgument
  | some .parkedTarget => .state
  | _ => .ok

/-- The clock runs, n cycles at most, until an access is done. -/
def State.await (n stamp : Nat) (s : State) : State :=
  match n with
  | 0 => s
  | k + 1 =>
    match s.job? stamp with
    | none => s
    | some j => if s.jobDone j then s else State.await k stamp s.cc

/-- The cycles that a word of debug may wait for its banks: the reply time of 0.1 ms for a word (R315; DESIGN CHOICE, log
97). -/
def debugWait : Nat := 330000

/-- One word of debug outside control space: an access, for which the clock runs until it is done (R98, R225, R385). What the
wait does not bring reads as zeros. Writes that wait in the combiner for the granule go first (DEDUCED, log 46). -/
def State.debugWord (s : State) (g : GA) (data : Option (List Byte)) (e : EccOutcome) : State × List Byte × Option FCode :=
  let stamp := s.fab.nextStamp
  let s := State.await debugWait stamp (s.access (some .debug) g 8 data e .debug)
  match s.job? stamp with
  | none => (s, List.replicate 8 0, none)
  | some j =>
    let s := { s with fab := { s.fab with jobs := s.fab.jobs.filter fun i => i.stamp != stamp } }
    if data.isSome then (s, [], j.fault.map fun f => f.1)
    else
      let (s, bs, f) := s.eccReq g j.bytes e
      (s, bs, (firstFault j.fault f).map fun f => f.1)

/-- Whether an address is in control space. -/
def State.controlAt (s : State) (g : GA) : Bool := match s.place g with | .control _ => true | _ => false

/-- One word read by debug, with the first fault so far; control space is read under the privileged view (R339, R385). -/
def State.debugRead (e : EccOutcome) (a : State × List Item × Option FCode) (g : GA) : State × List Item × Option FCode :=
  if a.1.controlAt g then
    let (s, v, ok) := a.1.reqRead .debug g
    (s, a.2.1 ++ [.num v], if ok then a.2.2 else firstFault a.2.2 (some .addressUnmapped))
  else
    let (s, bs, f) := a.1.debugWord g none e
    (s, a.2.1 ++ [.num (leVal bs)], firstFault a.2.2 f)

/-- One word written by debug; one that enters a RUNNING region is noted in the ledger (R385) and in the run record. -/
def State.debugWrite (a : State × Option FCode) (p : GA × Nat) : State × Option FCode :=
  if a.1.controlAt p.1 then
    let (s, ok) := a.1.reqWrite .debug p.1 p.2
    (s, if ok then a.2 else firstFault a.2 (some .addressUnmapped))
  else
    let s := match a.1.runningAt p.1 with
      | some x => (a.1.ledger 4 [.num p.1]).noteInput x.num [p.1, p.2] (a.1.inputStep x p.1)
      | none => a.1
    let (s, _, f) := s.debugWord p.1 (some (leBytes 8 p.2)) .clean
    (s, firstFault a.2 f)

/-- The code of a fault, as the error that goes back to debug. -/
def faultItems (f : Option FCode) : List Item := match f with | some c => [.num c.num] | none => []

/-- DEBUG_ACCESS: 1 to 1,024 words; reads from OBSERVE on, writes at FULL. A word that is refused reads as zeros or is
dropped; the status and the fault code after the words report it (R240; DEDUCED, log 64). -/
def State.cmdDebugAccess (s : State) (g : GA) (n : Nat) (op : DebugOp) : Answer :=
  if n = 0 || 1024 < n || (match op with | .write l => l.length != n | .read _ => false) then s.refuse .badArgument
  else
    let admitted : Bool := match s.sec.level, op with
      | .closed, _ => false
      | .observe, .read _ => true
      | .observe, .write _ => false
      | .full, _ => true
    if !admitted then (s.raiseFree .privilege, .privilege, [])
    else match op with
      | .read e =>
        let (s, items, f) := ((List.range n).map fun i => g + 8 * i).foldl (State.debugRead e) (s, [], none)
        (s, faultStatus f, items ++ faultItems f)
      | .write l =>
        let (s, f) := ((List.range n).map fun i => (g + 8 * i, l.getD i 0 % 2 ^ 64)).foldl State.debugWrite (s, none)
        (s, faultStatus f, faultItems f)

/-! ### Firmware (R305, R306, R374) -/

/-- Whether an update is refused: a region in transition, a barrier between its phases, a restart or a commit (R306). -/
def State.updateBusy (s : State) : Bool :=
  s.regions.any Region.busy || !s.fab.barriers.isEmpty || s.fw.restart.isSome

/-- A firmware image as its bytes show it (R373, R374). -/
structure ImageView where
  version : Nat
  security : Nat
  reservedOk : Bool
  bodyLength : Nat
  bodyOk : Bool
  headerDigest : Nat
  trailer : Trailer

/-- Some bytes of a list. -/
def bytesIn (l : List Byte) (off n : Nat) : List Byte := (l.drop off).take n

/-- The SHAKE256 digest of some bytes, as the 64 bytes that fields of the spec hold. -/
def digestBytes (l : List Byte) : Nat := Config.digestOf (l.map BitVec.toNat) % 2 ^ 512

/-- An image read from its bytes (R374): a header of 96 B, the body, and a trailer of 3,074 B over the header (R373). The
verdict on the trailer's signature comes with the command. -/
def imageView (l : List Byte) (sigOk : Bool) : ImageView :=
  let n := leVal (bytesIn l 16 8)
  let t := l.drop (96 + n)
  let kind := ((t[0]?).getD 0).toNat
  { version := leVal (bytesIn l 0 8)
    security := leVal (bytesIn l 8 1)
    reservedOk := (bytesIn l 9 7).all (fun b => b == 0) && (bytesIn l 88 8).all fun b => b == 0
    bodyLength := n
    bodyOk := digestBytes (bytesIn l 96 n) == leVal (bytesIn l 24 64)
    headerDigest := digestBytes (l.take 96)
    trailer :=
      { owner := kind.testBit 7, slot := kind % 4, keyDigest := digestBytes (bytesIn t 1 1793), sigOk := sigOk } }

/-- Whether an image verifies (R374). -/
def State.imageGood (s : State) (v : ImageView) (length : Nat) : Bool :=
  decide (length = 96 + v.bodyLength + 3074) && !v.trailer.owner && (s.trailerCause v.trailer).isNone && v.bodyOk && v.reservedOk
    && decide (v.security ≤ 64) && decide (s.sec.rollback ≤ v.security)

/-- The inactive image in flash. -/
def Firmware.putInactive (f : Firmware) (i : Image) : Firmware := if f.runningB then { f with imageA := i } else { f with imageB := i }

/-- FIRMWARE_UPDATE (R305, R309, R316): the image is read from its allocation and written over the inactive one, Mumetal
verifies it, and the management harts restart on it. What a failed write leaves does not verify (DESIGN CHOICE, log 65). -/
def State.cmdFirmwareUpdate (s : State) (w : Who) (g : GA) (n : Nat) (i : ImageArg) : Answer :=
  if s.updateBusy then s.refuse .busyTransition
  else if !s.inAlloc g n then s.refuse .notFound
  else
    let v := imageView ((List.range n).map fun k => s.placeByte (s.place (g + k))) i.sigOk
    let good := s.imageGood v n
    let img : Image :=
      { version := v.version, security := v.security, headerDigest := v.headerDigest, ok := good && i.flashOk }
    let s := { s with fw := s.fw.putInactive img }
    if !i.flashOk then s.refuse .flash
    else if !good then (s.authFail 4 v.trailer.owner v.trailer.slot w.session, .verify, [])
    else
      ({ s with
          fw := { s.fw with
            runningB := !s.fw.runningB, fallback := false, mgmtDown := true
            restart := some { since := s.time.tick, update := true, session := w.session, seq := w.seq } }
          set := { s.set with staged := [] }
          pwr := { s.pwr with watchdogArmed := false } }, .accepted, [])

/-- FIRMWARE_FALLBACK (R305): a new image that does not run 1.4 s after the restart gives way to the previous one
(DEDUCED, log 65). -/
def execFirmwareFallback (now : Nat) (s : State) : Res :=
  let s := s.atTick now
  match s.fw.restart with
  | some r =>
    if r.update && !s.fw.fallback && r.since + 1400 ≤ s.time.tick then
      .next { s with fw := { s.fw with runningB := !s.fw.runningB, fallback := true } }
    else .next s
  | none => .next s

/-- The events that waited for the management harts, sent oldest first (R305); they are in the ledger already. -/
def State.flushDeferred (s : State) : State :=
  s.fw.deferred.foldl
    (fun s e => s.sendTo
      (fun x => match e.1.classBit, e.2.1.head? with
        | some _, _ => x.wants e.1
        | none, some (.num n) => x.num == n
        | none, _ => false) e.1 e.2.1 e.2.2)
    { s with fw := { s.fw with deferred := [] } }

/-- A park or a reopening that the restart has deferred takes effect from now on (R306). -/
def ParkEntry.deferTo (e : ParkEntry) (cycle : Nat) : ParkEntry :=
  match e.phase with
  | .pending p => { e with phase := .pending (p.map (max cycle)), since := max e.since cycle }
  | .reopening p => { e with phase := .reopening (p.map (max cycle)), since := max e.since cycle }
  | _ => e

/-- What the restart has deferred goes on (R306): parks, and the arrivals of barriers. -/
def State.resumeDeferred (s : State) : State :=
  let own := s.kol.module
  let here (b : Barrier) : Bool := b.phase == .arrival && !(b.arrivals.any fun a => a.1 == own)
  let s := { s with
    mem := { s.mem with parked := s.mem.parked.map fun (e : ParkEntry) => e.deferTo s.time.cycle }
    fab := { s.fab with barriers := s.fab.barriers.map fun (b : Barrier) =>
      { b with asked := if here b then max b.asked s.time.cycle else b.asked } } }
  (s.fab.barriers.filter here).foldl (fun s b => s.arriveRegion b.seq) s

/-- MANAGEMENT_RESTART_COMPLETE (R305, R306, R350, R374, R376): the mailbox answers again. -/
def execManagementRestartComplete (s : State) : Res :=
  match s.fw.restart with
  | none => .next s
  | some r =>
    let s := { s with
      fw := { s.fw with restart := none, mgmtDown := false }
      pwr := { s.pwr with watchdogArmed := true } }
    let s := s.flushDeferred.resumeDeferred
    if r.update then
      let s := if s.fw.fallback then s else s.burnRollback
      .next ((s.firmwareEvent s.fw.fallback).done r.session r.seq 0x0803 (if s.fw.fallback then .state else .ok) [])
    else .next (s.done r.session r.seq 0x0901 .ok [.num s.sec.serial, .flag s.part.cores1104, .flag s.part.grade300])

/-! ### Security status and lifecycle (R371, R376, R377) -/

/-- SECURITY_STATUS: lifecycle, debug level, digest slots in use, revocations, RESET_MAP, ROLLBACK, the last violation. -/
def State.cmdSecurityStatus (s : State) : Answer :=
  (s, .ok,
    [.num s.lifecycle, .num s.sec.level.num, .num (packFields ((List.range 4).map fun i => (i, bit (s.sec.vendor.getD i 0 != 0)))),
     .num (packFields ((List.range 2).map fun i => (i, bit (s.sec.owner.getD i 0 != 0)))), .num s.sec.vendorRevoke,
     .num s.sec.ownerRevoke, .num s.sec.resetMap, .num s.sec.rollback,
     match s.sec.violation with | some c => .num c | none => .flag false])

/-- A nonce of a signed body: drawn, unexpired after 10 s, used once. -/
def nonceLive (o : Option (Nat × Nat)) (nonce tick : Nat) : Bool :=
  match o with
  | some (n, at_) => n == nonce && tick ≤ at_ + 10000
  | none => false

/-- An accepted advance (R376): every session closes, the debug level is CLOSED, and the management harts restart. -/
def State.advanced (s : State) (w : Who) : Answer :=
  let s := s.loseManagement
  ({ s with fw := { s.fw with
      mgmtDown := true, restart := some { since := s.time.tick, update := false, session := w.session, seq := w.seq } } },
    .accepted, [.num s.sec.serial, .flag s.part.cores1104, .flag s.part.grade300])

/-- The advance to PROVISIONED: owner digests and RESET_MAP burned, the identity key made. -/
def State.toProvisioned (s : State) (o0 o1 map : Nat) : State :=
  { s with sec := { s.sec with
      owner := [o0, o1], resetMap := map, lifecycle := s.sec.lifecycle ||| 1, identity := true, cert := false } }

/-- The advance to RETURNED: owner slots revoked; identity key, certificate, settings copies, ledger and backup registers
erased (R354). -/
def State.toReturned (s : State) : State :=
  { s with
    sec := { s.sec with lifecycle := s.sec.lifecycle ||| 4, ownerRevoke := 3, identity := false, cert := false }
    set := { s.set with committed := defaultSettings, active := defaultSettings, valid0 := false, valid1 := false }
    host := { s.host with ledger := [] }
    glb := { s.glb with backup := List.replicate 16 0 } }

/-- A vendor trailer that Mumetal accepts. -/
def State.vendorOk (s : State) (t : Option Trailer) : Bool :=
  match t with
  | some t => !t.owner && (s.trailerCause t).isNone
  | none => false

/-- Whether a session was elevated with an owner key. -/
def State.ownerSession (s : State) (n : Nat) : Bool :=
  match (s.session? n).bind fun x => x.signer with
  | some (o, _) => o
  | none => false

/-- The slots of a kind that would still serve after one more is revoked. -/
def slotsLeft (digests : List Nat) (revoked slot : Nat) : Bool :=
  (List.range digests.length).any fun i => digests.getD i 0 != 0 && !revoked.testBit i && i != slot

/-- LIFECYCLE advance. -/
def State.lcAdvance (s : State) (w : Who) (target o0 o1 map : Nat) (t : Option Trailer) : Answer :=
  match s.lifecycle, target with
  | 0, 1 =>
    if o0 = 0 || 256 ≤ map then s.refuse .badArgument
    else if !s.vendorOk t then s.authRefuse 8 false 0 w.session
    else (s.toProvisioned o0 o1 map).advanced w
  | 1, 2 =>
    if !s.sec.cert then s.refuse .state
    else if !s.ownerSession w.session then s.authRefuse 8 true 0 w.session
    else { s with sec := { s.sec with lifecycle := s.sec.lifecycle ||| 2 } }.advanced w
  | 3, _ => s.refuse .state
  | _, 3 =>
    if !(s.ownerSession w.session || s.vendorOk t) then s.authRefuse 8 false 0 w.session else s.toReturned.advanced w
  | _, _ => s.refuse .state

/-- LIFECYCLE install: the certificate of the module's own serial and key, with a vendor trailer. -/
def State.lcInstall (s : State) (w : Who) (keyOk : Bool) (t : Trailer) : Answer :=
  if !s.sec.identity then s.refuse .state
  else if !keyOk || !s.vendorOk (some t) then s.authRefuse 7 t.owner t.slot w.session
  else ({ s with sec := { s.sec with cert := true } }.done w.session w.seq 0x0901 .ok [], .accepted, [])

/-- LIFECYCLE revoke: an owner slot by the other owner, a vendor slot by the trailer of another vendor slot. -/
def State.lcRevoke (s : State) (w : Who) (owner : Bool) (slot : Nat) (t : Option Trailer) : Answer :=
  if owner then
    if 2 ≤ slot || !slotsLeft s.sec.owner s.sec.ownerRevoke slot then s.refuse .badArgument
    else if ((s.session? w.session).bind fun x => x.signer) != some (true, 1 - slot) then s.authRefuse 8 true slot w.session
    else
      let s := { s with sec := { s.sec with ownerRevoke := s.sec.ownerRevoke ||| 2 ^ slot } }
      (s.done w.session w.seq 0x0901 .ok [], .accepted, [])
  else if 4 ≤ slot || !slotsLeft s.sec.vendor s.sec.vendorRevoke slot then s.refuse .badArgument
  else if !(s.vendorOk t && (match t with | some t => t.slot != slot | none => false)) then
    s.authRefuse 8 false slot w.session
  else
    let s := { s with sec := { s.sec with vendorRevoke := s.sec.vendorRevoke ||| 2 ^ slot } }
    (s.done w.session w.seq 0x0901 .ok [], .accepted, [])

/-- A signed body (R376): its nonce and its serial number are checked first (DEDUCED, log 63). -/
def State.lcBody (s : State) (w : Who) (serial nonce : Nat) (f : State → Answer) : Answer :=
  let live := nonceLive s.sec.lcNonce nonce s.time.tick
  let s := { s with sec := { s.sec with lcNonce := none } }
  if !live then s.authRefuse 9 false 0 w.session
  else if serial != s.sec.serial then s.authRefuse 8 false 0 w.session
  else f s

/-- LIFECYCLE: in STANDBY, with no restart in progress. -/
def State.cmdLifecycle (s : State) (w : Who) (a : LifecycleArg) : Answer :=
  if s.pwr.state != .standby || s.pwr.moving.isSome then s.refuse .state
  else if s.fw.restart.isSome then s.refuse .busyTransition
  else match a with
    | .nonce =>
      let (s, n) := s.draw
      ({ s with sec := { s.sec with lcNonce := some (n, s.time.tick) } }, .ok, [.num n])
    | .advance target serial nonce o0 o1 map t => s.lcBody w serial nonce fun s => s.lcAdvance w target o0 o1 map t
    | .install serial nonce keyOk t => s.lcBody w serial nonce fun s => s.lcInstall w keyOk t
    | .revoke serial nonce owner slot t => s.lcBody w serial nonce fun s => s.lcRevoke w owner slot t

/-! ### Debug tokens (R382 to R384, R388) -/

/-- A refused token. -/
def State.tokenRefuse (s : State) (reason session : Nat) : Answer :=
  (s.raiseModule .debugTokenRejected (packFields [(0, reason), (16, session % 65536)]), .auth, [])

/-- Whether trailers name the signers that a level needs in a lifecycle state (R383). -/
def signersOk (lifecycle level : Nat) (ts : List Trailer) : Bool :=
  let owner := ts.any fun t => t.owner
  let vendor := ts.any fun t => !t.owner
  if lifecycle = 0 ∨ lifecycle = 3 then vendor else if lifecycle = 2 ∧ level = 2 then owner && vendor else owner

/-- DEBUG_TOKEN: a nonce, a lowering, or a token. -/
def State.cmdDebugToken (s : State) (w : Who) (a : DebugArg) : Answer :=
  match a with
  | .nonce =>
    let (s, n) := s.draw
    ({ s with sec := { s.sec with dbgNonce := some (n, s.time.tick) } }, .ok, [.num n])
  | .lower =>
    if s.keyless && (s.pwr.state == .ready || s.pwr.state == .active) then
      (s.raiseModule .debugTokenRejected (packFields [(0, 7), (16, w.session % 65536)]), .state, [])
    else (s.setLevel .closed [], .ok, [])
  | .token level duration serial nonce ts =>
    let live := nonceLive s.sec.dbgNonce nonce s.time.tick
    let s := { s with sec := { s.sec with dbgNonce := none } }
    if !live then s.tokenRefuse 1 w.session
    else if serial != s.sec.serial then s.tokenRefuse 2 w.session
    else if !signersOk s.lifecycle level ts then s.tokenRefuse 3 w.session
    else if ts.any fun t => (s.trailerCause t).isSome then s.tokenRefuse 4 w.session
    else if duration = 0 || 86400000 < duration then s.tokenRefuse 5 w.session
    else if level = 0 || 3 ≤ level then s.tokenRefuse 6 w.session
    else
      let s := s.setLevel (if level = 1 then .observe else .full) ([.num duration] ++ ts.flatMap fun t => [.flag t.owner, .num t.slot])
      ({ s with sec := { s.sec with dbgUntil := s.time.tick + duration } }, .ok, [])

/-- DEBUG_EXPIRY (R384). -/
def execDebugExpiry (now : Nat) (s : State) : Res := .next (s.atTick now).debugEnd

/-! ### Attestation (R380, R381) -/

/-- The numbers that stand for a fault record in a digest. -/
def faultNumbers (f : FRec) : List Nat :=
  [f.code.num, f.lcore.getD (2 ^ 11), f.step, f.off, f.rank, f.bundle, f.detail]

/-- The number of the reason that ended a run (R281). -/
def EndReason.num : EndReason → Nat
  | .halt => 0 | .stop => 1 | .stopStep => 2 | .host => 3

/-- The numbers that stand for a run record in its digest: every item of R281, with the length of each list before it. -/
def runNumbers (q : RunRec) : List Nat :=
  let list {α : Type} (l : List α) (f : α → List Nat) : List Nat := l.length :: l.flatMap f
  let three (c : Nat × Nat × Nat) : List Nat := [c.1, c.2.1, c.2.2]
  [q.object, q.record, q.n, q.modules, q.seed, q.base, q.t0, bit q.clock300]
    ++ list q.placements (fun p => [p.1, p.2]) ++ list q.tensors (fun g => [g]) ++ list q.paces three
    ++ list q.inputs (fun p => [p.1, p.2]) ++ list q.counters three ++ list q.choices three ++ list q.faults faultNumbers
    ++ match q.ended with | some e => [1, e.1, e.2.num] | none => [0]

/-- The attestation entry of a region (R381). -/
def State.attestRegion (s : State) (r : Nat) : List Item :=
  match s.region? r with
  | none => List.replicate 10 (.num 0)
  | some x =>
    let ended := x.loaded && (match x.runRec with | some q => q.ended.isSome | none => false)
    [.num (s.regionRegValue r 0 % 256), .flag x.loaded, .flag ended]
      ++ if x.loaded then
        [.num x.n, .num x.record, .num x.base, .num x.digest, .num x.place.digest,
         .num (match x.runRec with | some q => if ended then Config.digestOf (runNumbers q) else 0 | none => 0),
         .num (if x.ran then s.regionLastStep x else 2 ^ 64 - 1)]
      else List.replicate 7 (.num 0)

/-- ATTEST: in PRODUCTION, and in PROVISIONED with a certificate. -/
def State.cmdAttest (s : State) (nonce : Nat) : Answer :=
  if 2 ^ 256 ≤ nonce then s.refuse .badArgument
  else if !(s.lifecycle == 2 || (s.lifecycle == 1 && s.sec.cert)) then s.refuse .state
  else
    let power := match s.pwr.state with | .standby => 1 | .ready => 2 | .active => 3 | _ => 0
    let fuses := packFields [(0, s.sec.vendorRevoke % 16),
      (4, (bit (s.sec.owner.getD 0 0 != 0)) + 2 * bit (s.sec.owner.getD 1 0 != 0)), (6, s.sec.ownerRevoke % 4),
      (8, s.sec.resetMap % 256), (16, s.sec.rollback % 128)]
    (s, .ok,
      [.num 1, .num 2000, .num s.sec.serial, .num s.lifecycle, .num s.sec.level.num, .num power,
       .num (packFields [(0, bit s.fw.runningB), (1, bit s.fw.fallback)]), .num nonce, .num s.time.cycle, .num fuses,
       .num s.running.version, .num s.running.headerDigest, .num s.set.counter,
       .num (Config.digestOf (s.set.committed.flatMap fun x => [x.1, x.2]))]
        ++ (List.range 8).flatMap s.attestRegion)

end Sys2Proof.Machine
end

