-- ==== Sys2Proof/Machine/Mailbox.lean ====
section
/-! DEFINITION. The mailbox: discarded datagrams (R308), privilege and tags (R311), sequencing, held commands and cached
replies (R312, R313), one meaning per command of R315, and the life of sessions and events (R311, R320). -/

namespace Sys2Proof.Machine

/-- The code of a command (R315). -/
def codeOf : MbxCmd → Nat
  | .sessionOpen => 0x0001 | .sessionElevate _ => 0x0002 | .sessionClose => 0x0003 | .keepalive => 0x0004
  | .eventSubscribe _ _ => 0x0005 | .discover => 0x0100 | .inventory _ _ => 0x0101 | .partners => 0x0102
  | .load _ => 0x0200 | .start _ => 0x0201 | .resume _ => 0x0202 | .stop _ _ => 0x0203 | .solderStep _ _ _ => 0x0204
  | .replayStop _ _ => 0x0205 | .define _ _ _ _ _ => 0x0300 | .undefine _ => 0x0301 | .park _ _ => 0x0302
  | .repair _ _ _ => 0x0303 | .parkUnit _ _ => 0x0304 | .regionStatus _ => 0x0305 | .streamOpen _ => 0x0400
  | .streamClose _ => 0x0401 | .stackAlloc _ _ => 0x0402 | .stackFree _ => 0x0403 | .regRead _ _ => 0x0500
  | .regWrite _ _ _ _ => 0x0501 | .powerState _ => 0x0600 | .powerCap _ => 0x0601 | .pace _ _ _ => 0x0602
  | .reset _ => 0x0603 | .faultRead _ _ => 0x0700 | .faultPolicy _ _ _ => 0x0701 | .ledgerRead _ _ => 0x0702
  | .runRecord _ _ => 0x0703 | .choiceLog _ _ => 0x0704 | .backupReg _ _ => 0x0705 | .settingsRead _ => 0x0800
  | .settingsStage _ _ => 0x0801 | .settingsCommit => 0x0802 | .firmwareUpdate _ _ _ => 0x0803
  | .securityStatus => 0x0900 | .lifecycle _ => 0x0901 | .debugToken _ => 0x0902 | .attest _ => 0x0A00
  | .debugAccess _ _ _ => 0x0A01 | .domainMap => 0x0B00 | .rediscover => 0x0B01 | .domainReset => 0x0B02

/-- The codes that any session may use (R315, Priv column U, or a check of their own). -/
def openCodes : List Nat :=
  [0x0001, 0x0002, 0x0003, 0x0004, 0x0005, 0x0100, 0x0101, 0x0102, 0x0305, 0x0400, 0x0401, 0x0500, 0x0501, 0x0700, 0x0702,
   0x0703, 0x0704, 0x0800, 0x0900, 0x0A00, 0x0A01, 0x0B00]

/-- The codes that need a privileged session (R315, Priv column P). -/
def privCodes : List Nat :=
  [0x0200, 0x0201, 0x0202, 0x0203, 0x0204, 0x0205, 0x0300, 0x0301, 0x0302, 0x0303, 0x0304, 0x0402, 0x0403, 0x0600, 0x0601,
   0x0602, 0x0603, 0x0701, 0x0705, 0x0801, 0x0802, 0x0803, 0x0901, 0x0902, 0x0B01, 0x0B02]

/-- Whether a command needs a privileged session. -/
def needsPriv (c : MbxCmd) : Bool := privCodes.contains (codeOf c)

/-- The number of a status (R309). -/
def Status.num : Status → Nat
  | .ok => 0x0000 | .accepted => 0x0001 | .unknownCommand => 0x0010 | .badArgument => 0x0011 | .sequence => 0x0012
  | .noSession => 0x0013 | .sessionLimit => 0x0014 | .privilege => 0x0020 | .auth => 0x0021 | .busyTransition => 0x0030
  | .state => 0x0031 | .loadRefused _ => 0x0032 | .notFound => 0x0033 | .verify => 0x0034 | .flash => 0x0035

/-- The meaning of a command for its sender. -/
def State.runCmd (s : State) (w : Who) (source : Nat × Nat) (c : MbxCmd) : Answer :=
  match c with
  | .sessionOpen => s.cmdSessionOpen source
  | .sessionElevate a => s.cmdSessionElevate w a
  | .sessionClose => (s.closeSession w.session, .ok, [])
  | .keepalive => (s, .ok, [])
  | .eventSubscribe m d => s.cmdEventSubscribe w m d
  | .discover => s.cmdDiscover
  | .inventory p o => s.cmdInventory p o
  | .partners => s.cmdPartners
  | .load a => s.cmdLoad w a
  | .start rs => s.cmdStart w rs
  | .resume rs => s.cmdResume w rs
  | .stop r f => s.cmdStop w r f
  | .solderStep rs k p => s.cmdSolderStep w rs k p
  | .replayStop r f => s.cmdReplayStop r f
  | .define r x0 y0 x1 y1 => s.cmdDefine w r x0 y0 x1 y1
  | .undefine r => s.cmdUndefine w r
  | .park r f => s.cmdPark w r f
  | .repair r a f => s.cmdRepair w r a f
  | .parkUnit u p => s.cmdParkUnit w u p
  | .regionStatus r => s.cmdRegionStatus r
  | .streamOpen n => s.cmdStreamOpen w n
  | .streamClose n => s.cmdStreamClose w n
  | .stackAlloc n g => s.cmdStackAlloc n g
  | .stackFree g => s.cmdStackFree g
  | .regRead g n => s.cmdRegRead w.priv g n
  | .regWrite g vs b f => s.cmdRegWrite w g vs b f
  | .powerState t => s.cmdPowerState w t
  | .powerCap n => s.cmdPowerCap n
  | .pace r p i => s.cmdPace r p i
  | .reset a => s.cmdReset w a
  | .faultRead x d => s.cmdFaultRead x d
  | .faultPolicy r c p => s.cmdFaultPolicy r c p
  | .ledgerRead o n => s.cmdLedgerRead o n
  | .runRecord r n => s.cmdRunRecord r n
  | .choiceLog r l => s.cmdChoiceLog r l
  | .backupReg i v => s.cmdBackupReg i v
  | .settingsRead k => s.cmdSettingsRead k
  | .settingsStage k v => s.cmdSettingsStage k v
  | .settingsCommit => s.cmdSettingsCommit w
  | .firmwareUpdate g n i => s.cmdFirmwareUpdate w g n i
  | .securityStatus => s.cmdSecurityStatus
  | .lifecycle a => s.cmdLifecycle w a
  | .debugToken a => s.cmdDebugToken w a
  | .attest n => s.cmdAttest n
  | .debugAccess g n op => s.cmdDebugAccess g n op
  | .domainMap => s.cmdDomainMap
  | .rediscover => s.cmdRediscover w
  | .domainReset => s.cmdDomainReset w

/-- The mailbox answers: STANDBY or above, no reset in progress, no restart of the management harts (R305, R315, R357). -/
def State.listening (s : State) : Bool :=
  s.pwr.reset.isNone && !s.fw.mgmtDown && (s.pwr.state == .standby || s.powered || s.pwr.moving.isSome) && s.pwr.state != .off
    && s.pwr.state != .boot

/-- A reply put before what the command has sent: position n of the outbox. -/
def State.replyAt (s : State) (n : Nat) (o : Out) : State :=
  { s with host := { s.host with outbox := s.host.outbox.take n ++ [o] ++ s.host.outbox.drop n } }

/-- Where the reply to a copy of a command goes (R313, R390). -/
def copyFrom (h : Hdr) : MsgDest := { egress := some h.port, address := h.source, udp := h.udp }

/-- The code that a datagram carries: that of its row's command, or another one. -/
def codeFor (h : Hdr) (c : MbxCmd) : Nat := h.code.getD (codeOf c)

/-- Whether a session is privileged. -/
def State.isPriv (s : State) (n : Nat) : Bool := match s.session? n with | some x => x.priv | none => false

/-- A reply as it is sent now (R307, R313): with the tag in a privileged session (R310). Its Invar step is that of a message
that concerns no core (DEDUCED, log 96). -/
def State.replyOut (s : State) (session seq code : Nat) (tag : Bool) (dests : List MsgDest) (st : Status) (items : List Item) :
    Out :=
  .reply session seq st items (s.msgHdr 2 code st.num tag (s.stepFor none) dests)

/-- The replies with AUTH in a row (R311): the third closes the session. -/
def State.countAuth (s : State) (n : Nat) (st : Status) : State :=
  let s := s.updSession n fun x => { x with authFails := if st == .auth then x.authFails + 1 else 0 }
  match s.session? n with
  | some x => if 3 ≤ x.authFails then s.closeSession n else s
  | none => s

/-- A reply sent now, to the copy that it answers. -/
def State.reply (s : State) (h : Hdr) (code : Nat) (st : Status) (items : List Item) : State :=
  (s.emit (s.replyOut h.session h.seq code (s.isPriv h.session) [copyFrom h] st items)).countAuth h.session st

/-- The answer to a datagram (R309, R311): its code, the privilege it needs, its length, then the command's own. -/
def State.answer (s : State) (w : Who) (h : Hdr) (c : MbxCmd) : Answer :=
  let k := codeFor h c
  if !(openCodes.contains k || privCodes.contains k) then s.refuse .unknownCommand
  else if privCodes.contains k && !w.priv then (s.raiseFree .privilege, .privilege, [])
  else if k != codeOf c || !h.lengthOk then s.refuse .badArgument
  else s.runCmd w (h.source, h.udp) c

/-- A command in its turn: executed, answered to every copy, the reply kept, the sequence advanced (R312, R313). -/
def State.perform (s : State) (h : Hdr) (c : MbxCmd) (copies : List MsgDest) : State :=
  let priv := s.isPriv h.session
  let n := s.host.outbox.length
  let (s, st, items) := s.answer { session := h.session, seq := h.seq, priv := priv } h c
  let s := s.replyAt n
    (s.replyOut h.session h.seq (codeFor h c) (priv || s.isPriv h.session) (copyFrom h :: copies) st items)
  let s := s.updSession h.session fun x => { x with
    next := h.seq + 1
    cache := (x.cache ++ [({ seq := h.seq, status := st, items := items } : CachedReply)]).drop (x.cache.length + 1 - 32) }
  s.countAuth h.session st

/-- A message of a privileged session without a good tag (R311). -/
def State.badTag (s : State) (h : Hdr) (code : Nat) : State := (s.authFail 3 false 0 h.session).reply h code .auth []

/-- Held commands that have come in order, n at most (R312). One that came without its tag before the session was privileged is
not executed (R311). -/
def State.performHeld (s : State) (n num : Nat) : State :=
  match n with
  | 0 => s
  | k + 1 =>
    match s.session? num with
    | none => s
    | some x =>
      match x.held.find? fun e => e.hdr.seq == x.next with
      | none => s
      | some e =>
        let s := s.updSession num fun x => { x with held := x.held.filter fun e => e.hdr.seq != x.next }
        if x.priv && e.hdr.tag != .good then s.badTag e.hdr (codeFor e.hdr e.cmd)
        else (s.perform e.hdr e.cmd e.copies).performHeld k num

/-- A command held out of order; a further copy of one is held with the first, whose time of arrival stands (R312, R313). -/
def Session.hold (x : Session) (h : Hdr) (c : MbxCmd) (tick : Nat) : Session :=
  if x.held.any fun e => e.hdr.seq == h.seq then
    { x with held := x.held.map fun e => if e.hdr.seq == h.seq then { e with copies := e.copies ++ [copyFrom h] } else e }
  else { x with held := x.held ++ [{ hdr := h, cmd := c, arrived := tick }] }

/-- A command of an open session by its sequence (R312). -/
def State.sequenced (s : State) (x : Session) (h : Hdr) (c : MbxCmd) : State :=
  let s := s.updSession x.num fun x => { x with lastTick := s.time.tick, source := (h.source, h.udp) }
  if h.seq = x.next then (s.perform h c []).performHeld 7 x.num
  else if x.next < h.seq then
    if x.next + 7 < h.seq then s.reply h (codeFor h c) .sequence []
    else s.updSession x.num fun x => x.hold h c s.time.tick
  else match x.cache.find? fun r => r.seq == h.seq with
    | some r => s.reply h (codeFor h c) r.status r.items
    | none => s.reply h (codeFor h c) .sequence []

/-- Whether a header is discarded without reply where a message of a kind is due (R308). -/
def badHeader (kind : Nat) (h : Hdr) : Bool :=
  h.magic != 0xC7A1 || h.version != 1 || !h.sizeOk || h.kind != kind || h.reserved != 0

/-- Whether a datagram with a command is discarded without reply (R308). -/
def badDatagram (h : Hdr) : Bool := badHeader 1 h

/-- Commands that a datagram may carry outside a session (R307) (DEDUCED, log 60). -/
def sessionless (c : MbxCmd) : Bool :=
  match c with
  | .sessionOpen | .discover => true
  | _ => false

/-- A datagram from an address has come in by a port (R390). -/
def State.heard (s : State) (port source : Nat) : State :=
  { s with host := { s.host with
      lastPort := (s.host.lastPort.filter fun (p : Nat × Nat) => !(p.1 == source && networkOf p.2 == networkOf port))
        ++ [(source, port)] } }

/-- A datagram outside a session. -/
def State.outside (s : State) (h : Hdr) (c : MbxCmd) : State :=
  let n := s.host.outbox.length
  let k := codeFor h c
  let (s, st, items) : Answer :=
    if !(openCodes.contains k || privCodes.contains k) then s.refuse .unknownCommand
    else if k != codeOf c || !sessionless c then s.refuse .noSession
    else s.answer { session := 0, seq := h.seq, priv := false } h c
  s.replyAt n (s.replyOut 0 h.seq k false [copyFrom h] st items)

/-- A mailbox command arrives (R307 to R313). -/
def State.deliver (s : State) (h : Hdr) (c : MbxCmd) : State :=
  if !s.listening || badDatagram h then s
  else
    let s := s.heard h.port h.source
    if h.session = 0 then s.outside h c
    else match s.session? h.session with
      | none => s.reply h (codeFor h c) .noSession []
      | some x => if x.priv && h.tag != .good then s.badTag h (codeFor h c) else s.sequenced x h c

/-! ### The life of sessions and events -/

/-- HELD_COMMAND_EXPIRY (R312): commands held for 200 ms are discarded. -/
def execHeldCommandExpiry (now : Nat) (s : State) : Res :=
  let s := s.atTick now
  .next { s with host := { s.host with sessions := s.host.sessions.map fun (x : Session) =>
    { x with held := x.held.filter fun e => decide (s.time.tick < e.arrived + 200) } } }

/-- SESSION_IDLE_TIMEOUT (R311). -/
def execSessionIdleTimeout (session now : Nat) (s : State) : Res :=
  let s := s.atTick now
  match s.session? session with
  | some x => if x.lastTick + 1000 * x.idle ≤ s.time.tick && !s.fw.mgmtDown then .next (s.closeSession session) else .next s
  | none => .next s

/-- EVENT_RESEND (R320): every 100 ms, 30 times at most. -/
def execEventResend (session seq now : Nat) (s : State) : Res :=
  let s := s.atTick now
  match (s.session? session).bind fun x => x.events.find? fun e => e.seq == seq with
  | some e =>
    if s.fw.mgmtDown || s.time.tick < e.sent + 100 || 30 < e.tries then .next s
    else
      let s := s.updSession session fun x => { x with
        events := x.events.map fun y => if y.seq == seq then { y with sent := s.time.tick, tries := y.tries + 1 } else y }
      .next (match s.session? session with | some x => s.emit (s.eventOut x seq e.code e.items e.step) | none => s)
  | none => .next s

/-- The events of a session up to a sequence leave; EVENTS_LOST follows when some were discarded (R320). -/
def State.eventsRead (s : State) (session seq : Nat) : State :=
  let s := s.updSession session fun x => { x with events := x.events.filter fun e => decide (seq < e.seq) }
  match s.session? session with
  | some x =>
    if x.evLost = 0 || 1024 ≤ x.events.length then s
    else
      let s := s.updSession session fun x => { x with evLost := 0 }
      s.sendTo (fun y => y.num == session) .eventsLost [.num x.evLost] (s.stepFor none)
  | none => s

/-- EVENT_ACKNOWLEDGE (R307, R308, R311, R320): a message of kind 0x04, whose sequence field is
`seq`, the highest event received in order. -/
def execEventAcknowledge (h : Hdr) (seq : Nat) (s : State) : Res :=
  let h := { h with seq := seq }
  if !s.listening || badHeader 4 h then .next s
  else
    let s := s.heard h.port h.source
    match s.session? h.session with
    | none => .next (s.reply h (h.code.getD 0) .noSession [])
    | some x =>
      .next (if x.priv && h.tag != .good then s.badTag h (h.code.getD 0) else s.eventsRead h.session seq)

/-! ### The commands of R315 -/

/-- SESSION_OPEN. -/
def execSessionOpen (h : Hdr) (s : State) : Res :=
  .next (s.deliver h .sessionOpen)

/-- SESSION_ELEVATE. -/
def execSessionElevate (h : Hdr) (a : ElevateArg) (s : State) : Res :=
  .next (s.deliver h (.sessionElevate a))

/-- SESSION_CLOSE. -/
def execSessionClose (h : Hdr) (s : State) : Res :=
  .next (s.deliver h .sessionClose)

/-- KEEPALIVE. -/
def execKeepalive (h : Hdr) (s : State) : Res :=
  .next (s.deliver h .keepalive)

/-- EVENT_SUBSCRIBE. -/
def execEventSubscribe (h : Hdr) (mask : Nat) (dests : List EventDest) (s : State) : Res :=
  .next (s.deliver h (.eventSubscribe mask dests))

/-- DISCOVER. -/
def execDiscover (h : Hdr) (s : State) : Res :=
  .next (s.deliver h .discover)

/-- INVENTORY. -/
def execInventory (h : Hdr) (part : InvPart) (off : Nat) (s : State) : Res :=
  .next (s.deliver h (.inventory part off))

/-- PARTNERS. -/
def execPartners (h : Hdr) (s : State) : Res :=
  .next (s.deliver h .partners)

/-- LOAD. -/
def execLoad (h : Hdr) (a : LoadArgs) (s : State) : Res :=
  .next (s.deliver h (.load a))

/-- START. -/
def execStart (h : Hdr) (regions : List Nat) (s : State) : Res :=
  .next (s.deliver h (.start regions))

/-- RESUME. -/
def execResume (h : Hdr) (regions : List Nat) (s : State) : Res :=
  .next (s.deliver h (.resume regions))

/-- STOP. -/
def execStop (h : Hdr) (region : Nat) (form : StopForm) (s : State) : Res :=
  .next (s.deliver h (.stop region form))

/-- SOLDER_STEP. -/
def execSolderStep (h : Hdr) (regions : List Nat) (k : Nat) (replace : Bool) (s : State) : Res :=
  .next (s.deliver h (.solderStep regions k replace))

/-- REPLAY_STOP. -/
def execReplayStop (h : Hdr) (region : Nat) (form : ReplayForm) (s : State) : Res :=
  .next (s.deliver h (.replayStop region form))

/-- DEFINE. -/
def execDefine (h : Hdr) (region x0 y0 x1 y1 : Nat) (s : State) : Res :=
  .next (s.deliver h (.define region x0 y0 x1 y1))

/-- UNDEFINE. -/
def execUndefine (h : Hdr) (region : Nat) (s : State) : Res :=
  .next (s.deliver h (.undefine region))

/-- PARK. -/
def execPark (h : Hdr) (region : Nat) (release : Bool) (s : State) : Res :=
  .next (s.deliver h (.park region release))

/-- REPAIR. -/
def execRepair (h : Hdr) (region : Nat) (act : RepairAct) (force : Bool) (s : State) : Res :=
  .next (s.deliver h (.repair region act force))

/-- PARK_UNIT. -/
def execParkUnit (h : Hdr) (unit : ParkUnit) (park : Bool) (s : State) : Res :=
  .next (s.deliver h (.parkUnit unit park))

/-- REGION_STATUS. -/
def execRegionStatus (h : Hdr) (region : Nat) (s : State) : Res :=
  .next (s.deliver h (.regionStatus region))

/-- STREAM_OPEN. -/
def execStreamOpen (h : Hdr) (stream : Nat) (s : State) : Res :=
  .next (s.deliver h (.streamOpen stream))

/-- STREAM_CLOSE. -/
def execStreamClose (h : Hdr) (stream : Nat) (s : State) : Res :=
  .next (s.deliver h (.streamClose stream))

/-- STACK_ALLOC. -/
def execStackAlloc (h : Hdr) (size : Nat) (fixed : Option GA) (s : State) : Res :=
  .next (s.deliver h (.stackAlloc size fixed))

/-- STACK_FREE. -/
def execStackFree (h : Hdr) (ga : GA) (s : State) : Res :=
  .next (s.deliver h (.stackFree ga))

/-- REG_READ. -/
def execRegRead (h : Hdr) (ga : GA) (count : Nat) (s : State) : Res :=
  .next (s.deliver h (.regRead ga count))

/-- REG_WRITE. -/
def execRegWrite (h : Hdr) (ga : GA) (values : List Nat) (bcast : Option Nat) (form : ApplyForm) (s : State) : Res :=
  .next (s.deliver h (.regWrite ga values bcast form))

/-- POWER_STATE. -/
def execPowerState (h : Hdr) (target : PowerName) (s : State) : Res :=
  .next (s.deliver h (.powerState target))

/-- POWER_CAP. -/
def execPowerCap (h : Hdr) (watts : Nat) (s : State) : Res :=
  .next (s.deliver h (.powerCap watts))

/-- PACE. -/
def execPace (h : Hdr) (region p i : Nat) (s : State) : Res :=
  .next (s.deliver h (.pace region p i))

/-- RESET. -/
def execReset (h : Hdr) (a : ResetArg) (s : State) : Res :=
  .next (s.deliver h (.reset a))

/-- FAULT_READ. -/
def execFaultRead (h : Hdr) (scope : FaultScope) (drain : Bool) (s : State) : Res :=
  .next (s.deliver h (.faultRead scope drain))

/-- FAULT_POLICY. -/
def execFaultPolicy (h : Hdr) (region code policy : Nat) (s : State) : Res :=
  .next (s.deliver h (.faultPolicy region code policy))

/-- LEDGER_READ. -/
def execLedgerRead (h : Hdr) (off len : Nat) (s : State) : Res :=
  .next (s.deliver h (.ledgerRead off len))

/-- RUN_RECORD. -/
def execRunRecord (h : Hdr) (region loadSeq : Nat) (s : State) : Res :=
  .next (s.deliver h (.runRecord region loadSeq))

/-- CHOICE_LOG. -/
def execChoiceLog (h : Hdr) (region core : Nat) (s : State) : Res :=
  .next (s.deliver h (.choiceLog region core))

/-- BACKUP_REG. -/
def execBackupReg (h : Hdr) (index : Nat) (value : Option Nat) (s : State) : Res :=
  .next (s.deliver h (.backupReg index value))

/-- SETTINGS_READ. -/
def execSettingsRead (h : Hdr) (key : Option Nat) (s : State) : Res :=
  .next (s.deliver h (.settingsRead key))

/-- SETTINGS_STAGE. -/
def execSettingsStage (h : Hdr) (key value : Nat) (s : State) : Res :=
  .next (s.deliver h (.settingsStage key value))

/-- SETTINGS_COMMIT. -/
def execSettingsCommit (h : Hdr) (s : State) : Res :=
  .next (s.deliver h .settingsCommit)

/-- FIRMWARE_UPDATE. -/
def execFirmwareUpdate (h : Hdr) (ga : GA) (length : Nat) (image : ImageArg) (s : State) : Res :=
  .next (s.deliver h (.firmwareUpdate ga length image))

/-- SECURITY_STATUS. -/
def execSecurityStatus (h : Hdr) (s : State) : Res :=
  .next (s.deliver h .securityStatus)

/-- LIFECYCLE. -/
def execLifecycle (h : Hdr) (a : LifecycleArg) (s : State) : Res :=
  .next (s.deliver h (.lifecycle a))

/-- DEBUG_TOKEN. -/
def execDebugToken (h : Hdr) (a : DebugArg) (s : State) : Res :=
  .next (s.deliver h (.debugToken a))

/-- ATTEST. -/
def execAttest (h : Hdr) (nonce : Nat) (s : State) : Res :=
  .next (s.deliver h (.attest nonce))

/-- DEBUG_ACCESS. -/
def execDebugAccess (h : Hdr) (ga : GA) (count : Nat) (op : DebugOp) (s : State) : Res :=
  .next (s.deliver h (.debugAccess ga count op))

/-- DOMAIN_MAP. -/
def execDomainMap (h : Hdr) (s : State) : Res :=
  .next (s.deliver h .domainMap)

/-- REDISCOVER. -/
def execRediscover (h : Hdr) (s : State) : Res :=
  .next (s.deliver h .rediscover)

/-- DOMAIN_RESET. -/
def execDomainReset (h : Hdr) (s : State) : Res :=
  .next (s.deliver h .domainReset)

end Sys2Proof.Machine
end

