-- ==== Sys2Proof/Machine/Cmt.lean ====
section
/-! DEFINITION. The memory transport (R325 to R330): packets in PSN order per stream, their acknowledgement,
retransmission and failure. -/

namespace Sys2Proof.Machine

/-! ### What the module sends on a stream (R326, R329) -/

/-- A NAK of the first missing PSN. -/
def State.sendNak (s : State) (x : Stream) : State := s.emit (s.cmtOut x (x.next - 1) 0x06 x.next 0 [])

/-- A stream fails (R329): STREAM_FAILED with the first PSN not landed, and PSN 0 again. -/
def State.failStream (s : State) (x : Stream) : State :=
  (s.updStream x.session x.num fun y => { session := y.session, num := y.num }).tell x.session .streamFailed
    [.num x.num, .num x.next]

/-! ### Packets in their turn (R327 to R329) -/

/-- The access of one packet (R325, R327 to R329): its bytes land after those of the packets before it, and its end follows.
A write of a session that is not privileged has none of its effect, and an ERROR packet. -/
def State.cmtStart (s : State) (x : Stream) (port : Nat) (k : CmtKind) : State :=
  let a := x.session
  let b := x.num
  let psn := x.next
  let q : Option Requester := some (.cmt a b)
  let refused := (s.cmtError a b psn .privilege).access q 0 0 none .clean (.cmtRead a b psn)
  match k with
  | .write g bs => if s.isPriv a then s.access q g bs.length (some bs) .clean (.cmtWrite a b psn) else refused
  | .announce g bs w =>
    if s.isPriv a then s.access q g bs.length (some bs) .clean (.cmtAnnounce a b psn port bs.length w) else refused
  | .read g n e => s.access q g n none e (.cmtRead a b psn)
  | .fence => s.access q 0 0 none .clean (.cmtFence a b psn)

/-- One packet taken in its turn, with an ACK after 16 (R326) (DEDUCED, log 35). -/
def State.cmtApply (s : State) (x : Stream) (port : Nat) (k : CmtKind) : State :=
  let s := s.updStream x.session x.num fun y => { y with
    next := x.next + 1, sinceAck := y.sinceAck + 1, missing := none, nakTries := 0
    ahead := y.ahead.filter fun p => p.1 != x.next }
  let s := s.cmtStart x port k
  match s.stream? x.session x.num with
  | some y => if 16 ≤ y.sinceAck then s.sendAck y else s
  | none => s

/-- The packets held beyond a gap that are now in order, n at most. -/
def State.cmtAhead (s : State) (n session num port : Nat) : State :=
  match n with
  | 0 => s
  | k + 1 =>
    match s.stream? session num with
    | none => s
    | some x =>
      match x.ahead.find? fun p => p.1 == x.next with
      | some p => (s.cmtApply x port p.2).cmtAhead k session num port
      | none => s

/-- The stream of a packet that the module takes: an open stream, the tag of a privileged session (R325); none while the
management harts restart (R305) (DEDUCED, log 34). -/
def State.cmtStream (s : State) (h : CmtHdr) : Option Stream :=
  match s.session? h.session with
  | none => none
  | some x => if !s.listening || (x.priv && h.tag != .good) then none else s.stream? h.session h.stream

/-- What a packet of an open stream does; any other is discarded. -/
def State.onStream (s : State) (h : CmtHdr) (f : State → Stream → State) : State :=
  match s.cmtStream h with
  | none => s
  | some x => f (s.heard h.port h.source) x

/-- A packet of the host's PSN space (R326): applied in order once, held beyond a gap, discarded outside the window and on a
stream that is being closed (R330). -/
def State.cmtPacket (s : State) (h : CmtHdr) (k : CmtKind) : State :=
  s.onStream h fun s x =>
    if x.closing then s
    else if h.psn < x.next then s.sendAck x
    else if h.psn = x.next then (s.cmtApply x h.port k).cmtAhead 256 h.session h.stream h.port
    else if x.next + 255 < h.psn then s
    else
      let s := s.updStream h.session h.stream fun y => { y with
        ahead := (y.ahead.filter fun p => p.1 != h.psn) ++ [(h.psn, k)], missing := some y.next }
      s.sendNak x

/-- WRITE. -/
def execWrite (h : CmtHdr) (ga : GA) (bytes : List Byte) (s : State) : Res :=
  .next (if 8192 < bytes.length then s else s.cmtPacket h (.write ga bytes))

/-- READ. -/
def execRead (h : CmtHdr) (ga : GA) (len : Nat) (ecc : EccOutcome) (s : State) : Res :=
  .next (s.cmtPacket h (.read ga len ecc))

/-- WRITE_ANNOUNCE. -/
def execWriteAnnounce (h : CmtHdr) (ga : GA) (bytes : List Byte) (ann : AnnWord) (s : State) : Res :=
  .next (if 8192 < bytes.length then s else s.cmtPacket h (.announce ga bytes ann))

/-- FENCE. -/
def execFence (h : CmtHdr) (s : State) : Res := .next (s.cmtPacket h .fence)

/-- ACK from the host: the module's packets up to a PSN have arrived. -/
def execAck (h : CmtHdr) (acked : Nat) (s : State) : Res :=
  .next (s.onStream h fun s x =>
    s.updStream x.session x.num fun y => { y with own := y.own.filter fun p => decide (acked < p.psn) })

/-- The module's packets of some PSNs sent again; one that has been resent 16 times fails the stream (R326, R329). -/
def State.cmtResend (s : State) (x : Stream) (p : OwnPkt → Bool) : State :=
  if x.own.any fun k => p k && 16 < k.tries then s.failStream x
  else
    let s := s.updStream x.session x.num fun y => { y with own := y.own.map fun k => if p k then { k with tries := k.tries + 1 } else k }
    (x.own.filter p).foldl (fun s k => s.emit (s.cmtOut x k.psn k.kind k.ga k.word k.data)) s

/-- NAK from the host: the packet it names is sent again. -/
def execNak (h : CmtHdr) (missing : Nat) (s : State) : Res :=
  .next (s.onStream h fun s x => s.cmtResend x fun k => k.psn == missing)

/-- CMT_ACK_TIMER (R326): 10 µs after the oldest unacknowledged packet. -/
def execCmtAckTimer (session stream : Nat) (s : State) : Res :=
  match s.stream? session stream with
  | some x => .next (if x.sinceAck = 0 || s.fw.mgmtDown then s else s.sendAck x)
  | none => .next s

/-- CMT_RETRANSMIT_TIMER (R326, R329): the NAK of a PSN that is still missing again, and every packet of the module that is
not acknowledged (DEDUCED, log 61). -/
def execCmtRetransmitTimer (session stream : Nat) (s : State) : Res :=
  match s.stream? session stream with
  | none => .next s
  | some x =>
    if s.fw.mgmtDown then .next s
    else if 16 ≤ x.nakTries then .next (s.failStream x)
    else
      let s := if x.missing.isSome then
          (s.updStream session stream fun y => { y with nakTries := y.nakTries + 1 }).sendNak x else s
      .next (if x.own.isEmpty then s else s.cmtResend x fun _ => true)

end Sys2Proof.Machine
end

