-- ==== Sys2Proof/Machine/Ports.lean ====
section
/-! DEFINITION. The Ethernet ports (R389 to R392): link state, ARP, neighbour discovery and echo, priority flow control,
LLDP. -/

namespace Sys2Proof.Machine

/-- An Ethernet port changed. -/
def State.updEth (s : State) (p : Nat) (f : EPort → EPort) : State := { s with eth := updAt s.eth p f }

/-- The state of an Ethernet port. -/
def State.ethPort (s : State) (p : Nat) : EPort := (s.eth[p]?).getD {}

/-- The ports work from STANDBY entry on (R356). -/
def State.portsLive (s : State) : Bool := s.pwr.reset.isNone && s.pwr.state != .off && s.pwr.state != .boot

/-- An operation on an Ethernet port that the part has. -/
def onEth (p : Nat) (f : State → State) (s : State) : Res :=
  if 8 ≤ p then .refused (.noSuchPort p) else .next (if s.portsLive then f s else s)

/-- The same on a port whose link is up. -/
def onUpEth (p : Nat) (f : State → State) (s : State) : Res := onEth p (fun s => if (s.ethPort p).up then f s else s) s

/-- ETH_LINK_UP (R389). -/
def execEthLinkUp (port : Nat) (speed400 : Bool) (s : State) : Res :=
  onEth port
    (fun s =>
      if (s.ethPort port).up then s
      else (s.updEth port fun p => { p with up := true, speed400 := speed400 }).linkEvent false port true) s

/-- ETH_PORT_DOWN (R390, R392): LINK_DOWN, a LINK event, and the port's neighbours leave. -/
def execEthPortDown (port : Nat) (s : State) : Res :=
  onUpEth port
    (fun s =>
      let s := s.updEth port fun p => { p with up := false, neighbours := [], rxPause := [], level := 0, xoff := false }
      (s.raiseFree .linkDown).linkEvent false port false) s

/-- Whether an address is the IPv4 address of a port's network. -/
def State.hasV4 (s : State) (port ip : Nat) : Bool :=
  let v := s.setting (1 + networkOf port)
  v != 0 && bits v 31 0 == ip

/-- Whether an address is an IPv6 address of a port's network: the set one or the link-local one (R390). -/
def State.hasV6 (s : State) (port ip : Nat) : Bool :=
  let v := s.setting (3 + networkOf port)
  (v != 0 && bits v 127 0 == ip) || linkLocal (macOf (4 * networkOf port)) == ip

/-- ARP: answered with the port's own MAC address (R390). -/
def execArp (port ip source : Nat) (s : State) : Res :=
  onUpEth port (fun s => if s.hasV4 port ip then s.emit (.eth port 1 [.num ip, .num (macOf port), .num source]) else s) s

/-- NEIGHBOUR_DISCOVERY. -/
def execNeighbourDiscovery (port ip source : Nat) (s : State) : Res :=
  onUpEth port (fun s => if s.hasV6 port ip then s.emit (.eth port 2 [.num ip, .num (macOf port), .num source]) else s) s

/-- ICMP_ECHO: a reply of the same payload (R389), by the port that the request came in on (R390). -/
def execIcmpEcho (port ip source : Nat) (payload : List Byte) (s : State) : Res :=
  onUpEth port
    (fun s => if (s.hasV4 port ip || s.hasV6 port ip) && payload.length ≤ 9216 then
      (s.heard port source).emit (.eth port 3 [.num ip, .num source, .bytes payload]) else s) s

/-- PFC_FRAME (R391): a pause of the priority of key 0x06 is honoured, one of 0 quanta ends it (DEDUCED, log 66). -/
def execPfcFrame (port prio quanta : Nat) (s : State) : Res :=
  onUpEth port
    (fun s => if prio = s.setting 0x06 then s.updEth port fun p => { p with rxPause := if quanta = 0 then [] else [quanta] }
      else s) s

/-- PFC_THRESHOLD (R391): XOFF above 1.5 MiB of the receive buffer, XON below 1 MiB. -/
def execPfcThreshold (port level : Nat) (s : State) : Res :=
  onUpEth port
    (fun s =>
      let x := (s.ethPort port).xoff
      let s := s.updEth port fun p => { p with level := level }
      if !x && 1572864 < level then
        (s.updEth port fun p => { p with xoff := true }).emit (.eth port 4 [.num (s.setting 0x06), .flag true])
      else if x && level < 1048576 then
        (s.updEth port fun p => { p with xoff := false }).emit (.eth port 4 [.num (s.setting 0x06), .flag false])
      else s) s

/-- LLDP (R392): serial number, port, TTL of 120 s, the management address of the network. -/
def execLldp (port : Nat) (s : State) : Res :=
  onUpEth port
    (fun s => s.emit (.eth port 5 [.num s.sec.serial, .num port, .num 120, .num (s.setting (1 + networkOf port))])) s

/-- LLDP_NEIGHBOUR (R392): an entry with its TTL in seconds. -/
def execLldpNeighbour (port chassis portId ttl now : Nat) (s : State) : Res :=
  onUpEth port
    (fun s =>
      let s := s.atTick now
      let e : Neighbour := { chassis := chassis, portId := portId, until_ := s.time.tick + 1000 * ttl }
      s.updEth port fun p => { p with
        neighbours := (p.neighbours.filter fun n => !(n.chassis == chassis && n.portId == portId))
          ++ if ttl = 0 then [] else [e] }) s

/-- LLDP_TTL_EXPIRY (R392). -/
def execLldpTtlExpiry (now : Nat) (s : State) : Res :=
  let s := s.atTick now
  .next { s with eth := s.eth.map fun (p : EPort) =>
    { p with neighbours := p.neighbours.filter fun n => decide (s.time.tick < n.until_) } }

end Sys2Proof.Machine
end

