-- ==== Sys2Proof/Machine/SlotM.lean ====
section
/-! DEFINITION. The rows of the M slot: presenting a bundle that carries the instruction in its slot (DESIGN CHOICE, log 3).
What the slot then does when the bundle issues is judged and applied by `judgeM` and `applyM`. -/

namespace Sys2Proof.Machine

/-- MWLOAD (R205). -/
def execMwload (core : Nat) (b : Bundle) (h : BitVec 8) (part : BitVec 2) (two : Bool) (s : State) : Res :=
  presentTo core { b with m := .mwload h part two } s

/-- MSWAP (R206). -/
def execMswap (core : Nat) (b : Bundle) (s : State) : Res :=
  presentTo core { b with m := .mswap } s

/-- MPASS (R208). -/
def execMpass (core : Nat) (b : Bundle) (h : BitVec 8) (accum keep : Bool) (s : State) : Res :=
  presentTo core { b with m := .mpass h accum keep } s

/-- MPASSW (R209). -/
def execMpassw (core : Nat) (b : Bundle) (h : BitVec 8) (accum keep : Bool) (i j : BitVec 2) (s : State) : Res :=
  presentTo core { b with m := .mpassw h accum keep i j } s

/-- MPASSC (R210). -/
def execMpassc (core : Nat) (b : Bundle) (h : BitVec 8) (accum keep : Bool) (s : State) : Res :=
  presentTo core { b with m := .mpassc h accum keep } s

/-- MSHAPE (R211). -/
def execMshape (core : Nat) (b : Bundle) (shape : BitVec 2) (s : State) : Res :=
  presentTo core { b with m := .mshape shape } s

/-- MZERO (R212). -/
def execMzero (core : Nat) (b : Bundle) (h : BitVec 8) (s : State) : Res :=
  presentTo core { b with m := .mzero h } s

end Sys2Proof.Machine
end

