-- ==== Sys2Proof/Machine/SlotV.lean ====
section
/-! DEFINITION. The rows of the V slot: presenting a bundle that carries the instruction in its slot (DESIGN CHOICE, log 3).
What the slot then does when the bundle issues is judged and applied by `judgeV` and `applyV`. -/

namespace Sys2Proof.Machine

/-- A bundle with a V instruction of the shared layout, in the form that its legacy flag names (R158). -/
def withV (b : Bundle) (code : VCode) (h : BitVec 8) (form : VForm) : Bundle :=
  { b with v := .vec code h form, legacy := match form with | .native _ => false | .legacy .. => true }

/-- VADD (R215). -/
def execVadd (core : Nat) (b : Bundle) (h : BitVec 8) (form : VForm) (s : State) : Res :=
  presentTo core (withV b .vadd h form) s

/-- VSUB (R215). -/
def execVsub (core : Nat) (b : Bundle) (h : BitVec 8) (form : VForm) (s : State) : Res :=
  presentTo core (withV b .vsub h form) s

/-- VMUL (R215). -/
def execVmul (core : Nat) (b : Bundle) (h : BitVec 8) (form : VForm) (s : State) : Res :=
  presentTo core (withV b .vmul h form) s

/-- VFMA (R215). -/
def execVfma (core : Nat) (b : Bundle) (h : BitVec 8) (form : VForm) (s : State) : Res :=
  presentTo core (withV b .vfma h form) s

/-- VMAX (R215). -/
def execVmax (core : Nat) (b : Bundle) (h : BitVec 8) (form : VForm) (s : State) : Res :=
  presentTo core (withV b .vmax h form) s

/-- VMIN (R215). -/
def execVmin (core : Nat) (b : Bundle) (h : BitVec 8) (form : VForm) (s : State) : Res :=
  presentTo core (withV b .vmin h form) s

/-- VABS (R215). -/
def execVabs (core : Nat) (b : Bundle) (h : BitVec 8) (form : VForm) (s : State) : Res :=
  presentTo core (withV b .vabs h form) s

/-- VCMP (R215). -/
def execVcmp (core : Nat) (b : Bundle) (h : BitVec 8) (form : VForm) (s : State) : Res :=
  presentTo core (withV b .vcmp h form) s

/-- VSEL (R215). -/
def execVsel (core : Nat) (b : Bundle) (h : BitVec 8) (form : VForm) (s : State) : Res :=
  presentTo core (withV b .vsel h form) s

/-- VCVT (R215). -/
def execVcvt (core : Nat) (b : Bundle) (h : BitVec 8) (form : VForm) (s : State) : Res :=
  presentTo core (withV b .vcvt h form) s

/-- VEXP2 (R215). -/
def execVexp2 (core : Nat) (b : Bundle) (h : BitVec 8) (form : VForm) (s : State) : Res :=
  presentTo core (withV b .vexp2 h form) s

/-- VLOG2 (R215). -/
def execVlog2 (core : Nat) (b : Bundle) (h : BitVec 8) (form : VForm) (s : State) : Res :=
  presentTo core (withV b .vlog2 h form) s

/-- VRSQ (R215). -/
def execVrsq (core : Nat) (b : Bundle) (h : BitVec 8) (form : VForm) (s : State) : Res :=
  presentTo core (withV b .vrsq h form) s

/-- VRCP (R215). -/
def execVrcp (core : Nat) (b : Bundle) (h : BitVec 8) (form : VForm) (s : State) : Res :=
  presentTo core (withV b .vrcp h form) s

/-- VTANH (R215). -/
def execVtanh (core : Nat) (b : Bundle) (h : BitVec 8) (form : VForm) (s : State) : Res :=
  presentTo core (withV b .vtanh h form) s

/-- VRED (R215). -/
def execVred (core : Nat) (b : Bundle) (h : BitVec 8) (form : VForm) (s : State) : Res :=
  presentTo core (withV b .vred h form) s

/-- VSCAN (R215). -/
def execVscan (core : Nat) (b : Bundle) (h : BitVec 8) (form : VForm) (s : State) : Res :=
  presentTo core (withV b .vscan h form) s

/-- VACC (R217). -/
def execVacc (core : Nat) (b : Bundle) (h : BitVec 8) (form : VForm) (s : State) : Res :=
  presentTo core (withV b .vacc h form) s

/-- VPERM (R218). -/
def execVperm (core : Nat) (b : Bundle) (h : BitVec 8) (form : VForm) (s : State) : Res :=
  presentTo core (withV b .vperm h form) s

/-- VGATHER (R219). -/
def execVgather (core : Nat) (b : Bundle) (h : BitVec 8) (form : VForm) (s : State) : Res :=
  presentTo core (withV b .vgather h form) s

/-- VRNG (R220). -/
def execVrng (core : Nat) (b : Bundle) (ctr : BitVec 2) (h : BitVec 7) (u01 : Bool) (form : RngForm) (s : State) : Res :=
  presentTo core { b with v := .vrng ctr h u01 form, legacy := match form with | .native _ => false | .legacy .. => true } s

end Sys2Proof.Machine
end

