-- ==== Sys2Proof/Machine/SlotX.lean ====
section
/-! DEFINITION. The rows of the X slot: presenting a bundle that carries the instruction in its slot (DESIGN CHOICE, log 3).
What the slot then does when the bundle issues is judged and applied by `judgeX` and `applyX`. -/

namespace Sys2Proof.Machine

/-- QPUT (R195). -/
def execQput (core : Nat) (b : Bundle) (q : BitVec 2) (h : BitVec 8) (tf : BitVec 2) (cx : BitVec 3) (s : State) : Res :=
  presentTo core { b with x := .qput q h tf cx } s

/-- QWAIT (R199). -/
def execQwait (core : Nat) (b : Bundle) (cs : BitVec 3) (s : State) : Res :=
  presentTo core { b with x := .qwait cs } s

/-- QWAITANY (R200). -/
def execQwaitany (core : Nat) (b : Bundle) (cs k1 cd : BitVec 3) (s : State) : Res :=
  presentTo core { b with x := .qwaitany cs k1 cd } s

/-- RADV (R201). -/
def execRadv (core : Nat) (b : Bundle) (tail : Bool) (ctx : BitVec 5) (s : State) : Res :=
  presentTo core { b with x := .radv tail ctx } s

/-- MCAST (R197). -/
def execMcast (core : Nat) (b : Bundle) (q : BitVec 2) (h : BitVec 8) (tf : BitVec 2) (cx : BitVec 3) (grp : BitVec 6) (s : State) : Res :=
  presentTo core { b with x := .mcast q h tf cx grp } s

/-- CHAIN (R198). -/
def execChain (core : Nat) (b : Bundle) (q : BitVec 2) (h : BitVec 8) (tf : BitVec 2) (cx : BitVec 3) (grp : BitVec 6) (s : State) : Res :=
  presentTo core { b with x := .chain q h tf cx grp } s

end Sys2Proof.Machine
end

