-- ==== Sys2Proof/Machine/Dispatch.lean ====
section
/-! DEFINITION. One arm per command. -/

namespace Sys2Proof.Machine

def exec (i : Instr) (s : State) : Host.Outcome State Fault Refusal :=
  match i with
  | .nop core b slot => Sys2Proof.Machine.execNop core b slot s
  | .halt core b => Sys2Proof.Machine.execHalt core b s
  | .step core b mask => Sys2Proof.Machine.execStep core b mask s
  | .cset core b cd src => Sys2Proof.Machine.execCset core b cd src s
  | .cadd core b cd ca src => Sys2Proof.Machine.execCadd core b cd ca src s
  | .ccopy core b cd ca => Sys2Proof.Machine.execCcopy core b cd ca s
  | .cmp core b pd rel ca src => Sys2Proof.Machine.execCmp core b pd rel ca src s
  | .br core b pp always sense target => Sys2Proof.Machine.execBr core b pp always sense target s
  | .setvl core b src => Sys2Proof.Machine.execSetvl core b src s
  | .waitc core b src => Sys2Proof.Machine.execWaitc core b src s
  | .tsigLocal core b t n => Sys2Proof.Machine.execTsigLocal core b t n s
  | .tsigRemote core b t h n => Sys2Proof.Machine.execTsigRemote core b t h n s
  | .remoteTsigApplied id => Sys2Proof.Machine.execRemoteTsigApplied id s
  | .twait core b t n => Sys2Proof.Machine.execTwait core b t n s
  | .twaitany core b t k1 cd n => Sys2Proof.Machine.execTwaitany core b t k1 cd n s
  | .ttake core b t n => Sys2Proof.Machine.execTtake core b t n s
  | .dadv core b h dim src => Sys2Proof.Machine.execDadv core b h dim src s
  | .loop core b cl len1 src => Sys2Proof.Machine.execLoop core b cl len1 src s
  | .qput core b q h tf cx => Sys2Proof.Machine.execQput core b q h tf cx s
  | .qwait core b cs => Sys2Proof.Machine.execQwait core b cs s
  | .qwaitany core b cs k1 cd => Sys2Proof.Machine.execQwaitany core b cs k1 cd s
  | .radv core b tail ctx => Sys2Proof.Machine.execRadv core b tail ctx s
  | .mcast core b q h tf cx grp => Sys2Proof.Machine.execMcast core b q h tf cx grp s
  | .chain core b q h tf cx grp => Sys2Proof.Machine.execChain core b q h tf cx grp s
  | .chainForward core q idx member off len => Sys2Proof.Machine.execChainForward core q idx member off len s
  | .mwload core b h part two => Sys2Proof.Machine.execMwload core b h part two s
  | .mswap core b => Sys2Proof.Machine.execMswap core b s
  | .mpass core b h accum keep => Sys2Proof.Machine.execMpass core b h accum keep s
  | .mpassw core b h accum keep pi pj => Sys2Proof.Machine.execMpassw core b h accum keep pi pj s
  | .mpassc core b h accum keep => Sys2Proof.Machine.execMpassc core b h accum keep s
  | .mshape core b shape => Sys2Proof.Machine.execMshape core b shape s
  | .mzero core b h => Sys2Proof.Machine.execMzero core b h s
  | .unitEntersArray core => Sys2Proof.Machine.execUnitEntersArray core s
  | .arrayHold core => Sys2Proof.Machine.execArrayHold core s
  | .vadd core b h form => Sys2Proof.Machine.execVadd core b h form s
  | .vsub core b h form => Sys2Proof.Machine.execVsub core b h form s
  | .vmul core b h form => Sys2Proof.Machine.execVmul core b h form s
  | .vfma core b h form => Sys2Proof.Machine.execVfma core b h form s
  | .vmax core b h form => Sys2Proof.Machine.execVmax core b h form s
  | .vmin core b h form => Sys2Proof.Machine.execVmin core b h form s
  | .vabs core b h form => Sys2Proof.Machine.execVabs core b h form s
  | .vcmp core b h form => Sys2Proof.Machine.execVcmp core b h form s
  | .vsel core b h form => Sys2Proof.Machine.execVsel core b h form s
  | .vcvt core b h form => Sys2Proof.Machine.execVcvt core b h form s
  | .vexp2 core b h form => Sys2Proof.Machine.execVexp2 core b h form s
  | .vlog2 core b h form => Sys2Proof.Machine.execVlog2 core b h form s
  | .vrsq core b h form => Sys2Proof.Machine.execVrsq core b h form s
  | .vrcp core b h form => Sys2Proof.Machine.execVrcp core b h form s
  | .vtanh core b h form => Sys2Proof.Machine.execVtanh core b h form s
  | .vred core b h form => Sys2Proof.Machine.execVred core b h form s
  | .vscan core b h form => Sys2Proof.Machine.execVscan core b h form s
  | .vacc core b h form => Sys2Proof.Machine.execVacc core b h form s
  | .vperm core b h form => Sys2Proof.Machine.execVperm core b h form s
  | .vgather core b h form => Sys2Proof.Machine.execVgather core b h form s
  | .vrng core b ctr h u01 form => Sys2Proof.Machine.execVrng core b ctr h u01 form s
  | .holdLimit core => Sys2Proof.Machine.execHoldLimit core s
  | .waitTimeout core => Sys2Proof.Machine.execWaitTimeout core s
  | .announceTimeout core q idx member => Sys2Proof.Machine.execAnnounceTimeout core q idx member s
  | .regionEntersIdle region => Sys2Proof.Machine.execRegionEntersIdle region s
  | .transferStart core q => Sys2Proof.Machine.execTransferStart core q s
  | .startConditionServed core q idx => Sys2Proof.Machine.execStartConditionServed core q idx s
  | .bytesLanded core q idx member off len ecc => Sys2Proof.Machine.execBytesLanded core q idx member off len ecc s
  | .transferComplete core q => Sys2Proof.Machine.execTransferComplete core q s
  | .tagIndexFree core q => Sys2Proof.Machine.execTagIndexFree core q s
  | .announceApplied core q idx member => Sys2Proof.Machine.execAnnounceApplied core q idx member s
  | .backgroundPathAccess core path => Sys2Proof.Machine.execBackgroundPathAccess core path s
  | .combinerWrite core req off bytes => Sys2Proof.Machine.execCombinerWrite core req off bytes s
  | .combinerRead core req off len => Sys2Proof.Machine.execCombinerRead core req off len s
  | .combinerEntryTimeout core => Sys2Proof.Machine.execCombinerEntryTimeout core s
  | .requesterFence req => Sys2Proof.Machine.execRequesterFence req s
  | .accumulatorCombinerAccess core => Sys2Proof.Machine.execAccumulatorCombinerAccess core s
  | .prepCoreAccess hart acc => Sys2Proof.Machine.execPrepCoreAccess hart acc s
  | .tallySignal req core value => Sys2Proof.Machine.execTallySignal req core value s
  | .wellRefreshSlot die corrected => Sys2Proof.Machine.execWellRefreshSlot die corrected s
  | .stackRefresh stack ch begins => Sys2Proof.Machine.execStackRefresh stack ch begins s
  | .parkTakesEffect unit => Sys2Proof.Machine.execParkTakesEffect unit s
  | .unitParked unit drained => Sys2Proof.Machine.execUnitParked unit drained s
  | .meshLinkDown die dir retries => Sys2Proof.Machine.execMeshLinkDown die dir retries s
  | .heartbeat port received => Sys2Proof.Machine.execHeartbeat port received s
  | .linkDown port lane => Sys2Proof.Machine.execLinkDown port lane s
  | .linkRetryLimit port => Sys2Proof.Machine.execLinkRetryLimit port s
  | .portRetrain port result => Sys2Proof.Machine.execPortRetrain port result s
  | .partnerLost m => Sys2Proof.Machine.execPartnerLost m s
  | .failedFlit port => Sys2Proof.Machine.execFailedFlit port s
  | .nakReceived port hdr => Sys2Proof.Machine.execNakReceived port hdr s
  | .creditReturn port => Sys2Proof.Machine.execCreditReturn port s
  | .writeFlit port hdr data => Sys2Proof.Machine.execWriteFlit port hdr data s
  | .readRequest port rd => Sys2Proof.Machine.execReadRequest port rd s
  | .readResponse port hdr data => Sys2Proof.Machine.execReadResponse port hdr data s
  | .bareTsigFlit port hdr => Sys2Proof.Machine.execBareTsigFlit port hdr s
  | .discoveryAndIdentity id => Sys2Proof.Machine.execDiscoveryAndIdentity id s
  | .discoveryClose now => Sys2Proof.Machine.execDiscoveryClose now s
  | .invarAlignment count delay => Sys2Proof.Machine.execInvarAlignment count delay s
  | .managementFlit port hdr msg => Sys2Proof.Machine.execManagementFlit port hdr msg s
  | .solderArrival seq module confirms ready => Sys2Proof.Machine.execSolderArrival seq module confirms ready s
  | .solderCommit seq t => Sys2Proof.Machine.execSolderCommit seq t s
  | .solderTStart seq => Sys2Proof.Machine.execSolderTStart seq s
  | .solderConfirm seq module => Sys2Proof.Machine.execSolderConfirm seq module s
  | .barrierTimeout seq now => Sys2Proof.Machine.execBarrierTimeout seq now s
  | .pacePause region => Sys2Proof.Machine.execPacePause region s
  | .paceResume region => Sys2Proof.Machine.execPaceResume region s
  | .capGovernor now watts => Sys2Proof.Machine.execCapGovernor now watts s
  | .constantanStep phys up => Sys2Proof.Machine.execConstantanStep phys up s
  | .parityWalk now hits => Sys2Proof.Machine.execParityWalk now hits s
  | .alnicoMeasureUpdate now temps counts => Sys2Proof.Machine.execAlnicoMeasureUpdate now temps counts s
  | .thermalAlarm place temp => Sys2Proof.Machine.execThermalAlarm place temp s
  | .thermalHalt place temp micros => Sys2Proof.Machine.execThermalHalt place temp micros s
  | .thermTrip temp => Sys2Proof.Machine.execThermTrip temp s
  | .inputPowerHalt millivolts milliamps micros => Sys2Proof.Machine.execInputPowerHalt millivolts milliamps micros s
  | .inputBelowMainRailLimit millivolts => Sys2Proof.Machine.execInputBelowMainRailLimit millivolts s
  | .islandLockLost phys => Sys2Proof.Machine.execIslandLockLost phys s
  | .refclkLoss micros => Sys2Proof.Machine.execRefclkLoss micros s
  | .syncIn => Sys2Proof.Machine.execSyncIn s
  | .powerOn backupKept => Sys2Proof.Machine.execPowerOn backupKept s
  | .pwrEn level => Sys2Proof.Machine.execPwrEn level s
  | .rstIn micros => Sys2Proof.Machine.execRstIn micros s
  | .managementWatchdog silentMs => Sys2Proof.Machine.execManagementWatchdog silentMs s
  | .securityViolation cause => Sys2Proof.Machine.execSecurityViolation cause s
  | .resetComplete => Sys2Proof.Machine.execResetComplete s
  | .heldCommandExpiry now => Sys2Proof.Machine.execHeldCommandExpiry now s
  | .sessionIdleTimeout session now => Sys2Proof.Machine.execSessionIdleTimeout session now s
  | .eventResend session seq now => Sys2Proof.Machine.execEventResend session seq now s
  | .eventAcknowledge h seq => Sys2Proof.Machine.execEventAcknowledge h seq s
  | .sessionOpen h => Sys2Proof.Machine.execSessionOpen h s
  | .sessionElevate h a => Sys2Proof.Machine.execSessionElevate h a s
  | .sessionClose h => Sys2Proof.Machine.execSessionClose h s
  | .keepalive h => Sys2Proof.Machine.execKeepalive h s
  | .eventSubscribe h mask dests => Sys2Proof.Machine.execEventSubscribe h mask dests s
  | .discover h => Sys2Proof.Machine.execDiscover h s
  | .inventory h part off => Sys2Proof.Machine.execInventory h part off s
  | .partners h => Sys2Proof.Machine.execPartners h s
  | .load h a => Sys2Proof.Machine.execLoad h a s
  | .loadComplete region => Sys2Proof.Machine.execLoadComplete region s
  | .start h regions => Sys2Proof.Machine.execStart h regions s
  | .resume h regions => Sys2Proof.Machine.execResume h regions s
  | .stop h region form => Sys2Proof.Machine.execStop h region form s
  | .solderStep h regions k replace => Sys2Proof.Machine.execSolderStep h regions k replace s
  | .replayStop h region form => Sys2Proof.Machine.execReplayStop h region form s
  | .define h region x0 y0 x1 y1 => Sys2Proof.Machine.execDefine h region x0 y0 x1 y1 s
  | .undefine h region => Sys2Proof.Machine.execUndefine h region s
  | .park h region release => Sys2Proof.Machine.execPark h region release s
  | .repair h region act force => Sys2Proof.Machine.execRepair h region act force s
  | .regionTransitionDone region rows zeroed => Sys2Proof.Machine.execRegionTransitionDone region rows zeroed s
  | .parkUnit h unit park => Sys2Proof.Machine.execParkUnit h unit park s
  | .regionStatus h region => Sys2Proof.Machine.execRegionStatus h region s
  | .streamOpen h stream => Sys2Proof.Machine.execStreamOpen h stream s
  | .streamClose h stream => Sys2Proof.Machine.execStreamClose h stream s
  | .stackAlloc h size fixed => Sys2Proof.Machine.execStackAlloc h size fixed s
  | .stackFree h ga => Sys2Proof.Machine.execStackFree h ga s
  | .regRead h ga count => Sys2Proof.Machine.execRegRead h ga count s
  | .regWrite h ga values bcast form => Sys2Proof.Machine.execRegWrite h ga values bcast form s
  | .registerWrite req ga value => Sys2Proof.Machine.execRegisterWrite req ga value s
  | .faultCountRead core => Sys2Proof.Machine.execFaultCountRead core s
  | .rcFieldRead req ga => Sys2Proof.Machine.execRcFieldRead req ga s
  | .indDataRead req ga => Sys2Proof.Machine.execIndDataRead req ga s
  | .indDataWrite req ga value => Sys2Proof.Machine.execIndDataWrite req ga value s
  | .powerState h target => Sys2Proof.Machine.execPowerState h target s
  | .powerCap h watts => Sys2Proof.Machine.execPowerCap h watts s
  | .pace h region p pi => Sys2Proof.Machine.execPace h region p pi s
  | .reset h a => Sys2Proof.Machine.execReset h a s
  | .faultRead h scope drain => Sys2Proof.Machine.execFaultRead h scope drain s
  | .faultPolicy h region code policy => Sys2Proof.Machine.execFaultPolicy h region code policy s
  | .ledgerRead h off len => Sys2Proof.Machine.execLedgerRead h off len s
  | .runRecord h region loadSeq => Sys2Proof.Machine.execRunRecord h region loadSeq s
  | .choiceLog h region core => Sys2Proof.Machine.execChoiceLog h region core s
  | .backupReg h index value => Sys2Proof.Machine.execBackupReg h index value s
  | .settingsRead h key => Sys2Proof.Machine.execSettingsRead h key s
  | .settingsStage h key value => Sys2Proof.Machine.execSettingsStage h key value s
  | .settingsCommit h => Sys2Proof.Machine.execSettingsCommit h s
  | .firmwareUpdate h ga length image => Sys2Proof.Machine.execFirmwareUpdate h ga length image s
  | .firmwareFallback now => Sys2Proof.Machine.execFirmwareFallback now s
  | .securityStatus h => Sys2Proof.Machine.execSecurityStatus h s
  | .lifecycle h a => Sys2Proof.Machine.execLifecycle h a s
  | .debugToken h a => Sys2Proof.Machine.execDebugToken h a s
  | .debugExpiry now => Sys2Proof.Machine.execDebugExpiry now s
  | .attest h nonce => Sys2Proof.Machine.execAttest h nonce s
  | .debugAccess h ga count op => Sys2Proof.Machine.execDebugAccess h ga count op s
  | .domainMap h => Sys2Proof.Machine.execDomainMap h s
  | .rediscover h => Sys2Proof.Machine.execRediscover h s
  | .domainReset h => Sys2Proof.Machine.execDomainReset h s
  | .write h ga bytes => Sys2Proof.Machine.execWrite h ga bytes s
  | .read h ga len ecc => Sys2Proof.Machine.execRead h ga len ecc s
  | .writeAnnounce h ga bytes ann => Sys2Proof.Machine.execWriteAnnounce h ga bytes ann s
  | .fence h => Sys2Proof.Machine.execFence h s
  | .ack h acked => Sys2Proof.Machine.execAck h acked s
  | .nak h missing => Sys2Proof.Machine.execNak h missing s
  | .cmtAckTimer session stream => Sys2Proof.Machine.execCmtAckTimer session stream s
  | .cmtRetransmitTimer session stream => Sys2Proof.Machine.execCmtRetransmitTimer session stream s
  | .ethLinkUp port speed400 => Sys2Proof.Machine.execEthLinkUp port speed400 s
  | .ethPortDown port => Sys2Proof.Machine.execEthPortDown port s
  | .arp port ip source => Sys2Proof.Machine.execArp port ip source s
  | .neighbourDiscovery port ip source => Sys2Proof.Machine.execNeighbourDiscovery port ip source s
  | .icmpEcho port ip source payload => Sys2Proof.Machine.execIcmpEcho port ip source payload s
  | .pfcFrame port prio quanta => Sys2Proof.Machine.execPfcFrame port prio quanta s
  | .pfcThreshold port level => Sys2Proof.Machine.execPfcThreshold port level s
  | .lldp port => Sys2Proof.Machine.execLldp port s
  | .lldpNeighbour port chassis portId ttl now => Sys2Proof.Machine.execLldpNeighbour port chassis portId ttl now s
  | .lldpTtlExpiry now => Sys2Proof.Machine.execLldpTtlExpiry now s
  | .readVin => Sys2Proof.Machine.execReadVin s
  | .readIin => Sys2Proof.Machine.execReadIin s
  | .readPin => Sys2Proof.Machine.execReadPin s
  | .readTemperature1 => Sys2Proof.Machine.execReadTemperature1 s
  | .readTemperature2 => Sys2Proof.Machine.execReadTemperature2 s
  | .statusWord => Sys2Proof.Machine.execStatusWord s
  | .clearFaults => Sys2Proof.Machine.execClearFaults s
  | .mfrSerial => Sys2Proof.Machine.execMfrSerial s
  | .powerTransitionComplete cores links => Sys2Proof.Machine.execPowerTransitionComplete cores links s
  | .settingsCommitComplete result => Sys2Proof.Machine.execSettingsCommitComplete result s
  | .managementRestartComplete => Sys2Proof.Machine.execManagementRestartComplete s
  | .refclkReturn => Sys2Proof.Machine.execRefclkReturn s
  | .protectiveHaltConditionCleared thermal => Sys2Proof.Machine.execProtectiveHaltConditionCleared thermal s

end Sys2Proof.Machine
end

