-- ==== Sys2Proof/Safety.lean ====
section
/-! DEFINITION. The terms that claims use: a command that ends with a property, what it leaves, a core that is ready to
issue, a mailbox command in its turn, and memories in canonical form. The block has no condition that stops it: a safe run
is one in which no command is refused. -/

namespace Sys2Proof.Machine

/-- A command ends in a next state that has a property. -/
def Ends (i : Instr) (s : State) (P : State → Prop) : Prop := ∃ t, exec i s = .next t ∧ P t

/-- A run of commands is safe when each of them has a next state. -/
def SafeRun (is : List Instr) (s : State) : Prop :=
  match is with
  | [] => True
  | i :: r => ∃ t, exec i s = .next t ∧ SafeRun r t

/-! ### Canonical memories -/

/-- The memories of a core are in canonical form. -/
def CoreSt.Canon (c : CoreSt) : Prop :=
  Mem.wf c.spad = true ∧ Mem.wf c.acc = true ∧ Mem.wf c.desc = true ∧ Mem.wf c.imem = true

/-- The memories of the module are in canonical form. -/
def MemSt.Canon (m : MemSt) : Prop :=
  Mem.wf m.wells = true ∧ Mem.wf m.pools = true ∧ Mem.wf m.stackMem = true ∧ Mem.wf m.prep = true

/-- Every memory is in canonical form. -/
def State.Canon (s : State) : Prop := s.mem.Canon ∧ ∀ c ∈ s.cores, c.Canon

/-! ### Issue -/

/-- A transfer that gives its queue no work: complete, its tag not yet taken (R193). -/
structure Xfer.Settled (x : Xfer) : Prop where
  complete : x.complete = true
  kept : x.freed = false
  tagged : x.tagForm ≠ 0
  untaken : x.taken = false

/-- A core stands ready to issue: the one core of its number, running in a RUNNING region, with no bundle held or waiting,
at or past its issue cycle, with no stop, no hold and no transfer on its way. -/
structure Ready (s : State) (l : Nat) (c : CoreSt) (x : Region) : Prop where
  core : s.core? l = some c
  alone : ∀ d ∈ s.cores, d.lcore = l → d = c
  region : s.region? c.region = some x
  runs : c.run = .running
  phase : x.phase = .running
  presented : c.presented = none
  waiting : c.waiting = []
  time : c.nextIssue ≤ s.time.cycle
  stopFrom : c.stopFrom = none
  stopBefore : c.stopBefore = none
  noHold : c.arrayHold = false
  sbLimit : 0 < x.sbLimit
  waitLimit : 0 < x.waitLimit
  noReplay : x.replayStop = none
  queues : ∀ q ∈ c.queues, ∀ y ∈ q.live, y.Settled
  conds : c.conds = []

/-- A number names one core. -/
def Alone (s : State) (l : Nat) (c : CoreSt) : Prop := s.core? l = some c ∧ ∀ d ∈ s.cores, d.lcore = l → d = c

/-- The cycles since the last management tick are fewer than a tick has. -/
abbrev State.onTime (s : State) : Prop := s.time.tickCc < s.tickLength

/-- A running core that holds a bundle no slot of which a limit has skipped. -/
structure Holding (s : State) (l : Nat) (c : CoreSt) (x : Region) (p : Presented) : Prop where
  alone : Alone s l c
  region : s.region? c.region = some x
  runs : c.run = .running
  phase : x.phase = .running
  held : c.presented = some p
  whole : p.skipped = [false, false, false, false]
  inTime : p.timedOut = false
  stopFrom : c.stopFrom = none
  stopBefore : c.stopBefore = none
  noHold : c.arrayHold = false
  noReplay : x.replayStop = none

/-- A bundle whose only instruction is the one of a slot row: the other slots are NOP, no marker, no reserved flag. -/
def plainBundle (b : Bundle) : Prop :=
  b.marker = false ∧ b.reserved = 0 ∧ b.s = .nop ∧ b.x = .nop ∧ b.m = .nop ∧ b.v = .nop

/-- The four slots of a bundle pass their checks (R76) on a core to which the bundle has been given. -/
def Passes (s : State) (c : CoreSt) (b : Bundle) : Prop :=
  judge (s.ctx c) { c with waiting := [b] } { b := b, since := s.time.cycle } = { s := .go, x := .go, m := .go, v := .go }

/-- A core after a bundle that falls through to the next index, `d` cycles after its own (R66). -/
def CoreSt.issued (c : CoreSt) (cycle d : Nat) : CoreSt :=
  { c with pc := c.pc + 1, lastIdx := c.pc, nextIssue := cycle + d, occur := bump c.occur c.pc 1 }

/-- The bundle at the core's index ends no loop, and is not the last of instruction memory. -/
def CoreSt.straight (c : CoreSt) : Prop := (∀ e r, c.loops = e :: r → e.stop ≠ c.pc) ∧ c.pc < 16383

/-- The word that a counter shows (R169). -/
def CoreSt.word (c : CoreSt) (k : BitVec 3) : BitVec 32 := BitVec.ofNat 32 (c.counter k.toNat)

/-- The relations of R155. -/
def relation (rel : BitVec 3) (a b : BitVec 32) : Bool :=
  match rel.toNat with
  | 0 => a == b | 1 => a != b | 2 => a.slt b | 3 => a.sle b
  | 4 => b.slt a | 5 => b.sle a | 6 => a.ult b | _ => b.ule a

/-- The row of a V instruction of the shared layout. -/
def vecRow (code : VCode) (l : Nat) (b : Bundle) (h : BitVec 8) (form : VForm) : Instr :=
  match code with
  | .vadd => .vadd l b h form
  | .vsub => .vsub l b h form
  | .vmul => .vmul l b h form
  | .vfma => .vfma l b h form
  | .vmax => .vmax l b h form
  | .vmin => .vmin l b h form
  | .vabs => .vabs l b h form
  | .vcmp => .vcmp l b h form
  | .vsel => .vsel l b h form
  | .vcvt => .vcvt l b h form
  | .vexp2 => .vexp2 l b h form
  | .vlog2 => .vlog2 l b h form
  | .vrsq => .vrsq l b h form
  | .vrcp => .vrcp l b h form
  | .vtanh => .vtanh l b h form
  | .vred => .vred l b h form
  | .vscan => .vscan l b h form
  | .vacc => .vacc l b h form
  | .vperm => .vperm l b h form
  | .vgather => .vgather l b h form

/-! ### Resets -/

/-- What a reset of a level leaves (R350 to R353, R382): no region, core, session, stream or allocation; near memory and
stacks lost; the domain left; the debug level CLOSED; settings and fuses kept; STANDBY on the way. L0 restarts the Invar
count and the load sequence, which L1 keeps. -/
structure WasReset (lv : RLevel) (s t : State) : Prop where
  regions : t.regions = []
  cores : t.cores = []
  wells : t.mem.wells = []
  pools : t.mem.pools = []
  stackMem : t.mem.stackMem = []
  prep : t.mem.prep = []
  sessions : t.host.sessions = []
  streams : t.host.streams = []
  allocs : t.host.allocs = []
  staged : t.set.staged = []
  committed : t.set.committed = s.set.committed
  fuses : t.sec.lifecycle = s.sec.lifecycle ∧ t.sec.rollback = s.sec.rollback ∧ t.sec.resetMap = s.sec.resetMap
  level : t.sec.level = .closed
  domain : t.kol.inDomain = false ∧ t.kol.module = 0
  signals : t.fab.signals = [] ∧ t.fab.barriers = []
  power : t.pwr.state = .standby ∧ t.pwr.moving = none
  count : if lv = .l0 then t.time.cycle = 0 ∧ t.fw.loadSeq = 0
    else t.time.cycle = s.time.cycle ∧ t.fw.loadSeq = s.fw.loadSeq
  running : ∃ q, t.pwr.reset = some q ∧ q.level = lv

/-- The rails have fallen (R358): no region, no core, near memory and stacks lost, no domain. -/
structure RailsLost (t : State) : Prop where
  regions : t.regions = []
  cores : t.cores = []
  wells : t.mem.wells = []
  pools : t.mem.pools = []
  stackMem : t.mem.stackMem = []
  allocs : t.host.allocs = []
  domain : t.kol.inDomain = false ∧ t.kol.module = 0
  barriers : t.fab.barriers = []

/-- The level that a RESET_MAP bit gives a source whose default is L1 (R350). -/
def mapped (s : State) (b : Nat) : RLevel := if s.sec.resetMap.testBit b then .l0 else .l1

/-! ### The mailbox -/

/-- A well-formed datagram that the module hears, with the code and a payload length of its row's command (R305, R307,
R308). -/
structure Heard (s : State) (h : Hdr) : Prop where
  listening : s.listening = true
  good : badDatagram h = false
  code : h.code = none
  length : h.lengthOk = true

/-- A command of an open session in its turn: its tag verifies where the session is privileged, its sequence number is the
next, and the command after it is not among those held (R311, R312). -/
structure InTurn (s : State) (h : Hdr) (x : Session) : Prop where
  heard : Heard s h
  isOpen : s.session? h.session = some x
  alone : ∀ y ∈ s.host.sessions, y.num = h.session → y = x
  session : h.session ≠ 0
  tag : x.priv = true → h.tag = .good
  turn : h.seq = x.next
  held : ∀ e ∈ x.held, e.hdr.seq ≠ h.seq + 1

/-- The state as a command of a session finds it: the sender's port and the session's time are noted (R311, R390). -/
def State.noted (s : State) (h : Hdr) : State :=
  (s.heard h.port h.source).updSession h.session fun x => { x with lastTick := s.time.tick, source := (h.source, h.udp) }

/-- The header of the reply to a command (R307, R309, R313): the number of the status, and the address and port the command
came from. -/
structure ReplyTo (h : Hdr) (st : Status) (m : MsgHdr) : Prop where
  kind : m.kind = 2
  status : m.status = st.num
  dests : m.dests = [copyFrom h]

/-- A command ends with a reply to its sender, the first thing sent; its session, when still open, awaits the next sequence
number. -/
def Answers (i : Instr) (s : State) (h : Hdr) (st : Status) (items : List Item) (P : State → Prop) : Prop :=
  ∃ t, exec i s = .next t ∧
    (∃ m more, t.host.outbox = s.host.outbox ++ .reply h.session h.seq st items m :: more ∧
      ReplyTo h st m) ∧
    (h.session ≠ 0 → ∀ y, t.session? h.session = some y → y.next = h.seq + 1) ∧ P t

/-- Nothing but the host side has changed. -/
def HostOnly (s t : State) : Prop := t = { s with host := t.host }

/-! ### Accesses to memory -/

/-- No access of a requester is on its way, and no core holds bytes under the number of the next one. -/
structure NoneWaits (s : State) : Prop where
  jobs : s.fab.jobs = []
  cores : ∀ c ∈ s.cores, c.holdsStamp s.fab.nextStamp = false ∧ ∀ w ∈ c.landing, w.outer ≠ some s.fab.nextStamp

/-- Some bytes from an address on lie in a stack from an offset on, in units that serve and do not refresh (R224, R227,
R243). -/
def InStack (s : State) (g : GA) (n st o : Nat) : Prop :=
  ∀ i < n, s.place (g + i) = .stack st (o + i) ∧ s.placeParked (.stack st (o + i)) (some s.time.cycle) = false ∧
    s.refreshing (.stack st (o + i)) = false

/-- The state with bytes put at addresses from one on, each at its place. -/
def State.withBytes (s : State) (g : GA) (bs : List Byte) : State :=
  (cellsAt g bs).foldl (fun s c => s.putByte (s.place c.1) c.2) s

/-- The bytes of a stack from an offset on. -/
def State.stackBytes (s : State) (st o n : Nat) : List Byte := (List.range n).map fun i => s.placeByte (.stack st (o + i))

/-! ### The memory transport -/

/-- A packet of an open stream that the module takes (R325). -/
structure OnStream (s : State) (h : CmtHdr) (x : Session) (y : Stream) : Prop where
  listening : s.listening = true
  isOpen : s.session? h.session = some x
  sole : ∀ w ∈ s.host.sessions, w.num = h.session → w = x
  tag : x.priv = true → h.tag = .good
  stream : s.stream? h.session h.stream = some y
  alone : ∀ z ∈ s.host.streams, z.session = h.session → z.num = h.stream → z = y

/-- The stream after its packet: the next PSN is awaited (R326). -/
def Moved (t : State) (h : CmtHdr) : Prop :=
  ∃ z, t.stream? h.session h.stream = some z ∧ z.next = h.psn + 1

/-- A packet of a kind, an address and a payload is among what the module has sent on a stream. -/
def Sends (s t : State) (h : CmtHdr) (kind : Nat) (ga : GA) (data : List Byte) : Prop :=
  ∃ psn word acked tag, .cmt h.session h.stream psn kind ga word data acked tag ∈ t.host.outbox.drop s.host.outbox.length

end Sys2Proof.Machine
end

