-- ==== Sys2Proof/WellFormed.lean ====
section
/-! DEFINITION. Well-formed commands: every field fits the width or the range that the spec gives it, and a slot operation
is one that its map admits. The meanings do not rest on it: a command that is not well formed has a meaning too. -/

namespace Sys2Proof

/-- A logical core number: 11 bits of a global address (R28). -/
def coreOk (l : Nat) : Bool := l < 2048
/-- A queue number (R192). -/
def queueOk (q : Nat) : Bool := q < 4
/-- A queue index (R192). -/
def idxOk (i : Nat) : Bool := i < 16
/-- A global address (R28). -/
def gaOk (g : GA) : Bool := g < 2 ^ 64
/-- A region number (R297). -/
def regionOk (r : Nat) : Bool := r < 8
/-- A physical core (R23). -/
def physOk (p : Nat) : Bool := p < 1248
/-- A C-die or N-die (R20). -/
def dieOk (d : Nat) : Bool := d < 48
/-- A capacity stack and a channel of it (R224). -/
def channelOk (st ch : Nat) : Bool := st < 20 && ch < 32
/-- A Kollek port (R401). -/
def kportOk (p : Nat) : Bool := p < 16
/-- An Ethernet port (R21). -/
def eportOk (p : Nat) : Bool := p < 8
/-- A module number (R28). -/
def moduleOk (m : Nat) : Bool := m < 64
/-- A number of 32 bits. -/
def wordOk (n : Nat) : Bool := n < 2 ^ 32
/-- A number of 64 bits. -/
def longOk (n : Nat) : Bool := n < 2 ^ 64
/-- The bytes of one narrow access (R98). -/
def narrowOk (n : Nat) : Bool := 1 ≤ n && n ≤ 32

/-- A requester that the part has: prep harts (R26), streams (R325). -/
def reqOk : Requester → Bool
  | .prep h => h < 192
  | .cmt _ n => n < 64
  | .debug | .host => true

/-- A mailbox header (R307). -/
def hdrOk (h : Hdr) : Bool := wordOk h.session && wordOk h.seq && eportOk h.port

/-- A CMT header (R325). -/
def cmtHdrOk (h : CmtHdr) : Bool := wordOk h.session && h.stream < 64 && wordOk h.psn && eportOk h.port

/-- The payload of a CMT packet (R325). -/
def payloadOk (n : Nat) : Bool := n ≤ 8192

/-- A flit header (R395). -/
def flitOk (h : FlitHdr) : Bool :=
  moduleOk h.dst && moduleOk h.src && h.hops < 4 && gaOk h.dstGA && gaOk h.srcGA && coreOk h.sigCore && h.sigTally < 64
    && h.sigCount < 4096 && h.payload ≤ 65536 && idxOk h.tagIdx && queueOk h.queue && wordOk h.acked

/-- A parking unit by its logical place (R242). -/
def unitOk : ParkUnit → Bool
  | .well l seg => coreOk l && seg < 16
  | .pool p seg => p < 64 && seg < 144
  | .channel st ch => channelOk st ch

/-- A place with a temperature sensor (R367). -/
def placeOk : TempPlace → Bool
  | .island p => physOk p
  | .ndie d => dieOk d
  | .stack s => s < 20

/-- What the background path serves (R93). -/
def pathOk : BgPath → Bool
  | .outbound q i _ _ => queueOk q && idxOk i
  | .inbound | .combiner => true

/-- A prep core's access (R26): 1 to 32 bytes. -/
def accOk : PrepAcc → Bool
  | .load g n _ => gaOk g && narrowOk n
  | .store g bs => gaOk g && narrowOk bs.length

/-- An S row: its core and an operation of R155. -/
def sOk (core : Nat) (op : SOp) : Bool := coreOk core && op.legal
/-- An X row: its core and an operation of R194. -/
def xOk (core : Nat) (op : XOp) : Bool := coreOk core && op.legal
/-- An M row: its core and an operation of R204. -/
def mOk (core : Nat) (op : MOp) : Bool := coreOk core && op.legal
/-- A V row: its core and an operation of R157. -/
def vOk (core : Nat) (op : VOp) : Bool := coreOk core && op.legal

/-- Whether a command is well formed. -/
def Instr.wf : Instr → Bool
  | .nop l _ _ => coreOk l
  | .halt l _ => coreOk l
  | .step l _ m => sOk l (.step m)
  | .cset l _ cd src => sOk l (.cset cd src)
  | .cadd l _ cd ca src => sOk l (.cadd cd ca src)
  | .ccopy l _ cd ca => sOk l (.ccopy cd ca)
  | .cmp l _ pd rel ca src => sOk l (.cmp pd rel ca src)
  | .br l _ pp a se t => sOk l (.br pp a se t)
  | .setvl l _ src => sOk l (.setvl src)
  | .waitc l _ src => sOk l (.waitc src)
  | .tsigLocal l _ t n => sOk l (.tsigLocal t n)
  | .tsigRemote l _ t h n => sOk l (.tsigRemote t h n)
  | .remoteTsigApplied _ => true
  | .twait l _ t n => sOk l (.twait t n)
  | .twaitany l _ t k1 cd n => sOk l (.twaitany t k1 cd n)
  | .ttake l _ t n => sOk l (.ttake t n)
  | .dadv l _ h dim src => sOk l (.dadv h dim src)
  | .loop l _ cl len1 src => sOk l (.loop cl len1 src)
  | .qput l _ q h tf cx => xOk l (.qput q h tf cx)
  | .qwait l _ cs => xOk l (.qwait cs)
  | .qwaitany l _ cs k1 cd => xOk l (.qwaitany cs k1 cd)
  | .radv l _ tail ctx => xOk l (.radv tail ctx)
  | .mcast l _ q h tf cx g => xOk l (.mcast q h tf cx g)
  | .chain l _ q h tf cx g => xOk l (.chain q h tf cx g)
  | .chainForward l q i m _ _ => coreOk l && queueOk q && idxOk i && coreOk m
  | .mwload l _ h p two => mOk l (.mwload h p two)
  | .mswap l _ => mOk l .mswap
  | .mpass l _ h a k => mOk l (.mpass h a k)
  | .mpassw l _ h a k i j => mOk l (.mpassw h a k i j)
  | .mpassc l _ h a k => mOk l (.mpassc h a k)
  | .mshape l _ sh => mOk l (.mshape sh)
  | .mzero l _ h => mOk l (.mzero h)
  | .unitEntersArray l => coreOk l
  | .arrayHold l => coreOk l
  | .vadd l _ h f => vOk l (.vec .vadd h f)
  | .vsub l _ h f => vOk l (.vec .vsub h f)
  | .vmul l _ h f => vOk l (.vec .vmul h f)
  | .vfma l _ h f => vOk l (.vec .vfma h f)
  | .vmax l _ h f => vOk l (.vec .vmax h f)
  | .vmin l _ h f => vOk l (.vec .vmin h f)
  | .vabs l _ h f => vOk l (.vec .vabs h f)
  | .vcmp l _ h f => vOk l (.vec .vcmp h f)
  | .vsel l _ h f => vOk l (.vec .vsel h f)
  | .vcvt l _ h f => vOk l (.vec .vcvt h f)
  | .vexp2 l _ h f => vOk l (.vec .vexp2 h f)
  | .vlog2 l _ h f => vOk l (.vec .vlog2 h f)
  | .vrsq l _ h f => vOk l (.vec .vrsq h f)
  | .vrcp l _ h f => vOk l (.vec .vrcp h f)
  | .vtanh l _ h f => vOk l (.vec .vtanh h f)
  | .vred l _ h f => vOk l (.vec .vred h f)
  | .vscan l _ h f => vOk l (.vec .vscan h f)
  | .vacc l _ h f => vOk l (.vec .vacc h f)
  | .vperm l _ h f => vOk l (.vec .vperm h f)
  | .vgather l _ h f => vOk l (.vec .vgather h f)
  | .vrng l _ c h u f => vOk l (.vrng c h u f)
  | .holdLimit l => coreOk l
  | .waitTimeout l => coreOk l
  | .announceTimeout l q i m => coreOk l && queueOk q && idxOk i && coreOk m
  | .regionEntersIdle r => regionOk r
  | .transferStart l q => coreOk l && queueOk q
  | .startConditionServed l q i => coreOk l && queueOk q && idxOk i
  | .bytesLanded l q i m _ _ _ => coreOk l && queueOk q && idxOk i && coreOk m
  | .transferComplete l q => coreOk l && queueOk q
  | .tagIndexFree l q => coreOk l && queueOk q
  | .announceApplied l q i m => coreOk l && queueOk q && idxOk i && coreOk m
  | .backgroundPathAccess l p => coreOk l && pathOk p
  | .combinerWrite l q _ bs => coreOk l && reqOk q && narrowOk bs.length
  | .combinerRead l q _ n => coreOk l && reqOk q && narrowOk n
  | .combinerEntryTimeout l => coreOk l
  | .requesterFence q => reqOk q
  | .accumulatorCombinerAccess l => coreOk l
  | .prepCoreAccess h a => h < 192 && accOk a
  | .tallySignal q l v => reqOk q && coreOk l && longOk v
  | .wellRefreshSlot d _ => dieOk d
  | .stackRefresh st ch _ => channelOk st ch
  | .parkTakesEffect u => unitOk u
  | .unitParked u _ => unitOk u
  | .meshLinkDown d dir _ => dieOk d && dir < 4
  | .heartbeat p _ => kportOk p
  | .linkDown p _ => kportOk p
  | .linkRetryLimit p => kportOk p
  | .portRetrain p _ => kportOk p
  | .partnerLost m => moduleOk m
  | .failedFlit p => kportOk p
  | .nakReceived p h => kportOk p && flitOk h
  | .creditReturn p => kportOk p
  | .writeFlit p h d => kportOk p && flitOk h && d.length ≤ 65536
  | .readRequest p r => kportOk p && flitOk r.hdr
  | .readResponse p h d => kportOk p && flitOk h && d.length ≤ 65536
  | .bareTsigFlit p h => kportOk p && flitOk h
  | .discoveryAndIdentity i => kportOk i.port && longOk i.serial
  | .discoveryClose _ => true
  | .invarAlignment c d => longOk c && longOk d
  | .managementFlit p h _ => kportOk p && flitOk h
  | .solderArrival _ m _ _ => moduleOk m
  | .solderCommit _ _ => true
  | .solderTStart _ => true
  | .solderConfirm _ m => moduleOk m
  | .barrierTimeout _ _ => true
  | .pacePause r => regionOk r
  | .paceResume r => regionOk r
  | .capGovernor _ _ => true
  | .constantanStep p _ => physOk p
  | .parityWalk _ _ => true
  | .alnicoMeasureUpdate _ _ _ => true
  | .thermalAlarm p _ => placeOk p
  | .thermalHalt p _ _ => placeOk p
  | .thermTrip _ => true
  | .inputPowerHalt _ _ _ => true
  | .inputBelowMainRailLimit _ => true
  | .islandLockLost p => physOk p
  | .refclkLoss _ => true
  | .syncIn => true
  | .powerOn _ => true
  | .pwrEn _ => true
  | .rstIn _ => true
  | .managementWatchdog _ => true
  | .securityViolation _ => true
  | .resetComplete => true
  | .heldCommandExpiry _ => true
  | .sessionIdleTimeout n _ => wordOk n
  | .eventResend n q _ => wordOk n && wordOk q
  | .eventAcknowledge h seq => hdrOk { h with seq := seq }
  | .sessionOpen h => hdrOk h
  | .sessionElevate h _ => hdrOk h
  | .sessionClose h => hdrOk h
  | .keepalive h => hdrOk h
  | .eventSubscribe h m _ => hdrOk h && wordOk m
  | .discover h => hdrOk h
  | .inventory h _ _ => hdrOk h
  | .partners h => hdrOk h
  | .load h a => hdrOk h && gaOk a.ga
  | .loadComplete r => regionOk r
  | .start h _ => hdrOk h
  | .resume h _ => hdrOk h
  | .stop h _ _ => hdrOk h
  | .solderStep h _ _ _ => hdrOk h
  | .replayStop h _ _ => hdrOk h
  | .define h _ _ _ _ _ => hdrOk h
  | .undefine h _ => hdrOk h
  | .park h _ _ => hdrOk h
  | .repair h _ _ _ => hdrOk h
  | .regionTransitionDone r _ _ => regionOk r
  | .parkUnit h _ _ => hdrOk h
  | .regionStatus h _ => hdrOk h
  | .streamOpen h _ => hdrOk h
  | .streamClose h _ => hdrOk h
  | .stackAlloc h _ _ => hdrOk h
  | .stackFree h g => hdrOk h && gaOk g
  | .regRead h g _ => hdrOk h && gaOk g
  | .regWrite h g vs _ _ => hdrOk h && gaOk g && vs.all longOk
  | .registerWrite q g v => reqOk q && gaOk g && longOk v
  | .faultCountRead l => coreOk l
  | .rcFieldRead q g => reqOk q && gaOk g
  | .indDataRead q g => reqOk q && gaOk g
  | .indDataWrite q g v => reqOk q && gaOk g && longOk v
  | .powerState h _ => hdrOk h
  | .powerCap h _ => hdrOk h
  | .pace h _ _ _ => hdrOk h
  | .reset h _ => hdrOk h
  | .faultRead h _ _ => hdrOk h
  | .faultPolicy h _ _ _ => hdrOk h
  | .ledgerRead h _ _ => hdrOk h
  | .runRecord h _ _ => hdrOk h
  | .choiceLog h _ _ => hdrOk h
  | .backupReg h _ _ => hdrOk h
  | .settingsRead h _ => hdrOk h
  | .settingsStage h _ _ => hdrOk h
  | .settingsCommit h => hdrOk h
  | .firmwareUpdate h g _ _ => hdrOk h && gaOk g
  | .firmwareFallback _ => true
  | .securityStatus h => hdrOk h
  | .lifecycle h _ => hdrOk h
  | .debugToken h _ => hdrOk h
  | .debugExpiry _ => true
  | .attest h _ => hdrOk h
  | .debugAccess h g _ _ => hdrOk h && gaOk g
  | .domainMap h => hdrOk h
  | .rediscover h => hdrOk h
  | .domainReset h => hdrOk h
  | .write h g bs => cmtHdrOk h && gaOk g && payloadOk bs.length
  | .read h g _ _ => cmtHdrOk h && gaOk g
  | .writeAnnounce h g bs a => cmtHdrOk h && gaOk g && payloadOk bs.length && coreOk a.lcore && a.tally < 64 && a.count < 4096
  | .fence h => cmtHdrOk h
  | .ack h p => cmtHdrOk h && wordOk p
  | .nak h p => cmtHdrOk h && wordOk p
  | .cmtAckTimer _ n => n < 64
  | .cmtRetransmitTimer _ n => n < 64
  | .ethLinkUp p _ => eportOk p
  | .ethPortDown p => eportOk p
  | .arp p _ _ => eportOk p
  | .neighbourDiscovery p _ _ => eportOk p
  | .icmpEcho p _ _ bs => eportOk p && bs.length ≤ 9216
  | .pfcFrame p pr _ => eportOk p && pr < 8
  | .pfcThreshold p _ => eportOk p
  | .lldp p => eportOk p
  | .lldpNeighbour p _ _ _ _ => eportOk p
  | .lldpTtlExpiry _ => true
  | .readVin => true
  | .readIin => true
  | .readPin => true
  | .readTemperature1 => true
  | .readTemperature2 => true
  | .statusWord => true
  | .clearFaults => true
  | .mfrSerial => true
  | .powerTransitionComplete cs _ => cs.all physOk
  | .settingsCommitComplete _ => true
  | .managementRestartComplete => true
  | .refclkReturn => true
  | .protectiveHaltConditionCleared _ => true

end Sys2Proof
end

