-- ==== Sys2Proof/Certificates/Slice0/Obligations.lean ====
section
/-! DEFINITION. The statements for the provers. -/

open Sys2Proof Sys2Proof.Machine

/-! ### The S slot -/

/-- R170: CSET, CADD and CCOPY write one counter, modulo 2^32, with an immediate, a sum, a copy or a scratchpad word (once
the checks of its form pass), and the core goes on. -/
def Obligations.CountersTakeTheirValues : Prop :=
  ∀ (s : State) (l : Nat) (c : CoreSt) (x : Region) (b : Bundle) (cd ca cb : BitVec 3) (v : BitVec 19) (w : BitVec 16)
    (h : BitVec 8),
    Ready s l c x → plainBundle b → c.straight →
    let go := c.issued s.time.cycle (b.delay.toNat + 1)
    let put (n : BitVec 32) : State := s.updCore l fun _ => { go with counters := c.counters.set cd.toNat n.toNat }
    let o := mkOpnd s.kol.module c .consumer h.toNat
    exec (.cset l b cd (.imm v)) s = .next (put (v.signExtend 32)) ∧
    exec (.cadd l b cd ca (.imm w)) s = .next (put (c.word ca + w.signExtend 32)) ∧
    exec (.cadd l b cd ca (.reg cb)) s = .next (put (c.word ca + c.word cb)) ∧
    exec (.ccopy l b cd ca) s = .next (put (c.word ca)) ∧
    (Passes s c { b with s := .cset cd (.word h) } →
      exec (.cset l b cd (.word h)) s = .next (s.updCore l fun _ => { go with
        counters := c.counters.set cd.toNat (c.spad.num (gaOff o.base) 4 % 2 ^ 32)
        claims := c.claims ++ [{ bank := bankOf (granuleOf (gaOff o.base)), pos := 0 }]
        engines := c.engines ++ ringRelease o (s.time.cycle + 1) }))

/-- R171: CMP writes one predicate with the relation of a counter and an immediate, a counter or a scratchpad word (once the
checks of its form pass), and the core goes on. -/
def Obligations.ComparisonsSetTheirPredicate : Prop :=
  ∀ (s : State) (l : Nat) (c : CoreSt) (x : Region) (b : Bundle) (ca cb rel : BitVec 3) (pd : BitVec 2) (h : BitVec 8)
    (v : BitVec 13),
    Ready s l c x → plainBundle b → c.straight →
    let go := c.issued s.time.cycle (b.delay.toNat + 1)
    let put (p : Bool) : State := s.updCore l fun _ => { go with preds := c.preds.set pd.toNat p }
    let o := mkOpnd s.kol.module c .consumer h.toNat
    exec (.cmp l b pd rel ca (.imm v)) s = .next (put (relation rel (c.word ca) (v.signExtend 32))) ∧
    exec (.cmp l b pd rel ca (.reg cb)) s = .next (put (relation rel (c.word ca) (c.word cb))) ∧
    (Passes s c { b with s := .cmp pd rel ca (.word h) } →
      exec (.cmp l b pd rel ca (.word h)) s = .next (s.updCore l fun _ => { go with
        preds := c.preds.set pd.toNat (relation rel (c.word ca) (BitVec.ofNat 32 (c.spad.num (gaOff o.base) 4)))
        claims := c.claims ++ [{ bank := bankOf (granuleOf (gaOff o.base)), pos := 0 }]
        engines := c.engines ++ ringRelease o (s.time.cycle + 1) }))

/-- R66, R154, R173, R177, R179: NOP in any slot, SETVL, WAITC and HALT. -/
def Obligations.NopSetvlWaitAndHalt : Prop :=
  ∀ (s : State) (l : Nat) (c : CoreSt) (x : Region) (b : Bundle) (slot : Slot) (cs : BitVec 3) (v : BitVec 18)
    (n : BitVec 22),
    Ready s l c x → plainBundle b → c.straight →
    let go := c.issued s.time.cycle (b.delay.toNat + 1)
    let length : Nat := (max 0 (min (c.word cs).toInt 16777216)).toNat
    exec (.nop l b slot) s = .next (s.updCore l fun _ => go) ∧
    exec (.setvl l b (.imm v)) s = .next (s.updCore l fun _ => { go with vl := v.toNat }) ∧
    exec (.setvl l b (.reg cs)) s = .next (s.updCore l fun _ => { go with vl := length }) ∧
    exec (.setvl l b (.bounded cs v)) s = .next (s.updCore l fun _ => { go with vl := min length v.toNat }) ∧
    exec (.waitc l b (.imm n)) s =
      .next (s.updCore l fun _ => c.issued s.time.cycle (b.delay.toNat + 1 + n.toNat)) ∧
    exec (.waitc l b (.reg cs)) s =
      .next (s.updCore l fun _ => c.issued s.time.cycle (b.delay.toNat + 1 + c.counter cs.toNat)) ∧
    exec (.halt l b) s = .next (s.updCore l fun _ => { go with run := .halted })

/-- R172, R176: a taken BR goes to its target three cycles later and leaves the loops whose body does not contain it;
one that is not taken falls through three cycles later. -/
def Obligations.BranchGoesToItsTarget : Prop :=
  ∀ (s : State) (l : Nat) (c : CoreSt) (x : Region) (b : Bundle) (pp : BitVec 2) (always sense : Bool)
    (target : BitVec 14),
    Ready s l c x → plainBundle b →
    ((always = true ∨ c.preds.getD pp.toNat false = sense) →
      exec (.br l b pp always sense target) s = .next (s.updCore l fun _ =>
        { c.issued s.time.cycle 3 with
          pc := target.toNat
          loops := c.loops.dropWhile fun e => !(decide (e.start ≤ target.toNat) && decide (target.toNat ≤ e.stop)) })) ∧
    (always = false → c.preds.getD pp.toNat false ≠ sense → c.straight →
      exec (.br l b pp always sense target) s = .next (s.updCore l fun _ => c.issued s.time.cycle 3))

/-- R174: LOOP clears its counter; with count 0 it jumps past its body, else the loop becomes the innermost one. -/
def Obligations.LoopBeginsOrSkipsItsBody : Prop :=
  ∀ (s : State) (l : Nat) (c : CoreSt) (x : Region) (b : Bundle) (cl : BitVec 3) (len1 : BitVec 14) (src : LoopSrc),
    Ready s l c x → plainBundle b →
    let count : Nat := match src with | .imm n => n.toNat | .reg cs => c.counter cs.toNat
    let stop := c.pc + len1.toNat + 1
    let go := { c.issued s.time.cycle (b.delay.toNat + 1) with counters := c.counters.set cl.toNat 0 }
    stop ≤ 16382 → c.loops.length < 8 → (∀ e r, c.loops = e :: r → stop ≤ e.stop) →
    exec (.loop l b cl len1 src) s = .next (s.updCore l fun _ =>
      if count = 0 then { go with pc := stop + 1 }
      else { go with loops := { start := c.pc + 1, stop := stop, counter := cl.toNat, count := count } :: c.loops })

/-- R175: at the last bundle of the innermost loop's body the counter moves by one; below the count the body is entered
again, else the loop ends. -/
def Obligations.LoopEndGoesBackOrLeaves : Prop :=
  ∀ (s : State) (l : Nat) (c : CoreSt) (x : Region) (b : Bundle) (slot : Slot) (e : LoopEntry) (r : List LoopEntry),
    Ready s l c x → plainBundle b → c.loops = e :: r → e.stop = c.pc → c.pc < 16383 → e.start < 16384 →
    (∀ f q, r = f :: q → f.stop ≠ c.pc) →
    let v := (c.counter e.counter + 1) % 2 ^ 32
    let go := { c.issued s.time.cycle (b.delay.toNat + 1) with counters := c.counters.set e.counter v }
    exec (.nop l b slot) s =
      .next (s.updCore l fun _ => if v < e.count then { go with pc := e.start } else { go with loops := r })

/-- R180, R181, R182, R184: a local TSIG adds to a tally at the end of its cycle, TWAIT and TTAKE subtract from what the waits
of the cycle have left; at the cycle's end the subtractions come first, then an addition that fits. -/
def Obligations.TallyInstructionsMoveTheCount : Prop :=
  ∀ (s : State) (l : Nat) (c : CoreSt) (x : Region) (b : Bundle) (t : BitVec 6) (n : BitVec 12) (a : TallyAdd),
    Ready s l c x → plainBundle b → c.straight → t.toNat ≤ 47 →
    let go := c.issued s.time.cycle (b.delay.toNat + 1)
    let taken : CoreSt := { go with taken := c.taken.modify t.toNat fun v => v + n.toNat }
    exec (.tsigLocal l b t n) s = .next (s.updCore l fun _ => { go with fresh := c.fresh ++
      [{ tally := t.toNat, n := n.toNat, src := 0, slot := some .s, bundle := c.pc }] }) ∧
    (n.toNat ≤ c.avail t.toNat → exec (.twait l b t n) s = .next (s.updCore l fun _ => taken)) ∧
    (n.toNat ≤ c.avail t.toNat → exec (.ttake l b t n) s = .next (s.updCore l fun _ => taken)) ∧
    (c.fresh = [a] → a.tally ≤ 47 → c.avail a.tally + a.n ≤ 4095 →
      let d := c.settleTallies s.time.cycle
      d.due = c.due ∧ d.fresh = [] ∧ (∀ u < 48, d.taken.getD u 0 = 0) ∧
      ∀ u < 48, d.tallies.getD u 0 = if u = a.tally then c.avail u + a.n else c.avail u)

/-- R82, R180, R184: a TTAKE of more than the tally holds, and an addition past 4,095 at the cycle's end, leave the tally and
raise their fault, and the core goes on; the end of the cycle records the core's faults in the order of their slots. -/
def Obligations.TallyFaultsLeaveTheTally : Prop :=
  ∀ (s : State) (l : Nat) (c : CoreSt) (x : Region) (b : Bundle) (t : BitVec 6) (n : BitVec 12) (a : TallyAdd)
    (f g : FRec),
    Ready s l c x → plainBundle b → c.straight → t.toNat ≤ 47 →
    (c.avail t.toNat < n.toNat →
      exec (.ttake l b t n) s =
        .next ((s.raise l .tallyUnderflow (some .s) c.pc (overflowDetail t.toNat (c.avail t.toNat) n.toNat 0)).updCore l
          fun d => d.issued s.time.cycle (b.delay.toNat + 1))) ∧
    (c.fresh = [a] → a.tally ≤ 47 → 4095 < c.avail a.tally + a.n →
      let d := c.settleTallies s.time.cycle
      d.due = c.due ++ [c.frec s.time.cycle .tallyOverflow a.slot a.bundle
        (overflowDetail a.tally (c.avail a.tally) a.n a.src) false] ∧
      ∀ u < 48, d.tallies.getD u 0 = c.avail u) ∧
    (c.due = [f, g] → x.policy f.code = .log → x.policy g.code = .log →
      let at_ (h : FRec) : FRec := c.settled s.time.cycle h
      let s' := s.updCore l fun d => { d with due := [] }
      s.settleFaults l = if f.rank ≤ g.rank then (s'.recordFault l (at_ f)).recordFault l (at_ g)
        else (s'.recordFault l (at_ g)).recordFault l (at_ f))

/-- R183, R278: TWAITANY takes from the lowest ready tally and writes its index; when not every tally was ready, the
choice is counted. -/
def Obligations.TwaitanyTakesTheLowestReady : Prop :=
  ∀ (s : State) (l : Nat) (c : CoreSt) (x : Region) (b : Bundle) (t : BitVec 6) (k1 cd : BitVec 3) (n : BitVec 8)
    (j : Nat),
    Ready s l c x → plainBundle b → c.straight → b.relaxed = true → c.replay = none → n ≠ 0 →
    t.toNat + k1.toNat ≤ 47 → j ≤ k1.toNat →
    let ready (i : Nat) : Prop := n.toNat ≤ c.avail (t.toNat + i)
    ready j → (∀ i < j, ¬ ready i) →
    let entry : ChoiceEntry :=
      { runStep := c.step - x.base, bundle := c.pc, occurrence := c.occurrence c.pc, index := j, isTag := false }
    let taken (d : CoreSt) : CoreSt :=
      { d.issued s.time.cycle (b.delay.toNat + 1) with
        taken := c.taken.modify (t.toNat + j) fun v => v + n.toNat
        counters := c.counters.set cd.toNat j }
    ((∀ i ≤ k1.toNat, ready i) → exec (.twaitany l b t k1 cd n) s = .next (s.updCore l fun _ => taken c)) ∧
    ((∃ i ≤ k1.toNat, ¬ ready i) →
      exec (.twaitany l b t k1 cd n) s = .next (s.updCore l fun _ => taken (c.choose entry)))

/-- R181, R254, R255: a remote TSIG that passes its checks sends its count to the core that the descriptor's address
names; a count of 0 sends nothing. -/
def Obligations.RemoteTsigSendsASignal : Prop :=
  ∀ (s : State) (l : Nat) (c : CoreSt) (x : Region) (b : Bundle) (t : BitVec 6) (h n : BitVec 8),
    Ready s l c x → plainBundle b → c.straight → Passes s c { b with s := .tsigRemote t h n } →
    let go : State := s.updCore l fun _ => c.issued s.time.cycle (b.delay.toNat + 1)
    let target := (descAt c.desc h.toNat).base
    (n = 0 → exec (.tsigRemote l b t h n) s = .next go) ∧
    (n ≠ 0 → s.inMap (gaModule target) = true → gaModule target = s.kol.module →
      (s.core? (gaCore target)).isSome = true →
      exec (.tsigRemote l b t h n) s = .next { go with fab := { s.fab with
        nextSig := s.fab.nextSig + 1
        signals := s.fab.signals ++
          [{ id := s.fab.nextSig, issuer := l, module := s.kol.module, lcore := gaCore target, tally := t.toNat
             count := n.toNat, issued := s.time.cycle
             latency := s.sigLatency (some l) (some (gaCore target)) (dieOf c.phys) (s.coreDie (gaCore target))
             ahead := laneAhead s.kol.module s.kol.module c, bundle := c.pc }] } })

/-- R168: DADV adds a dimension's stride times a count to the base of a descriptor, modulo 2^64. -/
def Obligations.DadvMovesTheBase : Prop :=
  ∀ (s : State) (l : Nat) (c : CoreSt) (x : Region) (b : Bundle) (h : BitVec 8) (dim : BitVec 3) (src : DadvSrc),
    Ready s l c x → plainBundle b → c.straight → Passes s c { b with s := .dadv h dim src } →
    let d := descAt c.desc h.toNat
    let n : Int := match src with | .imm v => v.toInt | .reg cs => (c.word cs).toInt
    exec (.dadv l b h dim src) s = .next (s.updCore l fun _ =>
      { c.issued s.time.cycle (b.delay.toNat + 1) with
        desc := c.desc.write (64 * h.toNat) (leBytes 8 (((d.base : Int) + d.strideOf dim.toNat * n) % 2 ^ 64).toNat) })

/-- R72, R178, R277: STEP on a marker bundle begins an Invar step, the first of a run with no slip; tallies that its mask names
and that are not zero are raised, and under policy LOG the core goes on. -/
def Obligations.StepMarkerBeginsAStep : Prop :=
  ∀ (s : State) (l : Nat) (c : CoreSt) (x : Region) (b : Bundle) (mask : BitVec 24),
    Ready s l c x → plainBundle b → c.straight → c.cfg = [] →
    let named (t : Nat) : Prop := t < 48 ∧ mask.getLsbD (t / 2) = true ∧ c.tallies.getD t 0 ≠ 0
    let begin_ (d : CoreSt) : CoreSt :=
      { d.issued s.time.cycle (b.delay.toNat + 1) with
        step := if c.begun then c.step + 1 else c.step
        begun := true, stepCycle := s.time.cycle, slip := if c.begun then c.slip else 0
        chain := x.chainMode, occur := [(c.pc, 1)] }
    ((∀ t, ¬ named t) →
      exec (.step l { b with marker := true } mask) s = .next (s.updCore l fun _ => begin_ c)) ∧
    (∀ t n, named t → (∀ u < t, ¬ named u) → x.policy .tallyImbalance = .log →
      n = ((List.range 48).filter fun u => mask.getLsbD (u / 2) && c.tallies.getD u 0 != 0).length →
      exec (.step l { b with marker := true } mask) s =
        .next ((s.raise l .tallyImbalance (some .s) c.pc (t + 64 * n + 4096 * c.tallies.getD t 0) true).updCore l begin_))

/-- R68, R76, R79, R213, R221: an instruction that its checks skip has no effect but its fault and, in the M and V slots, the
occupancy of its unit; the core goes on. -/
def Obligations.SkippedInstructionOnlyRecords : Prop :=
  ∀ (s : State) (l : Nat) (c : CoreSt) (x : Region) (b : Bundle) (code : FCode) (d : Nat),
    Ready s l c x → plainBundle b → c.straight →
    let given (b : Bundle) : CoreSt := { c with waiting := [b] }
    let after (slot : Slot) (f : CoreSt → CoreSt) : Host.Outcome State Fault Refusal :=
      .next ((s.raise l code (some slot) c.pc d).updCore l fun e => f (e.issued s.time.cycle (b.delay.toNat + 1)))
    (∀ t k1 cd n, let bb := { b with s := .twaitany t k1 cd n }
      judgeS (s.ctx c) (given bb) bb = .skip code d → exec (.twaitany l b t k1 cd n) s = after .s id) ∧
    (∀ cl len1 src, let bb := { b with s := .loop cl len1 src }
      judgeS (s.ctx c) (given bb) bb = .skip code d → exec (.loop l b cl len1 src) s = after .s id) ∧
    (∀ cs, let bb := { b with x := .qwait cs }
      judgeX (s.ctx c) (given bb) bb = .skip code d → exec (.qwait l b cs) s = after .x id) ∧
    (∀ h accum keep, let bb := { b with m := .mpass h accum keep }
      judgeM (s.ctx c) (given bb) bb = .skip code d →
      exec (.mpass l b h accum keep) s = after .m (skipM (s.ctx c) c (.mpass h accum keep) code)) ∧
    (∀ op h form, let bb := withV b op h form
      judgeV (s.ctx c) (given bb) bb = .skip code d →
      exec (vecRow op l b h form) s = after .v (skipV (s.ctx c) c (.vec op h form) code))

/-! ### The X slot -/

/-- R180, R192, R195, R197, R198, R228: QPUT, MCAST and CHAIN that pass their checks enter a transfer at the tail of their
queue, reserve a slot of a queue ring, record a start condition, which the same cycle serves when its tally holds enough, and
hand out the tag in their form. -/
def Obligations.TransferInstructionsEnterTheQueue : Prop :=
  ∀ (s : State) (l : Nat) (c : CoreSt) (x : Region) (b : Bundle) (q tf : BitVec 2) (h : BitVec 8) (cx : BitVec 3)
    (grp : BitVec 6),
    Ready s l c x → plainBundle b → c.straight → c.claims = [] →
    let after (f : XFields) : State :=
      let d := (xOpnds (s.ctx c) c f).1
      let w := (xOpnds (s.ctx c) c f).2.2
      let e := newXfer (s.ctx c) c f
      let m := (c.queue f.q).count
      let tag := m % 16 + 16 * f.q + 64 * (m / 16 % 1024)
      s.updCore l fun _ => CoreSt.serveConds { c.issued s.time.cycle (b.delay.toNat + 1) with
        queues := c.queues.modify f.q fun y => { count := m + 1, live := y.live ++ [e] }
        conds := if e.attr.startEn then
            [{ q := f.q, idx := e.idx, tally := e.attr.startTally, count := e.attr.startCount }] else []
        rings := if d.d.ring && !(attrOf d.d.attr).stream then
            c.rings.modify d.d.ctx fun r => r.map fun r => { r with p := r.p + 1 } else c.rings
        counters := if f.tf = 1 then c.counters.set f.cx (tag % 2 ^ 32) else c.counters
        spad := if f.tf = 2 then c.spad.write (gaOff w.base) (leBytes 4 tag) else c.spad
        claims := if f.tf = 2 then [{ bank := bankOf (granuleOf (gaOff w.base)), pos := 1 }] else [] }
    let goes (i : Instr) (op : XOp) (f : XFields) : Prop :=
      Passes s c { b with x := op } → exec i s = .next (after f)
    goes (.qput l b q h tf cx) (.qput q h tf cx) ⟨q.toNat, h.toNat, tf.toNat, cx.toNat, none, .put⟩ ∧
    goes (.mcast l b q h tf cx grp) (.mcast q h tf cx grp)
      ⟨q.toNat, h.toNat, tf.toNat, cx.toNat, some grp.toNat, .mcast⟩ ∧
    goes (.chain l b q h tf cx grp) (.chain q h tf cx grp)
      ⟨q.toNat, h.toNat, tf.toNat, cx.toNat, some grp.toNat, .chain⟩

/-- R199, R200, R201: QWAIT and QWAITANY take a complete tag, RADV moves one end of a ring context. -/
def Obligations.WaitsTakeTagsAndRadvMovesARing : Prop :=
  ∀ (s : State) (l : Nat) (c : CoreSt) (x : Region) (b : Bundle) (cs k1 cd : BitVec 3) (ctx : BitVec 5) (j : Nat),
    Ready s l c x → plainBundle b → c.straight →
    let go (d : CoreSt) : CoreSt := d.issued s.time.cycle (b.delay.toNat + 1)
    let taken (d : CoreSt) (k : Nat) : CoreSt := { go d with queues := (c.takeTag (c.counter k)).queues }
    let complete (i : Nat) : Prop := ∃ y, c.findTag (c.counter (cs.toNat + i)) = some y ∧ y.complete = true
    (Passes s c { b with x := .qwait cs } →
      exec (.qwait l b cs) s = .next (s.updCore l fun _ => taken c cs.toNat)) ∧
    (Passes s c { b with x := .qwaitany cs k1 cd } → c.replay = none →
      j ≤ k1.toNat → complete j → (∀ i < j, ¬ complete i) → (∀ i ≤ k1.toNat, complete i) →
      exec (.qwaitany l b cs k1 cd) s = .next (s.updCore l fun _ =>
        { taken c (cs.toNat + j) with counters := c.counters.set cd.toNat j })) ∧
    (Passes s c { b with x := .radv false ctx } →
      exec (.radv l b false ctx) s = .next (s.updCore l fun _ => { go c with
        rings := c.rings.modify ctx.toNat fun r => r.map fun r => { r with head := (r.head + 1) % r.n, f := r.f + 1 } })) ∧
    (Passes s c { b with x := .radv true ctx } →
      exec (.radv l b true ctx) s = .next (s.updCore l fun _ => { go c with
        rings := c.rings.modify ctx.toNat fun r => r.map fun r => { r with tail := (r.tail + 1) % r.n, f := r.f - 1 } }))

/-- R199: a tag that has been taken names no transfer any more, and no other queue is touched. -/
def Obligations.TagIsTakenOnce : Prop :=
  ∀ (c : CoreSt) (t : Nat),
    (c.takeTag t).findTag t = none ∧ ∀ q, q ≠ bits t 5 4 → (c.takeTag t).queue q = c.queue q

/-! ### The M slot -/

/-- R205, R206, R211, R212: MWLOAD, MSWAP, MSHAPE and MZERO that pass their checks take their paths of the M unit. -/
def Obligations.MatrixControlTakesItsPath : Prop :=
  ∀ (s : State) (l : Nat) (c : CoreSt) (x : Region) (b : Bundle) (h : BitVec 8) (part n : BitVec 2) (two : Bool),
    Ready s l c x → plainBundle b → c.straight →
    let due := s.time.cycle - c.frozen
    let go : CoreSt := c.issued s.time.cycle (b.delay.toNat + 1)
    let o := mkOpnd s.kol.module c .consumer (resolveHandle c .m h.toNat)
    let z := mkOpnd s.kol.module c .producer (resolveHandle c .m h.toNat)
    let leave := c.shape.lat + 16
    (Passes s c { b with m := .mwload h part two } →
      exec (.mwload l b h part two) s = .next (s.updCore l fun _ => { go with
        shadowFree := due + 64
        shadow := { c.shadow with fmt := some o.d.fmt, two := two }
        loads := c.loads ++ [{ id := c.nextJob, bundle := c.pc, due := due, part := part.toNat, two := two, src := o
                               shape := c.shape }]
        engines := c.engines ++ [{ mclock := true, srcs := (o.wordRange (loadAll c.shape o part.toNat two)).toList
                                   dst := none, relSrc := due + 64, relDst := 0, rings := releases o }]
        nextJob := c.nextJob + 1 })) ∧
    (Passes s c { b with m := .mswap } →
      ∃ older, exec (.mswap l b) s = .next (s.updCore l fun _ => { go with
        shadowFree := max c.shadowFree (due + 1), actives := (due + 1, c.shadow) :: older })) ∧
    (Passes s c { b with m := .mshape n } →
      exec (.mshape l b n) s = .next (s.updCore l fun _ => { go with
        passFree := due + leave, shadowFree := due + leave, shapeFree := due + leave
        newShape := some (due + leave, shapeOf n.toNat) })) ∧
    (Passes s c { b with m := .mzero h } →
      exec (.mzero l b h) s = .next (s.updCore l fun _ => { go with
        zeroFree := due + (z.d.extent 0 + 63) / 64
        zeros := c.zeros ++ [{ due := due, a0 := areaEntry z, n := z.d.extent 0 }] }))

/-- R74, R95, R106, R207 to R210: a pass that passes its checks is entered with its rows and sub-passes, its areas and its
source. -/
def Obligations.MatrixPassEntersTheUnit : Prop :=
  ∀ (s : State) (l : Nat) (c : CoreSt) (x : Region) (b : Bundle) (h : BitVec 8) (accum keep : Bool) (i j : BitVec 2),
    Ready s l c x → plainBundle b → c.straight →
    let due := s.time.cycle - c.frozen
    let goes (row : Instr) (op : MOp) (f : PassFields) : Prop :=
      Passes s c { b with m := op } →
      let area := (passOpnds (s.ctx c) c f).1
      let src := (passOpnds (s.ctx c) c f).2.1
      let imag := (passOpnds (s.ctx c) c f).2.2
      let pair := (c.tileAt due).pair src.d.fmt
      let rows := src.d.extent 1
      let subs := passCount f.kind pair
      let hold (a : Opnd) : AccEntry :=
        { job := c.nextJob, lo := areaEntry a / 64, hi := (areaEntry a + c.shape.w * rows - 1) / 64 }
      exec row s = .next (s.updCore l fun _ => { c.issued s.time.cycle (b.delay.toNat + 1) with
        passFree := due + subs * rows
        passes := c.passes ++ [{ id := c.nextJob, bundle := c.pc, kind := f.kind, shape := c.shape, due := due
                                 rows := rows, subs := subs, src := src, area := areaEntry area
                                 areaIm := areaEntry imag, accum := accum, keep := keep
                                 e := passE (c.tileAt due) pair, runStep := c.step - x.base
                                 occur := c.occurrence c.pc }]
        accEntries := c.accEntries ++ [hold area] ++ (if f.kind = .complex then [hold imag] else [])
        engines := c.engines ++ (if c.shape = .sq64 then
            [{ mclock := true, srcs := (src.wordRange (walkAll src)).toList, dst := none, relSrc := due + rows
               relDst := 0, rings := releases src }] else [])
        nextJob := c.nextJob + 1 })
    goes (.mpass l b h accum keep) (.mpass h accum keep) ⟨h.toNat, accum, keep, .one⟩ ∧
    goes (.mpassw l b h accum keep i j) (.mpassw h accum keep i j) ⟨h.toNat, accum, keep, .piece i.toNat j.toNat⟩ ∧
    goes (.mpassc l b h accum keep) (.mpassc h accum keep) ⟨h.toNat, accum, keep, .complex⟩

/-- R48: the integer reduction saturates at each step; while no partial sum leaves the INT32 range it is the exact sum. -/
def Obligations.IntegerReductionSaturatesStepwise : Prop :=
  (∀ ps : List Int, ps ≠ [] →
    (∀ n, -2147483648 ≤ (ps.take n).sum ∧ (ps.take n).sum ≤ 2147483647) →
    reduceInt ps = (BitVec.ofInt 32 ps.sum).toNat) ∧
  (∀ p q : Int, 0 ≤ p → p ≤ 2147483647 → 2147483647 < p + q → reduceInt [p, q] = 0x7FFFFFFF) ∧
  ∀ (old v : Nat) (isInt : Bool), accWord false isInt old v = v

/-! ### The V slot -/

/-- R73, R74, R129, R137, R215, R217 to R219: a V instruction that passes its checks is put in flight with its groups and
latency; with length 0 it only takes the unit for one cycle. -/
def Obligations.VectorInstructionEntersTheEngine : Prop :=
  ∀ (s : State) (l : Nat) (c : CoreSt) (x : Region) (b : Bundle) (code : VCode) (h : BitVec 8) (form : VForm),
    Ready s l c x → plainBundle b → c.straight → Passes s c (withV b code h form) →
    let go := c.issued s.time.cycle (b.delay.toNat + 1)
    let f : VFields := match form with
      | .native md => ⟨code, h.toNat, md.toNat, c.vl, false⟩
      | .legacy n md => ⟨code, h.toNat, md.toNat, n.toNat, true⟩
    let dst := vDst (s.ctx c) c f
    let srcs := vSrcs (s.ctx c) c f
    let lanes := vLanes f dst srcs
    let groups := (vLength f + lanes - 1) / lanes
    let lat := if isLoad f then 1 else vLatency code
    let acc := isAcc (s.ctx c) c
    (f.len = 0 → exec (vecRow code l b h form) s = .next (s.updCore l fun _ => { go with vFree := s.time.cycle + 1 })) ∧
    (f.len ≠ 0 → exec (vecRow code l b h form) s = .next (s.updCore l fun _ => { go with
      vFree := s.time.cycle + groups
      vjobs := c.vjobs ++ [{ id := c.nextJob, bundle := c.pc, op := .vec code h form, at_ := s.time.cycle
                             len := vLength f, lanes := lanes, groups := groups, lat := lat, dst := dst
                             srcs := srcs.map fun o => (o, acc o), runStep := c.step - x.base
                             module := s.kol.module }]
      engines := c.engines ++ [{ mclock := false
                                 srcs := (srcs.filter fun o => !acc o).filterMap fun o => o.range (srcCount f false (vLength f))
                                 dst := dst.bind fun d => d.range (dstCount f (vLength f) srcs dst)
                                 relSrc := s.time.cycle + groups, relDst := s.time.cycle + groups + lat
                                 rings := srcs.flatMap releases }]
      nextJob := c.nextJob + 1 }))

/-- R53, R62, R220: VRNG that passes its checks is put in flight with the counter it reads at issue. -/
def Obligations.VrngEntersTheEngine : Prop :=
  ∀ (s : State) (l : Nat) (c : CoreSt) (x : Region) (b : Bundle) (ctr : BitVec 2) (h : BitVec 7) (u01 : Bool)
    (form : RngForm),
    Ready s l c x → plainBundle b → c.straight →
    let op : VOp := .vrng ctr h u01 form
    Passes s c { b with v := op, legacy := match form with | .native _ => false | .legacy .. => true } →
    let go := c.issued s.time.cycle (b.delay.toNat + 1)
    let len := match form with | .native _ => c.vl | .legacy n _ => n.toNat
    let d := mkOpnd s.kol.module c .producer (resolveHandle c .v h.toNat)
    let lanes := if 32 ≤ d.d.vBits then 128 else if 16 ≤ d.d.vBits then 256 else 512
    let groups := (len + lanes - 1) / lanes
    (len = 0 → exec (.vrng l b ctr h u01 form) s = .next (s.updCore l fun _ => { go with vFree := s.time.cycle + 1 })) ∧
    (len ≠ 0 → exec (.vrng l b ctr h u01 form) s = .next (s.updCore l fun _ => { go with
      vFree := s.time.cycle + groups
      vjobs := c.vjobs ++ [{ id := c.nextJob, bundle := c.pc, op := op, at_ := s.time.cycle, len := len, lanes := lanes
                             groups := groups, lat := 16, dst := some d, srcs := [], ctr := c.counter ctr.toNat
                             runStep := c.step - x.base, module := s.kol.module }]
      engines := c.engines ++ [{ mclock := false, srcs := [], dst := d.range len, relSrc := s.time.cycle + groups
                                 relDst := s.time.cycle + groups + 16, rings := [] }]
      nextJob := c.nextJob + 1 }))

/-- R44, R132, R215: elementwise arithmetic on FP32 elements computes the exact result of the elements and rounds it once. -/
def Obligations.FloatArithmeticRoundsOnce : Prop :=
  ∀ (job : VJob) (f : VFields) (i : Nat) (a b c d : Opnd),
    (∀ o ∈ [a, b, c, d], o.d.fmt = 0x00) → job.dst = some d → job.srcs = [(a, false), (b, false), (c, false)] →
    f.md.testBit 3 = false →
    let u := fp32.rne (fp32.decode (datum job 0 i).1)
    let v := fp32.rne (fp32.decode (datum job 1 i).1)
    let w := fp32.rne (fp32.decode (datum job 2 i).1)
    let gives (code : VCode) (r : Val) : Prop := vElem job { f with code := code } i = [.val (some 0x00) (fp32.rne r)]
    gives .vadd (u.add v) ∧ gives .vsub (u.add v.neg) ∧ gives .vmul (u.mul v) ∧ gives .vfma ((u.mul v).add w)

/-- R35, R39: an integer that is written takes the nearest value of the destination's format. -/
def Obligations.IntegerWritesSaturate : Prop :=
  ∀ (d : Desc) (w : Option Nat) (n : Int),
    let clamp (lo hi : Int) : Int := max lo (min n hi)
    (d.fmt = 0x10 → writeElem d w (Val.ofInt n) = (BitVec.ofInt 4 (clamp (-8) 7)).toNat) ∧
    (d.fmt = 0x11 → writeElem d w (Val.ofInt n) = (BitVec.ofInt 8 (clamp (-128) 127)).toNat) ∧
    (d.fmt = 0x12 → writeElem d w (Val.ofInt n) = (BitVec.ofInt 8 (clamp 0 255)).toNat) ∧
    (d.fmt = 0x13 → writeElem d w (Val.ofInt n) = (BitVec.ofInt 16 (clamp (-32768) 32767)).toNat) ∧
    (d.fmt = 0x14 → writeElem d w (Val.ofInt n) = (BitVec.ofInt 32 (clamp (-2147483648) 2147483647)).toNat)

/-- R35, R38, R39: every finite FP32 pattern reads as a value that is written back as the same pattern. -/
def Obligations.FiniteFp32PatternsSurvive : Prop :=
  ∀ (x : Nat) (keep : Bool), x < 2 ^ 32 → x / 2 ^ 23 % 256 ≠ 255 → fp32.encode keep (fp32.decode x) = x

/-- R140, R141, R145: VCMP writes ones or zeros, VSEL chooses by the condition's bits, a gather outside the table is 0. -/
def Obligations.CompareSelectAndGather : Prop :=
  ∀ (job : VJob) (f : VFields) (i : Nat) (a b c d : Opnd),
    f.md.testBit 3 = false → job.dst = some d →
    (job.srcs = [(a, false), (b, false)] → a.d.fmt = 0x14 → b.d.fmt = 0x14 → d.d.fmt = 0x11 → f.md = 2 →
      vElem job { f with code := .vcmp } i =
        [.raw (if sext (datum job 0 i).1 32 < sext (datum job 1 i).1 32 then 0xFF else 0)]) ∧
    (job.srcs = [(a, false), (b, false), (c, false)] →
      vElem job { f with code := .vsel } i =
        [.raw (if (datum job 0 i).1 = 0 then (datum job 2 i).1 else (datum job 1 i).1)]) ∧
    vElem job { f with code := .vgather } i = [.raw (job.look.getD i 0)]

/-! ### Limits, array events, and the life of a transfer -/

/-- R97, R185, R248, R249: at its limit a held slot is skipped with one record, and the bundle issues without it. -/
def Obligations.LimitsSkipTheHeldSlot : Prop :=
  ∀ (s : State) (l : Nat) (c : CoreSt) (x : Region) (p : Presented),
    Holding s l c x p → c.straight → p.b.marker = false → p.b.reserved = 0 → p.b.x = .nop → p.b.m = .nop →
    let go (e : CoreSt) : CoreSt :=
      { e.issued s.time.cycle (p.b.delay.toNat + 1) with presented := none }.serveConds
    (∀ f d, p.b.s = .nop → judgeV (s.ctx c) c p.b = .hold none (some f) → p.lastC8.getD 3 none = some d →
      x.sbLimit ≤ p.sbCount → p.waitCount < x.waitLimit →
      exec (.holdLimit l) s =
        .next ((s.raise l .holdLimit (some .v) c.pc d).updCore l fun e => skipV (s.ctx c) c p.b.v .holdLimit (go e))) ∧
    (∀ t n, p.b.s = .twait t n → p.b.v = .nop → t.toNat ≤ 47 → n ≠ 0 → c.avail t.toNat < n.toNat →
      x.waitLimit ≤ p.waitCount → p.sbCount < x.sbLimit →
      exec (.waitTimeout l) s = .next ((s.raise l .waitTimeout (some .s) c.pc (waitDetail 0 t.toNat)).updCore l go))

/-- R115, R123, R124: a unit enters in the cycle in which it is due; a WD unit that is 8 cycles late without its record
holds the array. -/
def Obligations.UnitsEnterOrTheArrayHolds : Prop :=
  ∀ (s : State) (l : Nat) (c : CoreSt) (x : Region) (j : PassJob),
    Alone s l c → s.region? c.region = some x → c.nextPass = some j →
    let now := s.time.cycle - c.frozen
    exec (.unitEntersArray l) s = .next (s.advance (j.due + j.next - now)).cc ∧
    ((∀ y ∈ c.passes, y.shape = .sq64) → j.due + j.next = now → c.loads = [] →
      let m := (mCycle c s.time.cycle c.claims).1
      ∃ vals : List Nat, vals.length = 64 ∧ m.passes = c.passes.map (fun y => if y.id = j.id then
          { y with next := j.next + 1, lastWrite := now + 128, lagMax := y.lagMax } else y) ∧
        ∃ w ∈ m.accWrites, w.due = now + 128 ∧ w.values = vals ∧
          w.entry = (if j.kind = .complex ∧ j.subs / 4 * 2 ≤ j.next / j.rows then j.areaIm else j.area)
            + 64 * (j.next % j.rows)) ∧
    (j.shape ≠ .sq64 → j.due + j.next + 8 ≤ now → (c.recordAt j s.time.cycle).2 = none → x.trap = false →
      exec (.arrayHold l) s = .next (s.updCore l fun d => { d with arrayHold := true }))

/-- R193, R196, R229 to R231, R238, R250: a transfer starts, has its condition served, completes, and frees its index. -/
def Obligations.QueueEventsMoveATransfer : Prop :=
  ∀ (s : State) (l q : Nat) (c : CoreSt) (y : Xfer) (older rest : List Xfer),
    Alone s l c → (c.queue q).live = older ++ y :: rest →
    (∀ z ∈ older ++ rest, ¬ (z.idx = y.idx ∧ z.gen = y.gen)) → y.q = q → q < c.queues.length →
    let put (d : CoreSt) (y' : Xfer) : CoreSt :=
      { d with queues := d.queues.modify q fun z => { z with live := older ++ y' :: rest } }
    let chains : Bool := y.kind == .mcast && (match y.grp with | some g => c.chain.getD g false | none => false)
    ((∀ z ∈ older, z.started.isSome = true) → (∀ z ∈ older ++ rest, z.started ≠ some s.time.cycle) →
      s.startsBarred l = false →
      y.started = none → y.discarded = false → y.freed = false → canStart (s.ctx c) c (c.queue q) y = true →
      s.gatherRun (c.queue q).open_ y y rest 1 y.bytes s.time.cycle = [] → y.attr.stream = false →
      gaModule y.src.base = s.kol.module →
      s.unbackedAt (chunkAddrs y.src y.src.base 0 y.bytes) = none →
      (∀ d ∈ y.deliveries, s.unbackedAt (chunkAddrs y.dst (y.dstBase s.kol.module d.member) 0 y.bytes) = none) →
      exec (.transferStart l q) s = .next (s.updCore l fun d =>
        put d { y with started := some s.time.cycle, chainMode := y.chainMode || chains })) ∧
    (∀ k : Cond, c.conds = [k] → k.q = q → k.idx = y.idx → y.freed = false →
      (∀ z ∈ older ++ rest, z.idx ≠ y.idx) → k.count ≤ c.avail k.tally →
      exec (.startConditionServed l q y.idx) s = .next (s.updCore l fun d =>
        { put d { y with condServed := true } with
          conds := [], taken := d.taken.modify k.tally fun v => v + k.count })) ∧
    ((∀ z ∈ older, z.complete = true) → y.started.isSome = true → y.complete = false → y.discarded = false →
      (∀ d ∈ y.deliveries, y.bytes ≤ d.count) → y.dst.d.ring = false →
      exec (.transferComplete l q) s =
        .next (s.updCore l fun d => (put d { y with complete := true }).updQueue q Queue.free)) ∧
    (older = [] → rest = [] → y.complete = true → (y.tagForm = 0 ∨ y.taken = true) → y.attr.annEn = false →
      exec (.tagIndexFree l q) s = .next (s.updCore l fun d =>
        { d with queues := d.queues.modify q fun z => { z with live := [] } }))

/-- R88, R93, R94, R197, R198, R231, R233, R238: from the first cycle of its path on, a chunk whose ends are memories that
serve is read once and lands; a member of a chain sends on what landed 16 cycles before; on the background path an outbound
read and an inbound payload each take the bank of their granule when it is free. -/
def Obligations.BytesMoveThroughATransfer : Prop :=
  ∀ (s : State) (l q idx member off len : Nat) (c : CoreSt) (y : Xfer) (d : Delivery),
    Alone s l c → c.xfer? q idx = some y → s.xferOf l q idx y.gen = some y → y.q = q → y.delivery? member = some d →
    let src := chunkAddrs y.src y.src.base off len
    let dst := chunkAddrs y.dst (y.dstBase s.kol.module member) off len
    let bytes := src.map fun g => s.placeByte (s.place g)
    let cells := (List.range len).map fun i => (off + i, bytes.getD i 0)
    (∀ t : Nat × Nat, s.chunkOpen l q idx member off len = some (y, d, false) → s.landFloor l y d off len ≤ s.time.cycle →
      y.attr.stream = false → y.srcUnmapped = false → (∀ b ∈ y.srcRead, b.1 < off ∨ off + len ≤ b.1) →
      (∀ g ∈ src, s.srcByte g y.started = .now (s.placeByte (s.place g)) none) → 1 ≤ t.1 → t.1 ≤ 3 →
      (∀ g ∈ dst, s.placeFault (s.place g) g y.started = none ∧ s.refreshing (s.place g) = false ∧
        targetOf (s.place g) = some t) →
      exec (.bytesLanded l q idx member off len .clean) s =
        .next (((dst.zip bytes).foldl (fun s a => s.putByte (s.place a.1) a.2) (s.noteRead l q idx y.gen cells)).markLanded
          l q idx y.gen member off len)) ∧
    (∀ n pre post, y.chainMode = true → y.deliveries = pre ++ d :: n :: post → 0 < len →
      (∀ e ∈ pre, e.member ≠ member) → meets (n.forwarded.map fun r => (r.1, r.2.1)) off len = false →
      (∃ r ∈ d.landed, r.1 ≤ off ∧ off + len ≤ r.1 + r.2.1) →
      (∀ r ∈ d.landed, r.1 < off + len → off < r.1 + r.2.1 → r.2.2 + 16 ≤ s.time.cycle) →
      exec (.chainForward l q idx member off len) s = .next (s.updCore l fun e =>
        e.updXfer y.q y.idx y.gen fun z => z.updDelivery n.member fun v =>
          { v with forwarded := v.forwarded ++ [(off, len, s.time.cycle)] })) ∧
    exec (.backgroundPathAccess l (.outbound q idx off len)) s = .next (s.readAhead l q idx off len).cc ∧
    exec (.backgroundPathAccess l .inbound) s = .next s.cc ∧
    (∀ (t g : Nat) (e : CoreSt) (p : Pull), s.core? t = some e → bankOf g ∉ e.bgUsed →
      p.issuer = l → p.q = q → p.idx = idx → p.gen = y.gen → p.off = off → p.len = len → 0 < len →
      (∀ b ∈ y.srcRead, b.1 < off ∨ off + len ≤ b.1) →
      (∀ a ∈ src, ∃ o, s.srcByte a y.started = .bank t o ∧ granuleOf o = g ∧ s.place a = .core t o) →
      s.servePull p = (s.updCore t fun v => { v with bgUsed := bankOf g :: v.bgUsed }).noteRead l q idx y.gen cells) ∧
    (∀ (g : Nat) (w : Landing), c.landing = [w] → w.cells ≠ [] → w.outer = none → (∀ v ∈ w.cells, granuleOf v.1 = g) →
      bankOf g ∉ c.bgUsed →
      s.inbound l = (s.updCore l fun v => { v with
        bgUsed := bankOf g :: v.bgUsed, spad := v.spad.writeCells w.cells, landing := [] }).markLanded w.issuer w.q w.idx w.gen
          w.member w.off w.len)

/-- R180, R252 to R255: an announce that is due adds to the tally it names, one that is late is withdrawn with
ANNOUNCE_TIMEOUT, and a signal that has arrived adds to its target. -/
def Obligations.AnnouncesAndSignalsReachTheirTally : Prop :=
  ∀ (s : State) (l q idx : Nat) (c t : CoreSt) (y : Xfer) (d : Delivery) (target : Nat),
    Alone s l c → Alone s target t → s.refusing target = false →
    (c.queue q).live = [y] → y.idx = idx → y.q = q → y.kind = .put → y.deliveries = [d] → y.attr.annEn = true →
    y.attr.annCore = target → y.discarded = false → y.freed = false → y.attr.stream = false → d.announced = false →
      d.withdrawn = false →
    let mark (f : Delivery → Delivery) : State := s.updCore l fun e => e.updXfer q idx y.gen fun z => z.updDelivery d.member f
    (y.bytes ≤ d.count → gaModule y.dst.base = s.kol.module → y.complete = false →
      d.lastCycle + s.landLatency (s.lastPoint l y d target) target ≤ s.time.cycle →
      exec (.announceApplied l q idx d.member) s =
        .next ((mark fun z => { z with announced := true }).updCore target fun e =>
          e.giveTally { tally := y.attr.annTally, n := y.attr.annCount, src := 2, slot := none, bundle := 0 })) ∧
    (∀ x n, s.region? c.region = some x → y.started = some n → n + x.annLimit < s.time.cycle → d.count < y.bytes →
      y.raised = [] →
      let u := unitOf s (s.place y.dst.base) y.dst.base
      exec (.announceTimeout l q idx d.member) s =
        .next ((s.updCore l fun e => e.updXfer q idx y.gen fun z =>
          { z.updDelivery d.member (fun v => { v with withdrawn := true }) with raised := [.announceTimeout] }).raise l
            .announceTimeout (some .x) y.bundle (targetDetail u.1 true 0 u.2.2 q idx (c.step - y.step)))) ∧
    (∀ g : Signal, s.fab.signals = [g] → g.ahead = [] → g.issued + g.latency ≤ s.time.cycle →
      g.module = s.kol.module → g.origin = .core → g.lcore = target →
      exec (.remoteTsigApplied g.id) s =
        .next (({ s with fab := { s.fab with signals := [] } } : State).updCore target fun e =>
          e.giveTally { tally := g.tally, n := g.count, src := 1, slot := none, bundle := 0 }))

/-! ### The combiner -/

/-- R93, R98, R99: narrow writes merge in the entry of their granule, a full entry and an entry 64 cycles old leave for the
bank, a fence sends a requester's entries there, a read follows them, and the background path serves what has left when its
bank is free. -/
def Obligations.CombinerMergesAndFlushes : Prop :=
  ∀ (s : State) (l : Nat) (c : CoreSt) (req : Requester) (off : Nat) (bs : List Byte),
    Alone s l c → c.combWait = [] →
    0 < bs.length → bs.length ≤ 32 → off % 64 + bs.length ≤ 64 → off + bs.length ≤ 0x1000000 →
    let g := off / 64
    let cells := (List.range bs.length).map fun i => (off % 64 + i, bs.getD i 0)
    let n := s.fab.nextStamp
    let merged (e : CombEntry) : CombEntry := e.merge req n cells
    let then_ (f : CoreSt → CoreSt) : Host.Outcome State Fault Refusal := .next (s.nextStamp.updCore l f)
    (c.combiner = [] → c.flushWrites < 16 →
      exec (.combinerWrite l req off bs) s = then_ fun d => { d with
        combiner := [{ granule := g, opened := s.time.cycle
                       bytes := cells.map fun z => { at_ := z.1, val := z.2, req := req, stamp := n } }] }) ∧
    (∀ e, c.combiner = [e] → e.granule = g → (merged e).bytes.length < 64 →
      exec (.combinerWrite l req off bs) s = then_ fun d => { d with combiner := [merged e] }) ∧
    (∀ e, c.combiner = [e] → e.granule = g → 64 ≤ (merged e).bytes.length →
      exec (.combinerWrite l req off bs) s = then_ fun d => { d with combiner := [], flushes := d.flushes ++ [merged e] }) ∧
    (∀ e r, c.combiner = e :: r → e.opened + 64 ≤ s.time.cycle → (∀ z ∈ r, s.time.cycle < z.opened + 64) →
      exec (.combinerEntryTimeout l) s = .next (s.updCore l fun d =>
        { d with combiner := r, flushes := d.flushes ++ [e] })) ∧
    (∃ t, exec (.requesterFence req) s = .next t ∧ t.cores.length = s.cores.length ∧
      ∀ (i : Nat) (d e : CoreSt), s.cores[i]? = some d → t.cores[i]? = some e → (∀ z ∈ e.combiner, z.has req = false) ∧
        (∀ z ∈ d.combiner, z ∈ e.combiner ∨ z ∈ e.flushes) ∧ e.spad = d.spad ∧ e.combWait = d.combWait) ∧
    (c.combiner = [] →
      exec (.combinerRead l req off bs.length) s = then_ fun d => { d with flushes := d.flushes ++
        [{ granule := g, bytes := [], opened := s.time.cycle
           read := some { req := req, at_ := off % 64, len := bs.length, sink := none } }] }) ∧
    exec (.backgroundPathAccess l .combiner) s = .next s.cc ∧
    (∀ e r, c.flushes = [e] → e.read = some r → r.sink = none → bankOf e.granule ∉ c.bgUsed →
      s.combServe l = (s.updCore l fun d => { d with bgUsed := bankOf e.granule :: d.bgUsed, flushes := [] }).emit
        (.combRead r.req l (c.spad.read (64 * e.granule + r.at_) r.len))) ∧
    (∀ e, c.flushes = [e] → e.read = none → bankOf e.granule ∉ c.bgUsed →
      s.combServe l = s.updCore l fun d => { d with
        bgUsed := bankOf e.granule :: d.bgUsed, flushes := []
        spad := d.spad.writeCells (e.bytes.map fun z => (64 * e.granule + z.at_, z.val)) })

/-- R104, R247: words of the accumulator window take the port slots that the array, MZERO and the vector engine leave free,
and a tally signal is applied behind its requester's writes. -/
def Obligations.AccumulatorPortAndTallySignal : Prop :=
  ∀ (s : State) (l : Nat) (c : CoreSt) (w u : AccWord) (req : Requester) (value : Nat),
    Alone s l c →
    exec (.accumulatorCombinerAccess l) s = .next s.cc ∧
    (∀ v, c.accPort = [w, u] → w.value = some v → u.value = none → u.sink = none → w.entry ≠ u.entry → w.req ≠ u.req →
      0 < c.freeWrites s.time.cycle → c.vLineReads s.time.cycle < 2 →
      s.accServe l = ((s.updCore l fun d => { d with accPort := [], acc := accSet d.acc w.entry v }).emit
        (.combRead u.req l (c.acc.read (4 * u.entry) 4)))) ∧
    (∀ v, c.accPort = [w] → w.value = some v → c.freeWrites s.time.cycle = 0 → s.accServe l = s) ∧
    (∀ i : RegInfo, s.regWriteCheck (s.viewOf req) (s.coreRegGA l 0x148) .next value =
        .ok ({ cls := 0, inst := l, off := 0x148 }, i) → i.cls = .i →
      c.combWait = [] → c.combiner = [] → c.flushes = [] → c.accPort = [] → c.sigWait = [] → s.fab.jobs = [] →
      exec (.tallySignal req l value) s = .next (s.nextStamp.updCore l fun d =>
        d.giveTally { tally := value % 64, n := value / 64 % 4096, src := 3, slot := none, bundle := 0 }))

/-! ### Memory as other requesters reach it, refresh and parking -/

/-- R26, R86: a prep core stores to and loads from memory of its module. -/
def Obligations.PrepCoreReachesMemory : Prop :=
  ∀ (s : State) (hart st o : Nat) (g : GA) (bs : List Byte) (n : Nat),
    hart < 192 → s.prepOn hart = true → 0 < n → bs.length = n → NoneWaits s → InStack s g n st o →
    exec (.prepCoreAccess hart (.store g bs)) s = .next (s.nextStamp.withBytes g bs) ∧
    exec (.prepCoreAccess hart (.load g n .clean)) s = .next (s.nextStamp.emit (.prepRead hart (s.stackBytes st o n) true))

/-- R226, R227, R239: in its refresh slot a die's corrected granules are rewritten; a refresh of a stack channel begins an
interval after the one before, holds the channel for 160 ns, and then the channel serves again. -/
def Obligations.RefreshRewritesAndHoldsChannels : Prop :=
  ∀ (s : State) (die stack ch : Nat),
    let k := stack * 64 + ch
    (die < 48 → slotFrom s.time.cycle die = s.time.cycle →
      exec (.wellRefreshSlot die []) s =
        .next { s with mem := { s.mem with rewrites := s.mem.rewrites.filter fun r => r.1 != die } }) ∧
    (stack < 20 → ch < 32 → k ∉ s.mem.refreshing →
      (s.mem.stackLast.any (fun z => z.1 == k) = true → countOf s.mem.stackLast k + s.refreshGap stack ≤ s.time.cycle) →
      exec (.stackRefresh stack ch true) s = .next { s with mem := { s.mem with
        refreshing := s.mem.refreshing ++ [k]
        stackBusy := putCount s.mem.stackBusy k (s.time.cycle + s.ns 160)
        stackLast := clearCount s.mem.stackLast k ++ [(k, s.time.cycle)] } }) ∧
    (stack < 20 → ch < 32 → k ∈ s.mem.refreshing → countOf s.mem.stackBusy k ≤ s.time.cycle →
      exec (.stackRefresh stack ch false) s = .next { s with mem := { s.mem with
        refreshing := s.mem.refreshing.filter fun z => z != k, stackBusy := clearCount s.mem.stackBusy k } })

/-- R12, R242 to R244: a parking unit begins to drain at its cycle, an Invar multiple or the step boundary that it waits for,
is parked when it has drained or 10 µs later, and serves again when it reopens. -/
def Obligations.ParkingUnitsDrainAndReopen : Prop :=
  ∀ (s : State) (e : ParkEntry) (p l : Nat) (c : CoreSt), s.mem.parked = [e] → s.fw.mgmtDown = false →
    let becomes (f : ParkPhase) : Host.Outcome State Fault Refusal :=
      .next { s with mem := { s.mem with parked := [{ e with phase := f }] } }
    (e.phase = .pending (some p) → p ≤ s.time.cycle → exec (.parkTakesEffect e.unit) s = becomes (.draining p)) ∧
    (e.phase = .pending none → e.watch = some l → s.core? l = some c → s.stepsOn e.unit e.watch = true →
      e.since < c.stepCycle → exec (.parkTakesEffect e.unit) s = becomes (.draining c.stepCycle)) ∧
    (e.phase = .reopening (some p) → p ≤ s.time.cycle → e.session = 0 →
      exec (.parkTakesEffect e.unit) s = .next { s with mem := { s.mem with parked := [] } }) ∧
    (e.phase = .draining p → e.session = 0 → s.drainBusy e.place p = false →
      exec (.unitParked e.unit true) s = becomes .parked) ∧
    (e.phase = .draining p → e.session = 0 → p + s.ns 10000 ≤ s.time.cycle →
      exec (.unitParked e.unit false) s = becomes .parked)

/-- R238: a mesh link that goes down is marked in both directions with its retries, and a group whose tree holds it moves to chain mode. -/
def Obligations.MeshLinkDownMarksBothEnds : Prop :=
  ∀ (s : State) (die dir retries other g : Nat) (x : Region), die < 48 → dir < 4 → neighbour die dir = some other →
    s.mem.meshDown = [] →
    let ends := [(die, dir), (other, (dir + 2) % 4)]
    let down : State := { s with mem := { s.mem with meshDown := ends, meshRetries := bump s.mem.meshRetries die retries } }
    ((∀ y ∈ s.regions, y.groupsOn ends = []) → exec (.meshLinkDown die dir retries) s = .next down) ∧
    (s.regions = [x] → x.groupsOn ends = [g] → x.chainMode.getD g true = false →
      exec (.meshLinkDown die dir retries) s =
        .next ((down.updRegion x.num fun y => { y with chainMode := y.chainMode.set g true }).notify .groupMode
          [.num x.num, .num g, .flag true]))

/-- R83, R281, R299: a STOPPING region none of whose cores issues, with nothing in flight, enters IDLE. -/
def Obligations.DrainedRegionEntersIdle : Prop :=
  ∀ (s : State) (r : Nat) (x : Region), s.region? r = some x → x.phase = .stopping → x.goal = .command →
    x.waiter = none → x.resetting = false → x.runRec = none →
    (∀ c ∈ s.cores, c.region = r → c.run ≠ .running ∧ c.drained = true ∧ c.combIdle = true) →
    (x.stopKind ≠ .halt) →
    exec (.regionEntersIdle r) s =
      .next (((s.updCoresOf r CoreSt.clearStop).setPhase r .idle 0).updRegion r fun y =>
        { y with idleAt := s.time.cycle, committed := false })

/-! ### The Kollek domain -/

/-- R258, R260, R264, R399: heartbeats are counted, the third missed one and a lane that loses lock take a port out of the
routes with LINK_DOWN, a retry limit with LINK_RETRY_LIMIT; what the port has not got across goes on over the new routes, and
the others of the domain are told. A port retrained to its partner rejoins. -/
def Obligations.KollekLinksGoDownAndRejoin : Prop :=
  ∀ (s : State) (p : Nat) (x : KPort), p < 16 → s.kol.ports[p]? = some x →
    let beat := s.sendFlit p 3 0x05 { dst := 0, src := s.kol.module } []
    let told (s : State) (up : Bool) : State :=
      if s.kol.inDomain then s.flood 0x09 { dst := 0, src := 0, body := some (.linkHealth s.kol.module p up) } [] else s
    let down (s : State) (code : FCode) : State :=
      (told (((((s.noteRoutes).updPort p fun y =>
        { y with up := false, trained := false, inRoutes := false, missed := 0, retry := [], queue := [] }).raiseFree
          code).linkEvent true p false).reroutes) false).resendFrom (s.port p)
    (x.up = true → ∀ h : FlitHdr,
      exec (.heartbeat p (some h)) s = .next ((beat.receive p 3 0x05 h 1).updPort p fun y => { y with missed := 0 })) ∧
    (x.up = true → x.missed < 2 →
      exec (.heartbeat p none) s = .next (beat.updPort p fun y => { y with missed := y.missed + 1 })) ∧
    (x.up = true → x.missed = 2 →
      exec (.heartbeat p none) s = .next (down (beat.updPort p fun y => { y with missed := y.missed + 1 }) .linkDown)) ∧
    (x.up = true → exec (.linkDown p true) s = .next (down s .linkDown)) ∧
    (x.up = true → x.overRetried = true → exec (.linkRetryLimit p) s = .next (down s .linkRetryLimit)) ∧
    (∀ i : Identity, x.inRoutes = false → s.pwr.state = .active → x.partner.isSome = true →
      x.partnerSerial = i.serial → s.identityOk i = true →
      exec (.portRetrain p (.trained i)) s = .next (told ((((((s.updPort p fun y =>
        { y with up := true, trained := true, missed := 0, sendSeq := 0, expect := 0, retry := [], queue := []
                 spent := [0, 0, 0, 0], owed := [0, 0, 0, 0], discarding := false }).identify p).updPort p fun y =>
          { y with inRoutes := true, partnerSerial := i.serial }).linkEvent true p true).reroutes)) true)) ∧
    exec (.portRetrain p .failed) s = .next s

/-- R264, R265, R362: a member that no route has reached for 1 ms leaves the domain map, of this module and of every module
that is told of it; memory and the other members stand. -/
def Obligations.LostPartnerLeavesTheMap : Prop :=
  ∀ (s : State) (m p t : Nat) (hdr : FlitHdr) (x : KPort),
    s.kol.inDomain = true → (∃ y ∈ s.kol.members, y.num = m) → m ≠ s.kol.module → s.kol.master ≠ m →
    s.fab.barriers = [] → p < 16 → s.kol.ports[p]? = some x → x.up = true → x.discarding = false →
    s.kol.unreach = [(m, t)] → t + s.ns 1000000 ≤ s.time.cycle → s.kol.lost.contains hdr.src = false →
    let gone (t : State) : Prop :=
      t.kol.members = s.kol.members.filter (fun y => y.num != m) ∧ t.kol.lost = s.kol.lost ++ [m] ∧
      t.kol.module = s.kol.module ∧ t.kol.inDomain = true ∧ t.kol.master = s.kol.master ∧ t.mem = s.mem ∧
      t.kol.unreach = [] ∧ t.fab.signals = s.fab.signals.filter fun g => g.module != m
    Ends (.partnerLost m) s gone ∧ Ends (.managementFlit p hdr (.partnerLost m)) s gone

/-- R259, R397, R398: a failed flit asks for its retransmission, a NAK resends what is not acknowledged after the replay gap,
an idle flit that names none acknowledges, a credit return gives back what is owed, and a packet without credit waits. -/
def Obligations.LinkLevelRetryAndCredits : Prop :=
  ∀ (s : State) (p : Nat) (x : KPort) (hdr : FlitHdr), p < 16 → s.kol.ports[p]? = some x → x.up = true →
    let got := s.receive p 3 0x00 hdr 1
    (x.discarding = false →
      exec (.failedFlit p) s = .next ((s.updPort p fun y => { y with discarding := true }).sendFlit p 3 0x00
        { dst := 0, src := s.kol.module, nak := true } [])) ∧
    (x.takes hdr = true → hdr.nak = false → exec (.nakReceived p hdr) s = .next got) ∧
    (x.takes hdr = true → hdr.nak = true →
      let t := got.updPort p fun y =>
        { y with retryMs := (if y.retriesMs = s.time.tick then y.retryMs else 0) + 1, retriesMs := s.time.tick
                 retryRC := min (y.retryRC + 1) 65535 }
      exec (.nakReceived p hdr) s = .next ((t.advanceTo (s.time.cycle + s.ns 320)).resend p)) ∧
    exec (.creditReturn p) s = .next (s.sendFlit p 3 0x00 { dst := 0, src := s.kol.module } []) ∧
    (∀ k : FlitPkt, x.canSend k = false →
      s.sendFlit p k.vl k.kind k.hdr k.data = s.updPort p fun y => { y with queue := y.queue ++ [k] })

/-- R252, R254, R255, R265, R395, R396: a packet for this module writes its bytes, answers a read, brings a read's bytes or
adds to a tally; a packet for another goes on along the route, and one of a lost module never arrives. -/
def Obligations.PacketsReachTheirModule : Prop :=
  ∀ (s : State) (p q : Nat) (x : KPort) (hdr : FlitHdr) (data : List Byte) (st o hops : Nat) (t : CoreSt) (r : RemoteRead),
    p < 16 → s.kol.ports[p]? = some x → x.up = true → x.discarding = false → NoneWaits s →
    let got (vl kind n : Nat) : State := s.receive p vl kind hdr (1 + (n + 255) / 256)
    let back (bs : List Byte) : FlitHdr :=
      { dst := hdr.src, src := s.kol.module, srcCore := hdr.srcCore, dstGA := hdr.dstGA, hops := 1
        tagIdx := hdr.tagIdx, queue := hdr.queue, issuer := hdr.issuer, payload := bs.length }
    let known := s.kol.lost.contains hdr.src = false
    (s.kol.lost.contains hdr.src = true → exec (.writeFlit p hdr data) s = .next (got 0 0x01 data.length)) ∧
    (known → hdr.dst = s.kol.module → hdr.sigLast = false → 0 < data.length → data.length = hdr.payload →
      InStack s hdr.dstGA data.length st o →
      exec (.writeFlit p hdr data) s = .next ((got 0 0x01 data.length).nextStamp.withBytes hdr.dstGA data)) ∧
    (known → hdr.dst = s.kol.module → 0 < hdr.payload → hdr.payload ≤ 65536 →
      (got 1 0x02 0).route hdr.src = some (q, hops) → InStack s hdr.srcGA hdr.payload st o →
      let bs := s.stackBytes st o hdr.payload
      exec (.readRequest p { hdr := hdr, ecc := .clean }) s = .next ((got 1 0x02 0).nextStamp.sendFlit q 2 0x03 (back bs) bs)) ∧
    (known → hdr.dst = s.kol.module → s.fab.reads = [r] → r.core = hdr.issuer → r.q = hdr.queue → r.idx = hdr.tagIdx →
      r.len = hdr.payload → data.length = hdr.payload →
      let u := got 2 0x03 data.length
      let w : State := { u with fab := { u.fab with reads := [] } }
      exec (.readResponse p hdr data) s = .next (if r.core < 2048 then w.noteRead r.core r.q r.idx r.gen (cellsAt r.off data)
        else w.emit (.prepRead (r.core - 2048) data true))) ∧
    (known → hdr.dst = s.kol.module → Alone s hdr.sigCore t → s.refusing hdr.sigCore = false → s.fab.signals = [] →
      hdr.sigTally < 48 → 0 < hdr.sigCount →
      let u := got 0 0x04 0
      exec (.bareTsigFlit p hdr) s =
        .next (({ u with fab := { u.fab with nextSig := u.fab.nextSig + 1 } } : State).updCore hdr.sigCore fun c =>
          c.giveTally { tally := hdr.sigTally, n := hdr.sigCount, src := 1, slot := none, bundle := 0 })) ∧
    (known → hdr.dst ≠ s.kol.module → (got 0 0x01 data.length).route hdr.dst = some (q, hops) →
      exec (.writeFlit p hdr data) s =
        .next ((got 0 0x01 data.length).sendFlit q 0 0x01 { hdr with hops := hdr.hops + 1 } data))

/-- R256, R361 to R363: a verified partner is kept and answered, one that fails is left out with AUTH_FAIL; the cabling numbers
a module two links away; a discovery that closes with no partner leaves the module alone as module 0; the master floods its
Invar count, and a member takes it. -/
def Obligations.DiscoveryAndAlignment : Prop :=
  ∀ (s : State) (d : Discovery) (i : Identity) (now count delay a b c n m : Nat) (p q : Nat),
    let keep (t : State) : State := { t with kol := { t.kol with
      discovering := some { d with
        verified := (d.verified.filter fun v => v.port != i.port || v.near != i.near) ++ [i] } } }
    (s.kol.discovering = some d → i.port < 16 → s.identityOk i = true → i.near = 0 →
      exec (.discoveryAndIdentity i) s = .next (keep ((s.updPort i.port fun p =>
        { p with up := true, trained := true, partnerSerial := i.serial }).identify i.port))) ∧
    (s.kol.discovering = some d → i.port < 16 → s.identityOk i = true → i.near ≠ 0 →
      exec (.discoveryAndIdentity i) s = .next (keep s)) ∧
    (s.kol.discovering = some d → i.port < 16 → s.identityOk i = false →
      exec (.discoveryAndIdentity i) s = .next (s.raiseModule .authFail (0x06 + 512 * i.certSlot))) ∧
    (a ≠ b → b ≠ c → a ≠ c → portPartner 0 p = some n → portPartner n q = some m →
      numbersFrom [{ a := a, b := b, port := p, agrees := true }, { a := b, b := c, port := q, agrees := true }] a =
        [(a, 0), (b, n), (c, m)]) ∧
    (s.kol.discovering = some d → d.verified = [] → d.client = none → now ≤ s.time.tick →
      d.since + 1000 * s.setting 0x0B ≤ s.time.tick →
      exec (.discoveryClose now) s = .next { s with kol := { s.kol with
        module := 0, inDomain := false, isMaster := false, master := 0, clock300 := false, members := []
        discovering := none, aligned := false, lost := [], links := [], unreach := []
        ports := s.kol.ports.map fun p => { p with inRoutes := false } } }) ∧
    (s.kol.inDomain = true → s.kol.aligned = false → (∀ x ∈ s.regions, x.phase ≠ .running) → s.kol.isMaster = false →
      exec (.invarAlignment count delay) s = .next { s with
        time := { s.time with cycle := (count + delay) % 2 ^ 64 }, kol := { s.kol with aligned := true } }) ∧
    (s.kol.inDomain = true → s.kol.aligned = false → (∀ x ∈ s.regions, x.phase ≠ .running) → s.kol.isMaster = true →
      exec (.invarAlignment count delay) s = .next (({ s with kol := { s.kol with aligned := true } } : State).flood 0x07
        { dst := 0, src := 0, body := some (.invarCount s.time.cycle) } []))

/-! ### The Solder barrier and the pace -/

/-- R249, R261, R262, R276: an arrival is counted; with every arrival in, T is the first multiple of 65,536 that is late
enough, and a T that has passed fails the barrier; at T the regions run; a member that no commit has reached by T fails it;
the last confirmation ends the barrier; an arrival missing when the window has closed, and a confirmation missing at T +
SOLDER_LEAD, fail it with BARRIER_TIMEOUT. -/
def Obligations.SolderBarrierRunsItsRegions : Prop :=
  ∀ (s : State) (b : Barrier) (m ready r t : Nat) (x : Region), s.fab.barriers = [b] →
    let put (bs : List Barrier) : State := { s with fab := { s.fab with barriers := bs } }
    let wait := if b.pace = 0 then s.leadOf b else b.pace
    (b.phase = .arrival → m ∈ b.members → (∀ a ∈ b.arrivals, a.1 ≠ m) →
      exec (.solderArrival b.seq m true ready) s =
        .next (put [{ b with arrivals := b.arrivals ++ [(m, ready)] }])) ∧
    (b.phase = .arrival → s.fw.mgmtDown = false → b.replace = false → b.members = [m] → b.arrivals = [(m, ready)] →
      ∃ T, T % 65536 = 0 ∧ ready + wait ≤ T ∧ b.floor ≤ T ∧ T < max (ready + wait) b.floor + 65536 ∧
        exec (.solderCommit b.seq none) s = .next (if s.time.cycle ≤ T then put [{ b with phase := .commit, t := some T }]
          else s.failBarrier b [s.kol.module] 1)) ∧
    (b.phase = .commit → b.t = some t → t ≤ s.time.cycle → b.regions = [r] → b.members.length ≤ 1 → b.clients = [] →
      s.region? r = some x → x.phase = .idle → x.committed = true → x.loaded = true →
      Ends (.solderTStart b.seq) s fun u =>
        u.fab.barriers = [] ∧ u.mem = s.mem ∧
        (∃ y, u.region? r = some y ∧ y.phase = .running ∧ y.committed = false ∧ y.ran = true ∧
          (b.resume = false → y.base = b.base.getD x.base)) ∧
        (∀ c ∈ u.cores, c.region = r → c.run = .running ∧ c.nextIssue = t ∧ c.presented = none)) ∧
    (b.phase = .arrival → s.leads b.members = false →
      exec (.solderTStart b.seq) s = .next (s.failBarrier b [s.kol.module] 1)) ∧
    (b.phase = .started → m ∈ b.members → (∀ k ∈ b.members, k = m ∨ k ∈ b.confirms) →
      exec (.solderConfirm b.seq m) s = .next (put [])) ∧
    (∀ now phase missing, now ≤ s.time.tick →
      (b.phase = .arrival ∧ b.opened + s.solderWindow ≤ s.time.tick ∧ phase = 0 ∧
          missing = b.members.filter (fun k => !(b.arrivals.any fun a => a.1 == k)) ∨
        b.phase = .started ∧ b.t = some t ∧ t + s.leadOf b ≤ s.time.cycle ∧ phase = 2 ∧
          missing = b.members.filter (fun k => !b.confirms.contains k)) →
      Ends (.barrierTimeout b.seq now) s fun u => u.fab.barriers = [] ∧ u.mem = s.mem ∧
        (∀ k ∈ b.regions, ∀ y, u.region? k = some y → y.committed = false) ∧
        ∃ f, u.glb.faults = s.glb.faults ++ [f] ∧ f.code = .barrierTimeout ∧ f.detail = barrierDetail b.seq missing phase ∧
          f.cycle = s.time.cycle)

/-- R276: a paced region drains before its next pause, which lies beyond the last one, and runs again from the first multiple
of 65,536 that its interval allows. -/
def Obligations.PacePausesAndResumes : Prop :=
  ∀ (s : State) (r k : Nat) (x : Region), s.region? r = some x →
    (pauseReached (s.coresOf r) x = true → s.nextPause x = some k → (∀ p ∈ x.solderSteps, p.1 ≠ k) →
      (s.solderSet x).length ≤ 1 →
      exec (.pacePause r) s =
        .next (((((s.updRegion r fun y => { y with pauseFor := some k }).updCoresOf r fun c =>
          { c with stopBefore := optMin c.stopBefore (x.base + k) }).toStopping r .stopStep .pace 0).updRegion r fun y =>
            { y with committed := true }))) ∧
    (s.nextPause x = some k → x.paused < k) ∧
    (x.phase = .idle → x.goal = .pace → x.committed = true → s.fw.mgmtDown = false →
      ∃ T, T % 65536 = 0 ∧ x.lastStop + x.paceI ≤ T ∧ s.time.cycle ≤ T ∧
        T < max (x.lastStop + x.paceI) s.time.cycle + 65536 ∧
        exec (.paceResume r) s = .next ((s.advanceTo T).runRegion r T true false none (x.pauseFor.getD 0)))

/-- R293, R299, R302, R303: a load completes into IDLE with its COMMAND_DONE; DEFINE and PARK end in PARKED, PARK without the
region's cores; a core swap marks its core as a defect, and so does one that fails. -/
def Obligations.RegionTransitionsEnd : Prop :=
  ∀ (s : State) (r a q l ph : Nat) (rows : Option (List (Nat × Nat))) (x : Region) (zeroed : List Nat),
    s.region? r = some x → x.num = r →
    (x.phase = .loading → x.waiter = some (a, q, 0x0200) →
      exec (.loadComplete r) s =
        .next ((((s.updRegion r fun y => { y with pendingLoad := none }).setPhase r .idle 0).updRegion r fun y =>
          { y with waiter := none }).done a q 0x0200 .ok [.num x.base, .num x.place.digest])) ∧
    (x.phase = .defining → x.undefining = false →
      exec (.regionTransitionDone r rows zeroed) s = .next ((s.setPhase r .parked 0).settleWaiter r .ok [])) ∧
    (x.phase = .defining → x.undefining = true →
      Ends (.regionTransitionDone r rows zeroed) s fun t => t.region? r = none ∧ t.cores = s.cores) ∧
    (x.phase = .parking → (∀ c ∈ s.cores, c.region = r → c.combIdle = true ∧ c.landing = []) →
      Ends (.regionTransitionDone r rows zeroed) s fun t =>
        t.cores = s.cores.filter (fun c => c.region != r) ∧
        ∃ y, t.region? r = some y ∧ y.phase = .parked ∧ y.loaded = false ∧ y.obj = none) ∧
    (x.phase = .repairing → x.repairing = some (.coreSwap l) → x.physOf l = some ph →
      ph ∉ s.mem.defects →
      Ends (.regionTransitionDone r rows zeroed) s fun t =>
        t.mem = { s.mem with defects := s.mem.defects ++ [ph] } ∧ t.cores = s.cores)

/-! ### Ethernet ports -/

/-- R389 to R392: link state, answers to ARP, neighbour discovery and echo, which is heard as a datagram is, priority flow
control, LLDP. -/
def Obligations.EthernetPortsAnswer : Prop :=
  ∀ (s : State) (p ip source quanta level chassis portId ttl now : Nat) (e : EPort) (bs : List Byte) (fast : Bool),
    p < 8 → s.portsLive = true → s.eth[p]? = some e →
    let upd (f : EPort → EPort) : State := { s with eth := s.eth.modify p f }
    (e.up = false → exec (.ethLinkUp p fast) s =
      .next ((upd fun y => { y with up := true, speed400 := fast }).linkEvent false p true)) ∧
    (e.up = true → exec (.ethPortDown p) s =
      .next (((upd fun y => { y with up := false, neighbours := [], rxPause := [], level := 0, xoff := false }).raiseFree
        .linkDown).linkEvent false p false)) ∧
    (e.up = true → s.hasV4 p ip = true → exec (.arp p ip source) s =
      .next (s.emit (.eth p 1 [.num ip, .num (macOf p), .num source]))) ∧
    (e.up = true → s.hasV6 p ip = true → exec (.neighbourDiscovery p ip source) s =
      .next (s.emit (.eth p 2 [.num ip, .num (macOf p), .num source]))) ∧
    (e.up = true → s.hasV4 p ip = true → bs.length ≤ 9216 → exec (.icmpEcho p ip source bs) s =
      .next ((s.heard p source).emit (.eth p 3 [.num ip, .num source, .bytes bs]))) ∧
    (e.up = true → quanta ≠ 0 → exec (.pfcFrame p (s.setting 0x06) quanta) s =
      .next (upd fun y => { y with rxPause := [quanta] })) ∧
    (e.up = true → exec (.pfcFrame p (s.setting 0x06) 0) s = .next (upd fun y => { y with rxPause := [] })) ∧
    (e.up = true → e.xoff = false → 1572864 < level → exec (.pfcThreshold p level) s =
      .next ((upd fun y => { y with level := level, xoff := true }).emit (.eth p 4 [.num (s.setting 0x06), .flag true]))) ∧
    (e.up = true → e.xoff = true → level < 1048576 → exec (.pfcThreshold p level) s =
      .next ((upd fun y => { y with level := level, xoff := false }).emit (.eth p 4 [.num (s.setting 0x06), .flag false]))) ∧
    (e.up = true → exec (.lldp p) s =
      .next (s.emit (.eth p 5 [.num s.sec.serial, .num p, .num 120, .num (s.setting (1 + networkOf p))]))) ∧
    (e.up = true → now ≤ s.time.tick → ttl ≠ 0 → e.neighbours = [] → exec (.lldpNeighbour p chassis portId ttl now) s =
      .next (upd fun y => { y with
        neighbours := [{ chassis := chassis, portId := portId, until_ := s.time.tick + 1000 * ttl }] })) ∧
    (now ≤ s.time.tick → exec (.lldpTtlExpiry now) s = .next { s with eth := s.eth.map fun y =>
      { y with neighbours := y.neighbours.filter fun n => decide (s.time.tick < n.until_) } })

/-! ### The block -/

/-- A step takes the command at the front of the queue; on an empty queue one core cycle passes (DESIGN CHOICE, log 1: the
model's choice). -/
def Obligations.StepTakesTheFrontCommand : Prop :=
  (∀ (s : State) (c : Instr) (q : List Instr), step { s with pending := c :: q } = exec c { s with pending := q }) ∧
  (∀ s : State, s.pending = [] → step s = .next s.cc)

/-- R322, R349, R351, R365, R382: what the spec gives the state after an L0 reset; every memory is canonical in it. -/
def Obligations.ResetState : Prop :=
  let s := State.reset
  s.pending = [] ∧ s.time.cycle = 0 ∧ s.time.tick = 0 ∧ s.pwr.state = .standby ∧ s.pwr.reset = none ∧
  s.pwr.cap = 16000 ∧ s.regions = [] ∧ s.cores = [] ∧ s.host.sessions = [] ∧ s.host.streams = [] ∧ s.host.allocs = [] ∧
  s.set.staged = [] ∧ s.setting 0x06 = 3 ∧ s.setting 0x07 = 49500 ∧ s.setting 0x08 = 49501 ∧ s.setting 0x09 = 30 ∧
  s.setting 0x0B = 10 ∧ s.setting 0x0C = 100 ∧ s.sec.level = .closed ∧ s.fw.loadSeq = 0 ∧ s.kol.module = 0 ∧
  s.kol.inDomain = false ∧ s.glb.policies = [0x20, 0x2, 0xA8, 0x0] ∧ s.glb.bcast = [] ∧ s.Canon

/-- R151, R152, R155 to R158: decoding what the encoder writes for a well-formed bundle gives the bundle, and encoding what
the decoder reads from any 128 bits gives the bits: no bit of a bundle is dropped. -/
def Obligations.BundlesDecodeAsTheyAreEncoded : Prop :=
  (∀ b : Bundle, b.wf = true → decodeBundle (encodeBundle b) = b) ∧
  ∀ w : BitVec 128, encodeBundle (decodeBundle w) = w

/-- Every well-formed command answers a next state; an ill-formed one does too, or names a port, hart, die or stack that the
part does not have. -/
def Obligations.CommandsCompleteOnThePart : Prop :=
  ∀ (i : Instr) (s : State),
    (i.wf = true → ∃ t, exec i s = .next t) ∧
    ((∃ t, exec i s = .next t) ∨ ∃ n, exec i s = .refused (.noSuchPort n) ∧ i.wf = false)

/-- R10, R86, R107, R225: every step keeps every memory in canonical form (DESIGN CHOICE, log 5: an unlisted byte reads 0). -/
def Obligations.StepKeepsMemoriesCanonical : Prop :=
  ∀ s t : State, s.Canon → step s = .next t → t.Canon

/-! ### Power, resets, halts -/

/-- R26, R350 to R357, R359, R387: the sources of a reset and what it leaves, the mailbox commands RESET and DOMAIN_RESET
among them; a reset ends in STANDBY on a verified image, or in the boot state. -/
def Obligations.ResetsLoseTheState : Prop :=
  ∀ (s : State) (micros ms cause : Nat) (kept : Bool), s.pwr.reset = none →
    (∀ (h : Hdr) (x : Session) (r l : Nat) (y : Region) (c : CoreSt), InTurn s h x → x.priv = true →
      let cleared (d : CoreSt) : Prop := d.run = .stopped ∧ d.presented = none ∧ d.passes = [] ∧ d.vjobs = [] ∧
        d.conds = [] ∧ d.combiner = [] ∧ d.landing = [] ∧ d.cfg = []
      let kept (t : State) : Prop := t.mem.wells = s.mem.wells ∧ t.mem.pools = s.mem.pools ∧
        t.mem.stackMem = s.mem.stackMem ∧ t.glb = s.glb ∧ t.pwr = s.pwr
      Answers (.reset h .l1) s h .accepted [] (fun t => WasReset (mapped s 1) s t ∧ t.glb.backup = s.glb.backup) ∧
      Answers (.domainReset h) s h .accepted [] (fun t => WasReset (mapped s 4) s t ∧ t.glb.backup = s.glb.backup) ∧
      (r < 8 → s.region? r = some y → y.busy = false → y.phase = .idle →
        Answers (.reset h (.l2 r)) s h .accepted [] fun t => kept t ∧
          (∃ z, t.region? r = some z ∧ z.spoiled = true ∧ z.phase = .idle ∧ z.paceP = 0 ∧ z.paceI = 0) ∧
          (∀ d ∈ t.cores, d.region = r → cleared d) ∧
          ∀ k a, k < 48 → y.hasDie k = true → 4 * k * 2 ^ 21 ≤ a → a < 4 * (k + 1) * 2 ^ 21 → t.mem.prep.get a = 0) ∧
      (s.core? l = some c → s.region? c.region = some y → y.busy = false → y.phase = .idle →
        Answers (.reset h (.l3 l)) s h .accepted [] fun t => kept t ∧ t.mem = s.mem ∧
          (∃ z, t.region? c.region = some z ∧ z.spoiled = true ∧ z.phase = .idle) ∧
          ∀ d ∈ t.cores, d.lcore = l → cleared d)) ∧
    (s.pwr.state = .off → s.pwr.pwrEn = true →
      Ends (.powerOn kept) s fun t => WasReset .l0 s t ∧
        t.glb.backup = if kept then s.glb.backup else List.replicate 16 0) ∧
    (s.pwr.state = .off →
      Ends (.pwrEn true) s fun t => WasReset .l0 s t ∧ t.pwr.pwrEn = true ∧ t.glb.backup = s.glb.backup) ∧
    (s.pwr.state ≠ .off → (s.regions.map fun x => x.num).Nodup →
      Ends (.pwrEn false) s fun t => t.pwr.pwrEn = false ∧
        t.pwr.moving = some { target := .off, session := 0, seq := 0 } ∧ ∀ x ∈ t.regions, x.phase ≠ .running) ∧
    (micros < 10 → exec (.rstIn micros) s = .next s) ∧
    (s.pwr.state ≠ .off → 10 ≤ micros →
      Ends (.rstIn micros) s fun t => WasReset (mapped s 0) s t ∧ t.glb.backup = s.glb.backup) ∧
    (s.pwr.state ≠ .off → s.pwr.watchdogArmed = true → 4000 ≤ ms →
      Ends (.managementWatchdog ms) s fun t => WasReset (mapped s 2) s t) ∧
    (s.pwr.state ≠ .off →
      Ends (.securityViolation cause) s fun t => t.sec.violation = some cause ∧
        WasReset (if s.sec.resetMap.testBit 5 then .l1 else .l0) s t) ∧
    (∀ r : ResetRun, r.session = 0 → ∀ u : State, u = { s with pwr := { s.pwr with reset := some r } } →
      (s.imageOk s.fw.imageA = false → s.imageOk s.fw.imageB = false →
        Ends .resetComplete u fun t => t.pwr.state = .boot ∧ t.pwr.reset = none) ∧
      ((s.imageOk s.fw.imageA = true ∨ s.imageOk s.fw.imageB = true) →
        Ends .resetComplete u fun t => t.pwr.state = .standby ∧ t.pwr.reset = none ∧ t.pwr.watchdogArmed = true ∧
          t.fw.runningB = (s.imageOk s.fw.imageB &&
            (!s.imageOk s.fw.imageA || decide (s.fw.imageA.version < s.fw.imageB.version))) ∧
          (s.keyless = false → (s.set.valid0 || s.set.valid1) = true → t.set.active = s.set.committed ∧
            t.sec.rollback = max s.sec.rollback (if t.fw.runningB then s.fw.imageB else s.fw.imageA).security) ∧
          (s.keyless = true → t.set.active = defaultSettings ∧ t.sec.rollback = s.sec.rollback)))

/-- R358 to R360, R364, R365, R369, R406, R407: the commands on power that are admitted, the ends of power transitions,
Constantan's steps, the governor, the reference clock and SYNC_IN. -/
def Obligations.PowerMovesAsCommanded : Prop :=
  ∀ (s : State) (m : Moving) (cs : List Nat) (links : List (Nat × Nat)) (phys micros now watts : Nat) (up : Bool),
    (∀ (h : Hdr) (x : Session), InTurn s h x → x.priv = true →
      let quiet : Prop := ∀ z ∈ s.regions, z.phase ≠ .running ∧ z.busy = false
      let goes (target : PowerName) (p : PState) : Prop := Answers (.powerState h target) s h .accepted [] fun t =>
        t = { s with host := t.host, pwr := { s.pwr with
          moving := some { target := p, session := h.session, seq := h.seq } } }
      let stays (target : PowerName) : Prop := Answers (.powerState h target) s h .ok [] (HostOnly s)
      (2000 ≤ watts → watts ≤ 16000 → Answers (.powerCap h watts) s h .ok [] fun t =>
        t = { s with host := t.host, pwr := { s.pwr with cap := watts } }) ∧
      (s.pwr.moving = none →
        (s.pwr.state = .standby → stays .standby ∧ goes .off .off) ∧
        (s.pwr.state = .ready → stays .ready ∧ goes .active .active) ∧
        (s.pwr.state = .active → stays .active) ∧
        (s.pwr.state = .active → quiet → goes .ready .ready) ∧
        ((s.pwr.state = .ready ∨ s.pwr.state = .active) → quiet → goes .standby .standby) ∧
        (s.pwr.state = .standby → s.pwr.thermalHold = false → s.pwr.inputHold = false → s.pwr.thermTrip = false →
          (s.keyless = false ∨ s.sec.level = .full) → Answers (.powerState h .ready) s h .accepted [] fun t =>
            t.pwr.moving = some { target := .ready, session := h.session, seq := h.seq } ∧ t.pwr.state = .standby ∧
            t.pwr.refLocked = s.pwr.refIn ∧
            t.kol.discovering.isSome = (s.sec.cert && !s.keyless && s.pwr.refIn) ∧ t.mem = s.mem))) ∧
    let told (t : State) : State := if m.session = 0 then t else t.done m.session m.seq 0x0600 .ok []
    let total := ((watts :: s.pwr.gov.samples).take 10).foldl (· + ·) 0
    let n := ((watts :: s.pwr.gov.samples).take 10).length
    (s.pwr.moving = some m → m.target = .active →
      exec (.powerTransitionComplete cs links) s =
        .next (told { s with pwr := { s.pwr with moving := none, state := .active } })) ∧
    (s.pwr.moving = some m → m.target = .ready → s.pwr.state = .standby → s.kol.discovering = none →
      exec (.powerTransitionComplete cs links) s = .next (told { s with
        mem := { s.mem with
          defects := (s.mem.defects ++ cs.filter fun p => decide (p < 1248)).dedup
          badLinks := (s.mem.badLinks ++ links).dedup, lockLost := [] }
        pwr := { s.pwr with moving := none, state := .ready, volts := [], cap := s.setting 0x0E } })) ∧
    (s.pwr.moving = some m → m.target = .ready → s.pwr.state = .active →
      Ends (.powerTransitionComplete cs links) s fun t => t.pwr.state = .ready ∧ t.pwr.moving = none ∧
        t.pwr.volts = [] ∧ t.pwr.gov.acting = false ∧ t.mem = s.mem) ∧
    (s.pwr.moving = some m → m.target = .standby →
      Ends (.powerTransitionComplete cs links) s fun t => RailsLost t ∧ t.pwr.state = .standby ∧ t.pwr.moving = none ∧
        t.time.cycle = s.time.cycle ∧ t.glb.backup = s.glb.backup) ∧
    (s.pwr.moving = some m → m.target = .off →
      Ends (.powerTransitionComplete cs links) s fun t => RailsLost t ∧ t.pwr.state = .off ∧ t.host.sessions = [] ∧
        t.glb.backup = s.glb.backup) ∧
    (phys < 1248 → s.pwr.state = .active →
      exec (.constantanStep phys up) s = .next { s with pwr := { s.pwr with
        volts := putCount s.pwr.volts phys (if up then countOf s.pwr.volts phys + 1 else countOf s.pwr.volts phys - 1) } }) ∧
    (now ≤ s.time.tick → s.pwr.state ≠ .active →
      exec (.capGovernor now watts) s = .next { s with pwr := { s.pwr with
        pin := watts, gov := { s.pwr.gov with samples := (watts :: s.pwr.gov.samples).take 10 } } }) ∧
    (now ≤ s.time.tick → s.pwr.state = .active → s.pwr.cap * n < total →
      Ends (.capGovernor now watts) s fun t => t.pwr.pin = watts ∧ t.pwr.gov.acting = true ∧ t.pwr.gov.below = 0 ∧
        t.pwr.gov.interval = if s.pwr.gov.acting then min (2 * s.pwr.gov.interval) 16777216 else 65536) ∧
    (now ≤ s.time.tick → s.pwr.state = .active → total * 100 < s.pwr.cap * n * 95 → s.pwr.gov.acting = true →
      Ends (.capGovernor now watts) s fun t => t.pwr.pin = watts ∧
        (s.pwr.gov.below < 99 → t.pwr.gov.below = s.pwr.gov.below + 1 ∧ t.pwr.gov.acting = true ∧
          t.pwr.gov.interval = s.pwr.gov.interval ∧ t.regions = s.regions) ∧
        (99 ≤ s.pwr.gov.below → s.pwr.gov.interval / 2 < 65536 → t.pwr.gov.acting = false) ∧
        (99 ≤ s.pwr.gov.below → 65536 ≤ s.pwr.gov.interval / 2 →
          t.pwr.gov.acting = true ∧ t.pwr.gov.interval = s.pwr.gov.interval / 2)) ∧
    (10 ≤ micros → (s.pwr.state = .ready ∨ s.pwr.state = .active) → s.pwr.refLocked = true → s.kol.inDomain = false →
      Ends (.refclkLoss micros) s fun t => t.kol = s.kol ∧ t.cores = s.cores ∧
        t.pwr = { s.pwr with refIn := false, mayRejoin := false, refLocked := false }) ∧
    (10 ≤ micros → (s.pwr.state = .ready ∨ s.pwr.state = .active) → s.pwr.refLocked = true → s.kol.inDomain = true →
      Ends (.refclkLoss micros) s fun t => t.pwr.refLocked = false ∧
        ∀ p ∈ t.kol.ports, p.up = false ∧ p.inRoutes = false) ∧
    (micros < 10 → exec (.refclkLoss micros) s = .next s) ∧
    exec .refclkReturn s = .next { s with pwr := { s.pwr with refIn := true, mayRejoin := !s.pwr.refLocked } } ∧
    (s.pwr.state ≠ .off → (∀ c, s.pwr.lastSync = some c → c + s.tickLength ≤ s.time.cycle) →
      ∃ k, s.time.cycle ≤ k + 2 ∧ k ≤ s.time.cycle + 2 ∧
        exec .syncIn s = .next (({ s with
          pwr := { s.pwr with lastSync := some s.time.cycle }
          time := { s.time with draws := s.time.draws + 1 } } : State).ledger 2 [.num k])) ∧
    (∀ c, s.pwr.lastSync = some c → s.time.cycle < c + s.tickLength → exec .syncIn s = .next s)

/-- R64, R293, R367 to R369, R404, R405, R410: alarms log, protective halts take the rails, their conditions clear, a core
without its lock holds nothing, and PMBus answers with what is measured. -/
def Obligations.HaltsAndMeasures : Prop :=
  ∀ (s : State) (place : TempPlace) (temp : Int) (micros mv ma phys k v now : Nat), s.pwr.reset = none →
    let logs (t : State) (code : FCode) : Prop :=
      ∃ f, t.glb.faults = s.glb.faults ++ [f] ∧ f.code = code ∧ f.cycle = s.time.cycle ∧ f.lcore = none ∧
        ((∀ x ∈ s.regions, x.phase ≠ .running) → f.step = 2 ^ 64 - 1)
    let sent (kind : Nat) (items : List Item) : State := s.emit (.pmbus kind items)
    (s.pwr.state ≠ .off → alarmAt place ≤ temp →
      Ends (.thermalAlarm place temp) s fun t => logs t .thermalAlarm ∧ t.pwr.stTemp = true ∧ t.pwr.state = s.pwr.state ∧
        t.mem.stackMem = s.mem.stackMem ∧ t.mem.wells = s.mem.wells) ∧
    (s.pwr.state ≠ .off → alarmAt place + 160 ≤ temp → 1000 ≤ micros →
      Ends (.thermalHalt place temp micros) s fun t => WasReset (mapped s 3) s t ∧ t.pwr.thermalHold = true ∧
        (mapped s 3 = .l1 → logs t .thermalHalt ∧ t.pwr.stTemp = true)) ∧
    (s.pwr.state ≠ .off → s.pwr.thermalHold = false → 1840 ≤ temp →
      Ends (.thermTrip temp) s fun t => WasReset (mapped s 3) s t ∧ t.pwr.thermTrip = true ∧ t.pwr.thermalHold = true) ∧
    (temp < 1840 → exec (.thermTrip temp) s = .next s) ∧
    (s.pwr.state ≠ .off → ((mv < 50000 ∨ 64000 < mv) ∧ 1000 ≤ micros ∨ 320000 < ma ∧ 10000 ≤ micros) →
      Ends (.inputPowerHalt mv ma micros) s fun t => RailsLost t ∧ t.pwr.inputHold = true ∧ t.pwr.vin = mv ∧
        t.pwr.iin = ma ∧ logs t .inputPowerHalt ∧
        (40000 ≤ mv → t.pwr.state = .standby ∧ t.glb.backup = s.glb.backup) ∧
        (mv < 40000 → t.pwr.state = .off ∧ t.glb.backup = List.replicate 16 0)) ∧
    (s.pwr.state ≠ .off → mv < 42000 →
      Ends (.inputBelowMainRailLimit mv) s fun t => RailsLost t ∧ t.pwr.inputHold = true ∧ t.pwr.vin = mv ∧
        logs t .inputPowerHalt ∧
        (40000 ≤ mv → t.pwr.state = .standby ∧ t.glb.backup = s.glb.backup) ∧
        (mv < 40000 → t.pwr.state = .off ∧ t.glb.backup = List.replicate 16 0)) ∧
    (phys < 1248 → (s.pwr.state = .ready ∨ s.pwr.state = .active) →
      Ends (.islandLockLost phys) s fun t => logs t .islandLockLost ∧
        t.mem.lockLost = (s.mem.lockLost ++ [phys]).dedup ∧
        ∀ c ∈ t.cores, c.phys = phys → c = { lcore := c.lcore, region := c.region, phys := phys }) ∧
    exec (.protectiveHaltConditionCleared true) s =
      .next { s with pwr := { s.pwr with thermalHold := false, thermTrip := false } } ∧
    exec (.protectiveHaltConditionCleared false) s = .next { s with pwr := { s.pwr with inputHold := false } } ∧
    (now ≤ s.time.tick → k < 19968 →
      exec (.alnicoMeasureUpdate now [] { wells := [(k, v)] }) s =
        .next { s with mem := { s.mem with eccWell := putCount s.mem.eccWell k v } }) ∧
    (now ≤ s.time.tick → k < 48 →
      exec (.alnicoMeasureUpdate now [] { wells := [(20000 + k, v)] }) s =
        .next { s with mem := { s.mem with eccDie := putCount s.mem.eccDie (2 * k) v } } ∧
      exec (.alnicoMeasureUpdate now [] { retries := [(k, v)] }) s =
        .next { s with mem := { s.mem with meshRetries := bump s.mem.meshRetries k v } }) ∧
    (now ≤ s.time.tick → k < 1248 →
      Ends (.alnicoMeasureUpdate now [(k, temp)] {}) s fun t => tempOf t.pwr.dieTemps k = temp ∧
        temp ≤ t.pwr.islandTemp ∧ t.mem = s.mem ∧ t.cores = s.cores) ∧
    (s.pwr.state ≠ .off → s.pwr.state ≠ .boot →
      exec .readVin s = .next (sent 1 [.num s.pwr.vin]) ∧
      exec .readIin s = .next (sent 2 [.num s.pwr.iin]) ∧
      exec .readPin s = .next (sent 3 [.num s.pwr.pin]) ∧
      exec .readTemperature1 s = .next (sent 4 [.int s.pwr.islandTemp]) ∧
      exec .readTemperature2 s = .next (sent 5 [.int s.pwr.stackTemp]) ∧
      exec .statusWord s = .next (sent 6 [.flag s.pwr.stInput, .flag s.pwr.stTemp, .flag s.pwr.stOther]) ∧
      exec .clearFaults s = .next (({ s with pwr := { s.pwr with stInput := false, stTemp := false, stOther := false } } :
        State).emit (.pmbus 7 [])) ∧
      exec .mfrSerial s = .next (sent 8 [.num s.sec.serial]))

/-! ### The host side -/

/-- R305, R307, R308, R309, R311, R312, R319, R320, R324, R340, R384: what the management clock ends, the acknowledgement of
events, and the ends of a commit and of a restart. -/
def Obligations.ManagementTimersAct : Prop :=
  ∀ (s : State) (now seq l p : Nat) (x : Session) (e : EvPend) (c : Commit) (r : Restart) (info : RegInfo) (h : RegLoc),
    now ≤ s.time.tick →
    (exec (.heldCommandExpiry now) s = .next { s with host := { s.host with sessions := s.host.sessions.map fun y =>
      { y with held := y.held.filter fun k => decide (s.time.tick < k.arrived + 200) } } }) ∧
    (s.session? x.num = some x → s.fw.mgmtDown = false → x.lastTick + 1000 * x.idle ≤ s.time.tick →
      exec (.sessionIdleTimeout x.num now) s = .next { s with host := { s.host with
        sessions := s.host.sessions.filter fun y => y.num != x.num
        streams := s.host.streams.filter fun y => y.session != x.num } }) ∧
    (s.session? x.num = some x → s.time.tick < x.lastTick + 1000 * x.idle →
      exec (.sessionIdleTimeout x.num now) s = .next s) ∧
    (s.session? x.num = some x → x.events.find? (fun y => y.seq == seq) = some e → s.fw.mgmtDown = false →
      e.sent + 100 ≤ s.time.tick → e.tries ≤ 30 →
      ∃ m, m.kind = 3 ∧ m.code = e.code.num ∧ m.step = e.step ∧ m.cycle = s.time.cycle ∧ m.tag = x.priv ∧
        exec (.eventResend x.num seq now) s = .next ((s.updSession x.num fun y => { y with events := y.events.map fun k =>
          if k.seq == seq then { k with sent := s.time.tick, tries := k.tries + 1 } else k }).emit
            (.event x.num seq e.code e.items m))) ∧
    (∀ (k : Hdr) (n : Nat), s.listening = true → badHeader 4 k = true → exec (.eventAcknowledge k n) s = .next s) ∧
    (∀ (k : Hdr) (n : Nat), s.listening = true → badHeader 4 k = false → (x.priv = true → k.tag = .good) →
      (s.session? k.session = some x → x.evLost = 0 →
        exec (.eventAcknowledge k n) s = .next ((s.heard k.port k.source).updSession k.session fun y =>
          { y with events := y.events.filter fun w => decide (n < w.seq) })) ∧
      ((s.host.sessions.filter fun y => y.num == k.session) = [x] → x.evLost ≠ 0 →
        (x.events.filter fun w => decide (n < w.seq)).length < 1024 →
        Ends (.eventAcknowledge k n) s fun t => ∃ y m, t.session? k.session = some y ∧ y.evLost = 0 ∧ y.evSeq = x.evSeq + 1 ∧
          t.host.outbox = s.host.outbox ++ [.event k.session (x.evSeq + 1) .eventsLost [.num x.evLost] m] ∧
          m.kind = 3 ∧ m.code = 0x800D ∧ ((∀ z ∈ s.regions, z.phase ≠ .running) → m.step = 2 ^ 64 - 1))) ∧
    (s.set.committing = some c →
      Ends (.settingsCommitComplete .ok) s fun t => t.set.committed = c.table ∧ t.set.committing = none ∧
        t.set.copyB = !s.set.copyB ∧ t.set.counter = (s.set.counter + 1) % 2 ^ 32 ∧
        t.set.active = overlay s.set.active (c.table.filter fun v => 0x09 ≤ v.1)) ∧
    (s.set.committing = some c →
      Ends (.settingsCommitComplete .verify) s fun t => t.set.committed = s.set.committed ∧ t.set.committing = none ∧
        t.set.copyB = s.set.copyB ∧ t.set.active = s.set.active ∧ ∃ f, t.glb.faults = s.glb.faults ++ [f] ∧ f.code = .authFail) ∧
    (s.set.committing = some c →
      Ends (.settingsCommitComplete .flash) s fun t => t.set.committed = s.set.committed ∧ t.set.committing = none ∧
        t.set.copyB = s.set.copyB ∧ t.set.active = s.set.active ∧ t.glb = s.glb) ∧
    (s.fw.restart = some r → r.update = true → s.fw.fallback = false → r.since + 1400 ≤ s.time.tick →
      exec (.firmwareFallback now) s =
        .next { s with fw := { s.fw with runningB := !s.fw.runningB, fallback := true } }) ∧
    (s.fw.restart = some r →
      Ends .managementRestartComplete s fun t => t.fw.restart = none ∧ t.fw.mgmtDown = false ∧ t.fw.deferred = [] ∧
        t.pwr.watchdogArmed = true ∧ t.sec.rollback = if r.update && !s.fw.fallback && !s.keyless then
          max s.sec.rollback s.running.security else s.sec.rollback) ∧
    (s.sec.level ≠ .closed → s.sec.dbgUntil ≤ s.time.tick → (s.keyless = false ∨ s.powered = false) →
      exec (.debugExpiry now) s =
        .next (({ s with sec := { s.sec with level := .closed } } : State).ledger 3 [.num 0])) ∧
    (exec (.parityWalk now []) s = .next { s with glb := { s.glb with walks := (s.glb.walks + 1) % 2 ^ 32 } }) ∧
    (s.regInfo h = some info → info.cls ≠ .ro → h.cls < 5 →
      Ends (.parityWalk now [.register h.cls h.inst h.off]) s fun t =>
        t.glb.walks = (s.glb.walks + 1) % 2 ^ 32 ∧ t.glb.parityCount = min (s.glb.parityCount + 1) (2 ^ 32 - 1) ∧
        t.glb.parityLast = parityDetail h.off h.cls h.inst false ∧
        ∃ f, t.glb.faults = s.glb.faults ++ [f] ∧ f.code = .configParity ∧ f.detail = parityDetail h.off h.cls h.inst false) ∧
    (∀ d k, Alone s l d → d.cfg[p]? = some k →
      Ends (.parityWalk now [.entry l k.off p]) s fun t => t.glb.walks = (s.glb.walks + 1) % 2 ^ 32 ∧
        (∃ y, t.core? l = some y ∧ y.cfg = d.cfg.eraseIdx p) ∧
        ∃ f, t.glb.faults = s.glb.faults ++ [f] ∧ f.code = .configParity ∧ f.detail = parityDetail k.off 0 l true)

/-- R303, R307 to R313, R315, R316, R318, R322 to R324, R354, R378, R381, R390: sessions, their sequence, their
subscriptions, streams and allocations, the settings table, backup registers, and the commands that read. -/
def Obligations.SessionCommandsAnswer : Prop :=
  ∀ (s : State) (h : Hdr) (x : Session) (n l k v g off len : Nat) (tr : Trailer) (dests : List EventDest)
    (part : InvPart) (c : CoreSt) (y : Region) (q : RunRec) (z : Stream) (drain : Bool),
    let same := HostOnly s
    let answer (i : Instr) (items : List Item) : Prop := Answers i s h .ok items same
    let v6 (net : Nat) : Item :=
      .num (if s.setting (3 + net) = 0 then linkLocal ((Config.macBase + 4 * net) % 2 ^ 48) else s.setting (3 + net))
    let known : List Item :=
      [.num s.sec.serial, .flag s.part.cores1104, .flag s.part.grade300, .num 1, .num s.lifecycle, .power s.pwr.state,
       .num s.kol.module, .flag s.slow]
        ++ (List.range 8).map (fun p => .num ((Config.macBase + p) % 2 ^ 48))
        ++ [.num (s.setting 1), .num (s.setting 2), v6 0, v6 1, .num s.running.version, .num 0x01010101]
    let parts : List Item := match part with
      | .defects => (s.mem.defects ++ s.mem.lockLost).map Item.num ++ s.mem.badLinks.flatMap fun p => [.num p.1, .num p.2]
      | .placement => s.regions.flatMap fun r => [.num r.num, .place r.place]
      | .allocs => (s.occupied none).flatMap fun p => [.num p.1, .num p.2]
      | .spares => s.mem.spareUsed.map Item.num ++ s.mem.rowsUsed.flatMap fun p => [.num p.1, .num (32 - p.2)]
    let bankOfCore (d : CoreSt) : List Item := (if d.bankSel then d.bank1 else d.bank0).map .fault ++ [.num d.faultLost]
    (Heard s h → h.session = 0 →
      (s.host.sessions.length < 32 →
        Answers (.sessionOpen h) s h .ok [.num s.host.nextSession] fun t => same t ∧
          t.host.nextSession = s.host.nextSession + 1 ∧ t.host.sessions = s.host.sessions ++
            [{ num := s.host.nextSession, lastTick := s.time.tick, idle := s.setting 0x09, source := (h.source, h.udp) }]) ∧
      (32 ≤ s.host.sessions.length →
        Answers (.sessionOpen h) s h .sessionLimit [] fun t => same t ∧ t.host.sessions = s.host.sessions) ∧
      answer (.discover h) known) ∧
    (InTurn s h x →
    answer (.keepalive h) [] ∧
    (s.privCount < 16 → Answers (.sessionElevate h .nonce) s h .ok
      [.num (Config.freeNonce s.time.draws), .num h.session, .num s.sec.serial] fun t =>
        ∃ w, t.session? h.session = some w ∧ w.nonce = some (Config.freeNonce s.time.draws) ∧ w.nonceAt = s.time.tick) ∧
    (x.nonce = some n → s.time.tick ≤ x.nonceAt + 10000 → s.privCount < 16 → tr.sigOk = true →
      (tr.owner = true ∧ tr.keyDigest ≠ 0 ∧ s.keyless = false ∧ s.sec.owner[tr.slot]? = some tr.keyDigest ∧
          s.sec.ownerRevoke.testBit tr.slot = false ∨
        tr.owner = false ∧ s.keyless = true ∧ s.sec.vendor[tr.slot]? = some tr.keyDigest ∧
          s.sec.vendorRevoke.testBit tr.slot = false) →
      Answers (.sessionElevate h (.auth n tr)) s h .ok [] fun t => same t ∧
        ∃ w, t.session? h.session = some w ∧ w.priv = true ∧ w.nonce = none ∧ w.signer = some (tr.owner, tr.slot)) ∧
    (Answers (.sessionClose h) s h .ok [] fun t => same t ∧ t.session? h.session = none ∧
      t.host.streams = s.host.streams.filter fun w => w.session != h.session) ∧
    (n < 2 ^ 32 → (∀ d ∈ dests, d.network < 2 ∧ d.port < 65536) → (dests.map fun d => d.network).Nodup →
      Answers (.eventSubscribe h n dests) s h .ok [] fun t => same t ∧
        ∃ w, t.session? h.session = some w ∧ w.mask = n ∧ w.dests = dests) ∧
    answer (.discover h) known ∧
    answer (.inventory h part off) (.flag s.slow :: (parts.drop off).take 1024) ∧
    (∃ items, answer (.partners h) (items ++ s.kol.ports.flatMap fun p =>
      [.flag p.up, match p.partner with | some m => .num m | none => .flag false])) ∧
    (n < 64 → s.stream? h.session n = none →
      Answers (.streamOpen h n) s h .ok [] fun t => same t ∧
        t.host.streams = s.host.streams ++ [{ session := h.session, num := n }]) ∧
    (n < 64 → s.stream? h.session n = some z → s.fab.jobs = [] →
      Answers (.streamClose h n) s h .accepted [] fun t =>
        t.host.streams = (s.host.streams.filter fun w => !(w.session == h.session && w.num == n)) ∧ t.mem = s.mem ∧
        t.kol = s.kol ∧ t.pwr = s.pwr ∧ t.cores = s.cores) ∧
    (x.priv = true → n ≠ 0 → n % 8192 = 0 → s.powered = true → ∀ fixed : Option GA,
      (fixed = some g ∧ s.stackRange g n = true ∧ (s.occupied none).any (gaMeet (g, n)) = false ∨
        fixed = none ∧ s.freePlace n (s.occupied none) = some g) →
      Answers (.stackAlloc h n fixed) s h .ok [.num g] fun t =>
        t = { s.zeroStack g n with host := t.host } ∧ t.host.allocs = s.host.allocs ++ [{ ga := g, size := n }]) ∧
    (x.priv = true → (∃ a ∈ s.host.allocs, a.ga = g) →
      Answers (.stackFree h g) s h .ok [] fun t => same t ∧ t.host.allocs = s.host.allocs.filter fun a => a.ga != g) ∧
    (s.core? l = some c →
      Answers (.faultRead h (.core l) drain) s h .ok (bankOfCore c) fun t =>
        t = { (if drain then s.updCore l CoreSt.swapBank else s) with host := t.host }) ∧
    (Answers (.faultRead h .module true) s h .ok ((s.glb.faults.drop s.glb.faultsRead).map .fault) fun t =>
      t = { s with host := t.host, glb := { s.glb with faultsRead := s.glb.faults.length }
                   pwr := { s.pwr with alertFault := false } }) ∧
    answer (.faultRead h .module false) ((s.glb.faults.drop s.glb.faultsRead).map .fault) ∧
    (s.region? n = some y → (s.cores.map fun d => d.lcore).Nodup →
      Answers (.faultRead h (.region n) drain) s h .ok ((s.coresOf n).flatMap bankOfCore) fun t =>
        t = { (if drain then s.updCoresOf n CoreSt.swapBank else s) with host := t.host }) ∧
    (len ≤ 8192 → answer (.ledgerRead h off len) (((s.host.ledger.drop off).take len).flatMap fun e =>
      [.num e.seq, .num e.kind, .num e.cycle] ++ e.items)) ∧
    (n < 8 → s.region? n = some y → y.ran = true → y.runRec = some q → q.region = n → q.loadSeq = k →
      answer (.runRecord h n k) [.run q]) ∧
    (n < 8 → s.region? n = none → (s.ledgerRuns.find? fun w => w.region == n && w.loadSeq == k) = some q →
      answer (.runRecord h n k) [.run q]) ∧
    (x.priv = true → n < 16 → answer (.backupReg h n none) [.num (s.glb.backup.getD n 0)]) ∧
    (x.priv = true → n < 16 → v < 2 ^ 64 → Answers (.backupReg h n (some v)) s h .ok [] fun t =>
      t = { s with host := t.host, glb := { s.glb with backup := s.glb.backup.set n v } }) ∧
    (x.priv = true → 1 ≤ k → k ≤ 14 →
      settingOk k v (fun j => (keyOf (overlay s.set.committed s.set.staged) j).getD 0) = true →
      Answers (.settingsStage h k v) s h .ok [] fun t =>
        t = { s with host := t.host, set := { s.set with staged := setKey s.set.staged k v } }) ∧
    (x.priv = true → s.set.committing = none → s.keyless = false →
      Answers (.settingsCommit h) s h .accepted [] fun t =>
        t = { s with host := t.host, set := { s.set with
          staged := [], committing := some { session := h.session, seq := h.seq
                                             table := overlay s.set.committed s.set.staged } } }) ∧
    (s.core? l = some c → c.region = n →
      Answers (.choiceLog h n l) s h .ok (c.choiceLog.map .entry) fun t =>
        t = { s.updCore l (fun d => { d with choiceLog := [] }) with host := t.host }) ∧
    answer (.domainMap h) ([.num s.kol.module, .flag s.kol.inDomain, .num s.kol.master] ++ s.kol.members.flatMap fun m =>
      [.num m.num, .num m.serial, match s.route m.num with | some (p, _) => .num p | none => .flag false]) ∧
    (1 ≤ k → k ≤ 14 →
      answer (.settingsRead h (some k))
        [match keyOf s.set.committed k with | some v => .num v | none => .flag false,
         match keyOf s.set.staged k with | some v => .num v | none => .flag false]) ∧
    answer (.settingsRead h none) ([.num s.set.committed.length] ++ s.set.committed.flatMap (fun v => [.num v.1, .num v.2]) ++
      s.set.staged.flatMap fun v => [.num v.1, .num v.2]) ∧
    (∃ items, answer (.securityStatus h) ([.num s.lifecycle, .num s.sec.level.num] ++ items)) ∧
    (n < 2 ^ 256 → (s.lifecycle = 2 ∨ s.lifecycle = 1 ∧ s.sec.cert = true) →
      ∃ items, answer (.attest h n) items ∧ items.take 4 = [.num 1, .num 2000, .num s.sec.serial, .num s.lifecycle] ∧
        items[7]? = some (.num n) ∧ items[8]? = some (.num s.time.cycle)))

/-- R297, R299 to R303, R276, R283, R346, R317, R385: the commands on regions and registers that are admitted. -/
def Obligations.RegionCommandsAnswer : Prop :=
  ∀ (s : State) (h : Hdr) (x : Session) (r k p i v : Nat) (rs : List Nat) (y : Region) (replace : Bool),
    InTurn s h x → r < 8 →
    let u := s.noted h
    let view := viewFor x.priv
    let isNow (t : State) (ph : Phase) : Prop :=
      ∃ z, t.region? r = some z ∧ z.num = r ∧ z.phase = ph
    let ready (z : Region) : Prop := z.busy = false ∧ z.phase = .idle ∧ z.loaded = true
    let opens (t : State) (step : Nat) (resume : Bool) (code : Nat) : Prop :=
      (∀ j ∈ rs, ∃ z, t.region? j = some z ∧ z.committed = true) ∧
      ∃ b, t.fab.barriers = s.fab.barriers ++ [b] ∧ b.regions = rs ∧ b.step = step ∧ b.phase = .arrival ∧
        b.resume = resume ∧ b.clients = [(h.session, h.seq, code)] ∧ b.opened = s.time.tick
    let lists : Prop := rs ≠ [] ∧ rs.Nodup ∧ (∀ j ∈ rs, j < 8) ∧ ∀ b ∈ s.fab.barriers, b.seq ≤ s.fab.barrierSeq
    let policy := setPolicyField (y.policies.getD (k / 16 - 1) 0)
    (x.priv = true →
    (∀ (a : LoadArgs) (plan : LoadPlan), a.region = r → s.region? r = some y → y.phase ≠ .running → y.busy = false →
      u.inAlloc a.ga a.length = true → u.checkLoad y a = .ok plan →
      Answers (.load h a) s h .accepted [] fun t =>
        ∃ z, t.region? r = some z ∧ z.phase = .loading ∧ z.loaded = true ∧ z.ran = false ∧ z.obj = some a.object ∧
          z.n = a.n ∧ z.base = (s.fw.loadSeq + 1) * 2 ^ 32 ∧ z.waiter = some (h.session, h.seq, 0x0200)) ∧
    (lists → s.pwr.state = .active → s.pwr.moving = none →
      (∀ j ∈ rs, ∃ z, s.region? j = some z ∧ ready z ∧ z.ran = false ∧ z.spoiled = false) →
      Answers (.start h rs) s h .accepted [] fun t => opens t 0 false 0x0201 ∧
        (s.kol.inDomain = false → s.fab.barrierSeq + 1 < 2 ^ 32 → s.fw.mgmtDown = false →
          (∀ z ∈ s.regions, z.idleAt ≤ s.time.cycle) →
          ∃ b ∈ t.fab.barriers, b.regions = rs ∧ (s.kol.module, s.time.cycle) ∈ b.arrivals)) ∧
    (lists → s.pwr.state = .active → s.pwr.moving = none →
      (∀ j ∈ rs, ∃ z, s.region? j = some z ∧ ready z ∧ s.resumable z = true ∧ s.resumeStep z = k) →
      Answers (.resume h rs) s h .accepted [] fun t => opens t k true 0x0202) ∧
    (lists → 0 < k → (∀ j ∈ rs, ∃ z, s.region? j = some z ∧ ready z ∧ s.passed z k = false) →
      Answers (.solderStep h rs k replace) s h .accepted [] fun t => opens t k true 0x0204) ∧
    (lists → 0 < k → rs = [r] → s.region? r = some y → y.busy = false → y.phase = .running → y.loaded = true →
      s.passed y k = false →
      Answers (.solderStep h rs k replace) s h .accepted [] fun t => opens t k true 0x0204 ∧ isNow t .stopping) ∧
    (s.region? r = some y → y.busy = false → y.phase = .running →
      (Answers (.stop h r .step) s h .accepted [] fun t => isNow t .stopping ∧
        ∀ c ∈ t.cores, c.region = r → ∃ n, c.stopBefore = some n ∧ n ≤ max (s.topStep y + 1) (c.step + 1)) ∧
      Answers (.stop h r .now) s h .accepted [] fun t => isNow t .stopping ∧
        ∀ c ∈ t.cores, c.region = r → ∃ n, c.stopFrom = some n ∧ n ≤ s.time.cycle) ∧
    (∀ f : ReplayForm, s.region? r = some y → y.busy = false → y.loaded = true →
      (∀ a c j o, f = .bundle a c j o → (s.core? c).isSome = true ∧ j < 16384 ∧ o ≠ 0) →
      Answers (.replayStop h r f) s h .ok [] fun t => ∃ z, t.region? r = some z ∧ z.replayStop = some f) ∧
    (∀ x0 y0 x1 y1, s.powered = true → s.region? r = none → x0 ≤ x1 → x1 < 8 → y0 ≤ y1 → y1 < 6 →
      (∀ z ∈ s.regions, z.x1 < x0 ∨ x1 < z.x0 ∨ z.y1 < y0 ∨ y1 < z.y0) →
      Answers (.define h r x0 y0 x1 y1) s h .accepted [] fun t => ∃ z, t.regions = s.regions ++ [z] ∧ z.num = r ∧
        z.phase = .defining ∧ z.x0 = x0 ∧ z.y0 = y0 ∧ z.x1 = x1 ∧ z.y1 = y1 ∧
        z.waiter = some (h.session, h.seq, 0x0300) ∧ t.cores = s.cores) ∧
    (s.region? r = some y → y.busy = false → y.phase = .parked →
      Answers (.undefine h r) s h .accepted [] fun t => isNow t .defining ∧ t.cores = s.cores ∧ t.mem = s.mem) ∧
    (s.region? r = some y → y.busy = false → y.phase = .idle →
      Answers (.park h r replace) s h .accepted [] fun t => isNow t .parking ∧ t.mem = s.mem) ∧
    (∀ (act : RepairAct) (force : Bool), s.region? r = some y → y.busy = false → y.phase = .parked →
      u.repairBad y act force = none →
      Answers (.repair h r act force) s h .accepted [] fun t => isNow t .repairing ∧ t.cores = s.cores ∧
        ∃ z, t.region? r = some z ∧ z.repairing = some act) ∧
    (∀ (unit : ParkUnit) (pl : ParkPlace) (watch : Option Nat), s.powered = true → u.unitPlace unit = .ok (pl, watch) →
      (∀ e ∈ s.mem.parked, e.place ≠ pl) →
      Answers (.parkUnit h unit true) s h .accepted [] fun t => ∃ e n, t.mem.parked = s.mem.parked ++ [e] ∧ e.place = pl ∧
        e.unit = unit ∧ e.phase = .pending n ∧ e.session = h.session ∧ e.seq = h.seq) ∧
    (s.region? r = some y → y.hostPace = none → (p = 0 ∧ i = 0 ∨ p ≤ 65535 ∧ 65536 ≤ i ∧ i ≤ 16777216) →
      Answers (.pace h r p i) s h .ok [] fun t => ∃ z, t.region? r = some z ∧ z.paceP = p ∧ z.paceI = i ∧
        z.phase = y.phase ∧ t.mem = s.mem) ∧
    (∀ c : FCode, s.region? r = some y → fcodeOf k = some c → k / 16 < 5 → p < 3 →
      policyRegOk (k / 16) (policy c p) = true → (y.phase = .idle ∨ y.phase = .loading) →
      Answers (.faultPolicy h r k p) s h .ok [] fun t => t.cores = s.cores ∧ t.mem = s.mem ∧
        ∃ z, t.region? r = some z ∧ z.policies = setAt y.policies (k / 16 - 1) (policy c p))) ∧
    (s.region? r = some y → ∃ items, Answers (.regionStatus h r) s h .ok
      ([.phase y.phase, .num y.digest, .num y.n, .num y.base] ++ items) (HostOnly s)) ∧
    (∀ (g : GA) (loc : RegLoc), u.regReadCheck view g = .ok loc →
      Answers (.regRead h g 1) s h .ok [.num (u.regReadAt loc true).2] fun t =>
        t = { (u.regReadAt loc true).1 with host := t.host }) ∧
    (∀ (g : GA) (loc : RegLoc) (info : RegInfo) (f : ApplyForm), u.regWriteCheck view g f v = .ok (loc, info) →
      (f = .start ∨ info.cls ≠ .b) →
      Answers (.regWrite h g [v] none f) s h .ok [] fun t =>
        t = { ((u.noteWrite loc info g v).regPut .host loc info f v 0) with host := t.host }) ∧
    (∀ (g : GA) (loc : RegLoc) (info : RegInfo) (f : ApplyForm) (l : Nat) (c : CoreSt),
      u.regWriteCheck view g f v = .ok (loc, info) → info.cls = .b → l ∈ u.regTargets loc → Alone s l c →
      Answers (.regWrite h g [v] none f) s h .ok [] fun t =>
        ∃ d, t.core? l = some d ∧ ∃ e ∈ d.cfg, e.off = loc.off ∧ e.value = v ∧ e.target = f) ∧
    (∀ (g : GA) (st o : Nat), NoneWaits s → InStack s g 8 st o →
      (s.sec.level ≠ .closed → Answers (.debugAccess h g 1 (.read .clean)) s h .ok [.num (leVal (s.stackBytes st o 8))] fun t =>
        t.mem = s.mem ∧ t.cores = s.cores) ∧
      (s.sec.level = .full → Answers (.debugAccess h g 1 (.write [v])) s h .ok [] fun t =>
        t.mem = (s.withBytes g (leBytes 8 (v % 2 ^ 64))).mem ∧ t.cores = s.cores)) ∧
    (∀ (g : GA) (loc : RegLoc), s.sec.level = .full → u.controlAt g = true → u.regReadCheck .p g = .ok loc →
      Answers (.debugAccess h g 1 (.read .clean)) s h .ok [.num (u.regReadAt loc true).2] fun t =>
        t = { (u.regReadAt loc true).1 with host := t.host })

/-- R308, R311 to R313, R305, R306, R361, R362, R373 to R377, R382 to R384: datagrams keep their order and their
privilege, and the commands on firmware, lifecycle, debug level and domain that are admitted. -/
def Obligations.ModuleCommandsAnswer : Prop :=
  ∀ (s : State) (h : Hdr) (x : Session) (n k v r : Nat) (im : ImageArg) (g : GA) (nonce at_ : Nat) (tr : Trailer)
    (ts : List Trailer) (e : CachedReply),
    let fresh (o : Option (Nat × Nat)) : Prop := o = some (nonce, at_) ∧ s.time.tick ≤ at_ + 10000
    let still : Prop := s.pwr.state = .standby ∧ s.pwr.moving = none ∧ s.fw.restart = none
    let upd (f : Session → Session) : Host.Outcome State Fault Refusal := .next ((s.noted h).updSession h.session f)
    (badDatagram h = true → exec (.keepalive h) s = .next s) ∧
    (Heard s h → s.session? h.session = some x → h.session ≠ 0 → (x.priv = true → h.tag = .good) →
      (∀ w ∈ s.host.sessions, w.num = h.session → w = x) →
      (x.next < h.seq → h.seq ≤ x.next + 7 → (∀ w ∈ x.held, w.hdr.seq ≠ h.seq) →
        exec (.keepalive h) s = upd fun z => { z with
          held := z.held ++ [{ hdr := h, cmd := .keepalive, arrived := s.time.tick }] }) ∧
      (x.next < h.seq → h.seq ≤ x.next + 7 → (∃ w ∈ x.held, w.hdr.seq = h.seq) →
        exec (.keepalive h) s = upd fun z => { z with held := z.held.map fun w =>
          if w.hdr.seq = h.seq then { w with copies := w.copies ++ [copyFrom h] } else w }) ∧
      (x.next + 7 < h.seq → exec (.keepalive h) s = .next ((s.noted h).reply h 0x0004 .sequence [])) ∧
      (h.seq < x.next → x.cache.find? (fun w => w.seq == h.seq) = some e →
        exec (.keepalive h) s = .next ((s.noted h).reply h 0x0004 e.status e.items))) ∧
    (InTurn s h x → x.priv = false →
      Answers (.powerCap h n) s h .privilege [] fun t => t.pwr.cap = s.pwr.cap ∧ t.mem = s.mem ∧
        ∃ f, t.glb.faults = s.glb.faults ++ [f] ∧ f.code = .privilege) ∧
    (InTurn s h x → x.priv = true →
    (s.updateBusy = false → s.inAlloc g n = true →
      let view := imageView ((List.range n).map fun i => s.placeByte (s.place (g + i))) im.sigOk
      (im.flashOk = true → n = 96 + view.bodyLength + 3074 → view.trailer.owner = false →
        s.trailerCause view.trailer = none → view.bodyOk = true → view.reservedOk = true → view.security ≤ 64 →
        s.sec.rollback ≤ view.security →
        Answers (.firmwareUpdate h g n im) s h .accepted [] fun t => t.fw.mgmtDown = true ∧
          t.fw.runningB = !s.fw.runningB ∧ t.set.staged = [] ∧ t.pwr.watchdogArmed = false ∧
          t.fw.restart = some { since := s.time.tick, update := true, session := h.session, seq := h.seq } ∧
          t.running = { version := view.version, security := view.security, headerDigest := view.headerDigest, ok := true } ∧
          t.regions = s.regions ∧ t.cores = s.cores ∧ t.mem = s.mem) ∧
      (im.flashOk = true → view.security < s.sec.rollback →
        Answers (.firmwareUpdate h g n im) s h .verify [] fun t => t.fw.runningB = s.fw.runningB ∧ t.fw.restart = none ∧
          t.running = s.running ∧ ∃ f, t.glb.faults = s.glb.faults ++ [f] ∧ f.code = .authFail) ∧
      (im.flashOk = false →
        Answers (.firmwareUpdate h g n im) s h .flash [] fun t => t.fw.runningB = s.fw.runningB ∧ t.fw.restart = none ∧
          t.running = s.running ∧ t.glb = s.glb)) ∧
    (still →
      Answers (.lifecycle h .nonce) s h .ok [.num (Config.freeNonce s.time.draws)] fun t =>
        t.sec = { s.sec with lcNonce := some (Config.freeNonce s.time.draws, s.time.tick) } ∧ t.mem = s.mem) ∧
    (still → fresh s.sec.lcNonce →
      let done (t : State) : Prop := t.host.sessions = [] ∧ t.sec.level = .closed ∧ t.fw.mgmtDown = true ∧
        t.fw.restart = some { since := s.time.tick, update := false, session := h.session, seq := h.seq }
      let items : List Item := [.num s.sec.serial, .flag s.part.cores1104, .flag s.part.grade300]
      (s.lifecycle = 0 → n ≠ 0 → v < 256 → s.vendorOk (some tr) = true →
        Answers (.lifecycle h (.advance 1 s.sec.serial nonce n k v (some tr))) s h .accepted items fun t => done t ∧
          t.sec.owner = [n, k] ∧ t.sec.resetMap = v ∧ t.sec.lifecycle = s.sec.lifecycle ||| 1 ∧ t.sec.identity = true) ∧
      (s.lifecycle = 1 → s.sec.cert = true → x.signer = some (true, r) →
        Answers (.lifecycle h (.advance 2 s.sec.serial nonce n k v none)) s h .accepted items fun t => done t ∧
          t.sec.lifecycle = s.sec.lifecycle ||| 2) ∧
      (s.lifecycle ≠ 3 → (s.vendorOk (some tr) = true ∨ x.signer = some (true, r)) →
        Answers (.lifecycle h (.advance 3 s.sec.serial nonce n k v (some tr))) s h .accepted items fun t => done t ∧
          t.sec.lifecycle = s.sec.lifecycle ||| 4 ∧ t.sec.ownerRevoke = 3 ∧ t.sec.identity = false ∧
          t.glb.backup = List.replicate 16 0 ∧ t.set.committed = defaultSettings) ∧
      (s.sec.identity = true → s.vendorOk (some tr) = true →
        Answers (.lifecycle h (.install s.sec.serial nonce true tr)) s h .accepted [] fun t =>
          t.sec = { s.sec with lcNonce := none, cert := true }) ∧
      (r < 2 → slotsLeft s.sec.owner s.sec.ownerRevoke r = true → x.signer = some (true, 1 - r) →
        Answers (.lifecycle h (.revoke s.sec.serial nonce true r none)) s h .accepted [] fun t =>
          t.sec = { s.sec with lcNonce := none, ownerRevoke := s.sec.ownerRevoke ||| 2 ^ r }) ∧
      (r < 4 → slotsLeft s.sec.vendor s.sec.vendorRevoke r = true → s.vendorOk (some tr) = true → tr.slot ≠ r →
        Answers (.lifecycle h (.revoke s.sec.serial nonce false r (some tr))) s h .accepted [] fun t =>
          t.sec = { s.sec with lcNonce := none, vendorRevoke := s.sec.vendorRevoke ||| 2 ^ r })) ∧
    (Answers (.debugToken h .nonce) s h .ok [.num (Config.freeNonce s.time.draws)] fun t =>
      t.sec = { s.sec with dbgNonce := some (Config.freeNonce s.time.draws, s.time.tick) }) ∧
    ((s.keyless = false ∨ s.pwr.state = .standby) →
      Answers (.debugToken h .lower) s h .ok [] fun t => t.sec = { s.sec with level := .closed }) ∧
    (fresh s.sec.dbgNonce → signersOk s.lifecycle k ts = true → (∀ w ∈ ts, s.trailerCause w = none) → 0 < n →
      n ≤ 86400000 → (k = 1 ∨ k = 2) →
      Answers (.debugToken h (.token k n s.sec.serial nonce ts)) s h .ok [] fun t =>
        t.sec = { s.sec with dbgNonce := none, dbgUntil := s.time.tick + n
                             level := if k = 1 then .observe else .full }) ∧
    (s.powered = true → (∀ z ∈ s.regions, z.phase ≠ .running) → s.sec.cert = true → s.keyless = false →
      (s.pwr.refLocked = true ∨ s.pwr.mayRejoin = true) → s.kol.discovering = none →
      Answers (.rediscover h) s h .accepted [] fun t => t.kol.inDomain = false ∧ t.kol.module = 0 ∧
        t.pwr.refLocked = true ∧ t.mem = s.mem ∧ t.cores = s.cores ∧
        t.kol.discovering = some { since := s.time.tick, verified := [], client := some (h.session, h.seq) }))

/-! ### The memory transport and the registers -/

/-- R325 to R330: packets in their turn land, answer and are acknowledged; one beyond a gap is held and the gap named; the
host's acknowledgements and the timers. -/
def Obligations.StreamPacketsTakeTheirTurn : Prop :=
  ∀ (s : State) (h : CmtHdr) (x : Session) (y : Stream) (g : GA) (bs : List Byte) (n st o k : Nat) (a : AnnWord) (p : OwnPkt),
    OnStream s h x y →
    let upd (t : State) (f : Stream → Stream) : State := t.updStream h.session h.stream f
    let heard := s.heard h.port h.source
    let out (psn kind : Nat) (ga : GA) (word : Nat) (data : List Byte) : Out :=
      .cmt h.session h.stream psn kind ga word data ((y.next + (2 ^ 32 - 1)) % 2 ^ 32) x.priv
    (y.closing = true → exec (.fence h) s = .next heard) ∧
    (y.closing = false →
      (h.psn = y.next → y.ahead = [] → NoneWaits s →
        (x.priv = true → bs.length ≤ 8192 → InStack s g bs.length st o →
          Ends (.write h g bs) s fun t => t.mem = (s.withBytes g bs).mem ∧ t.cores = s.cores ∧ Moved t h) ∧
        (x.priv = true → bs.length ≤ 8192 → InStack s g bs.length st o →
          Ends (.writeAnnounce h g bs a) s fun t => t.mem = (s.withBytes g bs).mem ∧ t.cores = s.cores ∧ Moved t h ∧
            ∃ w ∈ t.fab.signals, w.lcore = a.lcore ∧ w.tally = a.tally ∧ w.count = a.count ∧ w.issued = s.time.cycle ∧
              w.origin = .host h.session h.stream h.psn) ∧
        (x.priv = false → bs.length ≤ 8192 →
          Ends (.write h g bs) s fun t => t.mem = s.mem ∧ t.cores = s.cores ∧ Moved t h ∧ Sends s t h 0x08 0 []) ∧
        (0 < n → n ≤ 8192 → InStack s g n st o →
          Ends (.read h g n .clean) s fun t => t.mem = s.mem ∧ t.cores = s.cores ∧ Moved t h ∧
            Sends s t h 0x04 g (s.stackBytes st o n)) ∧
        Ends (.fence h) s fun t => t.mem = s.mem ∧ t.cores = s.cores ∧ Moved t h ∧ Sends s t h 0x05 h.psn []) ∧
      (h.psn < y.next →
        exec (.fence h) s = .next ((upd heard fun z => { z with sinceAck := 0 }).emit (out (y.next - 1) 0x05 y.landed 0 []))) ∧
      (y.next < h.psn → h.psn ≤ y.next + 255 →
        exec (.fence h) s = .next ((upd heard fun z => { z with
          ahead := (z.ahead.filter fun w => w.1 != h.psn) ++ [(h.psn, .fence)], missing := some z.next }).emit
            (out (y.next - 1) 0x06 y.next 0 []))) ∧
      (y.next + 255 < h.psn → exec (.fence h) s = .next heard)) ∧
    (exec (.ack h k) s = .next (upd heard fun z => { z with own := z.own.filter fun w => decide (k < w.psn) })) ∧
    (y.own = [p] → p.psn = k → p.tries ≤ 16 →
      exec (.nak h k) s = .next ((upd heard fun z => { z with own := [{ p with tries := p.tries + 1 }] }).emit
        (out k p.kind p.ga p.word p.data))) ∧
    (y.sinceAck ≠ 0 → y.next ≠ 0 →
      exec (.cmtAckTimer h.session h.stream) s = .next ((upd s fun z => { z with sinceAck := 0 }).emit
        (out (y.next - 1) 0x05 y.landed 0 []))) ∧
    (y.nakTries < 16 → y.missing.isSome = true → y.own = [] →
      exec (.cmtRetransmitTimer h.session h.stream) s = .next ((upd s fun z => { z with nakTries := z.nakTries + 1 }).emit
        (out (y.next - 1) 0x06 y.next 0 []))) ∧
    (16 ≤ y.nakTries →
      Ends (.cmtRetransmitTimer h.session h.stream) s fun t => t.mem = s.mem ∧ t.cores = s.cores ∧
        t.stream? h.session h.stream = some { session := h.session, num := h.stream })

/-- R333, R336, R337, R339, R341, R344, R349, R354: register accesses outside the mailbox that pass their checks. -/
def Obligations.RegistersReadAndWrite : Prop :=
  ∀ (s : State) (q : Requester) (g : GA) (loc : RegLoc) (info : RegInfo) (v l d n k : Nat) (c : CoreSt) (i : Indirect),
    (s.regWriteCheck (s.viewOf q) g .next v = .ok (loc, info) →
      exec (.registerWrite q g v) s = .next (s.regPut q loc info .next v 0)) ∧
    (s.regLoc g = some { cls := 4, inst := 0, off := 0x100 + 8 * k } → k < 16 → v < 2 ^ 64 →
      exec (.registerWrite .host g v) s = .next { s with glb := { s.glb with backup := s.glb.backup.set k v } }) ∧
    (Alone s l c →
      exec (.faultCountRead l) s = .next ((s.updCore l fun _ => if c.bankSel then
          { c with bankSel := false, bank0 := [], faultLost := 0 } else { c with bankSel := true, bank1 := [], faultLost := 0 }).emit
        (.regRead ((if c.bankSel then c.bank1 else c.bank0).length + (if c.bankSel then 32 else 0) + 65536 * c.faultLost)
          true))) ∧
    (s.regReadCheck (s.viewOf q) g = .ok loc →
      exec (.rcFieldRead q g) s = .next ((s.regReadAt loc (s.viewOf q != .pRead)).1.emit
        (.regRead (s.regReadAt loc (s.viewOf q != .pRead)).2 true))) ∧
    (s.regLoc g = some { cls := 4, inst := 0, off := 0x10 } →
      exec (.rcFieldRead .host g) s = .next (({ s with glb := { s.glb with parityCount := 0 } } : State).emit
        (.regRead (s.glb.parityCount % 2 ^ 32 + 2 ^ 32 * (s.glb.parityLast % 2 ^ 32)) true))) ∧
    (s.regLoc g = some { cls := 1, inst := d, off := 0x48 } → d < 48 → s.glb.indDie[d]? = some i →
      (indTarget 1 i = some n →
        exec (.indDataRead .host g) s = .next ((s.updInd 1 d fun _ => i.bump n).emit (.regRead (s.indWord 1 d i.addr) true))) ∧
      (indTarget 1 i = none →
        Ends (.indDataRead .host g) s fun t => t.indirect 1 d = { i with fault := true } ∧
          (∃ f, t.glb.faults = s.glb.faults ++ [f] ∧ f.code = .indirectRange) ∧
          .regRead 0 true ∈ t.host.outbox.drop s.host.outbox.length) ∧
      (indTarget 1 i = some n → v < 2 ^ 32 →
        Ends (.indDataWrite .host g v) s fun t => t.indirect 1 d = i.bump n ∧ t.indWord 1 d i.addr = v ∧
          t.mem = s.mem ∧ t.cores = s.cores))
end

