-- ==== Sys2Proof/Laws/State.lean ====
section
/-! SUPPORT. What each update of the state leaves: one lemma per field per update, all true by definition; and what a
lookup finds after an update. -/

namespace Sys2Proof.Machine

variable (s : State)

/-! ### updCore -/

@[simp] theorem State.updCore_pending (l : Nat) (f : CoreSt → CoreSt) : (s.updCore l f).pending = s.pending := rfl
@[simp] theorem State.updCore_part (l : Nat) (f : CoreSt → CoreSt) : (s.updCore l f).part = s.part := rfl
@[simp] theorem State.updCore_time (l : Nat) (f : CoreSt → CoreSt) : (s.updCore l f).time = s.time := rfl
@[simp] theorem State.updCore_pwr (l : Nat) (f : CoreSt → CoreSt) : (s.updCore l f).pwr = s.pwr := rfl
@[simp] theorem State.updCore_host (l : Nat) (f : CoreSt → CoreSt) : (s.updCore l f).host = s.host := rfl
@[simp] theorem State.updCore_set (l : Nat) (f : CoreSt → CoreSt) : (s.updCore l f).set = s.set := rfl
@[simp] theorem State.updCore_fw (l : Nat) (f : CoreSt → CoreSt) : (s.updCore l f).fw = s.fw := rfl
@[simp] theorem State.updCore_sec (l : Nat) (f : CoreSt → CoreSt) : (s.updCore l f).sec = s.sec := rfl
@[simp] theorem State.updCore_regions (l : Nat) (f : CoreSt → CoreSt) : (s.updCore l f).regions = s.regions := rfl
@[simp] theorem State.updCore_mem (l : Nat) (f : CoreSt → CoreSt) : (s.updCore l f).mem = s.mem := rfl
@[simp] theorem State.updCore_fab (l : Nat) (f : CoreSt → CoreSt) : (s.updCore l f).fab = s.fab := rfl
@[simp] theorem State.updCore_kol (l : Nat) (f : CoreSt → CoreSt) : (s.updCore l f).kol = s.kol := rfl
@[simp] theorem State.updCore_eth (l : Nat) (f : CoreSt → CoreSt) : (s.updCore l f).eth = s.eth := rfl
@[simp] theorem State.updCore_glb (l : Nat) (f : CoreSt → CoreSt) : (s.updCore l f).glb = s.glb := rfl

/-! ### updCoresOf -/

@[simp] theorem State.updCoresOf_pending (r : Nat) (f : CoreSt → CoreSt) : (s.updCoresOf r f).pending = s.pending := rfl
@[simp] theorem State.updCoresOf_part (r : Nat) (f : CoreSt → CoreSt) : (s.updCoresOf r f).part = s.part := rfl
@[simp] theorem State.updCoresOf_time (r : Nat) (f : CoreSt → CoreSt) : (s.updCoresOf r f).time = s.time := rfl
@[simp] theorem State.updCoresOf_pwr (r : Nat) (f : CoreSt → CoreSt) : (s.updCoresOf r f).pwr = s.pwr := rfl
@[simp] theorem State.updCoresOf_host (r : Nat) (f : CoreSt → CoreSt) : (s.updCoresOf r f).host = s.host := rfl
@[simp] theorem State.updCoresOf_set (r : Nat) (f : CoreSt → CoreSt) : (s.updCoresOf r f).set = s.set := rfl
@[simp] theorem State.updCoresOf_fw (r : Nat) (f : CoreSt → CoreSt) : (s.updCoresOf r f).fw = s.fw := rfl
@[simp] theorem State.updCoresOf_sec (r : Nat) (f : CoreSt → CoreSt) : (s.updCoresOf r f).sec = s.sec := rfl
@[simp] theorem State.updCoresOf_regions (r : Nat) (f : CoreSt → CoreSt) : (s.updCoresOf r f).regions = s.regions := rfl
@[simp] theorem State.updCoresOf_mem (r : Nat) (f : CoreSt → CoreSt) : (s.updCoresOf r f).mem = s.mem := rfl
@[simp] theorem State.updCoresOf_fab (r : Nat) (f : CoreSt → CoreSt) : (s.updCoresOf r f).fab = s.fab := rfl
@[simp] theorem State.updCoresOf_kol (r : Nat) (f : CoreSt → CoreSt) : (s.updCoresOf r f).kol = s.kol := rfl
@[simp] theorem State.updCoresOf_eth (r : Nat) (f : CoreSt → CoreSt) : (s.updCoresOf r f).eth = s.eth := rfl
@[simp] theorem State.updCoresOf_glb (r : Nat) (f : CoreSt → CoreSt) : (s.updCoresOf r f).glb = s.glb := rfl

/-! ### updRegion -/

@[simp] theorem State.updRegion_pending (r : Nat) (f : Region → Region) : (s.updRegion r f).pending = s.pending := rfl
@[simp] theorem State.updRegion_part (r : Nat) (f : Region → Region) : (s.updRegion r f).part = s.part := rfl
@[simp] theorem State.updRegion_time (r : Nat) (f : Region → Region) : (s.updRegion r f).time = s.time := rfl
@[simp] theorem State.updRegion_pwr (r : Nat) (f : Region → Region) : (s.updRegion r f).pwr = s.pwr := rfl
@[simp] theorem State.updRegion_host (r : Nat) (f : Region → Region) : (s.updRegion r f).host = s.host := rfl
@[simp] theorem State.updRegion_set (r : Nat) (f : Region → Region) : (s.updRegion r f).set = s.set := rfl
@[simp] theorem State.updRegion_fw (r : Nat) (f : Region → Region) : (s.updRegion r f).fw = s.fw := rfl
@[simp] theorem State.updRegion_sec (r : Nat) (f : Region → Region) : (s.updRegion r f).sec = s.sec := rfl
@[simp] theorem State.updRegion_cores (r : Nat) (f : Region → Region) : (s.updRegion r f).cores = s.cores := rfl
@[simp] theorem State.updRegion_mem (r : Nat) (f : Region → Region) : (s.updRegion r f).mem = s.mem := rfl
@[simp] theorem State.updRegion_fab (r : Nat) (f : Region → Region) : (s.updRegion r f).fab = s.fab := rfl
@[simp] theorem State.updRegion_kol (r : Nat) (f : Region → Region) : (s.updRegion r f).kol = s.kol := rfl
@[simp] theorem State.updRegion_eth (r : Nat) (f : Region → Region) : (s.updRegion r f).eth = s.eth := rfl
@[simp] theorem State.updRegion_glb (r : Nat) (f : Region → Region) : (s.updRegion r f).glb = s.glb := rfl

/-! ### emit -/

@[simp] theorem State.emit_pending (o : Out) : (s.emit o).pending = s.pending := rfl
@[simp] theorem State.emit_part (o : Out) : (s.emit o).part = s.part := rfl
@[simp] theorem State.emit_time (o : Out) : (s.emit o).time = s.time := rfl
@[simp] theorem State.emit_pwr (o : Out) : (s.emit o).pwr = s.pwr := rfl
@[simp] theorem State.emit_set (o : Out) : (s.emit o).set = s.set := rfl
@[simp] theorem State.emit_fw (o : Out) : (s.emit o).fw = s.fw := rfl
@[simp] theorem State.emit_sec (o : Out) : (s.emit o).sec = s.sec := rfl
@[simp] theorem State.emit_regions (o : Out) : (s.emit o).regions = s.regions := rfl
@[simp] theorem State.emit_cores (o : Out) : (s.emit o).cores = s.cores := rfl
@[simp] theorem State.emit_mem (o : Out) : (s.emit o).mem = s.mem := rfl
@[simp] theorem State.emit_fab (o : Out) : (s.emit o).fab = s.fab := rfl
@[simp] theorem State.emit_kol (o : Out) : (s.emit o).kol = s.kol := rfl
@[simp] theorem State.emit_eth (o : Out) : (s.emit o).eth = s.eth := rfl
@[simp] theorem State.emit_glb (o : Out) : (s.emit o).glb = s.glb := rfl

/-! ### ledger -/

@[simp] theorem State.ledger_pending (k : Nat) (l : List Item) : (s.ledger k l).pending = s.pending := by simp only [State.ledger]
@[simp] theorem State.ledger_part (k : Nat) (l : List Item) : (s.ledger k l).part = s.part := by simp only [State.ledger]
@[simp] theorem State.ledger_time (k : Nat) (l : List Item) : (s.ledger k l).time = s.time := by simp only [State.ledger]
@[simp] theorem State.ledger_pwr (k : Nat) (l : List Item) : (s.ledger k l).pwr = s.pwr := by simp only [State.ledger]
@[simp] theorem State.ledger_set (k : Nat) (l : List Item) : (s.ledger k l).set = s.set := by simp only [State.ledger]
@[simp] theorem State.ledger_fw (k : Nat) (l : List Item) : (s.ledger k l).fw = s.fw := by simp only [State.ledger]
@[simp] theorem State.ledger_sec (k : Nat) (l : List Item) : (s.ledger k l).sec = s.sec := by simp only [State.ledger]
@[simp] theorem State.ledger_regions (k : Nat) (l : List Item) : (s.ledger k l).regions = s.regions := by simp only [State.ledger]
@[simp] theorem State.ledger_cores (k : Nat) (l : List Item) : (s.ledger k l).cores = s.cores := by simp only [State.ledger]
@[simp] theorem State.ledger_mem (k : Nat) (l : List Item) : (s.ledger k l).mem = s.mem := by simp only [State.ledger]
@[simp] theorem State.ledger_fab (k : Nat) (l : List Item) : (s.ledger k l).fab = s.fab := by simp only [State.ledger]
@[simp] theorem State.ledger_kol (k : Nat) (l : List Item) : (s.ledger k l).kol = s.kol := by simp only [State.ledger]
@[simp] theorem State.ledger_eth (k : Nat) (l : List Item) : (s.ledger k l).eth = s.eth := by simp only [State.ledger]
@[simp] theorem State.ledger_glb (k : Nat) (l : List Item) : (s.ledger k l).glb = s.glb := by simp only [State.ledger]

/-! ### sendTo -/

@[simp] theorem State.sendTo_pending (p : Session → Bool) (c : EvCode) (l : List Item) (k : Nat) : (s.sendTo p c l k).pending = s.pending := rfl
@[simp] theorem State.sendTo_part (p : Session → Bool) (c : EvCode) (l : List Item) (k : Nat) : (s.sendTo p c l k).part = s.part := rfl
@[simp] theorem State.sendTo_time (p : Session → Bool) (c : EvCode) (l : List Item) (k : Nat) : (s.sendTo p c l k).time = s.time := rfl
@[simp] theorem State.sendTo_pwr (p : Session → Bool) (c : EvCode) (l : List Item) (k : Nat) : (s.sendTo p c l k).pwr = s.pwr := rfl
@[simp] theorem State.sendTo_set (p : Session → Bool) (c : EvCode) (l : List Item) (k : Nat) : (s.sendTo p c l k).set = s.set := rfl
@[simp] theorem State.sendTo_fw (p : Session → Bool) (c : EvCode) (l : List Item) (k : Nat) : (s.sendTo p c l k).fw = s.fw := rfl
@[simp] theorem State.sendTo_sec (p : Session → Bool) (c : EvCode) (l : List Item) (k : Nat) : (s.sendTo p c l k).sec = s.sec := rfl
@[simp] theorem State.sendTo_regions (p : Session → Bool) (c : EvCode) (l : List Item) (k : Nat) : (s.sendTo p c l k).regions = s.regions := rfl
@[simp] theorem State.sendTo_cores (p : Session → Bool) (c : EvCode) (l : List Item) (k : Nat) : (s.sendTo p c l k).cores = s.cores := rfl
@[simp] theorem State.sendTo_mem (p : Session → Bool) (c : EvCode) (l : List Item) (k : Nat) : (s.sendTo p c l k).mem = s.mem := rfl
@[simp] theorem State.sendTo_fab (p : Session → Bool) (c : EvCode) (l : List Item) (k : Nat) : (s.sendTo p c l k).fab = s.fab := rfl
@[simp] theorem State.sendTo_kol (p : Session → Bool) (c : EvCode) (l : List Item) (k : Nat) : (s.sendTo p c l k).kol = s.kol := rfl
@[simp] theorem State.sendTo_eth (p : Session → Bool) (c : EvCode) (l : List Item) (k : Nat) : (s.sendTo p c l k).eth = s.eth := rfl
@[simp] theorem State.sendTo_glb (p : Session → Bool) (c : EvCode) (l : List Item) (k : Nat) : (s.sendTo p c l k).glb = s.glb := rfl

/-! ### updPort -/

@[simp] theorem State.updPort_pending (p : Nat) (f : KPort → KPort) : (s.updPort p f).pending = s.pending := rfl
@[simp] theorem State.updPort_part (p : Nat) (f : KPort → KPort) : (s.updPort p f).part = s.part := rfl
@[simp] theorem State.updPort_time (p : Nat) (f : KPort → KPort) : (s.updPort p f).time = s.time := rfl
@[simp] theorem State.updPort_pwr (p : Nat) (f : KPort → KPort) : (s.updPort p f).pwr = s.pwr := rfl
@[simp] theorem State.updPort_host (p : Nat) (f : KPort → KPort) : (s.updPort p f).host = s.host := rfl
@[simp] theorem State.updPort_set (p : Nat) (f : KPort → KPort) : (s.updPort p f).set = s.set := rfl
@[simp] theorem State.updPort_fw (p : Nat) (f : KPort → KPort) : (s.updPort p f).fw = s.fw := rfl
@[simp] theorem State.updPort_sec (p : Nat) (f : KPort → KPort) : (s.updPort p f).sec = s.sec := rfl
@[simp] theorem State.updPort_regions (p : Nat) (f : KPort → KPort) : (s.updPort p f).regions = s.regions := rfl
@[simp] theorem State.updPort_cores (p : Nat) (f : KPort → KPort) : (s.updPort p f).cores = s.cores := rfl
@[simp] theorem State.updPort_mem (p : Nat) (f : KPort → KPort) : (s.updPort p f).mem = s.mem := rfl
@[simp] theorem State.updPort_fab (p : Nat) (f : KPort → KPort) : (s.updPort p f).fab = s.fab := rfl
@[simp] theorem State.updPort_eth (p : Nat) (f : KPort → KPort) : (s.updPort p f).eth = s.eth := rfl
@[simp] theorem State.updPort_glb (p : Nat) (f : KPort → KPort) : (s.updPort p f).glb = s.glb := rfl

/-! ### putSignal -/

@[simp] theorem State.putSignal_pending (g : Signal) : (s.putSignal g).pending = s.pending := rfl
@[simp] theorem State.putSignal_part (g : Signal) : (s.putSignal g).part = s.part := rfl
@[simp] theorem State.putSignal_time (g : Signal) : (s.putSignal g).time = s.time := rfl
@[simp] theorem State.putSignal_pwr (g : Signal) : (s.putSignal g).pwr = s.pwr := rfl
@[simp] theorem State.putSignal_host (g : Signal) : (s.putSignal g).host = s.host := rfl
@[simp] theorem State.putSignal_set (g : Signal) : (s.putSignal g).set = s.set := rfl
@[simp] theorem State.putSignal_fw (g : Signal) : (s.putSignal g).fw = s.fw := rfl
@[simp] theorem State.putSignal_sec (g : Signal) : (s.putSignal g).sec = s.sec := rfl
@[simp] theorem State.putSignal_regions (g : Signal) : (s.putSignal g).regions = s.regions := rfl
@[simp] theorem State.putSignal_cores (g : Signal) : (s.putSignal g).cores = s.cores := rfl
@[simp] theorem State.putSignal_mem (g : Signal) : (s.putSignal g).mem = s.mem := rfl
@[simp] theorem State.putSignal_kol (g : Signal) : (s.putSignal g).kol = s.kol := rfl
@[simp] theorem State.putSignal_eth (g : Signal) : (s.putSignal g).eth = s.eth := rfl
@[simp] theorem State.putSignal_glb (g : Signal) : (s.putSignal g).glb = s.glb := rfl

/-! ### replyAt -/

@[simp] theorem State.replyAt_pending (n : Nat) (o : Out) : (s.replyAt n o).pending = s.pending := rfl
@[simp] theorem State.replyAt_part (n : Nat) (o : Out) : (s.replyAt n o).part = s.part := rfl
@[simp] theorem State.replyAt_time (n : Nat) (o : Out) : (s.replyAt n o).time = s.time := rfl
@[simp] theorem State.replyAt_pwr (n : Nat) (o : Out) : (s.replyAt n o).pwr = s.pwr := rfl
@[simp] theorem State.replyAt_set (n : Nat) (o : Out) : (s.replyAt n o).set = s.set := rfl
@[simp] theorem State.replyAt_fw (n : Nat) (o : Out) : (s.replyAt n o).fw = s.fw := rfl
@[simp] theorem State.replyAt_sec (n : Nat) (o : Out) : (s.replyAt n o).sec = s.sec := rfl
@[simp] theorem State.replyAt_regions (n : Nat) (o : Out) : (s.replyAt n o).regions = s.regions := rfl
@[simp] theorem State.replyAt_cores (n : Nat) (o : Out) : (s.replyAt n o).cores = s.cores := rfl
@[simp] theorem State.replyAt_mem (n : Nat) (o : Out) : (s.replyAt n o).mem = s.mem := rfl
@[simp] theorem State.replyAt_fab (n : Nat) (o : Out) : (s.replyAt n o).fab = s.fab := rfl
@[simp] theorem State.replyAt_kol (n : Nat) (o : Out) : (s.replyAt n o).kol = s.kol := rfl
@[simp] theorem State.replyAt_eth (n : Nat) (o : Out) : (s.replyAt n o).eth = s.eth := rfl
@[simp] theorem State.replyAt_glb (n : Nat) (o : Out) : (s.replyAt n o).glb = s.glb := rfl

/-! ### updSession -/

@[simp] theorem State.updSession_pending (n : Nat) (f : Session → Session) : (s.updSession n f).pending = s.pending := rfl
@[simp] theorem State.updSession_part (n : Nat) (f : Session → Session) : (s.updSession n f).part = s.part := rfl
@[simp] theorem State.updSession_time (n : Nat) (f : Session → Session) : (s.updSession n f).time = s.time := rfl
@[simp] theorem State.updSession_pwr (n : Nat) (f : Session → Session) : (s.updSession n f).pwr = s.pwr := rfl
@[simp] theorem State.updSession_set (n : Nat) (f : Session → Session) : (s.updSession n f).set = s.set := rfl
@[simp] theorem State.updSession_fw (n : Nat) (f : Session → Session) : (s.updSession n f).fw = s.fw := rfl
@[simp] theorem State.updSession_sec (n : Nat) (f : Session → Session) : (s.updSession n f).sec = s.sec := rfl
@[simp] theorem State.updSession_regions (n : Nat) (f : Session → Session) : (s.updSession n f).regions = s.regions := rfl
@[simp] theorem State.updSession_cores (n : Nat) (f : Session → Session) : (s.updSession n f).cores = s.cores := rfl
@[simp] theorem State.updSession_mem (n : Nat) (f : Session → Session) : (s.updSession n f).mem = s.mem := rfl
@[simp] theorem State.updSession_fab (n : Nat) (f : Session → Session) : (s.updSession n f).fab = s.fab := rfl
@[simp] theorem State.updSession_kol (n : Nat) (f : Session → Session) : (s.updSession n f).kol = s.kol := rfl
@[simp] theorem State.updSession_eth (n : Nat) (f : Session → Session) : (s.updSession n f).eth = s.eth := rfl
@[simp] theorem State.updSession_glb (n : Nat) (f : Session → Session) : (s.updSession n f).glb = s.glb := rfl

/-! ### updStream -/

@[simp] theorem State.updStream_pending (a n : Nat) (f : Stream → Stream) : (s.updStream a n f).pending = s.pending := rfl
@[simp] theorem State.updStream_part (a n : Nat) (f : Stream → Stream) : (s.updStream a n f).part = s.part := rfl
@[simp] theorem State.updStream_time (a n : Nat) (f : Stream → Stream) : (s.updStream a n f).time = s.time := rfl
@[simp] theorem State.updStream_pwr (a n : Nat) (f : Stream → Stream) : (s.updStream a n f).pwr = s.pwr := rfl
@[simp] theorem State.updStream_set (a n : Nat) (f : Stream → Stream) : (s.updStream a n f).set = s.set := rfl
@[simp] theorem State.updStream_fw (a n : Nat) (f : Stream → Stream) : (s.updStream a n f).fw = s.fw := rfl
@[simp] theorem State.updStream_sec (a n : Nat) (f : Stream → Stream) : (s.updStream a n f).sec = s.sec := rfl
@[simp] theorem State.updStream_regions (a n : Nat) (f : Stream → Stream) : (s.updStream a n f).regions = s.regions := rfl
@[simp] theorem State.updStream_cores (a n : Nat) (f : Stream → Stream) : (s.updStream a n f).cores = s.cores := rfl
@[simp] theorem State.updStream_mem (a n : Nat) (f : Stream → Stream) : (s.updStream a n f).mem = s.mem := rfl
@[simp] theorem State.updStream_fab (a n : Nat) (f : Stream → Stream) : (s.updStream a n f).fab = s.fab := rfl
@[simp] theorem State.updStream_kol (a n : Nat) (f : Stream → Stream) : (s.updStream a n f).kol = s.kol := rfl
@[simp] theorem State.updStream_eth (a n : Nat) (f : Stream → Stream) : (s.updStream a n f).eth = s.eth := rfl
@[simp] theorem State.updStream_glb (a n : Nat) (f : Stream → Stream) : (s.updStream a n f).glb = s.glb := rfl

/-! ### updEth -/

@[simp] theorem State.updEth_pending (p : Nat) (f : EPort → EPort) : (s.updEth p f).pending = s.pending := rfl
@[simp] theorem State.updEth_part (p : Nat) (f : EPort → EPort) : (s.updEth p f).part = s.part := rfl
@[simp] theorem State.updEth_time (p : Nat) (f : EPort → EPort) : (s.updEth p f).time = s.time := rfl
@[simp] theorem State.updEth_pwr (p : Nat) (f : EPort → EPort) : (s.updEth p f).pwr = s.pwr := rfl
@[simp] theorem State.updEth_host (p : Nat) (f : EPort → EPort) : (s.updEth p f).host = s.host := rfl
@[simp] theorem State.updEth_set (p : Nat) (f : EPort → EPort) : (s.updEth p f).set = s.set := rfl
@[simp] theorem State.updEth_fw (p : Nat) (f : EPort → EPort) : (s.updEth p f).fw = s.fw := rfl
@[simp] theorem State.updEth_sec (p : Nat) (f : EPort → EPort) : (s.updEth p f).sec = s.sec := rfl
@[simp] theorem State.updEth_regions (p : Nat) (f : EPort → EPort) : (s.updEth p f).regions = s.regions := rfl
@[simp] theorem State.updEth_cores (p : Nat) (f : EPort → EPort) : (s.updEth p f).cores = s.cores := rfl
@[simp] theorem State.updEth_mem (p : Nat) (f : EPort → EPort) : (s.updEth p f).mem = s.mem := rfl
@[simp] theorem State.updEth_fab (p : Nat) (f : EPort → EPort) : (s.updEth p f).fab = s.fab := rfl
@[simp] theorem State.updEth_kol (p : Nat) (f : EPort → EPort) : (s.updEth p f).kol = s.kol := rfl
@[simp] theorem State.updEth_glb (p : Nat) (f : EPort → EPort) : (s.updEth p f).glb = s.glb := rfl

/-! ### updPark -/

@[simp] theorem State.updPark_pending (u : ParkUnit) (f : ParkEntry → ParkEntry) : (s.updPark u f).pending = s.pending := rfl
@[simp] theorem State.updPark_part (u : ParkUnit) (f : ParkEntry → ParkEntry) : (s.updPark u f).part = s.part := rfl
@[simp] theorem State.updPark_time (u : ParkUnit) (f : ParkEntry → ParkEntry) : (s.updPark u f).time = s.time := rfl
@[simp] theorem State.updPark_pwr (u : ParkUnit) (f : ParkEntry → ParkEntry) : (s.updPark u f).pwr = s.pwr := rfl
@[simp] theorem State.updPark_host (u : ParkUnit) (f : ParkEntry → ParkEntry) : (s.updPark u f).host = s.host := rfl
@[simp] theorem State.updPark_set (u : ParkUnit) (f : ParkEntry → ParkEntry) : (s.updPark u f).set = s.set := rfl
@[simp] theorem State.updPark_fw (u : ParkUnit) (f : ParkEntry → ParkEntry) : (s.updPark u f).fw = s.fw := rfl
@[simp] theorem State.updPark_sec (u : ParkUnit) (f : ParkEntry → ParkEntry) : (s.updPark u f).sec = s.sec := rfl
@[simp] theorem State.updPark_regions (u : ParkUnit) (f : ParkEntry → ParkEntry) : (s.updPark u f).regions = s.regions := rfl
@[simp] theorem State.updPark_cores (u : ParkUnit) (f : ParkEntry → ParkEntry) : (s.updPark u f).cores = s.cores := rfl
@[simp] theorem State.updPark_fab (u : ParkUnit) (f : ParkEntry → ParkEntry) : (s.updPark u f).fab = s.fab := rfl
@[simp] theorem State.updPark_kol (u : ParkUnit) (f : ParkEntry → ParkEntry) : (s.updPark u f).kol = s.kol := rfl
@[simp] theorem State.updPark_eth (u : ParkUnit) (f : ParkEntry → ParkEntry) : (s.updPark u f).eth = s.eth := rfl
@[simp] theorem State.updPark_glb (u : ParkUnit) (f : ParkEntry → ParkEntry) : (s.updPark u f).glb = s.glb := rfl

/-! ### updBarrier -/

@[simp] theorem State.updBarrier_pending (q : Nat) (f : Barrier → Barrier) : (s.updBarrier q f).pending = s.pending := rfl
@[simp] theorem State.updBarrier_part (q : Nat) (f : Barrier → Barrier) : (s.updBarrier q f).part = s.part := rfl
@[simp] theorem State.updBarrier_time (q : Nat) (f : Barrier → Barrier) : (s.updBarrier q f).time = s.time := rfl
@[simp] theorem State.updBarrier_pwr (q : Nat) (f : Barrier → Barrier) : (s.updBarrier q f).pwr = s.pwr := rfl
@[simp] theorem State.updBarrier_host (q : Nat) (f : Barrier → Barrier) : (s.updBarrier q f).host = s.host := rfl
@[simp] theorem State.updBarrier_set (q : Nat) (f : Barrier → Barrier) : (s.updBarrier q f).set = s.set := rfl
@[simp] theorem State.updBarrier_fw (q : Nat) (f : Barrier → Barrier) : (s.updBarrier q f).fw = s.fw := rfl
@[simp] theorem State.updBarrier_sec (q : Nat) (f : Barrier → Barrier) : (s.updBarrier q f).sec = s.sec := rfl
@[simp] theorem State.updBarrier_regions (q : Nat) (f : Barrier → Barrier) : (s.updBarrier q f).regions = s.regions := rfl
@[simp] theorem State.updBarrier_cores (q : Nat) (f : Barrier → Barrier) : (s.updBarrier q f).cores = s.cores := rfl
@[simp] theorem State.updBarrier_mem (q : Nat) (f : Barrier → Barrier) : (s.updBarrier q f).mem = s.mem := rfl
@[simp] theorem State.updBarrier_kol (q : Nat) (f : Barrier → Barrier) : (s.updBarrier q f).kol = s.kol := rfl
@[simp] theorem State.updBarrier_eth (q : Nat) (f : Barrier → Barrier) : (s.updBarrier q f).eth = s.eth := rfl
@[simp] theorem State.updBarrier_glb (q : Nat) (f : Barrier → Barrier) : (s.updBarrier q f).glb = s.glb := rfl

/-! ### dropBarrier -/

@[simp] theorem State.dropBarrier_pending (q : Nat) : (s.dropBarrier q).pending = s.pending := rfl
@[simp] theorem State.dropBarrier_part (q : Nat) : (s.dropBarrier q).part = s.part := rfl
@[simp] theorem State.dropBarrier_time (q : Nat) : (s.dropBarrier q).time = s.time := rfl
@[simp] theorem State.dropBarrier_pwr (q : Nat) : (s.dropBarrier q).pwr = s.pwr := rfl
@[simp] theorem State.dropBarrier_host (q : Nat) : (s.dropBarrier q).host = s.host := rfl
@[simp] theorem State.dropBarrier_set (q : Nat) : (s.dropBarrier q).set = s.set := rfl
@[simp] theorem State.dropBarrier_fw (q : Nat) : (s.dropBarrier q).fw = s.fw := rfl
@[simp] theorem State.dropBarrier_sec (q : Nat) : (s.dropBarrier q).sec = s.sec := rfl
@[simp] theorem State.dropBarrier_regions (q : Nat) : (s.dropBarrier q).regions = s.regions := rfl
@[simp] theorem State.dropBarrier_cores (q : Nat) : (s.dropBarrier q).cores = s.cores := rfl
@[simp] theorem State.dropBarrier_mem (q : Nat) : (s.dropBarrier q).mem = s.mem := rfl
@[simp] theorem State.dropBarrier_kol (q : Nat) : (s.dropBarrier q).kol = s.kol := rfl
@[simp] theorem State.dropBarrier_eth (q : Nat) : (s.dropBarrier q).eth = s.eth := rfl
@[simp] theorem State.dropBarrier_glb (q : Nat) : (s.dropBarrier q).glb = s.glb := rfl

/-! ### passTime -/

@[simp] theorem State.passTime_pending (n : Nat) : (s.passTime n).pending = s.pending := rfl
@[simp] theorem State.passTime_part (n : Nat) : (s.passTime n).part = s.part := rfl
@[simp] theorem State.passTime_pwr (n : Nat) : (s.passTime n).pwr = s.pwr := rfl
@[simp] theorem State.passTime_host (n : Nat) : (s.passTime n).host = s.host := rfl
@[simp] theorem State.passTime_set (n : Nat) : (s.passTime n).set = s.set := rfl
@[simp] theorem State.passTime_fw (n : Nat) : (s.passTime n).fw = s.fw := rfl
@[simp] theorem State.passTime_sec (n : Nat) : (s.passTime n).sec = s.sec := rfl
@[simp] theorem State.passTime_regions (n : Nat) : (s.passTime n).regions = s.regions := rfl
@[simp] theorem State.passTime_cores (n : Nat) : (s.passTime n).cores = s.cores := rfl
@[simp] theorem State.passTime_mem (n : Nat) : (s.passTime n).mem = s.mem := rfl
@[simp] theorem State.passTime_fab (n : Nat) : (s.passTime n).fab = s.fab := rfl
@[simp] theorem State.passTime_kol (n : Nat) : (s.passTime n).kol = s.kol := rfl
@[simp] theorem State.passTime_eth (n : Nat) : (s.passTime n).eth = s.eth := rfl

/-! ### closeSession -/

@[simp] theorem State.closeSession_pending (n : Nat) : (s.closeSession n).pending = s.pending := rfl
@[simp] theorem State.closeSession_part (n : Nat) : (s.closeSession n).part = s.part := rfl
@[simp] theorem State.closeSession_time (n : Nat) : (s.closeSession n).time = s.time := rfl
@[simp] theorem State.closeSession_pwr (n : Nat) : (s.closeSession n).pwr = s.pwr := rfl
@[simp] theorem State.closeSession_set (n : Nat) : (s.closeSession n).set = s.set := rfl
@[simp] theorem State.closeSession_fw (n : Nat) : (s.closeSession n).fw = s.fw := rfl
@[simp] theorem State.closeSession_sec (n : Nat) : (s.closeSession n).sec = s.sec := rfl
@[simp] theorem State.closeSession_regions (n : Nat) : (s.closeSession n).regions = s.regions := rfl
@[simp] theorem State.closeSession_cores (n : Nat) : (s.closeSession n).cores = s.cores := rfl
@[simp] theorem State.closeSession_mem (n : Nat) : (s.closeSession n).mem = s.mem := rfl
@[simp] theorem State.closeSession_fab (n : Nat) : (s.closeSession n).fab = s.fab := rfl
@[simp] theorem State.closeSession_kol (n : Nat) : (s.closeSession n).kol = s.kol := rfl
@[simp] theorem State.closeSession_eth (n : Nat) : (s.closeSession n).eth = s.eth := rfl
@[simp] theorem State.closeSession_glb (n : Nat) : (s.closeSession n).glb = s.glb := rfl

/-! ### heard -/

@[simp] theorem State.heard_pending (p a : Nat) : (s.heard p a).pending = s.pending := rfl
@[simp] theorem State.heard_part (p a : Nat) : (s.heard p a).part = s.part := rfl
@[simp] theorem State.heard_time (p a : Nat) : (s.heard p a).time = s.time := rfl
@[simp] theorem State.heard_pwr (p a : Nat) : (s.heard p a).pwr = s.pwr := rfl
@[simp] theorem State.heard_set (p a : Nat) : (s.heard p a).set = s.set := rfl
@[simp] theorem State.heard_fw (p a : Nat) : (s.heard p a).fw = s.fw := rfl
@[simp] theorem State.heard_sec (p a : Nat) : (s.heard p a).sec = s.sec := rfl
@[simp] theorem State.heard_regions (p a : Nat) : (s.heard p a).regions = s.regions := rfl
@[simp] theorem State.heard_cores (p a : Nat) : (s.heard p a).cores = s.cores := rfl
@[simp] theorem State.heard_mem (p a : Nat) : (s.heard p a).mem = s.mem := rfl
@[simp] theorem State.heard_fab (p a : Nat) : (s.heard p a).fab = s.fab := rfl
@[simp] theorem State.heard_kol (p a : Nat) : (s.heard p a).kol = s.kol := rfl
@[simp] theorem State.heard_eth (p a : Nat) : (s.heard p a).eth = s.eth := rfl
@[simp] theorem State.heard_glb (p a : Nat) : (s.heard p a).glb = s.glb := rfl

/-! ### updJob -/

@[simp] theorem State.updJob_pending (k : Nat) (f : Job → Job) : (s.updJob k f).pending = s.pending := rfl
@[simp] theorem State.updJob_part (k : Nat) (f : Job → Job) : (s.updJob k f).part = s.part := rfl
@[simp] theorem State.updJob_time (k : Nat) (f : Job → Job) : (s.updJob k f).time = s.time := rfl
@[simp] theorem State.updJob_pwr (k : Nat) (f : Job → Job) : (s.updJob k f).pwr = s.pwr := rfl
@[simp] theorem State.updJob_host (k : Nat) (f : Job → Job) : (s.updJob k f).host = s.host := rfl
@[simp] theorem State.updJob_set (k : Nat) (f : Job → Job) : (s.updJob k f).set = s.set := rfl
@[simp] theorem State.updJob_fw (k : Nat) (f : Job → Job) : (s.updJob k f).fw = s.fw := rfl
@[simp] theorem State.updJob_sec (k : Nat) (f : Job → Job) : (s.updJob k f).sec = s.sec := rfl
@[simp] theorem State.updJob_regions (k : Nat) (f : Job → Job) : (s.updJob k f).regions = s.regions := rfl
@[simp] theorem State.updJob_cores (k : Nat) (f : Job → Job) : (s.updJob k f).cores = s.cores := rfl
@[simp] theorem State.updJob_mem (k : Nat) (f : Job → Job) : (s.updJob k f).mem = s.mem := rfl
@[simp] theorem State.updJob_kol (k : Nat) (f : Job → Job) : (s.updJob k f).kol = s.kol := rfl
@[simp] theorem State.updJob_eth (k : Nat) (f : Job → Job) : (s.updJob k f).eth = s.eth := rfl
@[simp] theorem State.updJob_glb (k : Nat) (f : Job → Job) : (s.updJob k f).glb = s.glb := rfl

/-! ### nextStamp -/

@[simp] theorem State.nextStamp_pending : (s.nextStamp).pending = s.pending := rfl
@[simp] theorem State.nextStamp_part : (s.nextStamp).part = s.part := rfl
@[simp] theorem State.nextStamp_time : (s.nextStamp).time = s.time := rfl
@[simp] theorem State.nextStamp_pwr : (s.nextStamp).pwr = s.pwr := rfl
@[simp] theorem State.nextStamp_host : (s.nextStamp).host = s.host := rfl
@[simp] theorem State.nextStamp_set : (s.nextStamp).set = s.set := rfl
@[simp] theorem State.nextStamp_fw : (s.nextStamp).fw = s.fw := rfl
@[simp] theorem State.nextStamp_sec : (s.nextStamp).sec = s.sec := rfl
@[simp] theorem State.nextStamp_regions : (s.nextStamp).regions = s.regions := rfl
@[simp] theorem State.nextStamp_cores : (s.nextStamp).cores = s.cores := rfl
@[simp] theorem State.nextStamp_mem : (s.nextStamp).mem = s.mem := rfl
@[simp] theorem State.nextStamp_kol : (s.nextStamp).kol = s.kol := rfl
@[simp] theorem State.nextStamp_eth : (s.nextStamp).eth = s.eth := rfl
@[simp] theorem State.nextStamp_glb : (s.nextStamp).glb = s.glb := rfl

/-! ### addTally -/

@[simp] theorem State.addTally_pending (l t n k : Nat) (w : Option Slot) (b : Nat) : (s.addTally l t n k w b).pending = s.pending := rfl
@[simp] theorem State.addTally_part (l t n k : Nat) (w : Option Slot) (b : Nat) : (s.addTally l t n k w b).part = s.part := rfl
@[simp] theorem State.addTally_time (l t n k : Nat) (w : Option Slot) (b : Nat) : (s.addTally l t n k w b).time = s.time := rfl
@[simp] theorem State.addTally_pwr (l t n k : Nat) (w : Option Slot) (b : Nat) : (s.addTally l t n k w b).pwr = s.pwr := rfl
@[simp] theorem State.addTally_host (l t n k : Nat) (w : Option Slot) (b : Nat) : (s.addTally l t n k w b).host = s.host := rfl
@[simp] theorem State.addTally_set (l t n k : Nat) (w : Option Slot) (b : Nat) : (s.addTally l t n k w b).set = s.set := rfl
@[simp] theorem State.addTally_fw (l t n k : Nat) (w : Option Slot) (b : Nat) : (s.addTally l t n k w b).fw = s.fw := rfl
@[simp] theorem State.addTally_sec (l t n k : Nat) (w : Option Slot) (b : Nat) : (s.addTally l t n k w b).sec = s.sec := rfl
@[simp] theorem State.addTally_regions (l t n k : Nat) (w : Option Slot) (b : Nat) : (s.addTally l t n k w b).regions = s.regions := rfl
@[simp] theorem State.addTally_mem (l t n k : Nat) (w : Option Slot) (b : Nat) : (s.addTally l t n k w b).mem = s.mem := rfl
@[simp] theorem State.addTally_fab (l t n k : Nat) (w : Option Slot) (b : Nat) : (s.addTally l t n k w b).fab = s.fab := rfl
@[simp] theorem State.addTally_kol (l t n k : Nat) (w : Option Slot) (b : Nat) : (s.addTally l t n k w b).kol = s.kol := rfl
@[simp] theorem State.addTally_eth (l t n k : Nat) (w : Option Slot) (b : Nat) : (s.addTally l t n k w b).eth = s.eth := rfl
@[simp] theorem State.addTally_glb (l t n k : Nat) (w : Option Slot) (b : Nat) : (s.addTally l t n k w b).glb = s.glb := rfl

variable (c : CoreSt)

/-! ### setCounter -/

@[simp] theorem CoreSt.setCounter_lcore (k v : Nat) : (c.setCounter k v).lcore = c.lcore := rfl
@[simp] theorem CoreSt.setCounter_region (k v : Nat) : (c.setCounter k v).region = c.region := rfl
@[simp] theorem CoreSt.setCounter_phys (k v : Nat) : (c.setCounter k v).phys = c.phys := rfl
@[simp] theorem CoreSt.setCounter_run (k v : Nat) : (c.setCounter k v).run = c.run := rfl
@[simp] theorem CoreSt.setCounter_pc (k v : Nat) : (c.setCounter k v).pc = c.pc := rfl
@[simp] theorem CoreSt.setCounter_step (k v : Nat) : (c.setCounter k v).step = c.step := rfl
@[simp] theorem CoreSt.setCounter_begun (k v : Nat) : (c.setCounter k v).begun = c.begun := rfl
@[simp] theorem CoreSt.setCounter_preds (k v : Nat) : (c.setCounter k v).preds = c.preds := rfl
@[simp] theorem CoreSt.setCounter_vl (k v : Nat) : (c.setCounter k v).vl = c.vl := rfl
@[simp] theorem CoreSt.setCounter_loops (k v : Nat) : (c.setCounter k v).loops = c.loops := rfl
@[simp] theorem CoreSt.setCounter_tallies (k v : Nat) : (c.setCounter k v).tallies = c.tallies := rfl
@[simp] theorem CoreSt.setCounter_taken (k v : Nat) : (c.setCounter k v).taken = c.taken := rfl
@[simp] theorem CoreSt.setCounter_fresh (k v : Nat) : (c.setCounter k v).fresh = c.fresh := rfl
@[simp] theorem CoreSt.setCounter_due (k v : Nat) : (c.setCounter k v).due = c.due := rfl
@[simp] theorem CoreSt.setCounter_desc (k v : Nat) : (c.setCounter k v).desc = c.desc := rfl
@[simp] theorem CoreSt.setCounter_imem (k v : Nat) : (c.setCounter k v).imem = c.imem := rfl
@[simp] theorem CoreSt.setCounter_spad (k v : Nat) : (c.setCounter k v).spad = c.spad := rfl
@[simp] theorem CoreSt.setCounter_acc (k v : Nat) : (c.setCounter k v).acc = c.acc := rfl
@[simp] theorem CoreSt.setCounter_rings (k v : Nat) : (c.setCounter k v).rings = c.rings := rfl
@[simp] theorem CoreSt.setCounter_queues (k v : Nat) : (c.setCounter k v).queues = c.queues := rfl

/-! ### takeTally -/

@[simp] theorem CoreSt.takeTally_lcore (t n : Nat) : (c.takeTally t n).lcore = c.lcore := rfl
@[simp] theorem CoreSt.takeTally_region (t n : Nat) : (c.takeTally t n).region = c.region := rfl
@[simp] theorem CoreSt.takeTally_phys (t n : Nat) : (c.takeTally t n).phys = c.phys := rfl
@[simp] theorem CoreSt.takeTally_run (t n : Nat) : (c.takeTally t n).run = c.run := rfl
@[simp] theorem CoreSt.takeTally_pc (t n : Nat) : (c.takeTally t n).pc = c.pc := rfl
@[simp] theorem CoreSt.takeTally_step (t n : Nat) : (c.takeTally t n).step = c.step := rfl
@[simp] theorem CoreSt.takeTally_begun (t n : Nat) : (c.takeTally t n).begun = c.begun := rfl
@[simp] theorem CoreSt.takeTally_counters (t n : Nat) : (c.takeTally t n).counters = c.counters := rfl
@[simp] theorem CoreSt.takeTally_preds (t n : Nat) : (c.takeTally t n).preds = c.preds := rfl
@[simp] theorem CoreSt.takeTally_vl (t n : Nat) : (c.takeTally t n).vl = c.vl := rfl
@[simp] theorem CoreSt.takeTally_loops (t n : Nat) : (c.takeTally t n).loops = c.loops := rfl
@[simp] theorem CoreSt.takeTally_tallies (t n : Nat) : (c.takeTally t n).tallies = c.tallies := rfl
@[simp] theorem CoreSt.takeTally_fresh (t n : Nat) : (c.takeTally t n).fresh = c.fresh := rfl
@[simp] theorem CoreSt.takeTally_due (t n : Nat) : (c.takeTally t n).due = c.due := rfl
@[simp] theorem CoreSt.takeTally_desc (t n : Nat) : (c.takeTally t n).desc = c.desc := rfl
@[simp] theorem CoreSt.takeTally_imem (t n : Nat) : (c.takeTally t n).imem = c.imem := rfl
@[simp] theorem CoreSt.takeTally_spad (t n : Nat) : (c.takeTally t n).spad = c.spad := rfl
@[simp] theorem CoreSt.takeTally_acc (t n : Nat) : (c.takeTally t n).acc = c.acc := rfl
@[simp] theorem CoreSt.takeTally_rings (t n : Nat) : (c.takeTally t n).rings = c.rings := rfl
@[simp] theorem CoreSt.takeTally_queues (t n : Nat) : (c.takeTally t n).queues = c.queues := rfl

/-! ### giveTally -/

@[simp] theorem CoreSt.giveTally_lcore (a : TallyAdd) : (c.giveTally a).lcore = c.lcore := rfl
@[simp] theorem CoreSt.giveTally_region (a : TallyAdd) : (c.giveTally a).region = c.region := rfl
@[simp] theorem CoreSt.giveTally_phys (a : TallyAdd) : (c.giveTally a).phys = c.phys := rfl
@[simp] theorem CoreSt.giveTally_run (a : TallyAdd) : (c.giveTally a).run = c.run := rfl
@[simp] theorem CoreSt.giveTally_pc (a : TallyAdd) : (c.giveTally a).pc = c.pc := rfl
@[simp] theorem CoreSt.giveTally_step (a : TallyAdd) : (c.giveTally a).step = c.step := rfl
@[simp] theorem CoreSt.giveTally_begun (a : TallyAdd) : (c.giveTally a).begun = c.begun := rfl
@[simp] theorem CoreSt.giveTally_counters (a : TallyAdd) : (c.giveTally a).counters = c.counters := rfl
@[simp] theorem CoreSt.giveTally_preds (a : TallyAdd) : (c.giveTally a).preds = c.preds := rfl
@[simp] theorem CoreSt.giveTally_vl (a : TallyAdd) : (c.giveTally a).vl = c.vl := rfl
@[simp] theorem CoreSt.giveTally_loops (a : TallyAdd) : (c.giveTally a).loops = c.loops := rfl
@[simp] theorem CoreSt.giveTally_tallies (a : TallyAdd) : (c.giveTally a).tallies = c.tallies := rfl
@[simp] theorem CoreSt.giveTally_taken (a : TallyAdd) : (c.giveTally a).taken = c.taken := rfl
@[simp] theorem CoreSt.giveTally_due (a : TallyAdd) : (c.giveTally a).due = c.due := rfl
@[simp] theorem CoreSt.giveTally_desc (a : TallyAdd) : (c.giveTally a).desc = c.desc := rfl
@[simp] theorem CoreSt.giveTally_imem (a : TallyAdd) : (c.giveTally a).imem = c.imem := rfl
@[simp] theorem CoreSt.giveTally_spad (a : TallyAdd) : (c.giveTally a).spad = c.spad := rfl
@[simp] theorem CoreSt.giveTally_acc (a : TallyAdd) : (c.giveTally a).acc = c.acc := rfl
@[simp] theorem CoreSt.giveTally_rings (a : TallyAdd) : (c.giveTally a).rings = c.rings := rfl
@[simp] theorem CoreSt.giveTally_queues (a : TallyAdd) : (c.giveTally a).queues = c.queues := rfl

/-! ### addSlip -/

@[simp] theorem CoreSt.addSlip_lcore (n : Nat) : (c.addSlip n).lcore = c.lcore := rfl
@[simp] theorem CoreSt.addSlip_region (n : Nat) : (c.addSlip n).region = c.region := rfl
@[simp] theorem CoreSt.addSlip_phys (n : Nat) : (c.addSlip n).phys = c.phys := rfl
@[simp] theorem CoreSt.addSlip_run (n : Nat) : (c.addSlip n).run = c.run := rfl
@[simp] theorem CoreSt.addSlip_pc (n : Nat) : (c.addSlip n).pc = c.pc := rfl
@[simp] theorem CoreSt.addSlip_step (n : Nat) : (c.addSlip n).step = c.step := rfl
@[simp] theorem CoreSt.addSlip_begun (n : Nat) : (c.addSlip n).begun = c.begun := rfl
@[simp] theorem CoreSt.addSlip_counters (n : Nat) : (c.addSlip n).counters = c.counters := rfl
@[simp] theorem CoreSt.addSlip_preds (n : Nat) : (c.addSlip n).preds = c.preds := rfl
@[simp] theorem CoreSt.addSlip_vl (n : Nat) : (c.addSlip n).vl = c.vl := rfl
@[simp] theorem CoreSt.addSlip_loops (n : Nat) : (c.addSlip n).loops = c.loops := rfl
@[simp] theorem CoreSt.addSlip_tallies (n : Nat) : (c.addSlip n).tallies = c.tallies := rfl
@[simp] theorem CoreSt.addSlip_taken (n : Nat) : (c.addSlip n).taken = c.taken := rfl
@[simp] theorem CoreSt.addSlip_fresh (n : Nat) : (c.addSlip n).fresh = c.fresh := rfl
@[simp] theorem CoreSt.addSlip_due (n : Nat) : (c.addSlip n).due = c.due := rfl
@[simp] theorem CoreSt.addSlip_desc (n : Nat) : (c.addSlip n).desc = c.desc := rfl
@[simp] theorem CoreSt.addSlip_imem (n : Nat) : (c.addSlip n).imem = c.imem := rfl
@[simp] theorem CoreSt.addSlip_spad (n : Nat) : (c.addSlip n).spad = c.spad := rfl
@[simp] theorem CoreSt.addSlip_acc (n : Nat) : (c.addSlip n).acc = c.acc := rfl
@[simp] theorem CoreSt.addSlip_rings (n : Nat) : (c.addSlip n).rings = c.rings := rfl
@[simp] theorem CoreSt.addSlip_queues (n : Nat) : (c.addSlip n).queues = c.queues := rfl

/-! ### updQueue -/

@[simp] theorem CoreSt.updQueue_lcore (q : Nat) (f : Queue → Queue) : (c.updQueue q f).lcore = c.lcore := rfl
@[simp] theorem CoreSt.updQueue_region (q : Nat) (f : Queue → Queue) : (c.updQueue q f).region = c.region := rfl
@[simp] theorem CoreSt.updQueue_phys (q : Nat) (f : Queue → Queue) : (c.updQueue q f).phys = c.phys := rfl
@[simp] theorem CoreSt.updQueue_run (q : Nat) (f : Queue → Queue) : (c.updQueue q f).run = c.run := rfl
@[simp] theorem CoreSt.updQueue_pc (q : Nat) (f : Queue → Queue) : (c.updQueue q f).pc = c.pc := rfl
@[simp] theorem CoreSt.updQueue_step (q : Nat) (f : Queue → Queue) : (c.updQueue q f).step = c.step := rfl
@[simp] theorem CoreSt.updQueue_begun (q : Nat) (f : Queue → Queue) : (c.updQueue q f).begun = c.begun := rfl
@[simp] theorem CoreSt.updQueue_counters (q : Nat) (f : Queue → Queue) : (c.updQueue q f).counters = c.counters := rfl
@[simp] theorem CoreSt.updQueue_preds (q : Nat) (f : Queue → Queue) : (c.updQueue q f).preds = c.preds := rfl
@[simp] theorem CoreSt.updQueue_vl (q : Nat) (f : Queue → Queue) : (c.updQueue q f).vl = c.vl := rfl
@[simp] theorem CoreSt.updQueue_loops (q : Nat) (f : Queue → Queue) : (c.updQueue q f).loops = c.loops := rfl
@[simp] theorem CoreSt.updQueue_tallies (q : Nat) (f : Queue → Queue) : (c.updQueue q f).tallies = c.tallies := rfl
@[simp] theorem CoreSt.updQueue_taken (q : Nat) (f : Queue → Queue) : (c.updQueue q f).taken = c.taken := rfl
@[simp] theorem CoreSt.updQueue_fresh (q : Nat) (f : Queue → Queue) : (c.updQueue q f).fresh = c.fresh := rfl
@[simp] theorem CoreSt.updQueue_due (q : Nat) (f : Queue → Queue) : (c.updQueue q f).due = c.due := rfl
@[simp] theorem CoreSt.updQueue_desc (q : Nat) (f : Queue → Queue) : (c.updQueue q f).desc = c.desc := rfl
@[simp] theorem CoreSt.updQueue_imem (q : Nat) (f : Queue → Queue) : (c.updQueue q f).imem = c.imem := rfl
@[simp] theorem CoreSt.updQueue_spad (q : Nat) (f : Queue → Queue) : (c.updQueue q f).spad = c.spad := rfl
@[simp] theorem CoreSt.updQueue_acc (q : Nat) (f : Queue → Queue) : (c.updQueue q f).acc = c.acc := rfl
@[simp] theorem CoreSt.updQueue_rings (q : Nat) (f : Queue → Queue) : (c.updQueue q f).rings = c.rings := rfl

/-! ### updRing -/

@[simp] theorem CoreSt.updRing_lcore (k : Nat) (f : Ring → Ring) : (c.updRing k f).lcore = c.lcore := rfl
@[simp] theorem CoreSt.updRing_region (k : Nat) (f : Ring → Ring) : (c.updRing k f).region = c.region := rfl
@[simp] theorem CoreSt.updRing_phys (k : Nat) (f : Ring → Ring) : (c.updRing k f).phys = c.phys := rfl
@[simp] theorem CoreSt.updRing_run (k : Nat) (f : Ring → Ring) : (c.updRing k f).run = c.run := rfl
@[simp] theorem CoreSt.updRing_pc (k : Nat) (f : Ring → Ring) : (c.updRing k f).pc = c.pc := rfl
@[simp] theorem CoreSt.updRing_step (k : Nat) (f : Ring → Ring) : (c.updRing k f).step = c.step := rfl
@[simp] theorem CoreSt.updRing_begun (k : Nat) (f : Ring → Ring) : (c.updRing k f).begun = c.begun := rfl
@[simp] theorem CoreSt.updRing_counters (k : Nat) (f : Ring → Ring) : (c.updRing k f).counters = c.counters := rfl
@[simp] theorem CoreSt.updRing_preds (k : Nat) (f : Ring → Ring) : (c.updRing k f).preds = c.preds := rfl
@[simp] theorem CoreSt.updRing_vl (k : Nat) (f : Ring → Ring) : (c.updRing k f).vl = c.vl := rfl
@[simp] theorem CoreSt.updRing_loops (k : Nat) (f : Ring → Ring) : (c.updRing k f).loops = c.loops := rfl
@[simp] theorem CoreSt.updRing_tallies (k : Nat) (f : Ring → Ring) : (c.updRing k f).tallies = c.tallies := rfl
@[simp] theorem CoreSt.updRing_taken (k : Nat) (f : Ring → Ring) : (c.updRing k f).taken = c.taken := rfl
@[simp] theorem CoreSt.updRing_fresh (k : Nat) (f : Ring → Ring) : (c.updRing k f).fresh = c.fresh := rfl
@[simp] theorem CoreSt.updRing_due (k : Nat) (f : Ring → Ring) : (c.updRing k f).due = c.due := rfl
@[simp] theorem CoreSt.updRing_desc (k : Nat) (f : Ring → Ring) : (c.updRing k f).desc = c.desc := rfl
@[simp] theorem CoreSt.updRing_imem (k : Nat) (f : Ring → Ring) : (c.updRing k f).imem = c.imem := rfl
@[simp] theorem CoreSt.updRing_spad (k : Nat) (f : Ring → Ring) : (c.updRing k f).spad = c.spad := rfl
@[simp] theorem CoreSt.updRing_acc (k : Nat) (f : Ring → Ring) : (c.updRing k f).acc = c.acc := rfl
@[simp] theorem CoreSt.updRing_queues (k : Nat) (f : Ring → Ring) : (c.updRing k f).queues = c.queues := rfl

/-! ### flushIf -/

@[simp] theorem CoreSt.flushIf_lcore (p : CombEntry → Bool) : (c.flushIf p).lcore = c.lcore := rfl
@[simp] theorem CoreSt.flushIf_region (p : CombEntry → Bool) : (c.flushIf p).region = c.region := rfl
@[simp] theorem CoreSt.flushIf_phys (p : CombEntry → Bool) : (c.flushIf p).phys = c.phys := rfl
@[simp] theorem CoreSt.flushIf_run (p : CombEntry → Bool) : (c.flushIf p).run = c.run := rfl
@[simp] theorem CoreSt.flushIf_pc (p : CombEntry → Bool) : (c.flushIf p).pc = c.pc := rfl
@[simp] theorem CoreSt.flushIf_step (p : CombEntry → Bool) : (c.flushIf p).step = c.step := rfl
@[simp] theorem CoreSt.flushIf_begun (p : CombEntry → Bool) : (c.flushIf p).begun = c.begun := rfl
@[simp] theorem CoreSt.flushIf_counters (p : CombEntry → Bool) : (c.flushIf p).counters = c.counters := rfl
@[simp] theorem CoreSt.flushIf_preds (p : CombEntry → Bool) : (c.flushIf p).preds = c.preds := rfl
@[simp] theorem CoreSt.flushIf_vl (p : CombEntry → Bool) : (c.flushIf p).vl = c.vl := rfl
@[simp] theorem CoreSt.flushIf_loops (p : CombEntry → Bool) : (c.flushIf p).loops = c.loops := rfl
@[simp] theorem CoreSt.flushIf_tallies (p : CombEntry → Bool) : (c.flushIf p).tallies = c.tallies := rfl
@[simp] theorem CoreSt.flushIf_taken (p : CombEntry → Bool) : (c.flushIf p).taken = c.taken := rfl
@[simp] theorem CoreSt.flushIf_fresh (p : CombEntry → Bool) : (c.flushIf p).fresh = c.fresh := rfl
@[simp] theorem CoreSt.flushIf_due (p : CombEntry → Bool) : (c.flushIf p).due = c.due := rfl
@[simp] theorem CoreSt.flushIf_desc (p : CombEntry → Bool) : (c.flushIf p).desc = c.desc := rfl
@[simp] theorem CoreSt.flushIf_imem (p : CombEntry → Bool) : (c.flushIf p).imem = c.imem := rfl
@[simp] theorem CoreSt.flushIf_spad (p : CombEntry → Bool) : (c.flushIf p).spad = c.spad := rfl
@[simp] theorem CoreSt.flushIf_acc (p : CombEntry → Bool) : (c.flushIf p).acc = c.acc := rfl
@[simp] theorem CoreSt.flushIf_rings (p : CombEntry → Bool) : (c.flushIf p).rings = c.rings := rfl
@[simp] theorem CoreSt.flushIf_queues (p : CombEntry → Bool) : (c.flushIf p).queues = c.queues := rfl

/-! ### stopAt -/

@[simp] theorem CoreSt.stopAt_lcore (t : Nat) : (c.stopAt t).lcore = c.lcore := rfl
@[simp] theorem CoreSt.stopAt_region (t : Nat) : (c.stopAt t).region = c.region := rfl
@[simp] theorem CoreSt.stopAt_phys (t : Nat) : (c.stopAt t).phys = c.phys := rfl
@[simp] theorem CoreSt.stopAt_run (t : Nat) : (c.stopAt t).run = c.run := rfl
@[simp] theorem CoreSt.stopAt_pc (t : Nat) : (c.stopAt t).pc = c.pc := rfl
@[simp] theorem CoreSt.stopAt_step (t : Nat) : (c.stopAt t).step = c.step := rfl
@[simp] theorem CoreSt.stopAt_begun (t : Nat) : (c.stopAt t).begun = c.begun := rfl
@[simp] theorem CoreSt.stopAt_counters (t : Nat) : (c.stopAt t).counters = c.counters := rfl
@[simp] theorem CoreSt.stopAt_preds (t : Nat) : (c.stopAt t).preds = c.preds := rfl
@[simp] theorem CoreSt.stopAt_vl (t : Nat) : (c.stopAt t).vl = c.vl := rfl
@[simp] theorem CoreSt.stopAt_loops (t : Nat) : (c.stopAt t).loops = c.loops := rfl
@[simp] theorem CoreSt.stopAt_tallies (t : Nat) : (c.stopAt t).tallies = c.tallies := rfl
@[simp] theorem CoreSt.stopAt_taken (t : Nat) : (c.stopAt t).taken = c.taken := rfl
@[simp] theorem CoreSt.stopAt_fresh (t : Nat) : (c.stopAt t).fresh = c.fresh := rfl
@[simp] theorem CoreSt.stopAt_due (t : Nat) : (c.stopAt t).due = c.due := rfl
@[simp] theorem CoreSt.stopAt_desc (t : Nat) : (c.stopAt t).desc = c.desc := rfl
@[simp] theorem CoreSt.stopAt_imem (t : Nat) : (c.stopAt t).imem = c.imem := rfl
@[simp] theorem CoreSt.stopAt_spad (t : Nat) : (c.stopAt t).spad = c.spad := rfl
@[simp] theorem CoreSt.stopAt_acc (t : Nat) : (c.stopAt t).acc = c.acc := rfl
@[simp] theorem CoreSt.stopAt_rings (t : Nat) : (c.stopAt t).rings = c.rings := rfl
@[simp] theorem CoreSt.stopAt_queues (t : Nat) : (c.stopAt t).queues = c.queues := rfl

/-! ### stopStep -/

@[simp] theorem CoreSt.stopStep_lcore (k : Nat) : (c.stopStep k).lcore = c.lcore := rfl
@[simp] theorem CoreSt.stopStep_region (k : Nat) : (c.stopStep k).region = c.region := rfl
@[simp] theorem CoreSt.stopStep_phys (k : Nat) : (c.stopStep k).phys = c.phys := rfl
@[simp] theorem CoreSt.stopStep_run (k : Nat) : (c.stopStep k).run = c.run := rfl
@[simp] theorem CoreSt.stopStep_pc (k : Nat) : (c.stopStep k).pc = c.pc := rfl
@[simp] theorem CoreSt.stopStep_step (k : Nat) : (c.stopStep k).step = c.step := rfl
@[simp] theorem CoreSt.stopStep_begun (k : Nat) : (c.stopStep k).begun = c.begun := rfl
@[simp] theorem CoreSt.stopStep_counters (k : Nat) : (c.stopStep k).counters = c.counters := rfl
@[simp] theorem CoreSt.stopStep_preds (k : Nat) : (c.stopStep k).preds = c.preds := rfl
@[simp] theorem CoreSt.stopStep_vl (k : Nat) : (c.stopStep k).vl = c.vl := rfl
@[simp] theorem CoreSt.stopStep_loops (k : Nat) : (c.stopStep k).loops = c.loops := rfl
@[simp] theorem CoreSt.stopStep_tallies (k : Nat) : (c.stopStep k).tallies = c.tallies := rfl
@[simp] theorem CoreSt.stopStep_taken (k : Nat) : (c.stopStep k).taken = c.taken := rfl
@[simp] theorem CoreSt.stopStep_fresh (k : Nat) : (c.stopStep k).fresh = c.fresh := rfl
@[simp] theorem CoreSt.stopStep_due (k : Nat) : (c.stopStep k).due = c.due := rfl
@[simp] theorem CoreSt.stopStep_desc (k : Nat) : (c.stopStep k).desc = c.desc := rfl
@[simp] theorem CoreSt.stopStep_imem (k : Nat) : (c.stopStep k).imem = c.imem := rfl
@[simp] theorem CoreSt.stopStep_spad (k : Nat) : (c.stopStep k).spad = c.spad := rfl
@[simp] theorem CoreSt.stopStep_acc (k : Nat) : (c.stopStep k).acc = c.acc := rfl
@[simp] theorem CoreSt.stopStep_rings (k : Nat) : (c.stopStep k).rings = c.rings := rfl
@[simp] theorem CoreSt.stopStep_queues (k : Nat) : (c.stopStep k).queues = c.queues := rfl

/-! ### clearStop -/

@[simp] theorem CoreSt.clearStop_lcore : (c.clearStop).lcore = c.lcore := rfl
@[simp] theorem CoreSt.clearStop_region : (c.clearStop).region = c.region := rfl
@[simp] theorem CoreSt.clearStop_phys : (c.clearStop).phys = c.phys := rfl
@[simp] theorem CoreSt.clearStop_run : (c.clearStop).run = c.run := rfl
@[simp] theorem CoreSt.clearStop_pc : (c.clearStop).pc = c.pc := rfl
@[simp] theorem CoreSt.clearStop_step : (c.clearStop).step = c.step := rfl
@[simp] theorem CoreSt.clearStop_begun : (c.clearStop).begun = c.begun := rfl
@[simp] theorem CoreSt.clearStop_counters : (c.clearStop).counters = c.counters := rfl
@[simp] theorem CoreSt.clearStop_preds : (c.clearStop).preds = c.preds := rfl
@[simp] theorem CoreSt.clearStop_vl : (c.clearStop).vl = c.vl := rfl
@[simp] theorem CoreSt.clearStop_loops : (c.clearStop).loops = c.loops := rfl
@[simp] theorem CoreSt.clearStop_tallies : (c.clearStop).tallies = c.tallies := rfl
@[simp] theorem CoreSt.clearStop_taken : (c.clearStop).taken = c.taken := rfl
@[simp] theorem CoreSt.clearStop_fresh : (c.clearStop).fresh = c.fresh := rfl
@[simp] theorem CoreSt.clearStop_due : (c.clearStop).due = c.due := rfl
@[simp] theorem CoreSt.clearStop_desc : (c.clearStop).desc = c.desc := rfl
@[simp] theorem CoreSt.clearStop_imem : (c.clearStop).imem = c.imem := rfl
@[simp] theorem CoreSt.clearStop_spad : (c.clearStop).spad = c.spad := rfl
@[simp] theorem CoreSt.clearStop_acc : (c.clearStop).acc = c.acc := rfl
@[simp] theorem CoreSt.clearStop_rings : (c.clearStop).rings = c.rings := rfl
@[simp] theorem CoreSt.clearStop_queues : (c.clearStop).queues = c.queues := rfl

/-! ### Lookups -/

omit s c

theorem find?_map_key {α : Type} (l : List α) (key : α → Nat) (k : Nat) (f : α → α) (hf : ∀ x, key (f x) = key x) :
    (l.map fun x => if key x == k then f x else x).find? (fun x => key x == k) = (l.find? fun x => key x == k).map f := by
  induction l with
  | nil => rfl
  | cons a r ih =>
    rw [List.map_cons, List.find?_cons, List.find?_cons, ih]
    cases h : key a == k <;> simp [h, hf]

theorem find?_map_other {α : Type} (l : List α) (key : α → Nat) (k j : Nat) (f : α → α) (hf : ∀ x, key (f x) = key x)
    (hj : j ≠ k) :
    (l.map fun x => if key x == k then f x else x).find? (fun x => key x == j) = l.find? fun x => key x == j := by
  induction l with
  | nil => rfl
  | cons a r ih =>
    rw [List.map_cons, List.find?_cons, List.find?_cons, ih]
    have h' : key (if key a == k then f a else a) = key a := by split <;> simp [hf]
    rw [h']
    cases h : key a == j
    · rfl
    · have : (key a == k) = false := by
        have : key a = j := by simpa using h
        simp [this, hj]
      simp [this]

/-- The core after an update of it. -/
theorem State.core?_updCore (s : State) (l : Nat) (f : CoreSt → CoreSt) (hf : ∀ c, (f c).lcore = c.lcore) :
    (s.updCore l f).core? l = (s.core? l).map f := find?_map_key s.cores CoreSt.lcore l f hf

/-- Every other core. -/
theorem State.core?_updCore_other (s : State) {l k : Nat} (f : CoreSt → CoreSt) (hf : ∀ c, (f c).lcore = c.lcore)
    (hk : k ≠ l) : (s.updCore l f).core? k = s.core? k := find?_map_other s.cores CoreSt.lcore l k f hf hk

/-- The region after an update of it. -/
theorem State.region?_updRegion (s : State) (r : Nat) (f : Region → Region) (hf : ∀ x, (f x).num = x.num) :
    (s.updRegion r f).region? r = (s.region? r).map f := find?_map_key s.regions Region.num r f hf

/-- Every other region. -/
theorem State.region?_updRegion_other (s : State) {r k : Nat} (f : Region → Region) (hf : ∀ x, (f x).num = x.num)
    (hk : k ≠ r) : (s.updRegion r f).region? k = s.region? k := find?_map_other s.regions Region.num r k f hf hk

/-- The session after an update of it. -/
theorem State.session?_updSession (s : State) (n : Nat) (f : Session → Session) (hf : ∀ x, (f x).num = x.num) :
    (s.updSession n f).session? n = (s.session? n).map f := find?_map_key s.host.sessions Session.num n f hf

/-- A core that is found carries its number. -/
theorem State.core?_lcore {s : State} {l : Nat} {c : CoreSt} (h : s.core? l = some c) : c.lcore = l := by
  simpa using List.find?_some h

/-- A region that is found carries its number. -/
theorem State.region?_num {s : State} {r : Nat} {x : Region} (h : s.region? r = some x) : x.num = r := by
  simpa using List.find?_some h

@[simp] theorem State.updCore_core?_of_regions (s : State) (l r : Nat) (f : CoreSt → CoreSt) :
    (s.updCore l f).region? r = s.region? r := rfl

@[simp] theorem State.updRegion_core? (s : State) (l r : Nat) (f : Region → Region) :
    (s.updRegion r f).core? l = s.core? l := rfl

@[simp] theorem State.emit_core? (s : State) (o : Out) (l : Nat) : (s.emit o).core? l = s.core? l := rfl

@[simp] theorem State.emit_region? (s : State) (o : Out) (r : Nat) : (s.emit o).region? r = s.region? r := rfl

@[simp] theorem State.emit_outbox (s : State) (o : Out) : (s.emit o).host.outbox = s.host.outbox ++ [o] := rfl

end Sys2Proof.Machine
end

