-- ==== Sys2Proof/Laws/Issue.lean ====
section
/-! SUPPORT. What a ready core does with a bundle: it is presented, judged, and issues. The lemmas say it once for
`presentTo`, `queueWork`, `tryIssue`, `issueBundle` and `finish`; a row of a slot cites them. -/

namespace Sys2Proof.Machine


theorem updCore_id (s : State) (l : Nat) (f : CoreSt → CoreSt) (h : ∀ c ∈ s.cores, c.lcore = l → f c = c) :
    s.updCore l f = s := by
  have : (s.cores.map fun c => if c.lcore == l then f c else c) = s.cores := by
    conv_rhs => rw [← List.map_id s.cores]
    apply List.map_congr_left
    intro c hc
    split
    · rename_i e; exact h c hc (by simpa using e)
    · rfl
  unfold State.updCore
  rw [this]

theorem updCore_updCore (s : State) (l : Nat) (f g : CoreSt → CoreSt) (hf : ∀ c, (f c).lcore = c.lcore) :
    (s.updCore l f).updCore l g = s.updCore l fun c => g (f c) := by
  unfold State.updCore
  simp only [List.map_map]
  congr 1
  apply List.map_congr_left
  intro c _
  simp only [Function.comp]
  split
  · simp_all
  · simp_all

theorem updCore_congr (s : State) (l : Nat) (f g : CoreSt → CoreSt) (h : ∀ c ∈ s.cores, c.lcore = l → f c = g c) :
    s.updCore l f = s.updCore l g := by
  unfold State.updCore
  congr 1
  apply List.map_congr_left
  intro c hc
  split
  · rename_i e; exact h c hc (by simpa using e)
  · rfl

theorem modify_id {α : Type} (l : List α) (k : Nat) (f : α → α) (h : ∀ x ∈ l, f x = x) : l.modify k f = l := by
  induction l generalizing k with
  | nil => cases k <;> rfl
  | cons a r ih =>
    cases k with
    | zero => simp [h a (by simp)]
    | succ k => simp [ih k fun x hx => h x (List.mem_cons_of_mem _ hx)]

theorem freeIndices_settled (l : List Xfer) (h : ∀ y ∈ l, y.Settled) : freeIndices l = l := by
  cases l with
  | nil => rfl
  | cons a r =>
    have ha := h a (by simp)
    simp [freeIndices, ha.kept, ha.tagged, ha.untaken]

theorem dropDone_settled (l : List Xfer) (h : ∀ y ∈ l, y.Settled) : dropDone l = l := by
  unfold dropDone
  rw [List.filter_eq_self]
  intro a ha
  simp [(h a ha).kept]

theorem firstOpen_settled (l d : List Xfer) (h : ∀ y ∈ l, y.Settled) : firstOpen l d = none := by
  induction l generalizing d with
  | nil => rfl
  | cons a r ih =>
    have ha := h a (by simp)
    simp only [firstOpen, ha.complete, if_true]
    exact ih _ fun x hx => h x (List.mem_cons_of_mem _ hx)

theorem queue_mem_or (c : CoreSt) (q : Nat) : c.queue q ∈ c.queues ∨ (c.queue q).live = [] := by
  unfold CoreSt.queue
  rw [List.getD_eq_getElem?_getD]
  cases h : c.queues[q]? with
  | none => right; rfl
  | some y => left; simpa using List.mem_of_getElem? h

theorem queue_settled (c : CoreSt) (h : ∀ q ∈ c.queues, ∀ y ∈ q.live, y.Settled) (q : Nat) :
    ∀ y ∈ (c.queue q).live, y.Settled := by
  rcases queue_mem_or c q with h1 | h1
  · exact h _ h1
  · simp [h1]

theorem updQueue_free_settled (c : CoreSt) (h : ∀ q ∈ c.queues, ∀ y ∈ q.live, y.Settled) (q : Nat) :
    c.updQueue q Queue.free = c := by
  unfold CoreSt.updQueue updAt
  rw [modify_id]
  intro y hy
  unfold Queue.free
  rw [freeIndices_settled _ (h y hy), dropDone_settled _ (h y hy)]

theorem completeAll_settled (c : CoreSt) (h : ∀ q ∈ c.queues, ∀ y ∈ q.live, y.Settled) (n q : Nat) :
    c.completeAll n q = c := by
  induction n with
  | zero => rfl
  | succ k ih =>
    have : c.completeOne q = c := by
      unfold CoreSt.completeOne
      rw [firstOpen_settled _ _ (queue_settled c h q)]
    simp only [CoreSt.completeAll, this, ih]

/-- No condition waits: none is served. -/
theorem serveConds_none (c : CoreSt) (h : c.conds = []) : c.serveConds = c := by
  unfold CoreSt.serveConds
  rw [h]
  simp only [serveList]
  rw [← h]

theorem queueSettle_settled (c : CoreSt) (h : ∀ q ∈ c.queues, ∀ y ∈ q.live, y.Settled) (hc : c.conds = []) :
    c.queueSettle = c := by
  unfold CoreSt.queueSettle
  rw [serveConds_none c hc]
  have : ∀ l : List Nat, l.foldl (fun c q => (c.completeAll 16 q).updQueue q Queue.free) c = c := by
    intro l
    induction l with
    | nil => rfl
    | cons a r ih => simp only [List.foldl_cons, completeAll_settled c h, updQueue_free_settled c h, ih]
  exact this _


theorem core_mem {s : State} {l : Nat} {c : CoreSt} (h : s.core? l = some c) : c ∈ s.cores := List.mem_of_find?_eq_some h

theorem queueWork_settled (s : State) (l : Nat) (c : CoreSt) (ha : ∀ d ∈ s.cores, d.lcore = l → d = c)
    (hq : ∀ q ∈ c.queues, ∀ y ∈ q.live, y.Settled) (hc : c.conds = []) : s.queueWork l = s :=
  updCore_id s l _ fun d hd e => by rw [ha d hd e, queueSettle_settled c hq hc]

/-- A core to which one bundle has been given. -/
def CoreSt.given (c : CoreSt) (b : Bundle) : CoreSt := { c with waiting := [b] }

/-- A core that presents a bundle. -/
def CoreSt.shows (c : CoreSt) (b : Bundle) (cycle : Nat) : CoreSt :=
  { c with presented := some { b := b, since := cycle }, waiting := [] }

theorem present_ready {s : State} {l : Nat} {c : CoreSt} {x : Region} (hr : Ready s l c x) (b : Bundle) :
    presentTo l b s = .next ((s.updCore l fun c => c.given b).tryIssue l) := by
  have hw : (s.updCore l fun d => { d with waiting := d.waiting ++ [b] }) =
      s.updCore l fun d => d.given b :=
    updCore_congr s l _ _ fun d hd e => by rw [hr.alone d hd e, hr.waiting]; rfl
  unfold presentTo
  rw [hr.core]
  simp only [hr.runs, hr.presented, hr.waiting]
  rw [hw]
  have ht : c.nextIssue - (s.updCore l fun d => d.given b).time.cycle = 0 := by
    have := hr.time
    show c.nextIssue - s.time.cycle = 0
    omega
  rw [ht]
  have hq := queueWork_settled (s.updCore l fun d => d.given b) l (c.given b)
    (by
      intro d hd e
      simp only [State.updCore, List.mem_map] at hd
      obtain ⟨d', hd', rfl⟩ := hd
      split at e
      · rename_i e'
        have := hr.alone d' hd' (by simpa using e')
        subst this
        simp [e']
      · rename_i e'
        exact absurd e (by simpa using e'))
    hr.queues hr.conds
  simp [State.advance, hq]

/-- A bundle whose four slots are let go issues: what `tryIssue` does for a ready core. -/
theorem tryIssue_ready {s : State} {l : Nat} {c : CoreSt} {x : Region} (hr : Ready s l c x) (b : Bundle)
    (hm : b.marker = false)
    (hg : ∀ sl, ((judge (s.ctx c) (c.given b) { b := b, since := s.time.cycle }).at_ sl).holds = false) :
    (s.updCore l fun c => c.given b).tryIssue l =
      (s.updCore l fun c => c.shows b s.time.cycle).issueBundle l { b := b, since := s.time.cycle }
        (judge (s.ctx c) (c.given b) { b := b, since := s.time.cycle }) := by
  have hc1 : (s.updCore l fun d => d.given b).core? l = some (c.given b) := by
    rw [State.core?_updCore s l (fun d => d.given b) (fun _ => rfl), hr.core]; rfl
  have hctx : (s.updCore l fun d => d.given b).ctx (c.given b) = s.ctx c := rfl
  have hk : (s.ctx c).region = x := by simp [State.ctx, hr.region]
  have hcy : (s.ctx c).cycle = s.time.cycle := rfl
  unfold State.tryIssue
  rw [hc1]
  simp only [hctx, hk, Region.live, hr.phase]
  have hcand : (c.given b).candidate (s.ctx c).cycle = some { b := b, since := s.time.cycle } := by
    have h0 : ¬ (s.ctx c).cycle < c.nextIssue := by have := hr.time; rw [hcy]; omega
    simp [CoreSt.candidate, CoreSt.given, hr.presented, hcy, hr.time]
  rw [hcand]
  have hstop : (c.given b).stopsHere (s.ctx c).cycle b = false := by
    unfold CoreSt.stopsHere
    simp [CoreSt.given, hr.stopFrom, hm]
  have hj : judgedCore (s.ctx c) (c.given b) b = (c.given b) := by
    unfold judgedCore; simp [hm]
  have hsb : ¬ x.sbLimit ≤ 0 := by have := hr.sbLimit; omega
  have hwt : ¬ x.waitLimit ≤ 0 := by have := hr.waitLimit; omega
  have hany : (allSlots.any fun sl =>
      ((judge (s.ctx c) (c.given b) { b := b, since := s.time.cycle }).at_ sl).holds) = false := by
    rw [List.any_eq_false]; intro sl _; simp [hg sl]
  have hg1 : (c.given b).run = .running := hr.runs
  have hg2 : (c.given b).arrayHold = false := hr.noHold
  have hg3 : (c.given b).presented = none := hr.presented
  simp only [hstop, hj, hsb, hwt, hany, hg1, hg2, Bool.false_eq_true, if_false, bne_self_eq_false,
    Bool.or_false, Bool.not_false, beq_self_eq_true, Bool.false_and, decide_false]
  simp only [Bool.true_or, Bool.not_true, Bool.or_self, Bool.false_eq_true, if_false]
  rw [updCore_updCore s l (fun d => d.given b) _ (fun _ => rfl)]
  congr 1
  apply updCore_congr
  intro d hd e
  have hp := hr.presented
  rw [hr.alone d hd e]
  unfold CoreSt.given CoreSt.shows
  simp only [hp, Option.isNone_none, if_true, List.drop_one, List.tail_cons]

/-! ### A bundle whose slots all issue -/

/-- Four verdicts that let their slots issue. -/
def allGo : Verdicts := { s := .go, x := .go, m := .go, v := .go }

/-- The successor's index and cycle on the core, as `finish` writes them. -/
def CoreSt.finished (c0 : CoreSt) (b : Bundle) (ok halt : Bool) (cycle : Nat) (c : CoreSt) : CoreSt :=
  let p := advancePc c0 b ok c
  { p.1.countOccur c0.pc with
    pc := p.2
    lastIdx := c0.pc
    nextIssue := cycle + successorDelay c0 b
    presented := none
    run := if halt then .halted else (p.1.countOccur c0.pc).run }

theorem core?_shows {s : State} {l : Nat} {c : CoreSt} (h : s.core? l = some c) (f : CoreSt → CoreSt)
    (hf : ∀ d, (f d).lcore = d.lcore) : (s.updCore l f).core? l = some (f c) := by
  rw [State.core?_updCore s l f hf, h]; rfl

/-- No replay stop: nothing is hit. -/
theorem replayHit_none (s : State) (k : Ctx) (c0 : CoreSt) (h : k.region.replayStop = none) : s.replayHit k c0 = s := by
  unfold State.replayHit
  rw [h]

theorem moved_lcore (c : CoreSt) (op : XOp) : (c.moved op).lcore = c.lcore := by
  unfold CoreSt.moved
  split <;> rfl

/-- Only a TTAKE takes behind the waits of its cycle. -/
theorem takeNow_other (s : State) (l pc : Nat) (op : SOp) (h : ∀ t n, op ≠ .ttake t n) : s.takeNow l pc op = s := by
  unfold State.takeNow
  split
  · rename_i t n _ _; exact absurd rfl (h t n)
  · rfl

/-- What the four slots of a bundle do when all of them issue, with the start conditions and the TTAKE of the cycle behind. -/
def State.runSlots (s : State) (k : Ctx) (c1 : CoreSt) (b : Bundle) : State :=
  let m := c1.moved b.x
  ((((applyX k c1 b.x (applyS k m b.s s)).updCore c1.lcore (applyM k m b.m)).updCore c1.lcore (applyV k m b.v)).updCore
    c1.lcore CoreSt.serveConds).takeNow c1.lcore c1.pc b.s

/-- What issuing does when no slot is skipped or held. -/
theorem issueBundle_go {s : State} {l : Nat} {c1 : CoreSt} (h : s.core? l = some c1) (b : Bundle) (cy : Nat)
    (hm : b.marker = false) (hres : b.reserved = 0) (hb : haltBroken b = false)
    (hrep : (s.ctx c1).region.replayStop = none) :
    s.issueBundle l { b := b, since := cy } allGo =
      (s.runSlots (s.ctx c1) c1 b).finish c1 b true (b.s == .halt) := by
  have hl : c1.lcore = l := by simpa using List.find?_some h
  unfold State.issueBundle
  rw [h]
  simp only [hm, Bool.false_eq_true, if_false, Option.isSome_none, Bool.false_and, h, hres, bne_self_eq_false, hb,
    allSlots, List.foldl_cons, List.foldl_nil]
  rw [replayHit_none _ _ _ hrep]
  simp only [State.issueSlot, allGo, Verdicts.at_, Presented.out, slotPos, List.getD, Verdict.isGo, Bool.true_and,
    List.getElem?_cons_zero, List.getElem?_cons_succ, Option.getD_some, Bool.not_false, if_true, Bool.false_eq_true, if_false]
  simp only [State.runSlots, hl]
  have e1 : (Slot.s == Slot.x) = false := rfl
  have e2 : (Slot.x == Slot.x) = true := rfl
  have e3 : (Slot.m == Slot.x) = false := rfl
  have e4 : (Slot.v == Slot.x) = false := rfl
  simp only [e1, e2, e3, e4, Bool.false_eq_true, if_false, if_true, moved_lcore, hl]

/-- A ready core that presents a bundle all of whose slots issue. -/
theorem present_go {s : State} {l : Nat} {c : CoreSt} {x : Region} (hr : Ready s l c x) (b : Bundle)
    (hm : b.marker = false) (hres : b.reserved = 0) (hb : haltBroken b = false)
    (hj : judge (s.ctx c) (c.given b) { b := b, since := s.time.cycle } = allGo) :
    presentTo l b s =
      .next (((s.updCore l fun d => d.shows b s.time.cycle).runSlots (s.ctx c) (c.shows b s.time.cycle) b).finish
        (c.shows b s.time.cycle) b true (b.s == .halt)) := by
  have hl : c.lcore = l := by simpa using List.find?_some hr.core
  rw [present_ready hr b, tryIssue_ready hr b hm (by rw [hj]; intro sl; cases sl <;> rfl), hj]
  have h1 := core?_shows hr.core (fun d => d.shows b s.time.cycle) (fun _ => rfl)
  have hctx : (s.updCore l fun d => d.shows b s.time.cycle).ctx (c.shows b s.time.cycle) = s.ctx c := rfl
  have hk : (s.ctx c).region = x := by simp [State.ctx, hr.region]
  rw [issueBundle_go h1 b _ hm hres hb (by rw [hctx, hk, hr.noReplay]), hctx]

/-- Popping loops and back-edges leave a core's number. -/
theorem backEdges_lcore (loops : List LoopEntry) (idx : Nat) (c : CoreSt) :
    (backEdges loops idx c).1.lcore = c.lcore := by
  induction loops generalizing c with
  | nil => rfl
  | cons e r ih =>
    simp only [backEdges]
    split
    · split
      · rfl
      · rw [ih]; rfl
    · rfl

theorem advancePc_lcore (c0 : CoreSt) (b : Bundle) (ok : Bool) (c : CoreSt) :
    (advancePc c0 b ok c).1.lcore = c.lcore := by
  unfold advancePc
  split
  · rfl
  · split
    · split <;> rfl
    · exact backEdges_lcore _ _ _
  · split
    · rfl
    · split
      · rfl
      · exact backEdges_lcore _ _ _

theorem finished_lcore (c0 : CoreSt) (b : Bundle) (ok halt : Bool) (cy : Nat) (c : CoreSt) :
    (c0.finished b ok halt cy c).lcore = c.lcore := advancePc_lcore c0 b ok c

/-- The end of a bundle whose effect was on its own core alone. -/
theorem finish_core {s : State} {l : Nat} {c1 : CoreSt} (h : s.core? l = some c1)
    (f : CoreSt → CoreSt) (hf : ∀ d, (f d).lcore = d.lcore) (c0 : CoreSt) (h0 : c0.lcore = l) (b : Bundle)
    (ok halt : Bool)
    (hpc : (c0.finished b ok halt s.time.cycle (f c1)).run = .running →
      (c0.finished b ok halt s.time.cycle (f c1)).pc < 16384) :
    (s.updCore l f).finish c0 b ok halt = s.updCore l fun d => c0.finished b ok halt s.time.cycle (f d) := by
  have e : ((s.updCore l f).updCore c0.lcore fun c =>
      c0.finished b ok halt s.time.cycle c) = s.updCore l fun d => c0.finished b ok halt s.time.cycle (f d) := by
    rw [h0, updCore_updCore s l f _ hf]
  unfold State.finish
  have e' : ((s.updCore l f).updCore c0.lcore fun c =>
      let (c, next) := advancePc c0 b ok c
      let c := c.countOccur c0.pc
      { c with
        pc := next
        lastIdx := c0.pc
        nextIssue := (s.updCore l f).time.cycle + successorDelay c0 b
        presented := none
        run := if halt then .halted else c.run }) =
      s.updCore l fun d => c0.finished b ok halt s.time.cycle (f d) := e
  simp only [e']
  have hc : (s.updCore l fun d => c0.finished b ok halt s.time.cycle (f d)).core? c0.lcore =
      some (c0.finished b ok halt s.time.cycle (f c1)) := by
    rw [h0]; exact core?_shows h _ fun d => by rw [finished_lcore, hf]
  rw [hc]
  have : ((c0.finished b ok halt s.time.cycle (f c1)).run == .running &&
      decide (16384 ≤ (c0.finished b ok halt s.time.cycle (f c1)).pc)) = false := by
    by_cases hrun : (c0.finished b ok halt s.time.cycle (f c1)).run = .running
    · have := hpc hrun
      simp; intro _; omega
    · simp [hrun]
  simp only [this, Bool.false_eq_true, if_false]

/-- No innermost loop ends here: the bundle falls through. -/
theorem backEdges_straight (loops : List LoopEntry) (idx : Nat) (c : CoreSt) (hl : c.loops = loops)
    (h : ∀ e r, loops = e :: r → e.stop ≠ idx) : backEdges loops idx c = (c, idx + 1) := by
  subst hl
  cases hc : c.loops with
  | nil => simp only [backEdges]; rw [← hc]
  | cons e r =>
    have := h e r hc
    simp only [backEdges, this, if_false]
    rw [← hc]

/-- A ready core after it has shown a bundle is itself again. -/
theorem shows_restore {c : CoreSt} (hp : c.presented = none) (hw : c.waiting = []) (b : Bundle) (cy : Nat) :
    { c.shows b cy with presented := none } = c := by
  cases c
  simp only at hp hw
  subst hp hw
  rfl


/-- A bundle with NOP in every slot but S, unmarked, without a reserved flag. -/
structure OnlyS (b : Bundle) : Prop where
  marker : b.marker = false
  reserved : b.reserved = 0
  x : b.x = .nop
  m : b.m = .nop
  v : b.v = .nop

/-- A bundle with one instruction in its S slot is judged by that slot. -/
theorem judge_s (k : Ctx) (c : CoreSt) {b : Bundle} (hp : OnlyS b) (hb : haltBroken b = false) (cy : Nat)
    (h : judgeS k c b = .go) : judge k c { b := b, since := cy } = allGo := by
  obtain ⟨hm, hres, hx, hm', hv⟩ := hp
  have hw : stopsWhole b = false := by unfold stopsWhole; rw [hres, hb]; rfl
  have hmv : c.moved b.x = c := by rw [hx]; rfl
  simp only [judge, hw, Bool.false_eq_true, if_false, Presented.out, hmv, ite_self, h]
  unfold judgeX judgeM judgeV
  simp [hx, hm', hv, XOp.legal, MOp.legal, VOp.legal, VOp.formIs, xClaims, xFields, vFields, rngFields, allGo, slotPos]

/-- A NOP in a slot has no effect. -/
theorem nop_x (k : Ctx) (c0 : CoreSt) (s : State) : applyX k c0 .nop s = s :=
  updCore_id s c0.lcore _ fun _ _ _ => rfl

theorem nop_m (k : Ctx) (c0 : CoreSt) (s : State) (l : Nat) : s.updCore l (applyM k c0 .nop) = s :=
  updCore_id s l _ fun _ _ _ => rfl

theorem nop_v (k : Ctx) (c0 : CoreSt) (s : State) (l : Nat) : s.updCore l (applyV k c0 .nop) = s :=
  updCore_id s l _ fun _ _ _ => rfl

theorem nop_s (k : Ctx) (c0 : CoreSt) (s : State) : applyS k c0 .nop s = s :=
  updCore_id s c0.lcore _ fun _ _ _ => rfl

/-- A ready core that issues a bundle with one S instruction whose effect is on the core alone. -/
theorem present_s {s : State} {l : Nat} {c : CoreSt} {x : Region} (hr : Ready s l c x) {b : Bundle} (hp : OnlyS b)
    (hb : haltBroken b = false) (hgo : judgeS (s.ctx c) (c.given b) b = .go)
    (hcore : ∀ k c0 s, applyS k c0 b.s s = s.updCore c0.lcore (applySCore k c0 b.s))
    (hl : ∀ k c0 d, (applySCore k c0 b.s d).lcore = d.lcore) (hk : ∀ t n, b.s ≠ .ttake t n)
    (hcd : ∀ k c0 d, (applySCore k c0 b.s d).conds = d.conds) (t : CoreSt)
    (ht : (c.shows b s.time.cycle).finished b true (b.s == .halt) s.time.cycle
      (applySCore (s.ctx c) (c.shows b s.time.cycle) b.s (c.shows b s.time.cycle)) = t)
    (hpc : t.run = .running → t.pc < 16384) :
    presentTo l b s = .next (s.updCore l fun _ => t) := by
  have hcl : c.lcore = l := by simpa using List.find?_some hr.core
  rw [present_go hr b hp.marker hp.reserved hb (judge_s _ _ hp hb _ hgo)]
  have h1 := core?_shows hr.core (fun d => d.shows b s.time.cycle) (fun _ => rfl)
  have hl' : (c.shows b s.time.cycle).lcore = l := hcl
  have hmv : (c.shows b s.time.cycle).moved .nop = c.shows b s.time.cycle := rfl
  rw [State.runSlots, takeNow_other _ _ _ _ hk, hp.x, hp.m, hp.v, hmv, nop_x, nop_m, nop_v, hcore, hl',
    updCore_updCore _ l (applySCore (s.ctx c) (c.shows b s.time.cycle) b.s) _ (hl _ _),
    updCore_congr _ l _ (applySCore (s.ctx c) (c.shows b s.time.cycle) b.s) (by
      intro d hd e
      apply serveConds_none
      rw [hcd]
      simp only [State.updCore, List.mem_map] at hd
      obtain ⟨d', hd', rfl⟩ := hd
      split
      · rename_i e'
        rw [hr.alone d' hd' (by simpa using e')]
        exact hr.conds
      · rename_i e'
        exfalso
        split at e
        · rename_i e''; exact e' e''
        · exact e' (by simpa using e))]
  rw [finish_core h1 _ (hl _ _) _ hl' _ _ _ (by
    intro h
    change ((c.shows b s.time.cycle).finished b true (b.s == .halt) s.time.cycle
      (applySCore (s.ctx c) (c.shows b s.time.cycle) b.s (c.shows b s.time.cycle))).run = .running at h
    change ((c.shows b s.time.cycle).finished b true (b.s == .halt) s.time.cycle
      (applySCore (s.ctx c) (c.shows b s.time.cycle) b.s (c.shows b s.time.cycle))).pc < 16384
    rw [ht] at h ⊢
    exact hpc h)]
  rw [updCore_updCore s l (fun d => d.shows b s.time.cycle) _ (fun _ => rfl)]
  congr 1
  apply updCore_congr
  intro d hd e
  rw [hr.alone d hd e]
  exact ht

/-- The result of an S instruction that falls through: `f` is what it does to the core beside the sequencer. -/
theorem finished_straight {c : CoreSt} {s : State} {l : Nat} {x : Region} (hr : Ready s l c x) (hs : c.straight) (b : Bundle)
    (f : CoreSt → CoreSt) (hf : (f (c.shows b s.time.cycle)).loops = c.loops) (d : Nat)
    (hd : successorDelay (c.shows b s.time.cycle) b = d)
    (ha : advancePc (c.shows b s.time.cycle) b true (f (c.shows b s.time.cycle)) =
      backEdges (f (c.shows b s.time.cycle)).loops c.pc (f (c.shows b s.time.cycle))) :
    (c.shows b s.time.cycle).finished b true false s.time.cycle (f (c.shows b s.time.cycle)) =
      { (f (c.shows b s.time.cycle)) with
        pc := c.pc + 1, lastIdx := c.pc, nextIssue := s.time.cycle + d, presented := none
        occur := bump (f (c.shows b s.time.cycle)).occur c.pc 1 } := by
  unfold CoreSt.finished
  rw [ha, backEdges_straight _ _ _ rfl (by rw [hf]; exact hs.1), hd]
  rfl

/-- Result of a straight S instruction. -/
theorem present_straight {s : State} {l : Nat} {c : CoreSt} {x : Region} (hr : Ready s l c x) {b : Bundle} (hp : OnlyS b)
    (hs : c.straight) (hb : haltBroken b = false) (hh : b.s ≠ .halt)
    (hgo : judgeS (s.ctx c) (c.given b) b = .go)
    (hcore : ∀ k c0 s, applyS k c0 b.s s = s.updCore c0.lcore (applySCore k c0 b.s))
    (hl : ∀ k c0 d, (applySCore k c0 b.s d).lcore = d.lcore) (hk : ∀ t n, b.s ≠ .ttake t n)
    (hcd : ∀ k c0 d, (applySCore k c0 b.s d).conds = d.conds) (dl : Nat) (hd : successorDelay (c.shows b s.time.cycle) b = dl)
    (ha : let d := applySCore (s.ctx c) (c.shows b s.time.cycle) b.s (c.shows b s.time.cycle)
      advancePc (c.shows b s.time.cycle) b true d = backEdges d.loops c.pc d)
    (g : CoreSt → CoreSt)
    (hg : applySCore (s.ctx c) (c.shows b s.time.cycle) b.s (c.shows b s.time.cycle) = g (c.shows b s.time.cycle))
    (hloops : (g (c.shows b s.time.cycle)).loops = c.loops) (t : CoreSt)
    (ht : { (g (c.shows b s.time.cycle)) with
        pc := c.pc + 1, lastIdx := c.pc, nextIssue := s.time.cycle + dl, presented := none
        occur := bump (g (c.shows b s.time.cycle)).occur c.pc 1 } = t) (hpc : t.pc = c.pc + 1):
    presentTo l b s = .next (s.updCore l fun _ => t) := by
  have hhalt : (b.s == .halt) = false := by simpa using hh
  refine present_s hr hp hb hgo hcore hl hk hcd t ?_ ?_
  · rw [hg] at ha ⊢
    rw [hhalt, finished_straight hr hs b g hloops _ hd ha]
    exact ht
  · intro _; rw [hpc]; have := hs.2; omega

theorem onlyS {b : Bundle} (hp : plainBundle b) (op : SOp) : OnlyS { b with s := op } :=
  ⟨hp.1, hp.2.1, hp.2.2.2.1, hp.2.2.2.2.1, hp.2.2.2.2.2⟩

theorem straight_op {s : State} {l : Nat} {c : CoreSt} {x : Region} (hr : Ready s l c x) {b : Bundle} (hp : plainBundle b)
    (hs : c.straight) (op : SOp) (hb : haltBroken { b with s := op } = false) (hh : op ≠ .halt)
    (hgo : judgeS (s.ctx c) (c.given { b with s := op }) { b with s := op } = .go)
    (hcore : ∀ k c0 s, applyS k c0 op s = s.updCore c0.lcore (applySCore k c0 op))
    (hl : ∀ k c0 d, (applySCore k c0 op d).lcore = d.lcore) (hk : ∀ t n, op ≠ .ttake t n)
    (hcd : ∀ k c0 d, (applySCore k c0 op d).conds = d.conds)
    (dl : Nat) (hd : successorDelay (c.shows { b with s := op } s.time.cycle) { b with s := op } = dl)
    (ha : let c0 := c.shows { b with s := op } s.time.cycle
      let d := applySCore (s.ctx c) c0 op c0
      advancePc c0 { b with s := op } true d = backEdges d.loops c.pc d)
    (g : CoreSt → CoreSt) (hg : applySCore (s.ctx c) (c.shows { b with s := op } s.time.cycle) op
      (c.shows { b with s := op } s.time.cycle) = g (c.shows { b with s := op } s.time.cycle))
    (hloops : (g (c.shows { b with s := op } s.time.cycle)).loops = c.loops)
    (hw : { (g (c.shows { b with s := op } s.time.cycle)) with
        pc := c.pc + 1, lastIdx := c.pc, nextIssue := s.time.cycle + dl, presented := none
        occur := bump (g (c.shows { b with s := op } s.time.cycle)).occur c.pc 1 } =
         { (g { c.shows { b with s := op } s.time.cycle with presented := none }) with
        pc := c.pc + 1, lastIdx := c.pc, nextIssue := s.time.cycle + dl
        occur := bump (g { c.shows { b with s := op } s.time.cycle with presented := none }).occur c.pc 1 }) :
    presentTo l { b with s := op } s = .next (s.updCore l fun _ => { g c with
        pc := c.pc + 1, lastIdx := c.pc, nextIssue := s.time.cycle + dl
        occur := bump (g c).occur c.pc 1 }) := by
  rw [shows_restore hr.presented hr.waiting] at hw
  exact present_straight hr (onlyS hp op) hs hb hh hgo hcore hl hk hcd dl hd ha g hg hloops _ hw rfl

theorem toBits_ofInt (x : Int) : toBits 32 x = (BitVec.ofInt 32 x).toNat := by
  simp [toBits, BitVec.toNat_ofInt]

theorem sext_toNat {n : Nat} (v : BitVec n) : toBits 32 v.toInt % 2 ^ 32 = (v.signExtend 32).toNat := by
  rw [toBits_ofInt, Nat.mod_eq_of_lt (BitVec.isLt _)]; rfl

theorem add_imm (a : Nat) {n : Nat} (w : BitVec n) :
    toBits 32 ((a : Int) + w.toInt) % 2 ^ 32 = (BitVec.ofNat 32 a + w.signExtend 32).toNat := by
  rw [toBits_ofInt, Nat.mod_eq_of_lt (BitVec.isLt _), BitVec.ofInt_add]
  have : BitVec.ofInt 32 (a : Int) = BitVec.ofNat 32 a := by simp
  rw [this]; rfl

theorem add_reg (a b : Nat) : (b + a) % 2 ^ 32 = (BitVec.ofNat 32 a + BitVec.ofNat 32 b).toNat := by
  simp [Nat.add_comm]

theorem sext_word (x : Nat) : sext x 32 = (BitVec.ofNat 32 x).toInt := by
  simp [sext, BitVec.toInt_eq_toNat_cond]

theorem rel_ok (rel : BitVec 3) (a b : Nat) : relHolds rel.toNat a b = relation rel (BitVec.ofNat 32 a) (BitVec.ofNat 32 b) := by
  unfold relHolds relation
  rw [sext_word, sext_word]
  have : rel.toNat < 8 := rel.isLt
  generalize rel.toNat = r at *
  have key : (BitVec.ofNat 32 a == BitVec.ofNat 32 b) = (a % 2^32 == b % 2^32) := by
    rw [Bool.eq_iff_iff]; simp [← BitVec.toNat_inj]
  rcases r with _|_|_|_|_|_|_|_|r <;> simp [BitVec.slt, BitVec.sle, BitVec.ult, BitVec.ule, key, bne]

/-- A bundle that passes its checks and is not skipped whole passes those of its S slot. -/
theorem passes_s {s : State} {c : CoreSt} {b : Bundle} {op : SOp} (hp : plainBundle b)
    (hb : haltBroken { b with s := op } = false) (h : Passes s c { b with s := op }) :
    judgeS (s.ctx c) (c.given { b with s := op }) { b with s := op } = .go := by
  obtain ⟨_, hres, _, hx, _, _⟩ := hp
  have hw : stopsWhole { b with s := op } = false := by unfold stopsWhole; rw [hb]; simp [hres]
  have hs := congrArg Verdicts.s h
  have hmv : ({ c with waiting := [{ b with s := op }] } : CoreSt).moved b.x = { c with waiting := [{ b with s := op }] } := by
    rw [hx]; rfl
  simp only [judge, hw, Bool.false_eq_true, if_false, Presented.out, slotPos, List.getD, List.getElem?_cons_zero,
    List.getElem?_cons_succ, Option.getD_some, hmv, ite_self] at hs
  exact hs

theorem satLength_word (x : Nat) : satLength x = (max 0 (min (BitVec.ofNat 32 x).toInt 16777216)).toNat := by
  unfold satLength
  rw [sext_word]
  congr 1
  unfold sat
  split
  · omega
  · split <;> omega

theorem withNop_s {b : Bundle} (hp : plainBundle b) (slot : Slot) : withNop b slot = { b with s := .nop } := by
  obtain ⟨_, _, h1, h2, h3, h4⟩ := hp
  cases b; cases slot <;> simp_all [withNop]

theorem pop_drop (l : List LoopEntry) (t : Nat) :
    popLoops l t = l.dropWhile fun e => !(decide (e.start ≤ t) && decide (t ≤ e.stop)) := by
  induction l with
  | nil => rfl
  | cons e r ih =>
    simp only [popLoops, List.dropWhile]
    by_cases h : e.start ≤ t ∧ t ≤ e.stop
    · simp [h.1, h.2]
    · rw [if_neg h, ih]
      have : (!(decide (e.start ≤ t) && decide (t ≤ e.stop))) = true := by
        simp; omega
      rw [this]


/-- A bundle with NOP in its S slot whose effect is on the core alone, the start conditions that are served behind its issue
among it. -/
theorem straight_slots {s : State} {l : Nat} {c : CoreSt} {x : Region} (hr : Ready s l c x) (hs : c.straight) {b : Bundle}
    (hm : b.marker = false) (hres : b.reserved = 0) (hsn : b.s = .nop) (hj : Passes s c b) (F : CoreSt → CoreSt)
    (hF : ∀ d, (F d).lcore = d.lcore)
    (heff : (((applyX (s.ctx c) (c.shows b s.time.cycle) b.x (s.updCore l fun d => d.shows b s.time.cycle)).updCore l
        (applyM (s.ctx c) ((c.shows b s.time.cycle).moved b.x) b.m)).updCore l
        (applyV (s.ctx c) ((c.shows b s.time.cycle).moved b.x) b.v)).updCore l CoreSt.serveConds =
      (s.updCore l fun d => d.shows b s.time.cycle).updCore l F)
    (hloops : (F (c.shows b s.time.cycle)).loops = c.loops) (t : CoreSt)
    (ht : { F (c.shows b s.time.cycle) with
        pc := c.pc + 1, lastIdx := c.pc, nextIssue := s.time.cycle + (b.delay.toNat + 1), presented := none
        occur := bump (F (c.shows b s.time.cycle)).occur c.pc 1 } = t) (hpc : t.pc = c.pc + 1) :
    presentTo l b s = .next (s.updCore l fun _ => t) := by
  have hcl : c.lcore = l := by simpa using List.find?_some hr.core
  have hb : haltBroken b = false := by unfold haltBroken; rw [hsn]
  have h1 := core?_shows hr.core (fun d => d.shows b s.time.cycle) (fun _ => rfl)
  have hl' : (c.shows b s.time.cycle).lcore = l := hcl
  rw [present_go hr b hm hres hb hj]
  rw [State.runSlots, hsn, takeNow_other _ _ _ _ (fun _ _ => SOp.noConfusion), nop_s, hl', heff]
  have hfin : (c.shows b s.time.cycle).finished b true (SOp.nop == .halt) s.time.cycle (F (c.shows b s.time.cycle)) = t := by
    rw [← ht]
    exact finished_straight hr hs b F hloops _ (by unfold successorDelay; rw [hsn])
      (by simp only [advancePc, hsn, hb, Bool.false_eq_true, if_false, brTaken]; rfl)
  rw [finish_core h1 _ hF _ hl' _ _ _ (by
    intro _
    change ((c.shows b s.time.cycle).finished b true (SOp.nop == .halt) s.time.cycle
      (F (c.shows b s.time.cycle))).pc < 16384
    rw [hfin, hpc]; have := hs.2; omega)]
  rw [updCore_updCore s l (fun d => d.shows b s.time.cycle) _ (fun _ => rfl)]
  congr 1
  apply updCore_congr
  intro d hd e
  rw [hr.alone d hd e]
  exact hfin


end Sys2Proof.Machine
end

