-- ==== Sys2Proof/Laws/Mem.lean ====
section
/-! SUPPORT. The laws of a byte memory: read after write, and that every operation keeps the canonical form. -/

namespace Sys2Proof.Machine

/-- Every key of a memory lies above a bound. -/
def Mem.above (m : Mem) (k : Nat) : Prop := ∀ c ∈ m, k < c.1

theorem Mem.wf_cons (c : Host.Cell) (m : Mem) : Mem.wf (c :: m) = true ↔ c.2 ≠ 0 ∧ Mem.above m c.1 ∧ Mem.wf m = true := by
  induction m generalizing c with
  | nil => simp [Mem.wf, Mem.above]
  | cons d r ih =>
    constructor
    · intro h
      simp only [Mem.wf, Bool.and_eq_true, bne_iff_ne, decide_eq_true_eq] at h
      obtain ⟨⟨h1, h2⟩, h3⟩ := h
      refine ⟨h1, ?_, h3⟩
      intro x hx
      rcases List.mem_cons.1 hx with rfl | hx
      · exact h2
      · exact lt_trans h2 (((ih d).1 h3).2.1 x hx)
    · rintro ⟨h1, h2, h3⟩
      simp only [Mem.wf, Bool.and_eq_true, bne_iff_ne, decide_eq_true_eq]
      exact ⟨⟨h1, h2 d (by simp)⟩, h3⟩

theorem Mem.set_above {m : Mem} {k a : Nat} (b : Byte) (h : Mem.above m k) (ha : k < a) : Mem.above (m.set a b) k := by
  induction m with
  | nil =>
    simp only [Mem.set]
    split
    · exact h
    · simpa [Mem.above] using ha
  | cons c r ih =>
    have hr : Mem.above r k := fun x hx => h x (List.mem_cons_of_mem _ hx)
    have hc : k < c.1 := h c (by simp)
    simp only [Mem.set]
    split
    · split
      · exact h
      · intro x hx
        rcases List.mem_cons.1 hx with rfl | hx
        · exact ha
        · exact h x hx
    · split
      · split
        · exact hr
        · intro x hx
          rcases List.mem_cons.1 hx with rfl | hx
          · exact hc
          · exact hr x hx
      · intro x hx
        rcases List.mem_cons.1 hx with rfl | hx
        · exact hc
        · exact ih hr x hx

/-- Writing a byte keeps the canonical form. -/
theorem Mem.set_wf {m : Mem} (a : Nat) (b : Byte) (h : Mem.wf m = true) : Mem.wf (m.set a b) = true := by
  induction m with
  | nil =>
    simp only [Mem.set]
    split
    · rfl
    · rename_i hb
      simpa [Mem.wf] using hb
  | cons c r ih =>
    obtain ⟨h1, h2, h3⟩ := (Mem.wf_cons c r).1 h
    simp only [Mem.set]
    split
    · rename_i hlt
      split
      · exact h
      · rename_i hb
        refine (Mem.wf_cons _ _).2 ⟨hb, ?_, h⟩
        intro x hx
        rcases List.mem_cons.1 hx with rfl | hx
        · exact hlt
        · exact lt_trans hlt (h2 x hx)
    · split
      · rename_i hlt heq
        split
        · exact h3
        · rename_i hb
          exact (Mem.wf_cons _ _).2 ⟨hb, h2, h3⟩
      · rename_i hlt hne
        exact (Mem.wf_cons _ _).2 ⟨h1, Mem.set_above b h2 (by omega), ih h3⟩

/-- Writing cells keeps the canonical form. -/
theorem Mem.writeCells_wf {m : Mem} (cs : List (Nat × Byte)) (h : Mem.wf m = true) : Mem.wf (m.writeCells cs) = true := by
  unfold Mem.writeCells
  induction cs generalizing m with
  | nil => exact h
  | cons c r ih => exact ih (Mem.set_wf c.1 c.2 h)

/-- Writing bytes keeps the canonical form. -/
theorem Mem.write_wf {m : Mem} (a : Nat) (bs : List Byte) (h : Mem.wf m = true) : Mem.wf (m.write a bs) = true :=
  Mem.writeCells_wf _ h

theorem Mem.filter_wf {m : Mem} (p : Host.Cell → Bool) (h : Mem.wf m = true) : Mem.wf (m.filter p) = true := by
  induction m with
  | nil => rfl
  | cons c r ih =>
    obtain ⟨h1, h2, h3⟩ := (Mem.wf_cons c r).1 h
    rw [List.filter_cons]
    split
    · exact (Mem.wf_cons _ _).2 ⟨h1, fun x hx => h2 x (List.mem_of_mem_filter hx), ih h3⟩
    · exact ih h3

/-- Zeroing a range keeps the canonical form. -/
theorem Mem.zero_wf {m : Mem} (lo n : Nat) (h : Mem.wf m = true) : Mem.wf (m.zero lo n) = true := Mem.filter_wf _ h

theorem Mem.get_of_above {m : Mem} {k : Nat} (h : Mem.above m k) : m.get k = 0 := by
  cases m with
  | nil => rfl
  | cons c r =>
    have hc : k < c.1 := h c (by simp)
    simp only [Mem.get]
    rw [if_neg (by omega), if_pos hc]

/-- A byte reads as it was written. -/
theorem Mem.get_set_same {m : Mem} (a : Nat) (b : Byte) (h : Mem.wf m = true) : (m.set a b).get a = b := by
  induction m with
  | nil =>
    simp only [Mem.set]
    split
    · rename_i hb
      simpa [Mem.get] using hb.symm
    · simp [Mem.get]
  | cons c r ih =>
    obtain ⟨h1, h2, h3⟩ := (Mem.wf_cons c r).1 h
    simp only [Mem.set]
    split
    · rename_i hlt
      split
      · rename_i hb
        simp only [Mem.get]
        rw [if_neg (by omega), if_pos hlt, hb]
      · simp [Mem.get]
    · split
      · rename_i hlt heq
        split
        · rename_i hb
          rw [hb]
          exact Mem.get_of_above (heq ▸ h2)
        · simp [Mem.get, heq]
      · rename_i hlt hne
        simp only [Mem.get]
        rw [if_neg (fun x => hne x.symm), if_neg hlt]
        exact ih h3

/-- A write leaves every other byte. -/
theorem Mem.get_set_other {m : Mem} {a k : Nat} (b : Byte) (h : Mem.wf m = true) (hk : k ≠ a) :
    (m.set a b).get k = m.get k := by
  induction m with
  | nil =>
    simp only [Mem.set]
    split
    · rfl
    · simp only [Mem.get]
      rw [if_neg (fun x => hk x.symm)]
      split <;> rfl
  | cons c r ih =>
    obtain ⟨h1, h2, h3⟩ := (Mem.wf_cons c r).1 h
    simp only [Mem.set]
    split
    · rename_i hlt
      split
      · rfl
      · show Mem.get ((a, b) :: c :: r) k = _
        rw [Mem.get]
        rw [if_neg (fun x => hk x.symm)]
        split
        · rename_i hka
          simp only [Mem.get]
          rw [if_neg (by omega), if_pos (by omega)]
        · rfl
    · split
      · rename_i hlt heq
        split
        · have hck : c.1 ≠ k := by omega
          simp only [Mem.get]
          rw [if_neg hck]
          split
          · exact Mem.get_of_above fun x hx => by have := h2 x hx; omega
          · rfl
        · have hck : c.1 ≠ k := by omega
          simp only [Mem.get, if_neg hck]
      · rename_i hlt hne
        simp only [Mem.get]
        split
        · rfl
        · split
          · rfl
          · exact ih h3

/-- Bytes written from an address upward read back, and every other byte reads as before. -/
theorem Mem.get_write {m : Mem} (a k : Nat) (bs : List Byte) (h : Mem.wf m = true) :
    (m.write a bs).get k = if a ≤ k then (bs[k - a]?).getD (m.get k) else m.get k := by
  unfold Mem.write Mem.writeCells
  induction bs generalizing m a with
  | nil => simp [cellsAt]
  | cons b r ih =>
    simp only [cellsAt, List.foldl_cons]
    rw [ih (a + 1) (Mem.set_wf a b h)]
    rcases lt_trichotomy k a with hk | rfl | hk
    · rw [if_neg (by omega), if_neg (by omega), Mem.get_set_other b h (by omega)]
    · rw [if_neg (by omega), if_pos le_rfl, Mem.get_set_same k b h]
      simp
    · rw [if_pos (by omega), if_pos (by omega), Mem.get_set_other b h (by omega), show k - a = (k - (a + 1)) + 1 by omega]
      simp

/-- The little-endian bytes of a value give its low part back. -/
theorem leVal_leBytes (n x : Nat) : leVal (leBytes n x) = x % 256 ^ n := by
  induction n generalizing x with
  | zero => simp [leBytes, leVal, Nat.mod_one]
  | succ n ih =>
    rw [leBytes, leVal, ih, pow_succ', Nat.mod_mul]
    simp

end Sys2Proof.Machine
end

