-- ==== Sys2Proof/Laws/Ops.lean ====
section
/-! SUPPORT. What the shared operations can do, once each: a report touches the host's side and the firmware's list of
deferred events alone; raising a fault keeps every memory of the module and the bytes of every core; and the canonical form
of the memories passes through each of them. -/

namespace Sys2Proof.Machine

/-! ### Reports (R318 to R321, R355) -/

theorem State.report_shape (s : State) (p : Session → Bool) (code : EvCode) (items : List Item)
    (core : Option Nat) :
    ∃ h f, s.report p code items core = { s with host := h, fw := f } := by
  unfold State.report
  cases code.inLedger <;> cases hm : s.fw.mgmtDown <;> simp [State.ledger, State.sendTo, hm]

@[simp] theorem State.report_cores (s : State) (p : Session → Bool) (code : EvCode) (items : List Item)
    (core : Option Nat) :
    (s.report p code items core).cores = s.cores := by
  obtain ⟨h, f, e⟩ := s.report_shape p code items core
  rw [e]

@[simp] theorem State.report_regions (s : State) (p : Session → Bool) (code : EvCode) (items : List Item)
    (core : Option Nat) :
    (s.report p code items core).regions = s.regions := by
  obtain ⟨h, f, e⟩ := s.report_shape p code items core
  rw [e]

@[simp] theorem State.report_mem (s : State) (p : Session → Bool) (code : EvCode) (items : List Item)
    (core : Option Nat) :
    (s.report p code items core).mem = s.mem := by
  obtain ⟨h, f, e⟩ := s.report_shape p code items core
  rw [e]

@[simp] theorem State.report_time (s : State) (p : Session → Bool) (code : EvCode) (items : List Item)
    (core : Option Nat) :
    (s.report p code items core).time = s.time := by
  obtain ⟨h, f, e⟩ := s.report_shape p code items core
  rw [e]

@[simp] theorem State.report_pending (s : State) (p : Session → Bool) (code : EvCode) (items : List Item)
    (core : Option Nat) :
    (s.report p code items core).pending = s.pending := by
  obtain ⟨h, f, e⟩ := s.report_shape p code items core
  rw [e]

@[simp] theorem State.notify_cores (s : State) (code : EvCode) (items : List Item)
    (core : Option Nat) :
    (s.notify code items core).cores = s.cores := s.report_cores _ _ _ _

@[simp] theorem State.notify_regions (s : State) (code : EvCode) (items : List Item)
    (core : Option Nat) :
    (s.notify code items core).regions = s.regions := s.report_regions _ _ _ _

@[simp] theorem State.notify_mem (s : State) (code : EvCode) (items : List Item)
    (core : Option Nat) :
    (s.notify code items core).mem = s.mem := s.report_mem _ _ _ _

@[simp] theorem State.tell_cores (s : State) (n : Nat) (code : EvCode) (items : List Item) :
    (s.tell n code items).cores = s.cores := s.report_cores _ _ _ _

@[simp] theorem State.tell_regions (s : State) (n : Nat) (code : EvCode) (items : List Item) :
    (s.tell n code items).regions = s.regions := s.report_regions _ _ _ _

@[simp] theorem State.tell_mem (s : State) (n : Nat) (code : EvCode) (items : List Item) :
    (s.tell n code items).mem = s.mem := s.report_mem _ _ _ _

@[simp] theorem State.done_cores (s : State) (n q code : Nat) (st : Status) (items : List Item) :
    (s.done n q code st items).cores = s.cores := s.report_cores _ _ _ _

@[simp] theorem State.done_regions (s : State) (n q code : Nat) (st : Status) (items : List Item) :
    (s.done n q code st items).regions = s.regions := s.report_regions _ _ _ _

@[simp] theorem State.done_mem (s : State) (n q code : Nat) (st : Status) (items : List Item) :
    (s.done n q code st items).mem = s.mem := s.report_mem _ _ _ _

/-! ### The canonical form through updates -/

theorem State.Canon.of_eq {s t : State} (h : s.Canon) (hm : t.mem = s.mem) (hc : t.cores = s.cores) : t.Canon := by
  unfold State.Canon
  rw [hm, hc]
  exact h

theorem State.Canon.updCore {s : State} (h : s.Canon) (l : Nat) {f : CoreSt → CoreSt}
    (hf : ∀ c, c.Canon → (f c).Canon) : (s.updCore l f).Canon := by
  refine ⟨h.1, fun c hc => ?_⟩
  obtain ⟨d, hd, rfl⟩ := List.mem_map.mp hc
  split
  · exact hf d (h.2 d hd)
  · exact h.2 d hd

theorem State.Canon.updCoresOf {s : State} (h : s.Canon) (r : Nat) {f : CoreSt → CoreSt}
    (hf : ∀ c, c.Canon → (f c).Canon) : (s.updCoresOf r f).Canon := by
  refine ⟨h.1, fun c hc => ?_⟩
  obtain ⟨d, hd, rfl⟩ := List.mem_map.mp hc
  split
  · exact hf d (h.2 d hd)
  · exact h.2 d hd

theorem State.Canon.updRegion {s : State} (h : s.Canon) (r : Nat) (f : Region → Region) : (s.updRegion r f).Canon := h

/-- An update that leaves a core's four memories leaves their form. -/
theorem CoreSt.Canon.of_eq {c d : CoreSt} (h : c.Canon) (h1 : d.spad = c.spad) (h2 : d.acc = c.acc)
    (h3 : d.desc = c.desc) (h4 : d.imem = c.imem) : d.Canon := by
  unfold CoreSt.Canon
  rw [h1, h2, h3, h4]
  exact h

theorem State.Canon.report {s : State} (h : s.Canon) (p : Session → Bool) (code : EvCode) (items : List Item)
    (core : Option Nat) : (s.report p code items core).Canon := h.of_eq (s.report_mem _ _ _ _) (s.report_cores _ _ _ _)

theorem State.Canon.notify {s : State} (h : s.Canon) (code : EvCode) (items : List Item) (core : Option Nat) :
    (s.notify code items core).Canon := h.report _ _ _ _

theorem State.Canon.done {s : State} (h : s.Canon) (n q code : Nat) (st : Status) (items : List Item) :
    (s.done n q code st items).Canon := h.report _ _ _ _

theorem CoreSt.Canon.record {c : CoreSt} (h : c.Canon) (f : FRec) : (c.record f).Canon := by
  unfold CoreSt.record
  dsimp only
  repeat' split
  all_goals exact h

theorem CoreSt.Canon.countFault {c : CoreSt} (h : c.Canon) (k : FCode) : (c.countFault k).Canon := by
  cases k <;> exact h

theorem State.Canon.setPhase {s : State} (h : s.Canon) (r : Nat) (p : Phase) (cause : Nat) : (s.setPhase r p cause).Canon := by
  unfold State.setPhase
  split
  · exact h
  · exact (h.updRegion r _).notify _ _ _

theorem State.Canon.toStopping {s : State} (h : s.Canon) (r : Nat) (k : EndReason) (g : StopGoal) (cause : Nat) :
    (s.toStopping r k g cause).Canon := by
  unfold State.toStopping
  split
  · exact h
  · dsimp only
    split
    · exact (h.updRegion r _).setPhase _ _ _
    · exact h.updRegion r _

theorem State.Canon.stopRegionStep {s : State} (h : s.Canon) (r k : Nat) (e : EndReason) (g : StopGoal) (cause : Nat) :
    (s.stopRegionStep r k e g cause).Canon := by
  unfold State.stopRegionStep
  apply State.Canon.toStopping
  exact h.updCoresOf r fun _ hc => CoreSt.Canon.of_eq hc rfl rfl rfl rfl

theorem State.Canon.stopRegionNow {s : State} (h : s.Canon) (r : Nat) (first : Nat → Bool) (t0 t1 : Nat) (e : EndReason)
    (g : StopGoal) (cause : Nat) : (s.stopRegionNow r first t0 t1 e g cause).Canon := by
  unfold State.stopRegionNow
  apply State.Canon.toStopping
  exact h.updCoresOf r fun _ hc => CoreSt.Canon.of_eq hc rfl rfl rfl rfl

/-- Raising a core fault keeps every memory in form. -/
theorem State.Canon.raise {s : State} (h : s.Canon) (l : Nat) (code : FCode) (slot : Option Slot) (bundle detail : Nat)
    (closing : Bool) : (s.raise l code slot bundle detail closing).Canon :=
  h.updCore l fun _ hc => CoreSt.Canon.of_eq hc rfl rfl rfl rfl

/-- An addition to a tally keeps every memory in form. -/
theorem State.Canon.addTally {s : State} (h : s.Canon) (l t n src : Nat) (slot : Option Slot) (bundle : Nat) :
    (s.addTally l t n src slot bundle).Canon := h.updCore l fun _ hc => CoreSt.Canon.of_eq hc rfl rfl rfl rfl

/-- Recording a fault keeps every memory in form. -/
theorem State.Canon.recordFault {s : State} (h : s.Canon) (l : Nat) (f : FRec) : (s.recordFault l f).Canon := by
  unfold State.recordFault
  split
  · exact h
  dsimp only
  have hu : (s.updCore l fun c => (c.record f).countFault f.code).Canon :=
    h.updCore l fun c hc => (hc.record f).countFault f.code
  split
  · exact hu
  · exact (hu.notify _ _ _).updRegion _ _

/-- Applying the policy of a core's faults keeps every memory in form. -/
theorem State.Canon.applyPolicy {s : State} (h : s.Canon) (c : CoreSt) (p : Policy) : (s.applyPolicy c p).Canon := by
  unfold State.applyPolicy
  split
  · exact h
  split
  · exact h
  split
  · exact h
  · exact h.stopRegionStep _ _ _ _ _
  · exact h.stopRegionNow _ _ _ _ _ _ _

/-- Recording several faults keeps every memory in form. -/
theorem State.Canon.recordFaults {s : State} (h : s.Canon) (l : Nat) (fs : List FRec) (g : State → FRec → FRec) :
    (fs.foldl (fun s f => s.recordFault l (g s f)) s).Canon := by
  induction fs generalizing s with
  | nil => exact h
  | cons a r ih => exact ih (h.recordFault l _)

/-- The faults of a core's cycle keep every memory in form. -/
theorem State.Canon.settleFaults {s : State} (h : s.Canon) (l : Nat) : (s.settleFaults l).Canon := by
  unfold State.settleFaults
  split
  · exact h
  rename_i c _
  split
  · exact h
  have hc : (s.updCore l fun c => { c with due := [] }).Canon :=
    h.updCore l fun _ hc => CoreSt.Canon.of_eq hc rfl rfl rfl rfl
  exact (hc.recordFaults l (inSlotOrder c.due) fun s f => c.settled s.time.cycle f).applyPolicy c _

/-! ### Tallies (R180) -/

/-- An addition that fits the value before it is made, and raises nothing. -/
theorem CoreSt.addOne_fits {c : CoreSt} {a : TallyAdd} (cycle : Nat) (h : c.tallies.getD a.tally 0 + a.n ≤ 4095) :
    c.addOne cycle a = { c with tallies := setAt c.tallies a.tally (c.tallies.getD a.tally 0 + a.n) } := by
  simp only [CoreSt.addOne, h, if_true]

/-- One that does not fit adds nothing and raises TALLY_OVERFLOW with the detail word of R249. -/
theorem CoreSt.addOne_overflows {c : CoreSt} {a : TallyAdd} (cycle : Nat) (h : ¬ c.tallies.getD a.tally 0 + a.n ≤ 4095) :
    c.addOne cycle a = { c with due := c.due ++ [c.frec cycle .tallyOverflow a.slot a.bundle
      (overflowDetail a.tally (c.tallies.getD a.tally 0) a.n a.src) false] } := by
  simp only [CoreSt.addOne, h, if_false]

end Sys2Proof.Machine
end

