-- ==== Sys2Proof/Tests/Slice0.lean ====
section
/-! SUPPORT. The model's own tests: words of the spec decoded, ill-formed commands refused by the checks, and for every
statement of the obligations file a concrete state and operands that meet its hypotheses, clause by clause. -/

set_option Elab.async false

namespace Sys2Proof.Machine

/-! ### Small states -/

/-- A descriptor of rank 1 or 2 (R161): format, base, extents, strides, and the attribute bytes. -/
def tDesc (fmt base : Nat) (ext str : List Nat) (attr : Nat := 0) : List Byte :=
  leBytes 64 (packFields ([(0, base), (64, fmt), (69, ext.length), (95, 1), (448, attr)]
    ++ (ext.zipIdx.map fun e => (128 + 32 * e.2, e.1)) ++ str.zipIdx.map fun e => (288 + 32 * e.2, e.1)))

/-- A descriptor of a ring slot: context, slots, granules of a slot. -/
def tRing (fmt base ctx n size : Nat) (ext str : List Nat) : List Byte :=
  leBytes 64 (leVal (tDesc fmt base ext str) + 2 ^ 73 + 2 ^ 74 * ctx + 2 ^ 96 * n + 2 ^ 101 * size)

/-- A core that runs. -/
def tCore : CoreSt := { lcore := 0, region := 0, phys := 0, run := .running, begun := true }

/-- A region that runs. -/
def tRegion : Region := { num := 0, x0 := 0, y0 := 0, x1 := 7, y1 := 5, phase := .running, loaded := true, ran := true, n := 1 }

/-- A module with one region and the cores given. -/
def tState (x : Region) (cs : List CoreSt) : State :=
  { State.reset with
    time := { State.reset.time with cycle := 1000, tick := 50000 }
    pwr := { State.reset.pwr with state := .active }
    regions := [x], cores := cs }

/-- A core of a running region stands ready to issue. -/
theorem tReady (c : CoreSt) (x : Region) (hr : c.run = .running) (hx : x.phase = .running) (hp : c.presented = none)
    (hw : c.waiting = []) (ht : c.nextIssue ≤ 1000) (hf : c.stopFrom = none) (hb : c.stopBefore = none)
    (ha : c.arrayHold = false) (hs : 0 < x.sbLimit) (hl : 0 < x.waitLimit) (hn : x.replayStop = none)
    (hq : ∀ q ∈ c.queues, q.live = []) (hc : c.conds = []) (hreg : c.region = x.num) :
    Ready (tState x [c]) c.lcore c x where
  core := by simp [tState, State.core?]
  alone := by simp [tState]
  region := by simp [tState, State.region?, hreg]
  runs := hr
  phase := hx
  presented := hp
  waiting := hw
  time := ht
  stopFrom := hf
  stopBefore := hb
  noHold := ha
  sbLimit := hs
  waitLimit := hl
  noReplay := hn
  queues := fun q h y hy => by rw [hq q h] at hy; simp at hy
  conds := hc

/-- The one core of a module stands alone. -/
theorem tAlone (x : Region) (c : CoreSt) : Alone (tState x [c]) c.lcore c :=
  ⟨by simp [tState, State.core?], by simp [tState]⟩

/-- A bundle without instructions. -/
def tBundle : Bundle := { delay := 2 }

theorem tPlain : plainBundle tBundle := ⟨rfl, rfl, rfl, rfl, rfl, rfl⟩

theorem tStraight (c : CoreSt) (h : c.loops = []) (hp : c.pc < 16383) : c.straight :=
  ⟨fun e r he => by (rw [h] at he; cases he), hp⟩

/-- A core with descriptors written at handles. -/
def tWith (ds : List (Nat × List Byte)) (c : CoreSt := tCore) : CoreSt :=
  { c with desc := ds.foldl (fun m d => m.write (64 * d.1) d.2) [] }

/-! ### Witnesses: the S slot -/

/-- A core whose handles 0 and 255 name words of its scratchpad. -/
def wWord : CoreSt := tWith [(0, tDesc 0x14 0x100 [16] [4]), (255, tDesc 0x14 0xFFFFC0 [16] [4])]

theorem witness_ready : Ready (tState tRegion [wWord]) 0 wWord tRegion ∧ plainBundle tBundle ∧ wWord.straight :=
  ⟨by apply tReady wWord tRegion <;> decide, tPlain, tStraight _ rfl (by decide)⟩

theorem witness_CountersTakeTheirValues : Ready (tState tRegion [wWord]) 0 wWord tRegion ∧ plainBundle tBundle ∧
    wWord.straight ∧ Passes (tState tRegion [wWord]) wWord { tBundle with s := .cset 7 (.word 255) } :=
  ⟨witness_ready.1, tPlain, witness_ready.2.2, by unfold Passes; decide +kernel⟩

theorem witness_ComparisonsSetTheirPredicate : Ready (tState tRegion [wWord]) 0 wWord tRegion ∧ plainBundle tBundle ∧
    wWord.straight ∧ Passes (tState tRegion [wWord]) wWord { tBundle with s := .cmp 3 7 7 (.word 255) } :=
  ⟨witness_ready.1, tPlain, witness_ready.2.2, by unfold Passes; decide +kernel⟩

theorem witness_NopSetvlWaitAndHalt :
    Ready (tState tRegion [wWord]) 0 wWord tRegion ∧ plainBundle tBundle ∧ wWord.straight := witness_ready

/-- The last index from which a core falls through. -/
def wLast : CoreSt := { tCore with pc := 16382 }

theorem witness_BranchGoesToItsTarget :
    (Ready (tState tRegion [wWord]) 0 wWord tRegion ∧ plainBundle tBundle ∧ wWord.preds.getD 3 false = false) ∧
    (Ready (tState tRegion [wLast]) 0 wLast tRegion ∧ wLast.preds.getD 0 false ≠ true ∧ wLast.straight) :=
  ⟨⟨witness_ready.1, tPlain, by decide⟩, by apply tReady wLast tRegion <;> decide, by decide, tStraight _ rfl (by decide)⟩

/-- Seven loops are active, the innermost one ends at the last index a loop may end at. -/
def wLoops : CoreSt := { tCore with pc := 0, loops := List.replicate 7 { start := 0, stop := 16382, counter := 0, count := 2 } }

theorem witness_LoopBeginsOrSkipsItsBody : Ready (tState tRegion [wLoops]) 0 wLoops tRegion ∧ plainBundle tBundle ∧
    wLoops.pc + (16381 : BitVec 14).toNat + 1 ≤ 16382 ∧ wLoops.loops.length < 8 ∧
    (∀ e r, wLoops.loops = e :: r → wLoops.pc + (16381 : BitVec 14).toNat + 1 ≤ e.stop) := by
  refine ⟨by apply tReady wLoops tRegion <;> decide, tPlain, by decide, by decide, fun e r h => ?_⟩
  injection h with h _; subst h; decide

/-- The last bundle of a loop inside another one. -/
def wEnd : CoreSt :=
  { tCore with pc := 16382, loops := [{ start := 5, stop := 16382, counter := 7, count := 1 },
                                      { start := 5, stop := 16383, counter := 0, count := 2 }] }

theorem witness_LoopEndGoesBackOrLeaves : ∃ e r, Ready (tState tRegion [wEnd]) 0 wEnd tRegion ∧ plainBundle tBundle ∧
    wEnd.loops = e :: r ∧ e.stop = wEnd.pc ∧ wEnd.pc < 16383 ∧ e.start < 16384 ∧ (∀ f q, r = f :: q → f.stop ≠ wEnd.pc) := by
  refine ⟨_, _, by apply tReady wEnd tRegion <;> decide, tPlain, rfl, by decide, by decide, by decide, fun f q h => ?_⟩
  injection h with h _; subst h; decide

/-- A core whose highest tally, 47, holds the greatest count. -/
def wTally : CoreSt := { tCore with tallies := List.replicate 47 0 ++ [4095] }
/-- A region that logs every fault. -/
def tLogs : Region := { tRegion with policies := [0, 0, 0, 0] }
/-- A core in whose cycle a wait has taken all but one of tally 47 and an addition has come that fills it, or is one too much. -/
def wFresh (n : Nat) : CoreSt :=
  { wTally with taken := List.replicate 47 0 ++ [4094], fresh := [{ tally := 47, n := n, src := 2, slot := none, bundle := 3 }] }

theorem witness_TallyInstructionsMoveTheCount :
    (Ready (tState tRegion [wTally]) 0 wTally tRegion ∧ plainBundle tBundle ∧ wTally.straight ∧ (47 : BitVec 6).toNat ≤ 47 ∧
      (4095 : BitVec 12).toNat ≤ wTally.avail 47) ∧
    (Ready (tState tRegion [wFresh 4094]) 0 (wFresh 4094) tRegion ∧ (wFresh 4094).straight ∧
      (wFresh 4094).fresh = [{ tally := 47, n := 4094, src := 2, slot := none, bundle := 3 }] ∧
      (wFresh 4094).avail 47 + 4094 ≤ 4095) :=
  ⟨⟨by apply tReady wTally tRegion <;> decide, tPlain, tStraight _ rfl (by decide), by decide, by decide⟩,
    by apply tReady (wFresh 4094) tRegion <;> decide, tStraight _ rfl (by decide), by decide, by decide⟩

/-- A core whose cycle has raised two faults, that of slot V before that of slot S. -/
def wDue : CoreSt :=
  { tCore with due := [{ code := .bankConflict, slot := some .v, bundle := 4 }, { code := .tallyUnderflow, slot := some .s, bundle := 4 }] }

theorem witness_TallyFaultsLeaveTheTally :
    (Ready (tState tRegion [wWord]) 0 wWord tRegion ∧ plainBundle tBundle ∧ wWord.straight ∧ (47 : BitVec 6).toNat ≤ 47 ∧
      wWord.avail 47 < (1 : BitVec 12).toNat) ∧
    (Ready (tState tRegion [wFresh 4095]) 0 (wFresh 4095) tRegion ∧ (wFresh 4095).straight ∧
      (wFresh 4095).fresh = [{ tally := 47, n := 4095, src := 2, slot := none, bundle := 3 }] ∧
      4095 < (wFresh 4095).avail 47 + 4095) ∧
    (Ready (tState tLogs [wDue]) 0 wDue tLogs ∧ wDue.straight ∧
      wDue.due = [{ code := .bankConflict, slot := some .v, bundle := 4 }, { code := .tallyUnderflow, slot := some .s, bundle := 4 }] ∧
      tLogs.policy .bankConflict = .log ∧ tLogs.policy .tallyUnderflow = .log) :=
  ⟨⟨witness_ready.1, tPlain, witness_ready.2.2, by decide, by decide⟩,
    ⟨by apply tReady (wFresh 4095) tRegion <;> decide, tStraight _ rfl (by decide), by decide, by decide⟩,
    by apply tReady wDue tLogs <;> decide, tStraight _ rfl (by decide), by decide, by decide, by decide⟩

def wAll : CoreSt := { tCore with tallies := List.replicate 48 255 }

theorem witness_TwaitanyTakesTheLowestReady :
    (Ready (tState tRegion [wTally]) 0 wTally tRegion ∧ plainBundle { tBundle with relaxed := true } ∧ wTally.straight ∧
      wTally.replay = none ∧ (255 : BitVec 8) ≠ 0 ∧ (40 : BitVec 6).toNat + (7 : BitVec 3).toNat ≤ 47 ∧ 7 ≤ (7 : BitVec 3).toNat ∧
      (255 : BitVec 8).toNat ≤ wTally.avail 47 ∧ (∀ i < 7, ¬ (255 : BitVec 8).toNat ≤ wTally.avail (40 + i))) ∧
    (Ready (tState tRegion [wAll]) 0 wAll tRegion ∧ wAll.straight ∧ wAll.replay = none ∧
      ∀ i ≤ 7, (255 : BitVec 8).toNat ≤ wAll.avail (40 + i)) :=
  ⟨⟨by apply tReady wTally tRegion <;> decide, ⟨rfl, rfl, rfl, rfl, rfl, rfl⟩, tStraight _ rfl (by decide), rfl, by decide,
    by decide, by decide, by decide, by decide⟩, by apply tReady wAll tRegion <;> decide, tStraight _ rfl (by decide), rfl,
    by decide⟩

/-- A core whose descriptor 3 names the core itself, by its global address. -/
def wSelf : CoreSt := tWith [(3, tDesc 0x11 0 [1] [1])]

theorem witness_RemoteTsigSendsASignal : Ready (tState tRegion [wSelf]) 0 wSelf tRegion ∧ plainBundle tBundle ∧
    wSelf.straight ∧ Passes (tState tRegion [wSelf]) wSelf { tBundle with s := .tsigRemote 47 3 255 } ∧
    (tState tRegion [wSelf]).inMap (gaModule (descAt wSelf.desc 3).base) = true ∧
    gaModule (descAt wSelf.desc 3).base = (tState tRegion [wSelf]).kol.module ∧
    ((tState tRegion [wSelf]).core? (gaCore (descAt wSelf.desc 3).base)).isSome = true ∧
    Passes (tState tRegion [wSelf]) wSelf { tBundle with s := .tsigRemote 0 3 0 } :=
  ⟨by apply tReady wSelf tRegion <;> decide, tPlain, tStraight _ rfl (by decide), by unfold Passes; decide +kernel,
    by decide +kernel, by decide +kernel, by decide +kernel, by unfold Passes; decide +kernel⟩

/-- A core whose descriptor 255 has five dimensions. -/
def wFive : CoreSt := tWith [(255, tDesc 0x11 0x100 [1, 1, 1, 1, 1] [1, 1, 1, 1, 1])]

theorem witness_DadvMovesTheBase : Ready (tState tRegion [wFive]) 0 wFive tRegion ∧ plainBundle tBundle ∧ wFive.straight ∧
    Passes (tState tRegion [wFive]) wFive { tBundle with s := .dadv 255 4 (.imm (-1)) } ∧
    Passes (tState tRegion [wFive]) wFive { tBundle with s := .dadv 255 0 (.reg 7) } :=
  ⟨by apply tReady wFive tRegion <;> decide, tPlain, tStraight _ rfl (by decide), by unfold Passes; decide +kernel,
    by unfold Passes; decide +kernel⟩

theorem witness_StepMarkerBeginsAStep :
    (Ready (tState tRegion [wWord]) 0 wWord tRegion ∧ plainBundle tBundle ∧ wWord.straight ∧ wWord.cfg = [] ∧
      ∀ t < 48, wWord.tallies.getD t 0 = 0) ∧
    (Ready (tState tLogs [wTally]) 0 wTally tLogs ∧ wTally.cfg = [] ∧ (0x800000 : BitVec 24).getLsbD (47 / 2) = true ∧
      wTally.tallies.getD 47 0 ≠ 0 ∧
      (∀ u < 47, ¬ (u < 48 ∧ (0x800000 : BitVec 24).getLsbD (u / 2) = true ∧ wTally.tallies.getD u 0 ≠ 0)) ∧
      tLogs.policy .tallyImbalance = .log ∧ wTally.straight ∧
      1 = ((List.range 48).filter fun u => (0x800000 : BitVec 24).getLsbD (u / 2) && wTally.tallies.getD u 0 != 0).length) :=
  ⟨⟨witness_ready.1, tPlain, witness_ready.2.2, rfl, by decide⟩, by apply tReady wTally tLogs <;> decide, rfl, by decide,
    by decide, by decide, by decide, tStraight _ rfl (by decide), by decide⟩

/-! ### Witnesses: the X, M and V slots -/

/-- A core stands ready whose queues hold settled transfers only. -/
theorem tReadyQ (c : CoreSt) (x : Region) (hr : c.run = .running) (hx : x.phase = .running) (hp : c.presented = none)
    (hw : c.waiting = []) (ht : c.nextIssue ≤ 1000) (hf : c.stopFrom = none) (hb : c.stopBefore = none)
    (ha : c.arrayHold = false) (hs : 0 < x.sbLimit) (hl : 0 < x.waitLimit) (hn : x.replayStop = none)
    (hq : ∀ q ∈ c.queues, ∀ y ∈ q.live, y.complete = true ∧ y.freed = false ∧ y.tagForm ≠ 0 ∧ y.taken = false)
    (hc : c.conds = []) (hreg : c.region = x.num) : Ready (tState x [c]) c.lcore c x where
  core := by simp [tState, State.core?]
  alone := by simp [tState]
  region := by simp [tState, State.region?, hreg]
  runs := hr
  phase := hx
  presented := hp
  waiting := hw
  time := ht
  stopFrom := hf
  stopBefore := hb
  noHold := ha
  sbLimit := hs
  waitLimit := hl
  noReplay := hn
  queues := fun q h y hy => by
    obtain ⟨a, b, d, e⟩ := hq q h y hy
    exact ⟨a, b, d, e⟩
  conds := hc

/-- A core with transfer operands: destination 0 with start condition and announce at the greatest tally and counts,
source 1, tag word 2; 64 and 66 name a ring of queue 3, 65 its source. -/
def wPut : CoreSt :=
  { tWith [(0, tDesc 0x11 0x2000 [64] [1] (2 + 47 * 4 + 4095 * 256 + 2 ^ 20 + 47 * 2 ^ 21 + 4095 * 2 ^ 27)),
           (1, tDesc 0x11 0x1000 [64] [1]), (2, tDesc 0x14 0x3000 [1] [4]),
           (64, tRing 0x11 0 31 2 1 [64] [1]), (65, tDesc 0x11 0x1000 [64] [1])] with
    rings := List.replicate 31 none ++ [some { base := 0x4000, n := 2, size := 64, queue := some 3 }] }
/-- A region with a group of one core in the last place. -/
def tGroups : Region := { tLogs with groups := List.replicate 63 [] ++ [[0]] }
/-- A core with matrix operands: a tile at 0; areas at 1 and 4 (imaginary), FP8 rows at 2, FP16 rows at 11 with its area at
10; the entries to clear at 20, up to the last one. -/
def wMat : CoreSt :=
  tWith [(0, tDesc 0x03 0x1000 [64, 64] [1, 64]), (1, tDesc 0x00 0x1000000 [64] [4]), (2, tDesc 0x03 0x2000 [64, 2] [1, 64]),
         (10, tDesc 0x00 0x107FF00 [64] [4]), (11, tDesc 0x01 0x2000 [64, 1] [2, 128]),
         (20, tDesc 0x14 0x107FF00 [64] [4])]
/-- A core in the widest shape with complex operands. -/
def wCplx : CoreSt :=
  { tWith [(253, tDesc 0x00 0x1000000 [4] [4]), (254, tDesc 0x18 0x2000 [1024, 1] [4, 4096]),
           (255, tDesc 0x00 0x1000010 [4] [4])] with shape := .wd1024 }
/-- A core with vector operands: a block of four at 0 and, from the accumulator file, one of two at 8; the gather table's
operands at 16 and 18; destinations of VRNG at 20 and 21. -/
def wVec : CoreSt :=
  { tWith [(0, tDesc 0x00 0x0 [2] [4]), (1, tDesc 0x00 0x1000 [2] [4]), (2, tDesc 0x00 0x2000 [2] [4]),
           (3, tDesc 0x00 0x3000 [2] [4]), (8, tDesc 0x00 0x0 [2] [4]), (9, tDesc 0x00 0x1000000 [2] [4]),
           (16, tDesc 0x11 0x1000 [2] [1]), (17, tDesc 0x11 0x2000 [2] [1]),
           (20, tDesc 0x14 0x0 [2] [4]), (21, tDesc 0x00 0x1000 [2] [4])] with vl := 2, gatherTN := 4, gatherFmt := 0x11 }
/-- A transfer that is complete and whose tag, the greatest one, has not been taken. -/
def wDone : Xfer :=
  { q := 3, idx := 15, gen := 1023, tagForm := 1, kind := .put, src := { h := 1, d := {}, base := 0 }
    dst := { h := 0, d := {}, base := 0 }, attr := {}, bytes := 0, bundle := 0, step := 0, accepted := 0
    started := some 10, complete := true, deliveries := [] }
/-- A core all of whose counters hold that tag, with a software ring. -/
def wWaits : CoreSt :=
  { tCore with
    counters := List.replicate 8 65535
    queues := List.replicate 3 {} ++ [{ count := 16384, live := [wDone] }]
    rings := List.replicate 31 none ++ [some { base := 0x4000, n := 16, size := 64, f := 15 }] }

theorem witness_SkippedInstructionOnlyRecords :
    (Ready (tState tLogs [wPut]) 0 wPut tLogs ∧ plainBundle tBundle ∧ wPut.straight) ∧
    (let s := tState tLogs [wPut]
     let c : CoreSt := { wPut with waiting := [tBundle] }
     (judgeX (s.ctx wPut) c { tBundle with x := .qwait 7 } = .skip .tagInvalid 0) ∧
     (judgeM (s.ctx wPut) c { tBundle with m := .mpass 255 true false } = .skip .badHandle 255) ∧
     (judgeV (s.ctx wPut) c (withV tBundle .vadd 255 (.legacy 1 0)) = .skip .badHandle 255) ∧
     ∃ d, judgeS (s.ctx wPut) c { tBundle with s := .twaitany 40 7 7 255 } = .skip .illegalOp d) ∧
    (let c : CoreSt := { wLoops with loops := List.replicate 8 { start := 0, stop := 16382, counter := 0, count := 2 } }
     Ready (tState tLogs [c]) 0 c tLogs ∧ c.straight ∧
     judgeS ((tState tLogs [c]).ctx c) { c with waiting := [tBundle] } { tBundle with s := .loop 7 16381 (.imm 1) } =
      .skip .loopNest 0) := by
  refine ⟨⟨by apply tReady wPut tLogs <;> decide, tPlain, tStraight _ rfl (by decide)⟩,
    ⟨by decide +kernel, by decide +kernel, by decide +kernel, ⟨_, rfl⟩⟩, ?_⟩
  refine ⟨by apply tReady _ tLogs <;> decide, ⟨fun e r h => ?_, by decide⟩, by decide +kernel⟩
  injection h with h _; subst h; decide

theorem witness_TransferInstructionsEnterTheQueue :
    Ready (tState tGroups [wPut]) 0 wPut tGroups ∧ plainBundle tBundle ∧ wPut.straight ∧ wPut.claims = [] ∧
    (∀ p ∈ [((0 : BitVec 8), (0 : BitVec 2)), (0, 2), (64, 1)],
      Passes (tState tGroups [wPut]) wPut { tBundle with x := .qput 3 p.1 p.2 0 } ∧
      Passes (tState tGroups [wPut]) wPut { tBundle with x := .mcast 3 p.1 p.2 0 63 } ∧
      Passes (tState tGroups [wPut]) wPut { tBundle with x := .chain 3 p.1 p.2 0 63 }) :=
  ⟨by apply tReady wPut tGroups <;> decide, tPlain, tStraight _ rfl (by decide), rfl, by unfold Passes; decide +kernel⟩

theorem witness_WaitsTakeTagsAndRadvMovesARing :
    Ready (tState tRegion [wWaits]) 0 wWaits tRegion ∧ plainBundle tBundle ∧ wWaits.straight ∧ wWaits.replay = none ∧
    Passes (tState tRegion [wWaits]) wWaits { tBundle with x := .qwait 7 } ∧
    Passes (tState tRegion [wWaits]) wWaits { tBundle with relaxed := true, x := .qwaitany 0 7 7 } ∧
    (∀ i ≤ 7, ∃ y, wWaits.findTag (wWaits.counter (0 + i)) = some y ∧ y.complete = true) ∧
    Passes (tState tRegion [wWaits]) wWaits { tBundle with x := .radv false 31 } ∧
    Passes (tState tRegion [wWaits]) wWaits { tBundle with x := .radv true 31 } := by
  refine ⟨by apply tReadyQ wWaits tRegion <;> decide, tPlain, tStraight _ rfl (by decide), rfl, ?_, ?_, ?_, ?_, ?_⟩
  · unfold Passes; decide +kernel
  · unfold Passes; decide +kernel
  · intro i hi
    have h : (wWaits.findTag (wWaits.counter (0 + i))) = some wDone := by interval_cases i <;> rfl
    exact ⟨_, h, rfl⟩
  · unfold Passes; decide +kernel
  · unfold Passes; decide +kernel

theorem witness_MatrixControlTakesItsPath :
    Ready (tState tRegion [wMat]) 0 wMat tRegion ∧ plainBundle tBundle ∧ wMat.straight ∧
    Passes (tState tRegion [wMat]) wMat { tBundle with m := .mwload 0 0 false } ∧
    Passes (tState tRegion [wMat]) wMat { tBundle with m := .mswap } ∧
    Passes (tState tRegion [wMat]) wMat { tBundle with m := .mshape 2 } ∧
    Passes (tState tRegion [wMat]) wMat { tBundle with m := .mzero 20 } :=
  ⟨by apply tReady wMat tRegion <;> decide, tPlain, tStraight _ rfl (by decide), by unfold Passes; decide +kernel,
    by unfold Passes; decide +kernel, by unfold Passes; decide +kernel, by unfold Passes; decide +kernel⟩

theorem witness_MatrixPassEntersTheUnit :
    (Ready (tState tRegion [wMat]) 0 wMat tRegion ∧ plainBundle tBundle ∧ wMat.straight ∧
      Passes (tState tRegion [wMat]) wMat { tBundle with m := .mpass 1 true false } ∧
      Passes (tState tRegion [wMat]) wMat { tBundle with m := .mpassw 10 false false 1 0 }) ∧
    (Ready (tState tRegion [wCplx]) 0 wCplx tRegion ∧ wCplx.straight ∧
      Passes (tState tRegion [wCplx]) wCplx { tBundle with m := .mpassc 253 true true }) :=
  ⟨⟨by apply tReady wMat tRegion <;> decide, tPlain, tStraight _ rfl (by decide), by unfold Passes; decide +kernel,
    by unfold Passes; decide +kernel⟩, by apply tReady wCplx tRegion <;> decide, tStraight _ rfl (by decide),
    by unfold Passes; decide +kernel⟩

theorem witness_VectorInstructionEntersTheEngine :
    Ready (tState tRegion [wVec]) 0 wVec tRegion ∧ plainBundle tBundle ∧ wVec.straight ∧
    (∀ k ∈ [VCode.vadd, .vsub, .vmul, .vfma, .vmax, .vmin, .vabs, .vcmp, .vsel, .vcvt, .vexp2, .vlog2, .vrsq, .vrcp, .vtanh,
      .vred, .vscan], Passes (tState tRegion [wVec]) wVec (withV tBundle k 0 (.native 0))) ∧
    Passes (tState tRegion [wVec]) wVec (withV tBundle .vacc 8 (.legacy 2 0)) ∧
    Passes (tState tRegion [wVec]) wVec (withV tBundle .vgather 16 (.native 0)) ∧
    Passes (tState tRegion [wVec]) wVec (withV tBundle .vgather 16 (.native 1)) ∧
    Passes (tState tRegion [wVec]) wVec (withV tBundle .vperm 252 (.legacy 0 0)) :=
  ⟨by apply tReady wVec tRegion <;> decide, tPlain, tStraight _ rfl (by decide), by unfold Passes; decide +kernel,
    by unfold Passes; decide +kernel, by unfold Passes; decide +kernel, by unfold Passes; decide +kernel,
    by unfold Passes; decide +kernel⟩

theorem witness_VrngEntersTheEngine :
    Ready (tState tRegion [wVec]) 0 wVec tRegion ∧ plainBundle tBundle ∧ wVec.straight ∧
    Passes (tState tRegion [wVec]) wVec { tBundle with v := .vrng 3 20 false (.native 0) } ∧
    Passes (tState tRegion [wVec]) wVec { tBundle with v := .vrng 3 21 true (.legacy 2 0), legacy := true } :=
  ⟨by apply tReady wVec tRegion <;> decide, tPlain, tStraight _ rfl (by decide), by unfold Passes; decide +kernel,
    by unfold Passes; decide +kernel⟩

/-! ### Witnesses: elements, limits, the array, transfers -/

/-- An operand of a rank-1 walk. -/
def tOpnd (h fmt base n step : Nat) : Opnd :=
  { h := h, d := { base := base, fmt := fmt, rank := 1, valid := true, ext := [n], stride := [step] }, base := base }

/-- A V instruction in flight with two FP32 sources of one element. -/
def wJob : VJob :=
  { id := 0, bundle := 0, op := .vec .vfma 0 (.native 0), at_ := 0, len := 1, lanes := 64, groups := 1, lat := 6
    dst := some (tOpnd 0 0x00 0 1 4)
    srcs := [(tOpnd 1 0x00 0x100 1 4, false), (tOpnd 2 0x00 0x200 1 4, false), (tOpnd 3 0x00 0x300 1 4, false)]
    data := [[(0x3F800001, 0)], [(0x3F800001, 0)], [(0xBF800002, 0)]] }

theorem witness_FloatArithmeticRoundsOnce :
    (∀ o ∈ [tOpnd 1 0x00 0x100 1 4, tOpnd 2 0x00 0x200 1 4, tOpnd 3 0x00 0x300 1 4, tOpnd 0 0x00 0 1 4], o.d.fmt = 0x00) ∧
    wJob.dst = some (tOpnd 0 0x00 0 1 4) ∧
    wJob.srcs = [(tOpnd 1 0x00 0x100 1 4, false), (tOpnd 2 0x00 0x200 1 4, false), (tOpnd 3 0x00 0x300 1 4, false)] ∧
    (0x7F7 : Nat).testBit 3 = false := by decide

theorem witness_IntegerWritesSaturate :
    (tOpnd 0 0x10 0 1 0).d.fmt = 0x10 ∧ (tOpnd 0 0x11 0 1 1).d.fmt = 0x11 ∧ (tOpnd 0 0x12 0 1 1).d.fmt = 0x12 ∧
    (tOpnd 0 0x13 0 1 2).d.fmt = 0x13 ∧ (tOpnd 0 0x14 0 1 4).d.fmt = 0x14 := by decide

theorem witness_FiniteFp32PatternsSurvive : (0xFF7FFFFF : Nat) < 2 ^ 32 ∧ (0xFF7FFFFF : Nat) / 2 ^ 23 % 256 ≠ 255 := by decide

/-- A V instruction in flight with INT32 sources. -/
def wCmp : VJob :=
  { wJob with dst := some (tOpnd 0 0x11 0 1 1)
              srcs := [(tOpnd 1 0x14 0x100 1 4, false), (tOpnd 2 0x14 0x200 1 4, false)] }

theorem witness_CompareSelectAndGather : (2 : Nat).testBit 3 = false ∧ wCmp.dst = some (tOpnd 0 0x11 0 1 1) ∧
    wCmp.srcs = [(tOpnd 1 0x14 0x100 1 4, false), (tOpnd 2 0x14 0x200 1 4, false)] ∧ (tOpnd 0 0x11 0 1 1).d.fmt = 0x11 ∧
    wJob.srcs = [(tOpnd 1 0x00 0x100 1 4, false), (tOpnd 2 0x00 0x200 1 4, false), (tOpnd 3 0x00 0x300 1 4, false)] := by
  decide

/-- A running core holds a bundle. -/
theorem tHolding (c : CoreSt) (x : Region) (p : Presented) (hr : c.run = .running) (hx : x.phase = .running)
    (hp : c.presented = some p) (hw : p.skipped = [false, false, false, false]) (ht : p.timedOut = false)
    (hf : c.stopFrom = none) (hb : c.stopBefore = none) (ha : c.arrayHold = false) (hn : x.replayStop = none)
    (hreg : c.region = x.num) : Holding (tState x [c]) c.lcore c x p where
  alone := tAlone x c
  region := by simp [tState, State.region?, hreg]
  runs := hr
  phase := hx
  held := hp
  whole := hw
  inTime := ht
  stopFrom := hf
  stopBefore := hb
  noHold := ha
  noReplay := hn

/-- A VADD held by its busy unit, at the scoreboard limit. -/
def wHeldV : Presented :=
  { b := withV tBundle .vadd 0 (.native 0), since := 10, sbCount := 65536, lastC8 := [none, none, none, some 77] }
def wHeld : CoreSt := { wVec with vFree := 2000, presented := some wHeldV }
/-- A TWAIT that waits, at the wait limit. -/
def wHeldT : Presented := { b := { tBundle with s := .twait 47 4095 }, since := 10, waitCount := 16777216 }
def wWaiting : CoreSt := { tCore with presented := some wHeldT }

theorem witness_LimitsSkipTheHeldSlot :
    (Holding (tState tLogs [wHeld]) 0 wHeld tLogs wHeldV ∧ wHeld.straight ∧ wHeldV.b.s = .nop ∧
      (∃ f, judgeV ((tState tLogs [wHeld]).ctx wHeld) wHeld wHeldV.b = .hold none (some f)) ∧
      wHeldV.lastC8.getD 3 none = some 77 ∧ tLogs.sbLimit ≤ wHeldV.sbCount ∧ wHeldV.waitCount < tLogs.waitLimit ∧
      wHeldV.b.marker = false ∧ wHeldV.b.reserved = 0 ∧ wHeldV.b.x = .nop ∧ wHeldV.b.m = .nop) ∧
    (Holding (tState tLogs [wWaiting]) 0 wWaiting tLogs wHeldT ∧ wWaiting.straight ∧
      wHeldT.b.s = .twait 47 4095 ∧ wHeldT.b.v = .nop ∧ (4095 : BitVec 12) ≠ 0 ∧ wWaiting.avail 47 < (4095 : BitVec 12).toNat ∧
      tLogs.waitLimit ≤ wHeldT.waitCount ∧ wHeldT.sbCount < tLogs.sbLimit ∧ wHeldT.b.marker = false ∧ wHeldT.b.reserved = 0 ∧
      wHeldT.b.x = .nop ∧ wHeldT.b.m = .nop) := by
  refine ⟨⟨tHolding wHeld tLogs wHeldV rfl rfl rfl rfl rfl rfl rfl rfl rfl rfl, tStraight _ rfl (by decide), rfl, ?_,
    by decide⟩, tHolding wWaiting tLogs wHeldT rfl rfl rfl rfl rfl rfl rfl rfl rfl rfl,
    tStraight _ rfl (by decide), by decide⟩
  have h : (match judgeV ((tState tLogs [wHeld]).ctx wHeld) wHeld wHeldV.b with
    | .hold none (some _) => true | _ => false) = true := by decide +kernel
  split at h
  · rename_i f hf; exact ⟨f, hf⟩
  · cases h

/-- A pass of one row in the 64-cell shape whose unit is due now. -/
def wPass : PassJob :=
  { id := 0, bundle := 0, kind := .one, shape := .sq64, due := 1000, rows := 1, subs := 1
    src := { h := 2, d := { base := 0x2000, fmt := 3, rank := 2, valid := true, ext := [64, 1], stride := [1, 64] }, base := 0x2000 }
    area := 0, areaIm := 0, accum := false, keep := false }
def wUnit : CoreSt := { tCore with passes := [wPass] }
/-- A pass in the wide shape, 8 cycles late, whose record has not come. -/
def wLate : CoreSt := { tCore with shape := .wd256, passes := [{ wPass with shape := .wd256, due := 992 }] }

theorem witness_UnitsEnterOrTheArrayHolds :
    (Alone (tState tRegion [wUnit]) 0 wUnit ∧ (tState tRegion [wUnit]).region? wUnit.region = some tRegion ∧
      wUnit.nextPass = some wPass ∧ (∀ y ∈ wUnit.passes, y.shape = .sq64) ∧
      wPass.due + wPass.next = (tState tRegion [wUnit]).time.cycle - wUnit.frozen ∧ wUnit.loads = []) ∧
    (Alone (tState tRegion [wLate]) 0 wLate ∧ wLate.nextPass = some { wPass with shape := .wd256, due := 992 } ∧
      992 + 0 + 8 ≤ (tState tRegion [wLate]).time.cycle - wLate.frozen ∧
      (wLate.recordAt { wPass with shape := .wd256, due := 992 } 1000).2 = none ∧ tRegion.trap = false) :=
  ⟨⟨tAlone _ _, rfl, by decide, by decide, by decide, rfl⟩, tAlone _ _, by decide, by decide, by decide +kernel, rfl⟩

/-- (1 + 2^-23)^2 - (1 + 2^-22) is 2^-46, which one rounding keeps (hand calculation). -/
theorem test_vfma_rounds_once :
    vElem wJob { code := .vfma, h := 0, md := 0, len := 1, legacy := false } 0 = [.val (some 0x00) (.fin false 8388608 (-69))] := by
  decide +kernel

/-- A transfer of 64 bytes inside a scratchpad, in the last place of the last queue. -/
def wXf : Xfer :=
  { q := 3, idx := 15, gen := 1023, tagForm := 1, kind := .put, src := tOpnd 1 0x11 0x1000 64 1
    dst := tOpnd 0 0x11 0xFFFFC0 64 1, attr := {}, bytes := 64, bundle := 7, step := 0, accepted := 5
    deliveries := [{ member := 0 }] }
/-- A core whose last queue holds a transfer. -/
def tQueued (y : Xfer) (c : CoreSt := tCore) : CoreSt :=
  { c with queues := List.replicate 3 {} ++ [{ count := 16384, live := [y] }] }

theorem tLive (y : Xfer) (c : CoreSt) : ((tQueued y c).queue 3).live = [] ++ y :: [] := rfl

/-- The transfer has started, and all its bytes have landed. -/
def wLanded : Xfer := { wXf with started := some 10, deliveries := [{ member := 0, landed := [(0, 64, 1000)], lastCycle := 1000 }] }
/-- The transfer waits for the greatest count of the highest tally. -/
def wCond : CoreSt :=
  { tQueued { wXf with condServed := false, attr := { startEn := true, startTally := 47, startCount := 4095 } } wTally with
    conds := [{ q := 3, idx := 15, tally := 47, count := 4095 }] }

theorem witness_QueueEventsMoveATransfer :
    (let c := tQueued wXf
     let s := tState tRegion [c]
     Alone s 0 c ∧ (c.queue 3).live = [] ++ wXf :: [] ∧ wXf.q = 3 ∧ 3 < c.queues.length ∧ s.startsBarred 0 = false ∧
      wXf.started = none ∧ wXf.discarded = false ∧ wXf.freed = false ∧
      canStart (s.ctx c) c (c.queue 3) wXf = true ∧ s.gatherRun (c.queue 3).open_ wXf wXf [] 1 wXf.bytes s.time.cycle = [] ∧
      wXf.attr.stream = false ∧ gaModule wXf.src.base = s.kol.module ∧
      s.unbackedAt (chunkAddrs wXf.src wXf.src.base 0 wXf.bytes) = none ∧
      (∀ d ∈ wXf.deliveries, s.unbackedAt (chunkAddrs wXf.dst (wXf.dstBase s.kol.module d.member) 0 wXf.bytes) = none)) ∧
    (Alone (tState tRegion [wCond]) 0 wCond ∧ wCond.conds = [{ q := 3, idx := 15, tally := 47, count := 4095 }] ∧
      4095 ≤ wCond.avail 47) ∧
    (wLanded.started.isSome = true ∧ wLanded.complete = false ∧ wLanded.discarded = false ∧
      (∀ d ∈ wLanded.deliveries, wLanded.bytes ≤ d.count) ∧ wLanded.dst.d.ring = false) ∧
    (wDone.complete = true ∧ ({ wDone with taken := true } : Xfer).taken = true ∧ wDone.attr.annEn = false) := by
  refine ⟨⟨tAlone _ _, rfl, rfl, by decide, by decide +kernel, rfl, rfl, rfl, by decide +kernel, rfl, rfl, by decide,
    by decide +kernel, by decide +kernel⟩, ⟨tAlone _ _, rfl, by decide⟩, by decide, by decide⟩

/-- An operand of bytes of a stack, from an offset on. -/
def tStackOpnd (h off n : Nat) : Opnd := tOpnd h 0x11 (2 * 2 ^ 56 + 19 * 2 ^ 40 + off) n 1
/-- The transfer is under way from a stack to the end of the stack. -/
def wMoving : Xfer := { wXf with started := some 10, src := tStackOpnd 1 64 64, dst := tStackOpnd 0 (0x2400000000 - 64) 64 }
/-- A module some time later. -/
def tLater (s : State) : State := { s with time := { s.time with cycle := 5000 } }
/-- A later member of a chain waits for what has landed 16 cycles before. -/
def wChain : Xfer :=
  { wXf with kind := .chain, chainMode := true, started := some 10
             deliveries := [{ member := 0, landed := [(0, 64, 984)] }, { member := 1 }] }
/-- A transfer from the scratchpad that reads, in a core whose banks are free. -/
def wReads : CoreSt := { tQueued { wXf with started := some 10 } with bgUsed := [] }
/-- A payload in the landing buffer. -/
def wPayload : Landing :=
  { issuer := 0, q := 3, idx := 15, gen := 1023, member := 0, off := 0, len := 64, cells := [(0xFFFFFF, 5#8)] }
def wLanding : CoreSt := { wReads with landing := [wPayload] }

theorem witness_BytesMoveThroughATransfer :
    (let c := tQueued wMoving
     let s := tLater (tState tRegion [c])
     let src := chunkAddrs wMoving.src wMoving.src.base 63 1
     let dst := chunkAddrs wMoving.dst (wMoving.dstBase s.kol.module 0) 63 1
     Alone s 0 c ∧ c.xfer? 3 15 = some wMoving ∧ s.xferOf 0 3 15 wMoving.gen = some wMoving ∧ wMoving.q = 3 ∧
      wMoving.delivery? 0 = some { member := 0 } ∧ s.chunkOpen 0 3 15 0 63 1 = some (wMoving, { member := 0 }, false) ∧
      s.landFloor 0 wMoving { member := 0 } 63 1 ≤ s.time.cycle ∧ wMoving.attr.stream = false ∧ wMoving.srcUnmapped = false ∧
      (∀ b ∈ wMoving.srcRead, b.1 < 63 ∨ 63 + 1 ≤ b.1) ∧
      (∀ g ∈ src, s.srcByte g wMoving.started = .now (s.placeByte (s.place g)) none) ∧
      (∀ g ∈ dst, s.placeFault (s.place g) g wMoving.started = none ∧ s.refreshing (s.place g) = false ∧
        targetOf (s.place g) = some (3, 19))) ∧
    (Alone (tState tRegion [tQueued wChain]) 0 (tQueued wChain) ∧ (tQueued wChain).xfer? 3 15 = some wChain ∧
      (tState tRegion [tQueued wChain]).xferOf 0 3 15 wChain.gen = some wChain ∧ wChain.chainMode = true ∧
      wChain.deliveries = [] ++ { member := 0, landed := [(0, 64, 984)] } :: { member := 1 } :: [] ∧
      meets (({ member := 1 } : Delivery).forwarded.map fun r => (r.1, r.2.1)) 0 64 = false ∧ 984 + 16 ≤ 1000) ∧
    (let s := tState tRegion [wReads]
     let src := chunkAddrs wXf.src wXf.src.base 63 1
     Alone s 0 wReads ∧ wReads.xfer? 3 15 = some { wXf with started := some 10 } ∧
      s.xferOf 0 3 15 wXf.gen = some { wXf with started := some 10 } ∧
      s.core? 0 = some wReads ∧ bankOf 0x40 ∉ wReads.bgUsed ∧
      (∀ a ∈ src, s.srcByte a (some 10) = .bank 0 0x103F ∧ granuleOf 0x103F = 0x40 ∧ s.place a = .core 0 0x103F)) ∧
    (Alone (tState tRegion [wLanding]) 0 wLanding ∧ wLanding.landing = [wPayload] ∧ wPayload.outer = none ∧
      (∀ v ∈ wPayload.cells, granuleOf v.1 = 0x3FFFF) ∧ bankOf 0x3FFFF ∉ wLanding.bgUsed) := by
  refine ⟨⟨tAlone tRegion (tQueued wMoving), rfl, rfl, rfl, rfl, by decide +kernel, by decide +kernel, rfl, rfl, by decide, by decide +kernel,
    by decide +kernel⟩, ⟨tAlone _ _, rfl, rfl, rfl, rfl, by decide, by decide⟩,
    ⟨tAlone _ _, rfl, rfl, rfl, by decide, by decide +kernel⟩, tAlone _ _, rfl, rfl, by decide, by decide⟩

/-- A transfer that announces at the greatest tally and count. -/
def wAnn : Xfer := { wLanded with attr := { annEn := true, annTally := 47, annCount := 4095, annCore := 0 } }
/-- One none of whose bytes has landed, started at cycle 0 in a region whose limit is 999 cycles. -/
def wSlow : Xfer := { wAnn with started := some 0, deliveries := [{ member := 0 }] }
def tSoon : Region := { tLogs with annLimit := 999 }
/-- A signal that has just arrived. -/
def wSignal : Signal :=
  { id := 0, issuer := 0, module := 0, lcore := 0, tally := 47, count := 4095, issued := 900, latency := 100, ahead := [], bundle := 0 }
def wSignalled : State :=
  { tState tRegion [tQueued wAnn] with fab := { State.reset.fab with signals := [wSignal], nextSig := 1 } }

theorem witness_AnnouncesAndSignalsReachTheirTally :
    (let c := tQueued wAnn
     let s := tState tRegion [c]
     let d : Delivery := { member := 0, landed := [(0, 64, 1000)], lastCycle := 1000 }
     Alone s 0 c ∧ s.refusing 0 = false ∧ (c.queue 3).live = [wAnn] ∧ wAnn.idx = 15 ∧ wAnn.q = 3 ∧ wAnn.kind = .put ∧
      wAnn.deliveries = [d] ∧ wAnn.attr.annEn = true ∧ wAnn.attr.annCore = 0 ∧ wAnn.discarded = false ∧ wAnn.freed = false ∧
      wAnn.attr.stream = false ∧ d.announced = false ∧ d.withdrawn = false ∧ wAnn.bytes ≤ d.count ∧
      gaModule wAnn.dst.base = s.kol.module ∧ wAnn.complete = false ∧
      d.lastCycle + s.landLatency (s.lastPoint 0 wAnn d 0) 0 ≤ s.time.cycle) ∧
    (let c := tQueued wSlow
     Alone (tState tSoon [c]) 0 c ∧ (tState tSoon [c]).refusing 0 = false ∧ (c.queue 3).live = [wSlow] ∧
      (tState tSoon [c]).region? c.region = some tSoon ∧ wSlow.started = some 0 ∧
      0 + tSoon.annLimit < (tState tSoon [c]).time.cycle ∧ ({ member := 0 } : Delivery).count < wSlow.bytes ∧ wSlow.raised = []) ∧
    (Alone wSignalled 0 (tQueued wAnn) ∧ wSignalled.refusing 0 = false ∧ wSignalled.fab.signals = [wSignal] ∧
      wSignal.ahead = [] ∧ wSignal.issued + wSignal.latency ≤ wSignalled.time.cycle ∧ wSignal.module = wSignalled.kol.module ∧
      wSignal.origin = .core) := by
  refine ⟨⟨tAlone _ _, by decide, rfl, rfl, rfl, rfl, rfl, rfl, rfl, rfl, rfl, rfl, rfl, rfl, by decide, by decide, rfl,
    by decide +kernel⟩, ⟨tAlone _ _, by decide, rfl, rfl, rfl, by decide, by decide, rfl⟩, ?_, by decide, rfl, rfl, by decide,
    rfl, rfl⟩
  exact tAlone tRegion (tQueued wAnn)

/-! ### Witnesses: the combiner, memory, regions that drain -/

/-- An entry of the last granule that lacks its last byte, and is 64 cycles old. -/
def wEntry : CombEntry :=
  { granule := 0x3FFFF, bytes := (List.range 63).map fun i => { at_ := i, val := 0, req := .host, stamp := 5 }, opened := 936 }
def wComb : CoreSt := { tCore with combiner := [wEntry] }
/-- The same entry on its way to its bank, and a read behind others. -/
def wFlush : CoreSt := { tCore with flushes := [wEntry], bgUsed := [] }
def wRead : CombEntry := { granule := 0x3FFFF, bytes := [], opened := 999, read := some { req := .debug, at_ := 63, len := 1, sink := none } }
def wReading : CoreSt := { tCore with flushes := [wRead], bgUsed := [] }

theorem witness_CombinerMergesAndFlushes :
    (Alone (tState tRegion [tCore]) 0 tCore ∧ tCore.combWait = [] ∧ 0 < 32 ∧ 0xFFFFE0 % 64 + 32 ≤ 64 ∧
      0xFFFFE0 + 32 ≤ 0x1000000 ∧ tCore.combiner = [] ∧ tCore.flushWrites < 16) ∧
    (Alone (tState tRegion [wComb]) 0 wComb ∧ wComb.combWait = [] ∧ wComb.combiner = [wEntry] ∧ wEntry.granule = 0xFFFFFF / 64 ∧
      64 ≤ (wEntry.merge (.prep 191) 0 [(63, 1#8)]).bytes.length ∧ (wEntry.merge (.prep 191) 0 [(62, 1#8)]).bytes.length < 64 ∧
      wEntry.opened + 64 ≤ (tState tRegion [wComb]).time.cycle) ∧
    (Alone (tState tRegion [wFlush]) 0 wFlush ∧ wFlush.combWait = [] ∧ wFlush.flushes = [wEntry] ∧ wEntry.read = none ∧
      bankOf wEntry.granule ∉ wFlush.bgUsed) ∧
    (Alone (tState tRegion [wReading]) 0 wReading ∧ wReading.combWait = [] ∧ wReading.flushes = [wRead] ∧
      wRead.read = some { req := .debug, at_ := 63, len := 1, sink := none } ∧ bankOf wRead.granule ∉ wReading.bgUsed) :=
  ⟨⟨tAlone _ _, rfl, by decide, by decide, by decide, rfl, by decide⟩,
    ⟨tAlone _ _, rfl, rfl, by decide, by decide +kernel, by decide +kernel, by decide⟩, ⟨tAlone _ _, rfl, rfl, rfl, by decide⟩,
    tAlone _ _, rfl, rfl, rfl, by decide⟩

/-- Words of two requesters wait for the port of the accumulator file, a write of its last entry before a read of the one
before it. -/
def wPortW : AccWord := { req := .debug, stamp := 3, entry := 131071, value := some 0xFFFFFFFF, sink := none }
def wPortR : AccWord := { req := .host, stamp := 4, entry := 131070, value := none, sink := none }
def wPorts : CoreSt := { tCore with accPort := [wPortW, wPortR] }
/-- A write waits while the array and MZERO take both slots. -/
def wBlocked : CoreSt :=
  { tCore with accPort := [wPortW], zeros := [{ due := 999, a0 := 0, n := 64 }]
               accWrites := [{ due := 1000, entry := 0, accum := false, isInt := false, values := [] }] }

theorem witness_AccumulatorPortAndTallySignal :
    (Alone (tState tRegion [wPorts]) 0 wPorts ∧ wPorts.accPort = [wPortW, wPortR] ∧ wPortW.value = some 0xFFFFFFFF ∧
      wPortR.value = none ∧ wPortR.sink = none ∧ wPortW.entry ≠ wPortR.entry ∧ wPortW.req ≠ wPortR.req ∧
      0 < wPorts.freeWrites (tState tRegion [wPorts]).time.cycle ∧ wPorts.vLineReads (tState tRegion [wPorts]).time.cycle < 2) ∧
    (Alone (tState tRegion [wBlocked]) 0 wBlocked ∧ wBlocked.accPort = [wPortW] ∧
      wBlocked.freeWrites (tState tRegion [wBlocked]).time.cycle = 0) ∧
    (let s := tState tRegion [tCore]
     Alone s 0 tCore ∧ tCore.combWait = [] ∧ tCore.combiner = [] ∧ tCore.flushes = [] ∧ tCore.accPort = [] ∧ tCore.sigWait = [] ∧
      s.fab.jobs = [] ∧ ∃ i : RegInfo, s.regWriteCheck (s.viewOf (.prep 191)) (s.coreRegGA 0 0x148) .next (47 + 64 * 4095) =
        .ok ({ cls := 0, inst := 0, off := 0x148 }, i) ∧ i.cls = .i) :=
  ⟨⟨tAlone _ _, rfl, rfl, rfl, rfl, by decide, by decide, by decide +kernel, by decide +kernel⟩,
    ⟨tAlone _ _, rfl, by decide +kernel⟩, tAlone _ _, rfl, rfl, rfl, rfl, rfl, rfl, { u := 2, p := 2, cls := .i }, by decide +kernel, rfl⟩

/-- No access is on its way in a module without cores. -/
theorem tNoneWaits (s : State) (hj : s.fab.jobs = []) (hc : s.cores = []) : NoneWaits s := ⟨hj, fun c h => by rw [hc] at h; cases h⟩

/-- The last byte of the last stack. -/
def wStackEnd : GA := 2 * 2 ^ 56 + 19 * 2 ^ 40 + (0x2400000000 - 1)

theorem witness_PrepCoreReachesMemory :
    191 < 192 ∧ (tState tRegion []).prepOn 191 = true ∧ 0 < 1 ∧ [7#8].length = 1 ∧ NoneWaits (tState tRegion []) ∧
    InStack (tState tRegion []) wStackEnd 1 19 (0x2400000000 - 1) := by
  refine ⟨by decide, by decide, by decide, rfl, tNoneWaits _ rfl rfl, fun i hi => ?_⟩
  interval_cases i
  decide

/-- A module one of whose channels began a refresh an interval ago, and one whose last channel's refresh has run its time. -/
def wRefreshed (c : Nat) : State :=
  { State.reset with
    time := { State.reset.time with cycle := c }, mem := { State.reset.mem with stackLast := [(64 * 19 + 31, 1000)] } }

theorem witness_RefreshRewritesAndHoldsChannels :
    37 < 48 ∧ slotFrom (tState tRegion []).time.cycle 37 = (tState tRegion []).time.cycle ∧
    19 < 20 ∧ 31 < 32 ∧ (64 * 19 + 31) ∉ State.reset.mem.refreshing ∧ State.reset.mem.stackLast = [] ∧
    (let s := wRefreshed 13870
     (64 * 19 + 31) ∉ s.mem.refreshing ∧ s.mem.stackLast.any (fun z => z.1 == 64 * 19 + 31) = true ∧
      countOf s.mem.stackLast (64 * 19 + 31) + s.refreshGap 19 ≤ s.time.cycle) ∧
    (let s : State := { State.reset with mem := { State.reset.mem with refreshing := [64 * 19 + 31], stackBusy := [(64 * 19 + 31, 0)] } }
     (64 * 19 + 31) ∈ s.mem.refreshing ∧ countOf s.mem.stackBusy (64 * 19 + 31) ≤ s.time.cycle) := by decide

/-- A module whose last channel is in a phase of parking. -/
def wPark (ph : ParkPhase) : ParkEntry := { place := .channel 19 31, unit := .channel 19 31, phase := ph }
def tParked (e : ParkEntry) (x : Region := tRegion) (cs : List CoreSt := []) : State :=
  { tState x cs with mem := { State.reset.mem with parked := [e] } }
/-- A well that waits for the step boundary of its core, which came after the command. -/
def wWatch : ParkEntry := { place := .well 0 15, unit := .well 0 15, phase := .pending none, watch := some 0, since := 999 }
def wStepped : CoreSt := { tCore with stepCycle := 1000 }

theorem witness_ParkingUnitsDrainAndReopen :
    (∀ ph ∈ [ParkPhase.pending (some 1000), .reopening (some 1000), .draining 1000], (tParked (wPark ph)).mem.parked = [wPark ph] ∧
      (tParked (wPark ph)).fw.mgmtDown = false ∧ (wPark ph).phase = ph ∧ (wPark ph).session = 0) ∧
    1000 ≤ (tParked (wPark (.pending (some 1000)))).time.cycle ∧
    (let s := tParked wWatch tRegion [wStepped]
     s.mem.parked = [wWatch] ∧ s.fw.mgmtDown = false ∧ wWatch.watch = some 0 ∧ s.core? 0 = some wStepped ∧
      s.stepsOn wWatch.unit wWatch.watch = true ∧ wWatch.since < wStepped.stepCycle) ∧
    (tParked (wPark (.draining 1000))).drainBusy (wPark (.draining 1000)).place 1000 = false ∧
    (let s := tParked (wPark (.draining 0))
     let s := { s with time := { s.time with cycle := 33000 } }
     s.mem.parked = [wPark (.draining 0)] ∧ 0 + s.ns 10000 ≤ s.time.cycle) := by decide

/-- A region whose group in the last place has a tree over the link between the last two dies. -/
def wTrees : Region :=
  { tRegion with chainMode := List.replicate 64 false, place := { trees := List.replicate 63 none ++ [some [(46, 1)]] } }

theorem witness_MeshLinkDownMarksBothEnds : 47 < 48 ∧ 3 < 4 ∧ neighbour 47 3 = some 46 ∧ State.reset.mem.meshDown = [] ∧
    (∀ y ∈ (tState tRegion []).regions, y.groupsOn [(47, 3), (46, (3 + 2) % 4)] = []) ∧
    (tState wTrees []).mem.meshDown = [] ∧ (tState wTrees []).regions = [wTrees] ∧
    wTrees.groupsOn [(47, 3), (46, (3 + 2) % 4)] = [63] ∧ wTrees.chainMode.getD 63 true = false := by decide

/-- A region that a command stops, with a core that has stopped. -/
def tStopping : Region := { tRegion with phase := .stopping }

theorem witness_DrainedRegionEntersIdle :
    (tState tStopping [{ tCore with run := .halted }]).region? 0 = some tStopping ∧ tStopping.goal = .command ∧
    tStopping.waiter = none ∧ tStopping.resetting = false ∧ tStopping.runRec = none ∧ tStopping.stopKind ≠ .halt ∧
    tStopping.replayStop = none ∧
    (∀ c ∈ (tState tStopping [{ tCore with run := .halted }]).cores, c.region = 0 →
      c.run ≠ .running ∧ c.drained = true ∧ c.combIdle = true) := by decide

/-! ### Witnesses: the domain, barriers, regions, Ethernet -/

/-- A module of a domain of two, its last port and its first one up. -/
def tDomain (p : KPort) (regs : List Region := []) : State :=
  let s := tState tRegion []
  { s with regions := regs, kol := { s.kol with
      inDomain := true, master := 0, members := [⟨0, 1, false⟩, ⟨1, 2, false⟩]
      ports := { p with partner := some 1 } :: List.replicate 14 {} ++ [p] } }

/-- The state of a port that is up. -/
def wUp : KPort := { up := true, trained := true, inRoutes := true }
/-- A packet in the retry buffer, sent four times. -/
def wRetried : RetryPkt := { seq := 2, tries := 4, pkt := { vl := 0, kind := 1, hdr := { dst := 1, src := 0 }, data := [7] } }
/-- A partner whose certificate slot, the last one, is not revoked. -/
def wPartner : Identity := { serial := 2, cores1104 := false, grade300 := false, port := 15, certSlot := 3, sigOk := true }
/-- A port that waits for its partner's return. -/
def wGone : KPort := { partner := some 1, partnerSerial := 2 }

theorem witness_KollekLinksGoDownAndRejoin : 15 < 16 ∧
    (∀ m ∈ [0, 1, 2], (tDomain { wUp with missed := m }).kol.ports[15]? = some { wUp with missed := m }) ∧
    (∀ p ∈ [{ wUp with retryMs := 257 }, { wUp with retry := [wRetried] }],
      (tDomain p).kol.ports[15]? = some p ∧ p.up = true ∧ p.overRetried = true) ∧
    (tDomain wGone).kol.ports[15]? = some wGone ∧ wGone.inRoutes = false ∧ (tDomain wGone).pwr.state = .active ∧
    wGone.partner.isSome = true ∧ wGone.partnerSerial = wPartner.serial ∧ (tDomain wGone).identityOk wPartner = true := by
  decide

/-- A domain in which no route has reached module 1 for 1 ms. -/
def wUnreached : State :=
  let s := tDomain wUp
  { s with time := { s.time with cycle := 3301000 }, kol := { s.kol with unreach := [(1, 1000)] } }

theorem witness_LostPartnerLeavesTheMap : wUnreached.kol.inDomain = true ∧ (∃ y ∈ wUnreached.kol.members, y.num = 1) ∧
    1 ≠ wUnreached.kol.module ∧ wUnreached.kol.master ≠ 1 ∧ wUnreached.fab.barriers = [] ∧ 15 < 16 ∧
    wUnreached.kol.ports[15]? = some wUp ∧ wUp.up = true ∧ wUp.discarding = false ∧ wUnreached.kol.unreach = [(1, 1000)] ∧
    1000 + wUnreached.ns 1000000 ≤ wUnreached.time.cycle ∧ wUnreached.kol.lost.contains 1 = false := by
  decide

/-- A header whose NAK bit is set. -/
def wNak : FlitHdr := { dst := 0, src := 1, nak := true, acked := 3 }
/-- A port whose retry buffer holds two packets, with credits owed; and one whose lane 3 has no credit left. -/
def wRetrying : KPort := { wUp with retry := [{ wRetried with tries := 1 }, { wRetried with seq := 4, tries := 1 }], owed := [1, 0, 0, 2] }
def wNoCredit : KPort := { wUp with spent := [0, 0, 0, 8] }

theorem witness_LinkLevelRetryAndCredits : 15 < 16 ∧ (tDomain wRetrying).kol.ports[15]? = some wRetrying ∧ wRetrying.up = true ∧
    wRetrying.discarding = false ∧ wRetrying.takes wNak = true ∧ wNak.nak = true ∧
    wRetrying.takes { wNak with nak := false } = true ∧ (tDomain wNoCredit).kol.ports[15]? = some wNoCredit ∧
    wNoCredit.canSend { vl := 3, kind := 5, hdr := wNak, data := [] } = false := by decide

/-- Headers of packets for this module, with a payload of one byte, and of one for the other module. -/
def wHdr : FlitHdr := { dst := 0, src := 1, dstGA := wStackEnd, srcGA := wStackEnd, payload := 1, issuer := 5, queue := 3, tagIdx := 15 }
def wSig : FlitHdr := { dst := 0, src := 1, sigCore := 0, sigTally := 47, sigCount := 4095 }
def wThere : FlitHdr := { dst := 1, src := 2 }
/-- Reads that another module is to answer, of a core and of the last prep hart. -/
def wAsked (core : Nat) : RemoteRead := { core := core, q := 3, idx := 15, gen := 0, off := 0, len := 1, module := 1 }
def wAsking (core : Nat) : State := { tDomain wUp with fab := { State.reset.fab with reads := [wAsked core] } }
/-- A module that has lost its partner. -/
def wLosing : State := { tDomain wUp with kol := { (tDomain wUp).kol with lost := [1] } }
/-- The module with a core that runs. -/
def wTarget : State := { tDomain wUp [tRegion] with cores := [tCore] }

theorem witness_PacketsReachTheirModule :
    (15 < 16 ∧ (tDomain wUp).kol.ports[15]? = some wUp ∧ wUp.up = true ∧ wUp.discarding = false ∧ NoneWaits (tDomain wUp) ∧
      (tDomain wUp).kol.lost.contains wHdr.src = false ∧ wHdr.dst = (tDomain wUp).kol.module ∧ wHdr.sigLast = false ∧
      0 < [7#8].length ∧ [7#8].length = wHdr.payload ∧ wHdr.payload ≤ 65536 ∧
      InStack (tDomain wUp) wHdr.dstGA 1 19 (0x2400000000 - 1) ∧
      (∃ q h, ((tDomain wUp).receive 15 1 0x02 wHdr (1 + (0 + 255) / 256)).route wHdr.src = some (q, h))) ∧
    (wLosing.kol.ports[15]? = some wUp ∧ NoneWaits wLosing ∧ wLosing.kol.lost.contains wHdr.src = true) ∧
    (∀ k ∈ [5, 2048 + 191], (wAsking k).kol.ports[15]? = some wUp ∧ (wAsking k).fab.reads = [wAsked k] ∧ (wAsked k).q = wHdr.queue ∧
      (wAsked k).idx = wHdr.tagIdx ∧ (wAsked k).len = wHdr.payload ∧ (wAsking k).fab.jobs = [] ∧ (wAsking k).cores = []) ∧
    (Alone wTarget wSig.sigCore tCore ∧ wTarget.kol.ports[15]? = some wUp ∧ NoneWaits wTarget ∧ wTarget.refusing 0 = false ∧
      wTarget.fab.signals = [] ∧ wSig.sigTally < 48 ∧ 0 < wSig.sigCount) ∧
    (wThere.dst ≠ (tDomain wUp).kol.module ∧
      ∃ q h, ((tDomain wUp).receive 15 0 0x01 wThere (1 + (([] : List Byte).length + 255) / 256)).route wThere.dst = some (q, h)) := by
  refine ⟨⟨by decide, rfl, rfl, rfl, tNoneWaits _ rfl rfl, rfl, rfl, rfl, by decide, rfl, by decide, ?_, ⟨0, 1, by decide +kernel⟩⟩,
    ⟨rfl, tNoneWaits _ rfl rfl, rfl⟩, by decide, ⟨tAlone tRegion tCore, rfl, ⟨rfl, by decide⟩, by decide, rfl, by decide, by decide⟩,
    by decide, 0, 1, by decide +kernel⟩
  intro i hi
  interval_cases i
  decide

/-- Discovery is under way, its window of 10 s at its end. -/
def wSeeking : State :=
  { tState tRegion [] with kol := { State.reset.kol with discovering := some ⟨40000, [], none⟩ } }
/-- A member whose count is not aligned yet. -/
def wMember (master : Bool) : State :=
  { tDomain wUp with kol := { (tDomain wUp).kol with isMaster := master, aligned := false } }

theorem witness_DiscoveryAndAlignment :
    (wSeeking.kol.discovering = some ⟨40000, [], none⟩ ∧ wPartner.port < 16 ∧ wSeeking.identityOk wPartner = true ∧
      wPartner.near = 0 ∧ wSeeking.identityOk { wPartner with near := 2, serial := 3 } = true ∧
      wSeeking.identityOk { wPartner with certSlot := 4 } = false ∧ 50000 ≤ wSeeking.time.tick ∧
      40000 + 1000 * wSeeking.setting 0x0B ≤ wSeeking.time.tick) ∧
    (portPartner 0 14 = some 56 ∧ portPartner 56 6 = some 63) ∧
    (∀ b ∈ [false, true], (wMember b).kol.inDomain = true ∧ (wMember b).kol.aligned = false ∧
      (∀ x ∈ (wMember b).regions, x.phase ≠ .running) ∧ (wMember b).kol.isMaster = b) := by decide

/-- A region that a barrier has committed. -/
def tCommitted : Region := { tRegion with phase := .idle, committed := true }
/-- A barrier of region 0 on a module alone, opened 100 ticks ago. -/
def wBarrier : Barrier :=
  { seq := 0, regions := [0], members := [0], step := 0, replace := false, opened := 49900, phase := .arrival, arrivals := []
    t := none, confirms := [], clients := [], resume := false }
def tBarrier (b : Barrier) : State :=
  let s := tState tCommitted [{ tCore with run := .stopped }]
  { s with time := { s.time with cycle := 262144 }, fab := { s.fab with barriers := [b], barrierSeq := 1 } }
/-- A member of a barrier that its domain's master leads. -/
def wFollower : State := { tBarrier { wBarrier with members := [0, 1] } with kol := (wMember false).kol }

theorem witness_SolderBarrierRunsItsRegions :
    ((tBarrier wBarrier).fab.barriers = [wBarrier] ∧ wBarrier.phase = .arrival ∧
      0 ∈ wBarrier.members ∧ (∀ a ∈ wBarrier.arrivals, a.1 ≠ 0) ∧ 50000 ≤ (tBarrier wBarrier).time.tick ∧
      wBarrier.opened + (tBarrier wBarrier).solderWindow ≤ (tBarrier wBarrier).time.tick) ∧
    (∀ k ∈ [262144, 7], let b := { wBarrier with arrivals := [(0, k)] }
     (tBarrier b).fab.barriers = [b] ∧ b.phase = .arrival ∧ (tBarrier b).fw.mgmtDown = false ∧
      b.replace = false ∧ b.members = [0] ∧ b.arrivals = [(0, k)]) ∧
    (let b := { wBarrier with phase := .commit, t := some 262144, base := some (2 ^ 32) }
     (tBarrier b).fab.barriers = [b] ∧ b.phase = .commit ∧ b.t = some 262144 ∧ 262144 ≤ (tBarrier b).time.cycle ∧ b.regions = [0] ∧
      b.members.length ≤ 1 ∧ b.clients = [] ∧
      (tBarrier b).region? 0 = some tCommitted ∧ tCommitted.phase = .idle ∧ tCommitted.committed = true ∧
      tCommitted.loaded = true) ∧
    (wFollower.fab.barriers = [{ wBarrier with members := [0, 1] }] ∧ wFollower.leads [0, 1] = false) ∧
    (let b := { wBarrier with phase := .started, t := some 131072 }
     (tBarrier b).fab.barriers = [b] ∧ b.phase = .started ∧ (∀ k ∈ b.members, k = 0 ∨ k ∈ b.confirms) ∧ b.t = some 131072 ∧
      131072 + (tBarrier b).leadOf b ≤ (tBarrier b).time.cycle) := by decide

/-- A region paced at step 3 whose core has reached it, and one that has paused there. -/
def tPaced : Region := { tRegion with paceP := 3, paceI := 65536, pauseFor := some 3 }
def wReached : CoreSt := { tCore with run := .stopped, step := 2 }
/-- The region after its pause. -/
def tPausing : Region := { tPaced with phase := .idle, goal := .pace, committed := true, lastStop := 1000, paused := 3 }

theorem witness_PacePausesAndResumes :
    ((tState tPaced [wReached]).region? 0 = some tPaced ∧ pauseReached ((tState tPaced [wReached]).coresOf 0) tPaced = true ∧
      (tState tPaced [wReached]).nextPause tPaced = some 3 ∧ (∀ p ∈ tPaced.solderSteps, p.1 ≠ 3) ∧
      ((tState tPaced [wReached]).solderSet tPaced).length ≤ 1) ∧
    ((tState tPausing [wReached]).region? 0 = some tPausing ∧ (tState tPausing [wReached]).nextPause tPausing = some 6 ∧
      tPausing.phase = .idle ∧ tPausing.goal = .pace ∧
      tPausing.committed = true ∧ (tState tPausing [wReached]).fw.mgmtDown = false) := by decide

/-- The last region in a transition. -/
def tMoving (ph : Phase) (x : Region := tRegion) : Region := { x with num := 7, phase := ph }

theorem witness_RegionTransitionsEnd :
    (∀ x ∈ [{ tMoving .loading with waiter := some (3, 9, 0x0200) }, tMoving .defining,
        { tMoving .defining with undefining := true }, tMoving .parking,
        { tMoving .repairing with repairing := some (.coreSwap 0), place := { bindings := [{ lcore := 0, phys := 1247 }] } }],
      (tState x []).region? 7 = some x ∧ x.num = 7) ∧
    (∀ c ∈ (tState (tMoving .parking) [{ tCore with region := 7 }, tCore]).cores, c.region = 7 →
      c.combIdle = true ∧ c.landing = []) ∧
    ({ tMoving .repairing with place := { bindings := [{ lcore := 0, phys := 1247 }] } } : Region).physOf 0 = some 1247 ∧
    1247 ∉ State.reset.mem.defects := by decide

/-- The last Ethernet port, on a network with addresses. -/
def tEth (e : EPort) : State :=
  { State.reset with
    time := { State.reset.time with tick := 50000 }
    eth := List.replicate 7 {} ++ [e]
    set := { State.reset.set with active := setKey (setKey defaultSettings 2 0x0A000001) 4 1 } }

theorem witness_EthernetPortsAnswer : 7 < 8 ∧
    (∀ e ∈ [({} : EPort), { up := true }, { up := true, xoff := true }], (tEth e).portsLive = true ∧ (tEth e).eth[7]? = some e) ∧
    (tEth {}).hasV4 7 0x0A000001 = true ∧ (tEth {}).hasV6 7 1 = true ∧ (List.replicate 9216 0#8).length ≤ 9216 ∧
    50000 ≤ (tEth {}).time.tick ∧ 1572864 < 1572865 ∧ 1048575 < 1048576 := by
  refine ⟨by decide, by decide, by decide, ?_, List.length_replicate.le, by decide, by decide, by decide⟩
  simp only [State.hasV6, Bool.or_eq_true]
  left
  decide

/-! ### Witnesses: resets, power, halts -/

/-- A module in a power state, with a region that runs on a core in the active one. -/
def tPower (p : PState) : State :=
  let s := tState tRegion [tCore]
  let s := if p = .active then s else { s with regions := [], cores := [] }
  { s with pwr := { s.pwr with state := p } }

/-- A header of session 7, sequence number 5, with a tag that verifies. -/
def tHdr : Hdr := { session := 7, seq := 5, tag := .good, port := 4, source := 9, udp := 49500 }
/-- The session that awaits it. -/
def tSession : Session := { num := 7, priv := true, lastTick := 49000, next := 5 }
/-- A module with that session. -/
def tHost (x : Session) (s : State) : State := { s with host := { s.host with sessions := [x], nextSession := 8 } }

theorem tInTurn (s : State) (h : Hdr) (x : Session)
    (a : s.listening = true ∧ badDatagram h = false ∧ h.code = none ∧ h.lengthOk = true ∧ s.session? h.session = some x ∧
      (∀ y ∈ s.host.sessions, y.num = h.session → y = x) ∧ h.session ≠ 0 ∧ (x.priv = true → h.tag = .good) ∧
      h.seq = x.next ∧ ∀ e ∈ x.held, e.hdr.seq ≠ h.seq + 1) : InTurn s h x := by
  obtain ⟨a1, a2, a3, a4, a5, a6, a7, a8, a9, a10⟩ := a
  exact ⟨⟨a1, a2, a3, a4⟩, a5, a6, a7, a8, a9, a10⟩

/-- The last die as a region. -/
def tDie (ph : Phase) : Region := { num := 7, x0 := 7, y0 := 5, x1 := 7, y1 := 5, phase := ph, loaded := true }
/-- A module with that region, a core that stands in it, and the session. -/
def tStands (ph : Phase) : State :=
  tHost tSession { tPower .active with regions := [tDie ph], cores := [{ tCore with region := 7, run := .stopped }] }

theorem witness_ResetsLoseTheState :
    (InTurn (tStands .idle) tHdr tSession ∧ tSession.priv = true ∧ (tStands .idle).pwr.reset = none ∧ 7 < 8 ∧
      (tStands .idle).region? 7 = some (tDie .idle) ∧ (tDie .idle).busy = false ∧ (tDie .idle).phase = .idle ∧
      (tStands .idle).core? 0 = some { tCore with region := 7, run := .stopped } ∧ 47 < 48 ∧ (tDie .idle).hasDie 47 = true) ∧
    (tPower .off).pwr.reset = none ∧ (tPower .off).pwr.state = .off ∧ (tPower .off).pwr.pwrEn = true ∧
    (tPower .active).pwr.reset = none ∧ (tPower .active).pwr.state ≠ .off ∧
    ((tPower .active).regions.map fun x => x.num).Nodup ∧ (tPower .active).pwr.watchdogArmed = true ∧ 9 < 10 ∧ 4000 ≤ 4000 ∧
    (let u : State := { tPower .active with pwr := { (tPower .active).pwr with reset := some { source := .pin, level := .l1 } } }
     u.imageOk u.fw.imageA = true ∧ u.keyless = false ∧ (u.set.valid0 || u.set.valid1) = true) ∧
    (let u : State := { tPower .active with fw := { State.reset.fw with imageA := { State.reset.fw.imageA with ok := false } } }
     u.imageOk u.fw.imageA = false ∧ u.imageOk u.fw.imageB = false) ∧
    ({ State.reset with sec := { State.reset.sec with lifecycle := 7 } } : State).keyless = true :=
  ⟨⟨tInTurn _ _ _ (by decide), by decide⟩, by decide⟩

/-- A power transition of the session and sequence number 0 and 0. -/
def tTransit (p q : PState) : State :=
  { tPower p with pwr := { (tPower p).pwr with moving := some { target := q, session := 0, seq := 0 }, refLocked := true } }
/-- A governor that acts, with a number of samples below the release level. -/
def tGoverned (below interval : Nat) : State :=
  { tPower .active with pwr := { (tPower .active).pwr with gov := { acting := true, interval := interval, below := below } } }

theorem witness_PowerMovesAsCommanded :
    (∀ p ∈ [PState.standby, .ready, .active], InTurn (tHost tSession (tPower p)) tHdr tSession ∧
      (tHost tSession (tPower p)).pwr.state = p ∧ (tHost tSession (tPower p)).pwr.moving = none) ∧
    (2000 ≤ 16000 ∧ InTurn (tStands .idle) tHdr tSession ∧ (∀ z ∈ (tStands .idle).regions, z.phase ≠ .running ∧ z.busy = false) ∧
      (tPower .standby).pwr.thermalHold = false ∧ (tPower .standby).pwr.inputHold = false ∧
      (tPower .standby).pwr.thermTrip = false ∧ (tPower .standby).keyless = false) ∧
    (∀ m ∈ [(PState.ready, PState.active), (.standby, .ready), (.active, .ready), (.ready, .standby), (.standby, .off)],
      (tTransit m.1 m.2).pwr.state = m.1 ∧ (tTransit m.1 m.2).pwr.moving = some { target := m.2, session := 0, seq := 0 }) ∧
    (tTransit .standby .ready).kol.discovering = none ∧ (tPower .active).pwr.state = .active ∧ 1247 < 1248 ∧
    50000 ≤ (tPower .ready).time.tick ∧ (tPower .ready).pwr.state ≠ .active ∧
    (tPower .active).pwr.cap * 1 < 16001 ∧ 15199 * 100 < (tPower .active).pwr.cap * 1 * 95 ∧
    (∀ b ∈ [98, 99], ∀ i ∈ [65536, 131072], (tGoverned b i).pwr.gov.acting = true ∧ (tGoverned b i).pwr.gov.below = b ∧
      (tGoverned b i).pwr.gov.interval = i) ∧
    (10 ≤ 10 ∧ 9 < 10 ∧ (tTransit .ready .active).pwr.refLocked = true ∧ (tTransit .ready .active).kol.inDomain = false ∧
      (let s := tDomain wUp
       let s : State := { s with pwr := { s.pwr with refLocked := true } }
       s.kol.inDomain = true ∧ s.pwr.state = .active ∧ s.pwr.refLocked = true) ∧
      (tPower .ready).pwr.lastSync = none ∧
      ({ tPower .ready with pwr := { (tPower .ready).pwr with lastSync := some 999 } } : State).time.cycle <
        999 + (tPower .ready).tickLength) := by
  refine ⟨fun p hp => ?_, ⟨by decide, tInTurn _ _ _ (by decide), by decide⟩, by decide⟩
  fin_cases hp <;> exact ⟨tInTurn _ _ _ (by decide), by decide⟩

theorem witness_HaltsAndMeasures : (tPower .active).pwr.reset = none ∧ (tPower .active).pwr.state ≠ .off ∧
    (tPower .active).pwr.state ≠ .boot ∧ (tPower .active).pwr.thermalHold = false ∧
    alarmAt (.stack 19) = 1360 ∧ alarmAt (.island 1247) = 1520 ∧ (1680 : Int) = alarmAt (.island 1247) + 160 ∧ 1000 ≤ 1000 ∧
    (1840 : Int) ≤ 1840 ∧ (1839 : Int) < 1840 ∧
    (49999 < 50000 ∧ 40000 ≤ 49999 ∧ 1000 ≤ 1000) ∧ (39999 < 42000 ∧ 39999 < 40000 ∧ 39999 < 50000) ∧ 41999 < 42000 ∧
    40000 ≤ 41999 ∧ 64000 < 64001 ∧ (320000 < 320001 ∧ 10000 ≤ 10000) ∧ 1247 < 1248 ∧ 50000 ≤ (tPower .active).time.tick ∧
    19967 < 19968 ∧ 47 < 48 ∧ ((tPower .ready).pwr.state = .ready ∧ ∀ x ∈ (tPower .ready).regions, x.phase ≠ .running) := by
  decide

/-! ### Witnesses: the management clock, sessions, regions -/

/-- Sessions at the ends of their times: idle for 1 s, with an event sent 100 ticks ago for the thirtieth time, and one
with lost events and none outstanding. -/
def wPending : EvPend := { seq := 3, code := .runEnd, items := [], step := 2 ^ 64 - 1, sent := 49900, tries := 30 }
def wIdle : Session := { tSession with idle := 1, events := [wPending] }
def wLost : Session := { tSession with evLost := 2 }
/-- Acknowledgements of events, in form and not. -/
def wAck : Hdr := { tHdr with kind := 4, seq := 3 }
/-- A module whose commit, restart and debug level end now. -/
def wEnding : State :=
  let s := tHost tSession (tPower .ready)
  { s with
    set := { s.set with committing := some { session := 7, seq := 4, table := defaultSettings } }
    fw := { s.fw with restart := some { since := 48600, update := true, session := 7, seq := 3 } }
    sec := { s.sec with level := .full, dbgUntil := 50000 } }
/-- A core with an entry in its configuration buffer. -/
def wBuffered : CoreSt := { tCore with cfg := [{ off := 0x100, value := 3, target := .next, cycle := 900, ticket := 0 }] }

theorem witness_ManagementTimersAct :
    50000 ≤ (tHost wIdle (tPower .ready)).time.tick ∧
    ((tHost wIdle (tPower .ready)).session? wIdle.num = some wIdle ∧ (tHost wIdle (tPower .ready)).fw.mgmtDown = false ∧
      wIdle.lastTick + 1000 * wIdle.idle ≤ (tHost wIdle (tPower .ready)).time.tick ∧
      wIdle.events.find? (fun y => y.seq == 3) = some wPending ∧
      wPending.sent + 100 ≤ (tHost wIdle (tPower .ready)).time.tick ∧ wPending.tries ≤ 30) ∧
    (tHost tSession (tPower .ready)).time.tick < tSession.lastTick + 1000 * tSession.idle ∧
    ((tHost wIdle (tPower .ready)).listening = true ∧ badHeader 4 wAck = false ∧ badHeader 4 tHdr = true ∧
      (wIdle.priv = true → wAck.tag = .good) ∧ (tHost wIdle (tPower .ready)).session? wAck.session = some wIdle ∧ wIdle.evLost = 0) ∧
    ((tHost wLost (tPower .ready)).listening = true ∧ (wLost.priv = true → wAck.tag = .good) ∧
      ((tHost wLost (tPower .ready)).host.sessions.filter fun y => y.num == wAck.session) = [wLost] ∧ wLost.evLost ≠ 0 ∧
      (wLost.events.filter fun w => decide (wAck.seq < w.seq)).length < 1024 ∧
      ∀ z ∈ (tHost wLost (tPower .ready)).regions, z.phase ≠ .running) ∧
    (wEnding.set.committing = some { session := 7, seq := 4, table := defaultSettings } ∧
      wEnding.fw.restart = some { since := 48600, update := true, session := 7, seq := 3 } ∧ wEnding.fw.fallback = false ∧
      48600 + 1400 ≤ wEnding.time.tick ∧ wEnding.sec.level ≠ .closed ∧ wEnding.sec.dbgUntil ≤ wEnding.time.tick ∧
      wEnding.keyless = false) ∧
    ((tPower .ready).regInfo { cls := 4, inst := 0, off := 0x178 } = some iInfo ∧ iInfo.cls ≠ .ro ∧ 4 < 5) ∧
    (Alone (tState tRegion [wBuffered]) 0 wBuffered ∧
      wBuffered.cfg[0]? = some { off := 0x100, value := 3, target := .next, cycle := 900, ticket := 0 }) :=
  ⟨by decide, by decide, by decide, by decide, by decide, by decide, by decide, tAlone _ _, rfl⟩

/-- The part of a witness that the session commands share. -/
theorem witness_inTurn : InTurn (tHost tSession (tPower .active)) tHdr tSession := tInTurn _ _ _ (by decide)

/-- A session with a nonce that is 10 s old, and its signer. -/
def wNonce : Session := { tSession with priv := false, nonce := some 77, nonceAt := 40000 }
def wOwner : Trailer := { owner := true, slot := 0, keyDigest := 5, sigOk := true }
def wVendor : Trailer := { owner := false, slot := 3, keyDigest := 4, sigOk := true }
/-- A returned module, which has no owner's key. -/
def wReturned : State := { tHost wNonce (tPower .ready) with sec := { State.reset.sec with lifecycle := 7 } }
/-- A module with a stream, an allocation and a run that has ended. -/
def wRun : RunRec :=
  { region := 7, loadSeq := 9, object := 0, record := 0, n := 1, modules := 1, seed := 0, base := 0, t0 := 0, clock300 := false }
def wServed : State :=
  let s := tHost tSession (tState { tRegion with num := 7, runRec := some wRun } [{ tCore with region := 7 }])
  { s with host := { s.host with streams := [{ session := 7, num := 63 }], allocs := [{ ga := 2 ^ 57, size := 8192 }] } }
/-- The same module with the record of a run of a region that has left, in its ledger. -/
def wLedger : State :=
  { wServed with host := { wServed.host with
      ledger := [{ seq := 0, kind := 5, cycle := 3, tick := 1, items := [.run { wRun with region := 6 }] }] } }
/-- The last place of the last stack that an allocation of 8 KiB may take. -/
def wLastPlace : GA := 2 * 2 ^ 56 + 19 * 2 ^ 40 + (0x2400000000 - 8192)

theorem witness_SessionCommandsAnswer :
    (Heard (tPower .ready) { tHdr with session := 0 } ∧ (tPower .ready).host.sessions.length < 32 ∧
      Heard { tPower .ready with host := { (tPower .ready).host with sessions := List.replicate 32 { num := 1 } } }
        { tHdr with session := 0 } ∧ 32 ≤ (List.replicate 32 ({ num := 1 } : Session)).length) ∧
    (InTurn (tHost tSession (tPower .active)) tHdr tSession ∧
      (let s := tHost tSession (tPower .active)
       s.privCount < 16 ∧ s.stream? 7 63 = none ∧ tSession.priv = true ∧ 8192 % 8192 = 0 ∧
       s.powered = true ∧ s.stackRange wLastPlace 8192 = true ∧
       (s.occupied none).any (gaMeet (wLastPlace, 8192)) = false ∧ s.core? 0 = some tCore ∧ s.region? 0 = some tRegion ∧
       tCore.region = 0 ∧ (s.cores.map fun d => d.lcore).Nodup ∧ 8192 ≤ 8192 ∧ 1 ≤ 14 ∧ 15 < 16 ∧
       (2 ^ 64 - 1 : Nat) < 2 ^ 64 ∧ (2 ^ 32 - 1 : Nat) < 2 ^ 32 ∧ (2 ^ 256 - 1 : Nat) < 2 ^ 256 ∧ s.lifecycle = 2 ∧
       settingOk 0x0E 16000 (fun j => (keyOf (overlay s.set.committed s.set.staged) j).getD 0) = true ∧
       s.set.committing = none ∧ s.keyless = false) ∧
      (∀ d ∈ [({ network := 0, address := 1, port := 65535 } : EventDest), { network := 1, address := 1, port := 0 }],
        d.network < 2 ∧ d.port < 65536) ∧
      ([({ network := 0, address := 1, port := 65535 } : EventDest), { network := 1, address := 1, port := 0 }].map
        fun d => d.network).Nodup ∧
      ∃ g, (tHost tSession (tPower .active)).freePlace 8192 ((tHost tSession (tPower .active)).occupied none) = some g) ∧
    (InTurn (tHost wNonce (tPower .ready)) tHdr wNonce ∧ wNonce.nonce = some 77 ∧ (tHost wNonce (tPower .ready)).privCount < 16 ∧
      (tHost wNonce (tPower .ready)).time.tick ≤ wNonce.nonceAt + 10000 ∧ (tHost wNonce (tPower .ready)).keyless = false ∧
      wOwner.sigOk = true ∧ wOwner.keyDigest ≠ 0 ∧
      (tHost wNonce (tPower .ready)).sec.owner[wOwner.slot]? = some wOwner.keyDigest ∧
      (tHost wNonce (tPower .ready)).sec.ownerRevoke.testBit wOwner.slot = false) ∧
    (InTurn wReturned tHdr wNonce ∧ wReturned.keyless = true ∧ wVendor.sigOk = true ∧
      wReturned.privCount < 16 ∧ wReturned.sec.vendor[wVendor.slot]? = some wVendor.keyDigest ∧
      wReturned.sec.vendorRevoke.testBit wVendor.slot = false) ∧
    (InTurn wServed tHdr tSession ∧ wServed.stream? 7 63 = some { session := 7, num := 63 } ∧ wServed.fab.jobs = [] ∧
      (∃ a ∈ wServed.host.allocs, a.ga = 2 ^ 57) ∧
      ∃ y, wServed.region? 7 = some y ∧ y.ran = true ∧ y.runRec = some wRun ∧ wRun.region = 7 ∧ wRun.loadSeq = 9) ∧
    (InTurn wLedger tHdr tSession ∧ wLedger.region? 6 = none ∧
      (wLedger.ledgerRuns.find? fun w => w.region == 6 && w.loadSeq == 9) = some { wRun with region := 6 }) := by
  refine ⟨⟨⟨by decide, by decide, by decide, by decide⟩, by decide, ⟨by decide, by decide, by decide, by decide⟩, by decide⟩,
    ⟨witness_inTurn, by decide, by decide, by decide, ?_⟩,
    ⟨tInTurn _ _ _ (by decide), by decide⟩, ⟨tInTurn _ _ _ (by decide), by decide⟩,
    ⟨tInTurn _ _ _ (by decide), by decide, by decide, by decide, ⟨_, rfl, rfl, rfl, rfl, rfl⟩⟩,
    ⟨tInTurn _ _ _ (by decide), by decide, by decide⟩⟩
  exact Option.isSome_iff_exists.mp (by decide +kernel)

/-- An object of one core of one bundle. -/
def wObject : FliupObject :=
  { classes := [{ image := [0] }], classMap := [{ a := { c0 := 0 }, b := { c0 := 1 }, cls := 0 }] }
/-- A module with a region in a phase and an allocation in which the framed bytes of an object lie: one section of 55 bytes. -/
def tRegioned (x : Region) : State :=
  let s := tHost tSession (tState x [{ tCore with region := 7, phys := 1247 }])
  { s with
    host := { s.host with allocs := [{ ga := 2 ^ 57, size := 8192 }] }, mem := { s.mem with stackMem := [(0, 1), (1, 55)] } }
/-- The module as the load finds it. -/
def wLoading : State := (tRegioned (tDie .parked)).noted tHdr
def wLoad : LoadArgs :=
  { region := 7, ga := 2 ^ 57, length := 64, digest := wLoading.objectDigest (2 ^ 57) 64, n := 1, object := wObject }

theorem tLoadPasses : ∃ plan, wLoading.checkLoad (tDie .parked) wLoad = .ok plan := by
  have e : (wLoading.objectDigest wLoad.ga wLoad.length != wLoad.digest) = false := by
    rw [show wLoad.digest = wLoading.objectDigest wLoad.ga wLoad.length from rfl, bne_self_eq_false]
  have h : (match wLoading.checkLoad (tDie .parked) wLoad with | .ok _ => true | .error _ => false) = true := by
    unfold State.checkLoad State.loadReasons
    simp only [e]
    decide +kernel
  split at h
  · exact ⟨_, by assumption⟩
  · cases h

/-- A region whose only core stands before a step marker, after one step of its run. -/
def wBetween : Region := { tDie .idle with ran := true, base := 2 ^ 32 }
def wBefore : State :=
  { tRegioned wBetween with cores := [{ tCore with
      region := 7, phys := 1247, run := .stopped, step := 2 ^ 32
      imem := Mem.write [] 0 (leBytes 16 (encodeBundle { tBundle with marker := true }).toNat) }] }

/-- A module whose debug level is FULL. -/
def tDebug : State :=
  let s := tHost tSession (tPower .ready)
  { s with sec := { s.sec with level := .full } }
/-- The address of the last backup register, and of the two-phase control of core 0. -/
def wBackup : GA := 3 * 2 ^ 56 + 4 * 2 ^ 53 + 0x178
def wTwoPhase : GA := 3 * 2 ^ 56 + 0x100

theorem witness_RegionCommandsAnswer :
    (∀ x ∈ [tDie .parked, tDie .idle, tDie .running],
      InTurn (tRegioned x) tHdr tSession ∧ (tRegioned x).region? 7 = some x ∧ x.busy = false ∧ x.hostPace = none) ∧
    (wLoad.region = 7 ∧ (tDie .parked).phase ≠ .running ∧ wLoading.inAlloc wLoad.ga wLoad.length = true ∧
      ∃ plan, wLoading.checkLoad (tDie .parked) wLoad = .ok plan) ∧
    ((tRegioned (tDie .idle)).pwr.state = .active ∧ (tRegioned (tDie .idle)).pwr.moving = none ∧
      (tDie .idle).phase = .idle ∧ (tDie .idle).loaded = true ∧ (tDie .idle).ran = false ∧ (tDie .idle).spoiled = false ∧
      [7] ≠ [] ∧ [7].Nodup ∧ (∀ j ∈ [7], j < 8) ∧ (tRegioned (tDie .idle)).fab.barriers = [] ∧
      (tRegioned (tDie .idle)).kol.inDomain = false ∧ (tRegioned (tDie .idle)).fab.barrierSeq + 1 < 2 ^ 32 ∧
      (tRegioned (tDie .idle)).fw.mgmtDown = false ∧ ∀ z ∈ (tRegioned (tDie .idle)).regions, z.idleAt ≤ 1000) ∧
    (wBefore.region? 7 = some wBetween ∧ wBefore.resumable wBetween = true ∧ wBefore.resumeStep wBetween = 1 ∧
      wBefore.passed wBetween 1 = false ∧ InTurn wBefore tHdr tSession) ∧
    (tRegioned (tDie .running)).passed (tDie .running) 3 = false ∧
    (((tRegioned (tDie .idle)).core? 0).isSome = true ∧ 16383 < 16384) ∧
    ((tRegioned (tDie .idle)).region? 6 = none ∧ (tRegioned (tDie .idle)).powered = true ∧
      ∀ z ∈ (tRegioned (tDie .idle)).regions, z.x1 < 0 ∨ 6 < z.x0 ∨ z.y1 < 0 ∨ 5 < z.y0) ∧
    wLoading.repairBad (tDie .parked) (.stackChannel 19 31) false = none ∧
    (∃ pl watch, ((tRegioned (tDie .idle)).noted tHdr).unitPlace (.well 0 15) = .ok (pl, watch)) ∧
    (fcodeOf 0x32 = some .tallyImbalance ∧ 0x32 / 16 < 5 ∧ policyRegOk (0x32 / 16)
      (setPolicyField ((tDie .idle).policies.getD (0x32 / 16 - 1) 0) .tallyImbalance 2) = true) ∧
    (∃ loc, ((tRegioned (tDie .idle)).noted tHdr).regReadCheck .p wBackup = .ok loc) ∧
    (∃ loc info, ((tRegioned (tDie .idle)).noted tHdr).regWriteCheck .p wBackup .next 5 = .ok (loc, info) ∧ info.cls ≠ .b) ∧
    (∃ loc info, ((tRegioned (tDie .running)).noted tHdr).regWriteCheck .p wTwoPhase .next 1 = .ok (loc, info) ∧ info.cls = .b ∧
      0 ∈ ((tRegioned (tDie .running)).noted tHdr).regTargets loc) ∧
    Alone (tRegioned (tDie .running)) 0 { tCore with region := 7, phys := 1247 } ∧
    (InTurn tDebug tHdr tSession ∧ tDebug.sec.level = .full ∧ NoneWaits tDebug ∧
      InStack tDebug (wStackEnd - 7) 8 19 (0x2400000000 - 8) ∧ (tDebug.noted tHdr).controlAt wBackup = true ∧
      ∃ loc, (tDebug.noted tHdr).regReadCheck .p wBackup = .ok loc) := by
  refine ⟨?_, ⟨rfl, by decide, by decide, tLoadPasses⟩, by decide, ⟨by decide +kernel, by decide +kernel, by decide +kernel,
    by decide +kernel, tInTurn _ _ _ (by decide)⟩, by decide, by decide, by decide, by decide, ⟨_, _, rfl⟩, by decide, ⟨_, rfl⟩,
    ⟨_, _, rfl, by decide⟩, ⟨_, _, rfl, rfl, by decide⟩, ⟨rfl, by decide⟩,
    ⟨tInTurn _ _ _ (by decide), rfl, tNoneWaits _ rfl rfl, ?_, by decide, ⟨_, rfl⟩⟩⟩
  · intro x hx
    fin_cases hx <;> exact ⟨tInTurn _ _ _ (by decide), by decide⟩
  · intro i hi
    interval_cases i <;> decide

/-- A module in STANDBY with a session whose signer is the owner of slot 1. -/
def wSigner : Session := { tSession with signer := some (true, 1) }
def tStill (lc : Nat) (x : Session := tSession) : State :=
  let s := tHost x (tPower .standby)
  { s with
    host := { s.host with allocs := [{ ga := 2 ^ 57, size := 8192 }] }
    sec := { s.sec with lifecycle := lc, owner := [5, 6], lcNonce := some (77, 40000), dbgNonce := some (78, 40000) } }
/-- An image of security version 64 with no body: a header that names the digest of nothing, and the trailer of vendor slot 3
with a key and a signature of zeros. -/
def wHeader : List Byte :=
  leBytes 8 2 ++ 64 :: List.replicate 7 0 ++ leBytes 8 0 ++ leBytes 64 (digestBytes []) ++ List.replicate 8 0
def wImage : List Byte := wHeader ++ 3 :: List.replicate 3073 0
/-- The module with that image in its allocation, and the digest of that key in the fuses. -/
def wImaged : State :=
  let s := tStill 3
  { s with
    mem := { s.mem with stackMem := Mem.write [] 0 wImage }
    sec := { s.sec with vendor := s.sec.vendor.set 3 (digestBytes (List.replicate 1793 0)) } }

theorem wImaged_place : ∀ k : Nat, k < 3170 → wImaged.place (2 ^ 57 + k) = .stack 0 k := by
  have h : ∀ a : Nat, a < 57 → ∀ b : Nat, b < 56 → (tStill 3).place (2 ^ 57 + (56 * a + b)) = .stack 0 (56 * a + b) := by decide +kernel
  intro k hk
  have e := h (k / 56) (Nat.div_lt_of_lt_mul (by omega)) (k % 56) (Nat.mod_lt _ (by decide))
  rw [Nat.div_add_mod] at e
  exact e

theorem wImaged_bytes : (List.range 3170).map (fun k => wImaged.placeByte (wImaged.place (2 ^ 57 + k))) = wImage := by
  have hn : wImage.length = 3170 := by simp [wImage, wHeader, leBytes, -List.reduceReplicate]
  apply List.ext_getElem
  · simp [hn]
  · intro k h1 h2
    rw [hn] at h2
    rw [List.getElem_map, List.getElem_range, wImaged_place k h2]
    have e : wImaged.mem.stackMem = Mem.write [] 0 wImage := by simp only [wImaged]
    rw [State.placeByte, e, show stackKey 0 k = k by simp [stackKey], Mem.get_write 0 k wImage rfl, if_pos (Nat.zero_le _), Nat.sub_zero,
      List.getElem?_eq_getElem (by omega)]
    rfl

theorem wImaged_view : imageView wImage true =
    { version := 2, security := 64, reservedOk := true, bodyLength := 0, bodyOk := true
      headerDigest := digestBytes wHeader
      trailer := { owner := false, slot := 3, keyDigest := digestBytes (List.replicate 1793 0), sigOk := true } } := by
  have hl : wHeader.length = 96 := by simp [wHeader, leBytes]
  have hd : bytesIn wImage 24 64 = leBytes 64 (digestBytes []) := rfl
  have hb : bytesIn wImage 96 0 = [] := by simp [bytesIn]
  have hv : leVal (leBytes 64 (digestBytes [])) = digestBytes [] := by
    rw [leVal_leBytes, show (256 : Nat) = 2 ^ 8 from rfl, ← pow_mul]
    exact Nat.mod_eq_of_lt (Nat.mod_lt _ (Nat.two_pow_pos 512))
  have ht : wImage.drop (96 + 0) = 3 :: List.replicate 3073 0 := by rw [wImage]; exact List.drop_left' hl
  have hh : wImage.take 96 = wHeader := by rw [wImage]; exact List.take_left' hl
  have hk : bytesIn (3 :: List.replicate 3073 0) 1 1793 = List.replicate 1793 0 := by
    simp [bytesIn, List.take_replicate, -List.reduceReplicate]
  have h0 : leVal (bytesIn wImage 16 8) = 0 := rfl
  unfold imageView
  simp only [h0, ht, hb, hd, hv, hh, hk, beq_self_eq_true]
  rfl

/-- A module that holds a command which came early, and one that has answered the last one. -/
def wHolding : Session := { tSession with held := [{ hdr := { tHdr with seq := 12 }, cmd := .keepalive, arrived := 49990 }] }
def wAnswered : Session := { tSession with cache := [{ seq := 4, status := .ok, items := [] }] }

theorem witness_ModuleCommandsAnswer :
    badDatagram { tHdr with magic := 0 } = true ∧
    (∀ q ∈ [4, 6, 12, 13], Heard (tHost tSession (tPower .ready)) { tHdr with seq := q } ∧
      (tHost tSession (tPower .ready)).session? 7 = some tSession ∧
      (∀ w ∈ (tHost tSession (tPower .ready)).host.sessions, w.num = 7 → w = tSession) ∧ (∀ w ∈ tSession.held, w.hdr.seq ≠ q)) ∧
    (tSession.next < 6 ∧ 12 ≤ tSession.next + 7 ∧ tSession.next + 7 < 13 ∧ 4 < tSession.next) ∧
    (Heard (tHost wHolding (tPower .ready)) { tHdr with seq := 12 } ∧ ∃ w ∈ wHolding.held, w.hdr.seq = 12) ∧
    (Heard (tHost wAnswered (tPower .ready)) { tHdr with seq := 4 } ∧
      wAnswered.cache.find? (fun w => w.seq == 4) = some { seq := 4, status := .ok, items := [] }) ∧
    InTurn (tHost { tSession with priv := false } (tPower .ready)) tHdr { tSession with priv := false } ∧
    (InTurn wImaged tHdr tSession ∧ wImaged.updateBusy = false ∧ wImaged.inAlloc (2 ^ 57) 3170 = true ∧
      (let view := imageView ((List.range 3170).map fun i => wImaged.placeByte (wImaged.place (2 ^ 57 + i))) true
       3170 = 96 + view.bodyLength + 3074 ∧ view.trailer.owner = false ∧ wImaged.trailerCause view.trailer = none ∧
       view.bodyOk = true ∧ view.reservedOk = true ∧ view.security ≤ 64 ∧ wImaged.sec.rollback ≤ view.security)) ∧
    (let s : State := { tStill 3 with sec := { (tStill 3).sec with rollback := 64 } }
     InTurn s tHdr tSession ∧ s.updateBusy = false ∧ s.inAlloc (2 ^ 57) 1 = true ∧
      (imageView ((List.range 1).map fun i => s.placeByte (s.place (2 ^ 57 + i))) true).security < s.sec.rollback) ∧
    (∀ lc ∈ [0, 1, 3, 7], (tStill lc).pwr.state = .standby ∧ (tStill lc).pwr.moving = none ∧ (tStill lc).fw.restart = none ∧
      (tStill lc).sec.lcNonce = some (77, 40000) ∧ (tStill lc).time.tick ≤ 40000 + 10000 ∧ (tStill lc).vendorOk (some wVendor) = true ∧
      (tStill lc).sec.dbgNonce = some (78, 40000)) ∧
    ((tStill 0).lifecycle = 0 ∧ (tStill 1 wSigner).lifecycle = 1 ∧ (tStill 3).lifecycle ≠ 3 ∧ (tStill 1 wSigner).sec.cert = true ∧
      (tStill 3).sec.identity = true ∧ InTurn (tStill 1 wSigner) tHdr wSigner ∧
      slotsLeft (tStill 3).sec.owner (tStill 3).sec.ownerRevoke 0 = true ∧ wSigner.signer = some (true, 1 - 0) ∧
      slotsLeft (tStill 3).sec.vendor (tStill 3).sec.vendorRevoke 0 = true ∧ wVendor.slot ≠ 0) ∧
    (signersOk (tStill 3).lifecycle 2 [wOwner, wVendor] = true ∧ (∀ w ∈ [wOwner, wVendor], (tStill 3).trailerCause w = none) ∧
      0 < 86400000) ∧
    (let s : State := tHost tSession (tPower .ready)
     let t : State := { s with pwr := { s.pwr with refLocked := true } }
     InTurn t tHdr tSession ∧ t.powered = true ∧ (∀ z ∈ t.regions, z.phase ≠ .running) ∧ t.sec.cert = true ∧ t.keyless = false ∧
      t.pwr.refLocked = true ∧ t.kol.discovering = none) := by
  refine ⟨by decide, ?_, by decide, ⟨⟨by decide, by decide, by decide, by decide⟩, by decide⟩,
    ⟨⟨by decide, by decide, by decide, by decide⟩, by decide⟩, tInTurn _ _ _ (by decide),
    ⟨tInTurn _ _ _ (by decide), by decide, by decide, ?_⟩, ⟨tInTurn _ _ _ (by decide), by decide, by decide, by decide⟩, by decide,
    ⟨by decide, by decide, by decide, by decide, by decide, tInTurn _ _ _ (by decide), by decide, by decide, by decide, by decide⟩,
    by decide, ⟨tInTurn _ _ _ (by decide), by decide⟩⟩
  · intro q hq
    fin_cases hq <;> exact ⟨⟨by decide, by decide, by decide, by decide⟩, by decide⟩
  · rw [wImaged_bytes, wImaged_view]
    refine ⟨rfl, rfl, ?_, rfl, rfl, by decide, by decide⟩
    have hv : wImaged.sec.vendor[3]? = some (digestBytes (List.replicate 1793 0)) := rfl
    have hr : wImaged.sec.vendorRevoke.testBit 3 = false := by decide
    simp [State.trailerCause, hv, hr, -List.reduceReplicate]

/-- A header of stream 63 of session 7, and a packet of the module's own, sent 16 times. -/
def tCmt : CmtHdr := { session := 7, stream := 63, psn := 9, tag := .good }
def tStream : Stream := { session := 7, num := 63, next := 9, landed := 8, sinceAck := 1 }
def wOwn : OwnPkt := { psn := 3, kind := 0x04, ga := 2 ^ 57, word := 0, data := [], tries := 16 }
/-- A module with a stream. -/
def tStreamed (y : Stream) : State :=
  let s := tHost tSession (tPower .ready)
  { s with host := { s.host with streams := [y] } }

theorem tOnStream (h : CmtHdr) (y : Stream) (hs : h.session = 7) (ht : h.tag = .good) (hn : y.session = 7) (hy : y.num = h.stream) :
    OnStream (tStreamed y) h tSession y where
  listening := rfl
  isOpen := by rw [hs]; rfl
  sole := by simp [tStreamed, tHost]
  tag := fun _ => ht
  stream := by simp [tStreamed, State.stream?, hs, hn, hy]
  alone := by simp [tStreamed]

theorem witness_StreamPacketsTakeTheirTurn :
    (OnStream (tStreamed { tStream with closing := true }) tCmt tSession { tStream with closing := true }) ∧
    (OnStream (tStreamed tStream) tCmt tSession tStream ∧ tStream.closing = false ∧ tCmt.psn = tStream.next ∧ tStream.ahead = [] ∧
      NoneWaits (tStreamed tStream) ∧ tSession.priv = true ∧ [9#8].length ≤ 8192 ∧
      InStack (tStreamed tStream) wStackEnd 1 19 (0x2400000000 - 1) ∧ tStream.sinceAck ≠ 0 ∧ tStream.next ≠ 0) ∧
    (let x := { tSession with priv := false }
     OnStream { tStreamed tStream with host := { (tStreamed tStream).host with sessions := [x] } } tCmt x tStream) ∧
    (OnStream (tStreamed tStream) { tCmt with psn := 8 } tSession tStream ∧ 8 < tStream.next) ∧
    (OnStream (tStreamed tStream) { tCmt with psn := 264 } tSession tStream ∧ tStream.next < 264 ∧ 264 ≤ tStream.next + 255) ∧
    (OnStream (tStreamed tStream) { tCmt with psn := 265 } tSession tStream ∧ tStream.next + 255 < 265) ∧
    (OnStream (tStreamed { tStream with own := [wOwn] }) tCmt tSession { tStream with own := [wOwn] } ∧ wOwn.psn = 3 ∧ wOwn.tries ≤ 16) ∧
    (let y := { tStream with missing := some 9, nakTries := 15 }
     OnStream (tStreamed y) tCmt tSession y ∧ y.nakTries < 16 ∧ y.missing.isSome = true ∧ y.own = []) ∧
    (OnStream (tStreamed { tStream with nakTries := 16 }) tCmt tSession { tStream with nakTries := 16 }) := by
  refine ⟨tOnStream _ _ rfl rfl rfl rfl,
    ⟨tOnStream _ _ rfl rfl rfl rfl, rfl, rfl, rfl, tNoneWaits _ rfl rfl, rfl, by decide, ?_, by decide, by decide⟩, ?_,
    ⟨tOnStream _ _ rfl rfl rfl rfl, by decide⟩, ⟨tOnStream _ _ rfl rfl rfl rfl, by decide, by decide⟩,
    ⟨tOnStream _ _ rfl rfl rfl rfl, by decide⟩, ⟨tOnStream _ _ rfl rfl rfl rfl, rfl, by decide⟩,
    ⟨tOnStream _ _ rfl rfl rfl rfl, by decide, rfl, rfl⟩, tOnStream _ _ rfl rfl rfl rfl⟩
  · intro i hi
    interval_cases i
    decide
  · exact ⟨rfl, rfl, by decide, fun _ => rfl, rfl, by decide⟩

/-- A register's address in the control space. -/
def tReg (cls inst off : Nat) : GA := 3 * 2 ^ 56 + cls * 2 ^ 53 + inst * 2 ^ 42 + off
/-- A module whose last die's indirect address names a word that exists, or one beyond the die. -/
def tInd (a : Nat) : State := { tPower .ready with glb := { State.reset.glb with indDie := List.replicate 47 {} ++ [{ addr := a }] } }

/-- The last word of the last unit of a die's indirect targets. -/
def wInd : Nat := 5 * 2 ^ 56 + 26 * 2 ^ 40 + 0x3F

theorem witness_RegistersReadAndWrite :
    (tPower .ready).regLoc (tReg 4 0 0x178) = some { cls := 4, inst := 0, off := 0x100 + 8 * 15 } ∧ (2 ^ 64 - 1 : Nat) < 2 ^ 64 ∧
    (∃ loc info, (tPower .ready).regWriteCheck ((tPower .ready).viewOf .host) (tReg 4 0 0x178) .next 5 = .ok (loc, info)) ∧
    Alone (tState tRegion [tCore]) 0 tCore ∧
    (∃ loc, (tPower .ready).regReadCheck ((tPower .ready).viewOf (.prep 191)) (tReg 4 0 0x0) = .ok loc) ∧
    (tPower .ready).regLoc (tReg 4 0 0x10) = some { cls := 4, inst := 0, off := 0x10 } ∧
    (tPower .ready).regLoc (tReg 1 47 0x48) = some { cls := 1, inst := 47, off := 0x48 } ∧
    (tInd wInd).glb.indDie[47]? = some { addr := wInd } ∧ indTarget 1 { addr := wInd } = some 0x40 ∧
    (tInd (wInd + 1)).glb.indDie[47]? = some { addr := wInd + 1 } ∧ indTarget 1 { addr := wInd + 1 } = none ∧
    (2 ^ 32 - 1 : Nat) < 2 ^ 32 :=
  ⟨by decide, by decide, ⟨_, _, rfl⟩, tAlone _ _, ⟨_, rfl⟩, by decide, by decide, by decide, by decide, by decide, by decide, by decide⟩

/-! ### Witnesses: what holds of every state -/

theorem witness_BundlesDecodeAsTheyAreEncoded : Bundle.wf { tBundle with s := .tsigRemote 47 255 255, x := .mcast 3 253 1 7 63 } = true := by
  decide

theorem witness_StepKeepsMemoriesCanonical : State.reset.Canon ∧ ∃ t, step State.reset = .next t := by
  refine ⟨⟨⟨rfl, rfl, rfl, rfl⟩, fun c hc => ?_⟩, ⟨_, rfl⟩⟩
  cases hc

theorem witness_IntegerReductionSaturatesStepwise :
    ([2147483647, -1, -2147483647, -2147483647] : List Int) ≠ [] ∧
    (∀ n < 5, -2147483648 ≤ (([2147483647, -1, -2147483647, -2147483647] : List Int).take n).sum ∧
      (([2147483647, -1, -2147483647, -2147483647] : List Int).take n).sum ≤ 2147483647) ∧
    (0 : Int) ≤ 2147483647 ∧ (2147483647 : Int) < 2147483647 + 1 := by decide

theorem witness_TagIsTakenOnce : (wWaits.findTag 65535).isSome = true ∧ 2 ≠ bits 65535 5 4 := by decide

theorem witness_StepTakesTheFrontCommand : State.reset.pending = [] ∧
    ({ State.reset with pending := [.syncIn] } : State).pending = .syncIn :: [] := by decide

/-! ### Words and addresses of the spec's worked examples -/

/-- The bundle worked out after R160. -/
theorem test_decode_legacy_vadd : decodeBundle 0x05042B60080000000000000000981F40 =
    { delay := 5, legacy := true, s := .cadd 3 3 (.imm 0x80), v := .vec .vadd 0x30 (.legacy 1000 0) } := by decide +kernel

/-- With the legacy-count flag clear the same V slot has reserved modifier bits set (after R160). -/
theorem test_decode_native_vadd_is_illegal :
    (decodeBundle 0x05002B60080000000000000000981F40).v.legal = false := by decide +kernel

/-- The bundle worked out after R213. -/
theorem test_decode_qput_mpass : decodeBundle 0x03000000000148180034080000000000 =
    { delay := 3, x := .qput 1 0x20 1 4, m := .mpass 0x40 true false } := by decide +kernel

/-- HALT with every other slot NOP, written out from the maps of R154 and R155: opcode 0x01 at [27:23]. -/
theorem test_decode_halt_word : decodeS 0x0800000 = .halt := by decide +kernel

/-- The worked example after R10: module 3, core 17, offset 0x40. -/
theorem test_global_address : coreGA 3 17 0x40 = 0x0C02200000000040 := by decide

/-- The worked example of R332: class 5, instance 2, offset 0x0100. -/
theorem test_register_address : tReg 5 2 0x0100 = 0x03A0080000000100 := by decide

/-- Tags of the worked example of R193. -/
theorem test_tag_words : tagWord 3 1 = 0x0031 ∧ tagWord 3 16 = 0x0070 := by decide

/-- The worked example of R43: 5.25 is nearest to 6, -0.75 ties to -1.0, 0.225 goes to 0 in E2M1. -/
theorem test_e2m1_rounds_to_even :
    encodeElem 0x07 false (fp32.decode 0x40A80000) = 0x7 ∧ encodeElem 0x07 false (fp32.decode 0xBF400000) = 0xA ∧
    encodeElem 0x07 false (fp32.decode 0x3E666666) = 0x0 := by decide +kernel

/-! ### Ill-formed commands are refused by the checks -/

theorem test_wf_core : Instr.wf (.halt 2048 {}) = false := by decide
theorem test_wf_queue : Instr.wf (.transferStart 0 4) = false := by decide
theorem test_wf_index : Instr.wf (.startConditionServed 0 0 16) = false := by decide
theorem test_wf_address : Instr.wf (.stackFree tHdr (2 ^ 64)) = false := by decide
theorem test_wf_region : Instr.wf (.regionEntersIdle 8) = false := by decide
theorem test_wf_island : Instr.wf (.islandLockLost 1248) = false := by decide
theorem test_wf_die : Instr.wf (.wellRefreshSlot 48 []) = false := by decide
theorem test_wf_channel : Instr.wf (.stackRefresh 19 32 true) = false := by decide
theorem test_wf_kollek_port : Instr.wf (.heartbeat 16 none) = false := by decide
theorem test_wf_ethernet_port : Instr.wf (.lldp 8) = false := by decide
theorem test_wf_module : Instr.wf (.partnerLost 64) = false := by decide
theorem test_wf_word : Instr.wf (.eventAcknowledge { tHdr with session := 2 ^ 32 } 1) = false := by decide
theorem test_wf_long : Instr.wf (.invarAlignment (2 ^ 64) 0) = false := by decide
theorem test_wf_narrow : Instr.wf (.combinerRead 0 .host 0 33) = false := by decide
theorem test_wf_requester : Instr.wf (.requesterFence (.prep 192)) = false := by decide
theorem test_wf_header : Instr.wf (.keepalive { tHdr with port := 8 }) = false := by decide
theorem test_wf_cmt_header : Instr.wf (.fence { tCmt with stream := 64 }) = false := by decide
theorem test_wf_payload : Instr.wf (.write tCmt 0 (List.replicate 8193 0)) = false := by decide +kernel
theorem test_wf_flit : Instr.wf (.bareTsigFlit 0 { wSig with sigCount := 4096 }) = false := by decide
theorem test_wf_unit : Instr.wf (.parkTakesEffect (.pool 0 144)) = false := by decide
theorem test_wf_place : Instr.wf (.thermalAlarm (.stack 20) 0) = false := by decide
theorem test_wf_path : Instr.wf (.backgroundPathAccess 0 (.outbound 4 0 0 1)) = false := by decide
theorem test_wf_prep : Instr.wf (.prepCoreAccess 0 (.store 0 [])) = false := by decide
theorem test_wf_s_slot : Instr.wf (.tsigLocal 0 {} 48 1) = false := by decide
theorem test_wf_x_slot : Instr.wf (.qput 0 {} 0 0 3 0) = false := by decide
theorem test_wf_m_slot : Instr.wf (.mshape 0 {} 3) = false := by decide
theorem test_wf_v_slot : Instr.wf (.vadd 0 {} 0 (.native 0x4000)) = false := by decide
theorem test_wf_bundle : Bundle.wf { tBundle with v := .vec .vadd 0 (.legacy 1 0) } = false := by decide

/-! ### Single steps -/

/-- Part of the state after a command. -/
def tAfter {α : Type} (i : Instr) (s : State) (f : State → α) : Option α :=
  match exec i s with
  | .next t => some (f t)
  | _ => none

/-- Part of a core after a command. -/
def tCoreAfter {α : Type} (i : Instr) (c : CoreSt) (f : CoreSt → α) : Option α :=
  (tAfter i (tState tLogs [c]) fun t => (t.core? 0).map f).join

/-- R170: sums wrap modulo 2^32. -/
theorem test_cadd_wraps :
    tCoreAfter (.cadd 0 tBundle 7 0 (.imm 1)) { tCore with counters := [0xFFFFFFFF, 0, 0, 0, 0, 0, 0, 9] }
      (fun c => (c.counters, c.pc)) = some ([0xFFFFFFFF, 0, 0, 0, 0, 0, 0, 0], 1) := by decide +kernel

/-- The worked example of a compare that feeds a branch: CMP P0 := C1 LT 7 with C1 = 5 sets P0. -/
theorem test_cmp_lt :
    tCoreAfter (.cmp 0 tBundle 0 2 1 (.imm 7)) { tCore with counters := [0, 5, 0, 0, 0, 0, 0, 0] }
      (fun c => c.preds) = some [true, false, false, false] := by decide +kernel

/-- R172: a BR issued at 1000 goes on at bundle 40 in cycle 1003. -/
theorem test_br_taken :
    tCoreAfter (.br 0 tBundle 0 false true 40) { tCore with pc := 21, preds := [true, false, false, false] }
      (fun c => (c.pc, c.nextIssue)) = some (40, 1003) := by decide +kernel

/-- The loop of the worked example after R176: at bundle 13 a body's own CADD and the back-edge move C2 from 0 to 2. -/
theorem test_loop_counter_moves_twice :
    tCoreAfter (.cadd 0 { delay := 0 } 2 2 (.imm 1))
      { tCore with pc := 13, loops := [{ start := 11, stop := 13, counter := 2, count := 4 }] }
      (fun c => (c.counter 2, c.pc)) = some (2, 11) := by decide +kernel

/-- The same loop's second pass ends it: C2 goes from 2 to 4. -/
theorem test_loop_ends :
    tCoreAfter (.cadd 0 { delay := 0 } 2 2 (.imm 1))
      { tCore with pc := 13, counters := [0, 0, 2, 0, 0, 0, 0, 0], loops := [{ start := 11, stop := 13, counter := 2, count := 4 }] }
      (fun c => (c.counter 2, c.pc, c.loops.length)) = some (4, 14, 0) := by decide +kernel

/-- R184: a TTAKE of one from an empty tally is recorded with code 0x31 when the cycle's faults are settled. -/
theorem test_ttake_underflow :
    tAfter (.ttake 0 tBundle 47 1) (tState tLogs [tCore]) (fun t =>
      ((t.settleFaults 0).core? 0).map fun c => (c.tallies.getD 47 0, c.bank0.map fun f => f.code.num)) =
      some (some (0, [0x31])) := by decide +kernel

/-- R195: a QPUT that carries its tag in C7 is the first transfer of Q3. -/
theorem test_qput_tag :
    tCoreAfter (.qput 0 tBundle 3 64 1 7) wPut (fun c => (c.counter 7, (c.queue 3).count)) = some (0x30, 1) := by
  decide +kernel

/-- R98: a write that fills a granule's last byte is flushed. -/
theorem test_combiner_flush :
    tCoreAfter (.combinerWrite 0 .debug 0xFFFFFF [1#8]) wComb (fun c => (c.combiner.length, c.flushes.length)) =
      some (0, 1) := by decide +kernel

/-- R359: POWER_STATE OFF is accepted in STANDBY. -/
theorem test_power_off_accepted :
    tAfter (.powerState tHdr .off) (tHost tSession (tPower .standby)) (fun t =>
      (t.pwr.moving, t.host.outbox.map fun o => match o with | .reply n q st _ _ => some (n, q, st) | _ => none)) =
      some (some { target := .off, session := 7, seq := 5 }, [some (7, 5, .accepted)]) := by decide +kernel

/-- DESIGN CHOICE, log 1: on an empty queue one core cycle passes. -/
theorem test_idle_step : (match step State.reset with | .next t => t.time.cycle | _ => 7) = 1 := by decide +kernel

end Sys2Proof.Machine
end

section
/-! PROOFS. The family of the S slot's control instructions (spec chapter 07): NOP, HALT, CSET, CADD, CCOPY, CMP, SETVL and
WAITC. Each of them changes its own core alone and falls through, so one lemma, `present_sequential`, says what presenting a
bundle with any of them leaves: the effect of its slot on the core that has moved to the next index. -/

namespace Sys2Proof.Machine

/-! ### The sequential operations of the S slot -/

/-- The S operations that touch their own core alone, take from no tally, and go on at the next index. -/
inductive Sequential : SOp → Prop
  | nop : Sequential .nop
  | halt : Sequential .halt
  | cset (cd : BitVec 3) (src : CsetSrc) : Sequential (.cset cd src)
  | cadd (cd ca : BitVec 3) (src : CaddSrc) : Sequential (.cadd cd ca src)
  | ccopy (cd ca : BitVec 3) : Sequential (.ccopy cd ca)
  | cmp (pd : BitVec 2) (rel ca : BitVec 3) (src : CmpSrc) : Sequential (.cmp pd rel ca src)
  | setvl (src : SetvlSrc) : Sequential (.setvl src)
  | waitc (src : WaitcSrc) : Sequential (.waitc src)

/-- An S operation whose operand is a scratchpad word, which is checked at issue (R166). -/
def readsWord : SOp → Bool
  | .cset _ (.word _) => true
  | .cmp _ _ _ (.word _) => true
  | _ => false

namespace Sequential

variable {op : SOp} (hop : Sequential op)
include hop

theorem not_haltBroken (b : Bundle) : haltBroken { b with s := op } = false := by cases hop <;> rfl

theorem ne_ttake (t : BitVec 6) (n : BitVec 12) : op ≠ .ttake t n := by rintro rfl; cases hop

theorem applyS_eq (k : Ctx) (c0 : CoreSt) (s : State) : applyS k c0 op s = s.updCore c0.lcore (applySCore k c0 op) := by
  cases hop <;> rfl

/-- Without a scratchpad word there is nothing to check at issue. -/
theorem judgeS_go (hw : readsWord op = false) (k : Ctx) (c : CoreSt) (b : Bundle) :
    judgeS k c { b with s := op } = .go := by
  cases hop with
  | cset _ src =>
    cases src with
    | imm => rfl
    | word => cases hw
  | cmp _ _ _ src =>
    cases src with
    | imm | reg => rfl
    | word => cases hw
  | _ => rfl

/-- The frame: a sequential operation writes nothing but counters, predicates, VL, the run state, bank claims and engine
entries. -/
theorem applySCore_frame (k : Ctx) (c0 d : CoreSt) : ∃ cs ps n r cl es, applySCore k c0 op d =
    { d with counters := cs, preds := ps, vl := n, run := r, claims := cl, engines := es } := by
  cases hop with
  | cset _ src | cmp _ _ _ src => cases src <;> exact ⟨_, _, _, _, _, _, rfl⟩
  | _ => exact ⟨_, _, _, _, _, _, rfl⟩

theorem applySCore_lcore (k : Ctx) (c0 d : CoreSt) : (applySCore k c0 op d).lcore = d.lcore := by
  obtain ⟨_, _, _, _, _, _, e⟩ := hop.applySCore_frame k c0 d
  rw [e]

theorem applySCore_conds (k : Ctx) (c0 d : CoreSt) : (applySCore k c0 op d).conds = d.conds := by
  obtain ⟨_, _, _, _, _, _, e⟩ := hop.applySCore_frame k c0 d
  rw [e]

theorem applySCore_loops (k : Ctx) (c0 d : CoreSt) : (applySCore k c0 op d).loops = d.loops := by
  obtain ⟨_, _, _, _, _, _, e⟩ := hop.applySCore_frame k c0 d
  rw [e]

theorem applySCore_pc (k : Ctx) (c0 d : CoreSt) : (applySCore k c0 op d).pc = d.pc := by
  obtain ⟨_, _, _, _, _, _, e⟩ := hop.applySCore_frame k c0 d
  rw [e]

/-- On a straight path the successor of a sequential operation is the next index, and no loop is left. -/
theorem advancePc_straight {c0 : CoreSt} (hs : c0.straight) (b : Bundle) {d : CoreSt} (hd : d.loops = c0.loops) :
    advancePc c0 { b with s := op } true d = (d, c0.pc + 1) := by
  have hback : backEdges d.loops c0.pc d = (d, c0.pc + 1) := backEdges_straight _ _ _ rfl (by rw [hd]; exact hs.1)
  cases hop with
  | halt => rfl
  | _ => exact hback

/-- A core that has shown a sequential operation and finished it: the effect of the operation on the core that has issued. -/
theorem finished_eq {c : CoreSt} (hs : c.straight) (hp : c.presented = none) (hw : c.waiting = []) (k : Ctx) (b : Bundle)
    (cy : Nat) :
    (c.shows { b with s := op } cy).finished { b with s := op } true (op == .halt) cy
      (applySCore k (c.shows { b with s := op } cy) op (c.shows { b with s := op } cy)) =
    applySCore k c op (c.issued cy (successorDelay c { b with s := op })) := by
  rw [CoreSt.finished, hop.advancePc_straight (c0 := c.shows { b with s := op } cy) hs b (hop.applySCore_loops _ _ _)]
  cases c
  obtain rfl : _ = none := hp
  obtain rfl : _ = [] := hw
  cases hop with
  | cset _ src | cmp _ _ _ src => cases src <;> rfl
  | _ => rfl

end Sequential

/-- A ready core on a straight path that issues a bundle whose one instruction is a sequential S operation. -/
theorem present_sequential {s : State} {l : Nat} {c : CoreSt} {x : Region} {b : Bundle} {op : SOp} (hr : Ready s l c x)
    (hp : plainBundle b) (hs : c.straight) (hop : Sequential op)
    (hgo : judgeS (s.ctx c) (c.given { b with s := op }) { b with s := op } = .go) {t : CoreSt}
    (ht : applySCore (s.ctx c) c op (c.issued s.time.cycle (successorDelay c { b with s := op })) = t) :
    presentTo l { b with s := op } s = .next (s.updCore l fun _ => t) := by
  refine present_s hr (onlyS hp op) (hop.not_haltBroken b) hgo hop.applyS_eq hop.applySCore_lcore hop.ne_ttake
    hop.applySCore_conds t ((hop.finished_eq hs hr.presented hr.waiting _ b _).trans ht) fun _ => ?_
  rw [← ht, hop.applySCore_pc]
  exact Nat.succ_lt_succ hs.2

/-- One that reads no scratchpad word. -/
theorem present_unchecked {s : State} {l : Nat} {c : CoreSt} {x : Region} {b : Bundle} {op : SOp} (hr : Ready s l c x)
    (hp : plainBundle b) (hs : c.straight) (hop : Sequential op) (hw : readsWord op = false) {t : CoreSt}
    (ht : applySCore (s.ctx c) c op (c.issued s.time.cycle (successorDelay c { b with s := op })) = t) :
    presentTo l { b with s := op } s = .next (s.updCore l fun _ => t) :=
  present_sequential hr hp hs hop (hop.judgeS_go hw _ _ b) ht

/-- One that may read a scratchpad word, when the bundle passes its checks (R76). -/
theorem present_checked {s : State} {l : Nat} {c : CoreSt} {x : Region} {b : Bundle} {op : SOp} (hr : Ready s l c x)
    (hp : plainBundle b) (hs : c.straight) (hop : Sequential op) (hpass : Passes s c { b with s := op }) {t : CoreSt}
    (ht : applySCore (s.ctx c) c op (c.issued s.time.cycle (successorDelay c { b with s := op })) = t) :
    presentTo l { b with s := op } s = .next (s.updCore l fun _ => t) :=
  present_sequential hr hp hs hop (passes_s hp (hop.not_haltBroken b) hpass) ht

/-! ### Counters (R170)

What each form writes, on words: the values of the model agree with them modulo 2^32. -/

section Effects

variable (k : Ctx) (c0 c : CoreSt)

/-- A counter set to a value shows the word of that value. -/
theorem setCounter_word (j : Nat) {v : Nat} {w : BitVec 32} (h : v % 2 ^ 32 = w.toNat) :
    c.setCounter j v = { c with counters := c.counters.set j w.toNat } := by
  rw [CoreSt.setCounter, h]; rfl

theorem applySCore_cset_imm (cd : BitVec 3) (v : BitVec 19) : applySCore k c0 (.cset cd (.imm v)) c =
    { c with counters := c.counters.set cd.toNat (v.signExtend 32).toNat } :=
  setCounter_word c cd.toNat (sext_toNat v)

theorem applySCore_cadd_imm (cd ca : BitVec 3) (v : BitVec 16) : applySCore k c0 (.cadd cd ca (.imm v)) c =
    { c with counters := c.counters.set cd.toNat (c0.word ca + v.signExtend 32).toNat } :=
  setCounter_word c cd.toNat (add_imm (c0.counter ca.toNat) v)

theorem applySCore_cadd_reg (cd ca cb : BitVec 3) : applySCore k c0 (.cadd cd ca (.reg cb)) c =
    { c with counters := c.counters.set cd.toNat (c0.word ca + c0.word cb).toNat } :=
  setCounter_word c cd.toNat (add_reg (c0.counter ca.toNat) (c0.counter cb.toNat))

theorem applySCore_ccopy (cd ca : BitVec 3) : applySCore k c0 (.ccopy cd ca) c =
    { c with counters := c.counters.set cd.toNat (c0.word ca).toNat } :=
  setCounter_word c cd.toNat (BitVec.toNat_ofNat (c0.counter ca.toNat) 32).symm

/-! ### Predicates (R171) -/

/-- The bits of a signed immediate are its sign-extended word. -/
theorem ofNat_toBits {n : Nat} (v : BitVec n) : BitVec.ofNat 32 (toBits 32 v.toInt) = v.signExtend 32 := by
  rw [toBits_ofInt, BitVec.ofNat_toNat, BitVec.setWidth_eq]; rfl

/-- A predicate set to the relation of two values shows the relation of their words. -/
theorem setPred_word (j : Nat) (rel : BitVec 3) (a : Nat) {b : Nat} {w : BitVec 32} (h : BitVec.ofNat 32 b = w) :
    { c with preds := setAt c.preds j (relHolds rel.toNat a b) } =
      { c with preds := c.preds.set j (relation rel (BitVec.ofNat 32 a) w) } := by
  rw [rel_ok, h]; rfl

theorem applySCore_cmp_imm (pd : BitVec 2) (rel ca : BitVec 3) (v : BitVec 13) :
    applySCore k c0 (.cmp pd rel ca (.imm v)) c =
      { c with preds := c.preds.set pd.toNat (relation rel (c0.word ca) (v.signExtend 32)) } :=
  setPred_word c pd.toNat rel (c0.counter ca.toNat) (ofNat_toBits v)

theorem applySCore_cmp_reg (pd : BitVec 2) (rel ca cb : BitVec 3) : applySCore k c0 (.cmp pd rel ca (.reg cb)) c =
    { c with preds := c.preds.set pd.toNat (relation rel (c0.word ca) (c0.word cb)) } :=
  setPred_word c pd.toNat rel (c0.counter ca.toNat) rfl

/-- The word form also claims its bank and releases its ring slot. -/
theorem applySCore_cmp_word (pd : BitVec 2) (rel ca : BitVec 3) (h : BitVec 8) :
    applySCore k c0 (.cmp pd rel ca (.word h)) c =
      { claimWord k c0 c h.toNat with
        preds := c.preds.set pd.toNat (relation rel (c0.word ca) (BitVec.ofNat 32 (readWord k c0 h.toNat))) } :=
  setPred_word (claimWord k c0 c h.toNat) pd.toNat rel (c0.counter ca.toNat) rfl

/-! ### VL (R173) -/

theorem applySCore_setvl_reg (cs : BitVec 3) : applySCore k c0 (.setvl (.reg cs)) c =
    { c with vl := (max 0 (min (c0.word cs).toInt 16777216)).toNat } :=
  congrArg (fun n => { c with vl := n }) (satLength_word (c0.counter cs.toNat))

theorem applySCore_setvl_bounded (cs : BitVec 3) (v : BitVec 18) : applySCore k c0 (.setvl (.bounded cs v)) c =
    { c with vl := min (max 0 (min (c0.word cs).toInt 16777216)).toNat v.toNat } :=
  congrArg (fun n => { c with vl := min n v.toNat }) (satLength_word (c0.counter cs.toNat))

end Effects

/-! ### The obligations of the family -/

/-- Settles O1: each form is a sequential operation that writes one counter. -/
theorem countersTakeTheirValues : Obligations.CountersTakeTheirValues := by
  intro s l c x b cd ca cb v w h hr hp hs
  refine ⟨?_, ?_, ?_, ?_, fun hpass => ?_⟩
  · exact present_unchecked hr hp hs (.cset cd (.imm v)) rfl (applySCore_cset_imm _ _ _ cd v)
  · exact present_unchecked hr hp hs (.cadd cd ca (.imm w)) rfl (applySCore_cadd_imm _ _ _ cd ca w)
  · exact present_unchecked hr hp hs (.cadd cd ca (.reg cb)) rfl (applySCore_cadd_reg _ _ _ cd ca cb)
  · exact present_unchecked hr hp hs (.ccopy cd ca) rfl (applySCore_ccopy _ _ _ cd ca)
  · exact present_checked hr hp hs (.cset cd (.word h)) hpass rfl

/-- Settles O2: each form is a sequential operation that writes one predicate. -/
theorem comparisonsSetTheirPredicate : Obligations.ComparisonsSetTheirPredicate := by
  intro s l c x b ca cb rel pd h v hr hp hs
  refine ⟨?_, ?_, fun hpass => ?_⟩
  · exact present_unchecked hr hp hs (.cmp pd rel ca (.imm v)) rfl (applySCore_cmp_imm _ _ _ pd rel ca v)
  · exact present_unchecked hr hp hs (.cmp pd rel ca (.reg cb)) rfl (applySCore_cmp_reg _ _ _ pd rel ca cb)
  · exact present_checked hr hp hs (.cmp pd rel ca (.word h)) hpass (applySCore_cmp_word _ _ _ pd rel ca h)

/-- Settles O3: each form is a sequential operation; WAITC alone changes the delay of the successor. -/
theorem nopSetvlWaitAndHalt : Obligations.NopSetvlWaitAndHalt := by
  intro s l c x b slot cs v n hr hp hs
  refine ⟨?_, ?_, ?_, ?_, ?_, ?_, ?_⟩
  · show presentTo l (withNop b slot) s = _
    rw [withNop_s hp]
    exact present_unchecked hr hp hs .nop rfl rfl
  · exact present_unchecked hr hp hs (.setvl (.imm v)) rfl rfl
  · exact present_unchecked hr hp hs (.setvl (.reg cs)) rfl (applySCore_setvl_reg _ _ _ cs)
  · exact present_unchecked hr hp hs (.setvl (.bounded cs v)) rfl (applySCore_setvl_bounded _ _ _ cs v)
  · exact present_unchecked hr hp hs (.waitc (.imm n)) rfl rfl
  · exact present_unchecked hr hp hs (.waitc (.reg cs)) rfl rfl
  · exact present_unchecked hr hp hs .halt rfl rfl

end Sys2Proof.Machine
end

section
/-! PROOFS. Bundles and their words (R151 to R160, R194, R204, R216, R217). Encoding what a slot's decoder reads joins
adjacent fields until the whole word stands again (`fld_append_fld`); decoding what an encoder writes takes each field out of the
concatenation. -/

namespace Sys2Proof

/-! ### Fields -/

section Fields

variable {w : Nat} {x : BitVec w}

/-- Adjacent fields of a word join. -/
theorem fld_append_fld {hi lo n m : Nat} (h : hi = lo + m) : fld x hi n ++ fld x lo m = fld x lo (n + m) :=
  BitVec.extractLsb'_append_extractLsb'_eq_extractLsb' h

/-- One bit is the field of width 1. -/
theorem b1_bitAt (i : Nat) : b1 (bitAt x i) = fld x i 1 := by
  unfold b1
  ext j hj
  obtain rfl : j = 0 := by omega
  cases h : bitAt x i <;> simp_all

theorem b1_false : b1 false = 0#1 := rfl

theorem b1_true : b1 true = 1#1 := rfl

theorem getLsbD_b1 (p : Bool) : (b1 p).getLsbD 0 = p := by cases p <;> rfl

/-- A field whose value is known. -/
theorem fld_of_toNat {lo n k : Nat} (h : (fld x lo n).toNat = k) : fld x lo n = BitVec.ofNat n k := by
  rw [← h, BitVec.ofNat_toNat, BitVec.setWidth_eq]

/-- A bit whose value is known, as a field of width 1. -/
theorem fld_of_bitAt {i : Nat} {p : Bool} (h : bitAt x i = p) : fld x i 1 = b1 p := by rw [← h, b1_bitAt]

/-- A word of which a field is not zero is not zero. -/
theorem ne_zero_of_fld {lo n : Nat} (h : fld x lo n ≠ 0#n) : x ≠ 0#w := by
  rintro rfl
  exact h (by ext; simp)

/-- A word with a field that is known and not zero is not zero. -/
theorem ne_zero_of_fld_eq {lo n : Nat} {v : BitVec n} (h : fld x lo n = v) (hv : v ≠ 0#n) : x ≠ 0#w :=
  ne_zero_of_fld (h ▸ hv)

/-- A field of a field. -/
theorem fld_of_fld {lo k n m : Nat} (h : k + m ≤ n) : fld x (lo + k) m = fld (fld x lo n) k m := by
  ext i hi
  simp only [BitVec.getElem_extractLsb', BitVec.getLsbD_extractLsb']
  rw [decide_eq_true (by omega : k + i < n), Bool.true_and, Nat.add_assoc]

end Fields

/-! ### The X slot -/

theorem encodeX_decodeXRaw (w : BitVec 28) : encodeX (decodeXRaw w) = w := by
  unfold decodeXRaw
  split
  · rename_i h; exact h.symm
  split
  all_goals try split
  all_goals rename_i hop hz; try rfl
  all_goals
    have hop := fld_of_toNat hop
    rw [encodeX, ← hop, ← hz]
    simp only [b1_bitAt, fld_append_fld, BitVec.extractLsb'_eq_self]

open BitVec in
theorem decodeXRaw_encodeX {op : XOp} (h : op.legal = true) : decodeXRaw (encodeX op) = op := by
  cases op with
  | nop => rfl
  | illegal => cases h
  | _ =>
    rw [decodeXRaw, if_neg (ne_zero_of_fld (lo := 24) (n := 4) ?_), encodeX]
    all_goals simp (disch := decide) only [encodeX, fld, extractLsb'_append_eq_of_le, extractLsb'_append_eq_of_add_le,
      extractLsb'_eq_self, getLsbD_append, getLsbD_b1, Nat.reduceSub, Nat.reduceLT, reduceIte]
    · rfl
    · decide

/-! ### The M slot -/

theorem encodeM_decodeMRaw (w : BitVec 28) : encodeM (decodeMRaw w) = w := by
  unfold decodeMRaw
  split
  · rename_i h; exact h.symm
  split
  all_goals try split
  all_goals rename_i hop hz; try rfl
  all_goals
    have hop := fld_of_toNat hop
    rw [encodeM, ← hop, ← hz]
    simp only [b1_bitAt, fld_append_fld, BitVec.extractLsb'_eq_self]

open BitVec in
theorem decodeMRaw_encodeM {op : MOp} (h : op.legal = true) : decodeMRaw (encodeM op) = op := by
  cases op with
  | nop => rfl
  | illegal => cases h
  | _ =>
    rw [decodeMRaw, if_neg (ne_zero_of_fld (lo := 24) (n := 4) ?_), encodeM]
    all_goals simp (disch := decide) only [encodeM, fld, extractLsb'_append_eq_of_le, extractLsb'_append_eq_of_add_le,
      extractLsb'_eq_self, getLsbD_append, getLsbD_b1, Nat.reduceSub, Nat.reduceLT, reduceIte]
    · rfl
    · decide
/-! ### The S slot -/

theorem encodeS_decodeSRaw (w : BitVec 28) : encodeS (decodeSRaw w) = w := by
  unfold decodeSRaw
  split
  · rename_i h; exact h.symm
  split
  · rename_i h
    rw [encodeS, ← h]
    exact (fld_append_fld rfl).trans BitVec.extractLsb'_eq_self
  split
  · rename_i h
    split
    · rename_i hb
      split
      · rename_i hz
        rw [encodeS, ← h, ← hz, ← b1_true, ← hb]
        simp only [b1_bitAt, fld_append_fld, BitVec.extractLsb'_eq_self]
      · rfl
    · rename_i hb
      rw [encodeS, ← h, ← b1_false, ← Bool.eq_false_of_not_eq_true hb]
      simp only [b1_bitAt, fld_append_fld, BitVec.extractLsb'_eq_self]
  split
  case h_14 => rfl
  case h_1 | h_4 | h_6 | h_10 | h_11 | h_12 =>
    split
    · rename_i hop hz
      rw [encodeS, ← fld_of_toNat hop, ← hz]
      simp only [b1_bitAt, fld_append_fld, BitVec.extractLsb'_eq_self]
    · rfl
  case h_2 | h_3 | h_8 =>
    split
    · split
      · rename_i hop hb hz
        rw [encodeS, ← fld_of_toNat hop, ← hz, ← b1_true, ← hb]
        simp only [b1_bitAt, fld_append_fld, BitVec.extractLsb'_eq_self]
      · rfl
    · rename_i hop hb
      rw [encodeS, ← fld_of_toNat hop, ← b1_false, ← Bool.eq_false_of_not_eq_true hb]
      simp only [b1_bitAt, fld_append_fld, BitVec.extractLsb'_eq_self]
  case h_9 | h_13 =>
    split
    · rename_i hop hb
      rw [encodeS, ← fld_of_toNat hop, ← b1_true, ← hb]
      simp only [b1_bitAt, fld_append_fld, BitVec.extractLsb'_eq_self]
    · split
      · rename_i hop hb hz
        rw [encodeS, ← fld_of_toNat hop, ← hz, ← b1_false, ← Bool.eq_false_of_not_eq_true hb]
        simp only [b1_bitAt, fld_append_fld, BitVec.extractLsb'_eq_self]
      · rfl
  case h_5 =>
    split
    · rename_i hop _ hf
      rw [encodeS, ← fld_of_toNat hop, ← fld_of_toNat hf]
      simp only [fld_append_fld, BitVec.extractLsb'_eq_self]
    · split
      · rename_i hop _ hf hz
        rw [encodeS, ← fld_of_toNat hop, ← fld_of_toNat hf, ← hz]
        simp only [fld_append_fld, BitVec.extractLsb'_eq_self]
      · rfl
    · split
      · rename_i hop _ hf hz
        rw [encodeS, ← fld_of_toNat hop, ← fld_of_toNat hf, ← hz]
        simp only [fld_append_fld, BitVec.extractLsb'_eq_self]
      · rfl
    · rfl
  case h_7 =>
    split
    · split
      · rename_i hop _ hf hz
        rw [encodeS, ← fld_of_toNat hop, ← fld_of_toNat hf, ← hz]
        simp only [fld_append_fld, BitVec.extractLsb'_eq_self]
      · rfl
    · split
      · rename_i hop _ hf hz
        rw [encodeS, ← fld_of_toNat hop, ← fld_of_toNat hf, ← hz]
        simp only [fld_append_fld, BitVec.extractLsb'_eq_self]
      · rfl
    · rename_i hop _ hf
      rw [encodeS, ← fld_of_toNat hop, ← fld_of_toNat hf]
      simp only [fld_append_fld, BitVec.extractLsb'_eq_self]
    · rfl

/-- The opcode [27:23] of the S operations that have one of 5 bits (R155). -/
def SOp.opcode : SOp → Option (BitVec 5)
  | .halt => some 0x01#5 | .cset .. => some 0x04#5 | .cadd .. => some 0x05#5 | .ccopy .. => some 0x06#5
  | .cmp .. => some 0x07#5
  | .br .. => some 0x08#5 | .setvl _ => some 0x09#5 | .waitc _ => some 0x0A#5 | .tsigLocal .. => some 0x0B#5
  | .tsigRemote .. => some 0x0B#5 | .twait .. => some 0x0C#5 | .twaitany .. => some 0x0D#5 | .ttake .. => some 0x0E#5
  | .dadv .. => some 0x0F#5 | _ => none

open BitVec in
theorem fld_encodeS_opcode {op : SOp} {k : BitVec 5} (h : op.opcode = some k) : fld (encodeS op) 23 5 = k := by
  cases op
  case' cset _ src | cadd _ _ src | cmp _ _ _ src | setvl src | waitc src | dadv _ _ src => cases src
  all_goals cases h
  all_goals
    simp (disch := decide) only [encodeS, fld, extractLsb'_append_eq_of_le, extractLsb'_eq_self, Nat.reduceSub]

/-- A word with an opcode of 5 bits is read by the map of that opcode. -/
theorem not_short_of_opcode {op : SOp} {k : BitVec 5} (h : op.opcode = some k) :
    encodeS op ≠ 0#28 ∧ fld (encodeS op) 24 4 ≠ 1#4 ∧ fld (encodeS op) 25 3 ≠ 4#3 := by
  have hf := fld_encodeS_opcode h
  refine ⟨ne_zero_of_fld_eq hf ?_, ?_, ?_⟩
  · cases op <;> cases h <;> decide
  · rw [fld_of_fld (lo := 23) (k := 1) (n := 5) (by decide), hf]
    cases op <;> cases h <;> decide
  · rw [fld_of_fld (lo := 23) (k := 2) (n := 5) (by decide), hf]
    cases op <;> cases h <;> decide

open BitVec in
theorem decodeSRaw_step (m : BitVec 24) : decodeSRaw (encodeS (.step m)) = .step m := by
  have hf : fld (encodeS (.step m)) 24 4 = 1#4 := by
    simp (disch := decide) only [encodeS, fld, extractLsb'_append_eq_of_le, Nat.reduceSub, extractLsb'_eq_self]
  rw [decodeSRaw, if_neg (ne_zero_of_fld_eq hf (by decide)), if_pos hf, encodeS]
  simp (disch := decide) only [fld, extractLsb'_append_eq_of_add_le, extractLsb'_eq_self]

open BitVec in
theorem decodeSRaw_loop (cl : BitVec 3) (len : BitVec 14) (src : LoopSrc) :
    decodeSRaw (encodeS (.loop cl len src)) = .loop cl len src := by
  have hf : fld (encodeS (.loop cl len src)) 25 3 = 4#3 := by
    cases src <;>
      simp (disch := decide) only [encodeS, fld, extractLsb'_append_eq_of_le, Nat.reduceSub, extractLsb'_eq_self]
  have hs : fld (encodeS (.loop cl len src)) 24 4 ≠ 1#4 := fun e => by
    rw [fld_of_fld (lo := 24) (k := 1) (n := 4) (by decide), e] at hf
    exact absurd hf (by decide)
  rw [decodeSRaw, if_neg (ne_zero_of_fld_eq hf (by decide)), if_neg hs, if_pos hf]
  cases src
  all_goals
    simp (disch := decide) only [encodeS, fld, extractLsb'_append_eq_of_le, extractLsb'_append_eq_of_add_le,
      extractLsb'_eq_self, getLsbD_append, Nat.reduceSub, Nat.reduceLT, reduceIte]
    rfl

open BitVec in
theorem decodeSRaw_of_opcode {op : SOp} {k : BitVec 5} (hk : op.opcode = some k) : decodeSRaw (encodeS op) = op := by
  obtain ⟨h0, h1, h2⟩ := not_short_of_opcode hk
  rw [decodeSRaw, if_neg h0, if_neg h1, if_neg h2, fld_encodeS_opcode hk]
  cases op
  case' cset _ src | cadd _ _ src | cmp _ _ _ src | setvl src | waitc src | dadv _ _ src => cases src
  all_goals cases hk
  all_goals
    simp (disch := decide) only [encodeS, fld, extractLsb'_append_eq_of_le, extractLsb'_append_eq_of_add_le,
      extractLsb'_eq_self, getLsbD_append, getLsbD_b1, Nat.reduceSub, Nat.reduceLT, reduceIte, toNat_ofNat]
  all_goals rfl

theorem decodeSRaw_encodeS {op : SOp} (h : op.legal = true) : decodeSRaw (encodeS op) = op := by
  cases op with
  | nop => rfl
  | illegal => cases h
  | step m => exact decodeSRaw_step m
  | loop cl len src => exact decodeSRaw_loop cl len src
  | _ => exact decodeSRaw_of_opcode rfl

/-! ### The V slot -/

theorem vcodeOf_opcode (c : VCode) : vcodeOf c.opcode.toNat = some c := by cases c <;> rfl

theorem opcode_of_vcodeOf {n : Nat} {c : VCode} (h : vcodeOf n = some c) : c.opcode = BitVec.ofNat 5 n := by
  unfold vcodeOf at h
  split at h <;> cases h <;> rfl

theorem encodeV_decodeVRaw (l : Bool) (w : BitVec 28) : encodeV (decodeVRaw l w) = w := by
  unfold decodeVRaw
  split
  · rename_i h; exact h.symm
  split
  · rename_i h
    cases l <;>
    · simp only [Bool.false_eq_true, if_false, if_true]
      rw [encodeV, ← h]
      simp only [b1_bitAt, fld_append_fld, BitVec.extractLsb'_eq_self]
  split
  · rfl
  · rename_i h
    have h := opcode_of_vcodeOf h
    rw [BitVec.ofNat_toNat, BitVec.setWidth_eq] at h
    cases l <;>
    · simp only [Bool.false_eq_true, if_false, if_true]
      rw [encodeV, h]
      simp only [fld_append_fld, BitVec.extractLsb'_eq_self]

open BitVec in
theorem decodeVRaw_encodeV {l : Bool} {op : VOp} (h : op.legal = true) (hf : op.formIs l = true) :
    decodeVRaw l (encodeV op) = op := by
  cases op with
  | nop => rfl
  | illegal => cases h
  | vec c k form =>
    have hop : fld (encodeV (.vec c k form)) 23 5 = c.opcode := by
      cases form <;>
        simp (disch := decide) only [encodeV, fld, extractLsb'_append_eq_of_le, Nat.reduceSub, extractLsb'_eq_self]
    have hr : fld (encodeV (.vec c k form)) 25 3 ≠ 7#3 := by
      rw [fld_of_fld (lo := 23) (k := 2) (n := 5) (by decide), hop]
      cases c <;> decide
    rw [decodeVRaw, if_neg (ne_zero_of_fld (lo := 23) (n := 5) (by rw [hop]; cases c <;> decide)), if_neg hr, hop,
      vcodeOf_opcode]
    cases form <;> cases l <;> cases hf
    all_goals
      simp (disch := decide) only [encodeV, fld, extractLsb'_append_eq_of_le, extractLsb'_append_eq_of_add_le,
        extractLsb'_eq_self, Nat.reduceSub]
      rfl
  | vrng k b u form =>
    have hr : fld (encodeV (.vrng k b u form)) 25 3 = 7#3 := by
      cases form <;>
        simp (disch := decide) only [encodeV, fld, extractLsb'_append_eq_of_le, Nat.reduceSub, extractLsb'_eq_self]
    rw [decodeVRaw, if_neg (ne_zero_of_fld_eq hr (by decide)), if_pos hr]
    cases form <;> cases l <;> cases hf
    all_goals
      simp (disch := decide) only [encodeV, fld, extractLsb'_append_eq_of_le, extractLsb'_append_eq_of_add_le,
        extractLsb'_eq_self, getLsbD_append, getLsbD_b1, Nat.reduceSub, Nat.reduceLT, Bool.false_eq_true,
        reduceIte]

/-! ### Slots and bundles -/

theorem encodeS_decodeS (w : BitVec 28) : encodeS (decodeS w) = w := by
  unfold decodeS
  dsimp only
  split
  · exact encodeS_decodeSRaw w
  · rfl

theorem encodeX_decodeX (w : BitVec 28) : encodeX (decodeX w) = w := by
  unfold decodeX
  dsimp only
  split
  · exact encodeX_decodeXRaw w
  · rfl

theorem encodeM_decodeM (w : BitVec 28) : encodeM (decodeM w) = w := by
  unfold decodeM
  dsimp only
  split
  · exact encodeM_decodeMRaw w
  · rfl

theorem encodeV_decodeV (l : Bool) (w : BitVec 28) : encodeV (decodeV l w) = w := by
  unfold decodeV
  dsimp only
  split
  · exact encodeV_decodeVRaw l w
  · rfl

theorem decodeS_encodeS {op : SOp} (h : op.legal = true) : decodeS (encodeS op) = op := by
  unfold decodeS
  rw [decodeSRaw_encodeS h]
  exact if_pos h

theorem decodeX_encodeX {op : XOp} (h : op.legal = true) : decodeX (encodeX op) = op := by
  unfold decodeX
  rw [decodeXRaw_encodeX h]
  exact if_pos h

theorem decodeM_encodeM {op : MOp} (h : op.legal = true) : decodeM (encodeM op) = op := by
  unfold decodeM
  rw [decodeMRaw_encodeM h]
  exact if_pos h

theorem decodeV_encodeV {l : Bool} {op : VOp} (h : op.legal = true) (hf : op.formIs l = true) :
    decodeV l (encodeV op) = op := by
  unfold decodeV
  rw [decodeVRaw_encodeV h hf]
  exact if_pos h

theorem encodeBundle_decodeBundle (w : BitVec 128) : encodeBundle (decodeBundle w) = w := by
  simp only [encodeBundle, decodeBundle, encodeS_decodeS, encodeX_decodeX, encodeM_decodeM, encodeV_decodeV, b1_bitAt,
    fld_append_fld, BitVec.extractLsb'_eq_self]

open BitVec in
theorem decodeBundle_encodeBundle {b : Bundle} (h : b.wf = true) : decodeBundle (encodeBundle b) = b := by
  simp only [Bundle.wf, Bool.and_eq_true] at h
  obtain ⟨⟨⟨⟨hs, hx⟩, hm⟩, hv⟩, hf⟩ := h
  simp (disch := decide) only [decodeBundle, encodeBundle, fld, extractLsb'_append_eq_of_le,
    extractLsb'_append_eq_of_add_le, extractLsb'_eq_self, getLsbD_append, getLsbD_b1, Nat.reduceSub, Nat.reduceLT, reduceIte,
    decodeS_encodeS hs, decodeX_encodeX hx, decodeM_encodeM hm, decodeV_encodeV hv hf]

/-- Settles O49: slot by slot, the fields join to the word and come apart to the bundle. -/
theorem bundlesDecodeAsTheyAreEncoded : Obligations.BundlesDecodeAsTheyAreEncoded :=
  ⟨fun _ => decodeBundle_encodeBundle, encodeBundle_decodeBundle⟩

end Sys2Proof
end

section
/-! PROOFS. The issue of a bundle whose slots all pass their checks, said once for an effect on the issuing core and on the
rest of the module: `present_effect`. The rows of every slot cite it. -/

namespace Sys2Proof.Machine

/-- A ready core that presents a bundle all of whose slots issue: `w` is the module after the effects outside the cores, `F`
the effect on the issuing core. -/
theorem present_effect {s w : State} {l : Nat} {c : CoreSt} {x : Region} {b : Bundle} (hr : Ready s l c x)
    (hm : b.marker = false) (hres : b.reserved = 0) (hb : haltBroken b = false) (hj : Passes s c b)
    (hcores : w.cores = s.cores) (htime : w.time = s.time) (F : CoreSt → CoreSt) (hF : ∀ d, (F d).lcore = d.lcore)
    (heff : (s.updCore l fun d => d.shows b s.time.cycle).runSlots (s.ctx c) (c.shows b s.time.cycle) b =
      (w.updCore l fun d => d.shows b s.time.cycle).updCore l F) (t : CoreSt)
    (ht : (c.shows b s.time.cycle).finished b true (b.s == .halt) s.time.cycle (F (c.shows b s.time.cycle)) = t)
    (hpc : t.run = .running → t.pc < 16384) :
    presentTo l b s = .next (w.updCore l fun _ => t) := by
  have hw : w.core? l = some c := by rw [State.core?, hcores]; exact hr.core
  have h1 := core?_shows hw (fun d => d.shows b s.time.cycle) (fun _ => rfl)
  have hl : (c.shows b s.time.cycle).lcore = l := (State.core?_lcore hr.core :)
  have hcy : (w.updCore l fun d => d.shows b s.time.cycle).time.cycle = s.time.cycle := by
    rw [State.updCore_time, htime]
  rw [present_go hr b hm hres hb hj, heff, finish_core h1 F hF _ hl b true _ (by rw [hcy, ht]; exact hpc), hcy,
    updCore_updCore w l (fun d => d.shows b s.time.cycle) _ (fun _ => rfl)]
  congr 1
  refine updCore_congr w l _ _ fun d hd e => ?_
  rw [hr.alone d (hcores ▸ hd) e]
  exact ht

/-- The end of a bundle whose successor is known. -/
theorem finished_of_advance {c0 c d : CoreSt} {b : Bundle} {ok halt : Bool} {cy n : Nat}
    (h : advancePc c0 b ok c = (d, n)) : c0.finished b ok halt cy c = { d.countOccur c0.pc with
      pc := n, lastIdx := c0.pc, nextIssue := cy + successorDelay c0 b, presented := none
      run := if halt then .halted else d.run } := by
  rw [CoreSt.finished, h]
  rfl

/-- The effects of a bundle with one S instruction (R76, R180). -/
theorem runSlots_s {b : Bundle} (hp : OnlyS b) (k : Ctx) (c : CoreSt) (s : State) :
    s.runSlots k c b = ((applyS k c b.s s).updCore c.lcore CoreSt.serveConds).takeNow c.lcore c.pc b.s := by
  have hmv : c.moved .nop = c := rfl
  rw [State.runSlots, hp.x, hp.m, hp.v, hmv, nop_x, nop_m, nop_v]

/-- A bundle with one S instruction that its slot lets go passes its checks. -/
theorem passes_of_judgeS {s : State} {c : CoreSt} {b : Bundle} (hp : OnlyS b) (hb : haltBroken b = false)
    (h : judgeS (s.ctx c) (c.given b) b = .go) : Passes s c b := judge_s _ _ hp hb _ h

/-- The effect of an S instruction on the whole module, for a core without waiting start conditions: `w` is the module after
the effects outside the cores, `F` the effect on the issuing core. -/
theorem present_s_effect {s w : State} {l : Nat} {c : CoreSt} {x : Region} {b : Bundle} (hr : Ready s l c x)
    (hp : OnlyS b) (hb : haltBroken b = false) (hgo : judgeS (s.ctx c) (c.given b) b = .go)
    (hcores : w.cores = s.cores) (htime : w.time = s.time) (F : CoreSt → CoreSt) (hF : ∀ d, (F d).lcore = d.lcore)
    (heff : ((applyS (s.ctx c) (c.shows b s.time.cycle) b.s (s.updCore l fun d => d.shows b s.time.cycle)).updCore l
      CoreSt.serveConds).takeNow l c.pc b.s = (w.updCore l fun d => d.shows b s.time.cycle).updCore l F) (t : CoreSt)
    (ht : (c.shows b s.time.cycle).finished b true (b.s == .halt) s.time.cycle (F (c.shows b s.time.cycle)) = t)
    (hpc : t.run = .running → t.pc < 16384) :
    presentTo l b s = .next (w.updCore l fun _ => t) := by
  refine present_effect hr hp.marker hp.reserved hb (passes_of_judgeS hp hb hgo) hcores htime F hF ?_ t ht hpc
  have hl : (c.shows b s.time.cycle).lcore = l := (State.core?_lcore hr.core :)
  rw [runSlots_s hp, hl]
  exact heff

/-! ### The core that shows its bundle -/

/-- A number names one core after an update of it as well. -/
theorem Alone.updCore {s : State} {l : Nat} {c : CoreSt} (h : Alone s l c) {f : CoreSt → CoreSt}
    (hf : ∀ d, (f d).lcore = d.lcore) : Alone (s.updCore l f) l (f c) := by
  obtain ⟨hc, ha⟩ := h
  refine ⟨by rw [State.core?_updCore s l f hf, hc]; rfl, fun d hd e => ?_⟩
  obtain ⟨d', hd', rfl⟩ := List.mem_map.mp hd
  by_cases hl : d'.lcore == l
  · rw [if_pos hl, ha d' hd' (beq_iff_eq.mp hl)]
  · rw [if_neg hl] at e
    exact absurd (beq_iff_eq.mpr e) hl

/-- Two effects that agree on the one core of a number agree. -/
theorem Alone.updCore_congr {s : State} {l : Nat} {c : CoreSt} (h : Alone s l c) {f g : CoreSt → CoreSt} (e : f c = g c) :
    s.updCore l f = s.updCore l g :=
  Machine.updCore_congr s l f g fun d hd hl => by rw [h.2 d hd hl, e]

theorem Alone.lcore {s : State} {l : Nat} {c : CoreSt} (h : Alone s l c) : c.lcore = l := State.core?_lcore h.1

theorem Ready.sole {s : State} {l : Nat} {c : CoreSt} {x : Region} (hr : Ready s l c x) : Alone s l c := ⟨hr.core, hr.alone⟩

/-- No start condition waits behind an effect: none is served. -/
theorem Alone.serve_idle {s : State} {l : Nat} {c : CoreSt} (h : Alone s l c) {F : CoreSt → CoreSt}
    (hF : ∀ d, (F d).lcore = d.lcore) (hc : (F c).conds = []) :
    (s.updCore l F).updCore l CoreSt.serveConds = s.updCore l F := by
  rw [updCore_updCore s l F _ hF]
  exact h.updCore_congr (serveConds_none _ hc)

/-- A ready core that shows a bundle. -/
theorem Ready.shown {s w : State} {l : Nat} {c : CoreSt} {x : Region} (hr : Ready s l c x) (hw : w.cores = s.cores)
    (b : Bundle) (cy : Nat) : Alone (w.updCore l fun d => d.shows b cy) l (c.shows b cy) := by
  refine Alone.updCore ⟨?_, fun d hd => hr.alone d (hw ▸ hd)⟩ fun _ => rfl
  rw [State.core?, hw]
  exact hr.core

/-- The effect of an S instruction other than TTAKE, for a core without waiting start conditions. -/
theorem slots_s {s w : State} {l : Nat} {c : CoreSt} {x : Region} (hr : Ready s l c x) (hcores : w.cores = s.cores)
    {b : Bundle} (hk : ∀ t n, b.s ≠ .ttake t n) {F : CoreSt → CoreSt} (hF : ∀ d, (F d).lcore = d.lcore)
    (hc : (F (c.shows b s.time.cycle)).conds = [])
    (happ : applyS (s.ctx c) (c.shows b s.time.cycle) b.s (s.updCore l fun d => d.shows b s.time.cycle) =
      (w.updCore l fun d => d.shows b s.time.cycle).updCore l F) :
    ((applyS (s.ctx c) (c.shows b s.time.cycle) b.s (s.updCore l fun d => d.shows b s.time.cycle)).updCore l
      CoreSt.serveConds).takeNow l c.pc b.s = (w.updCore l fun d => d.shows b s.time.cycle).updCore l F := by
  rw [happ, (hr.shown hcores b _).serve_idle hF hc, takeNow_other _ _ _ _ hk]

/-- An S instruction that falls through on a straight path: the core goes on at the next index. -/
theorem finished_through {c d : CoreSt} {b : Bundle} {cy : Nat} (hs : c.straight) (hd : d.loops = c.loops) (halt : Bool)
    (ha : advancePc (c.shows b cy) b true d = backEdges d.loops c.pc d) :
    (c.shows b cy).finished b true halt cy d = { d.countOccur c.pc with
      pc := c.pc + 1, lastIdx := c.pc, nextIssue := cy + successorDelay (c.shows b cy) b, presented := none
      run := if halt then .halted else d.run } :=
  finished_of_advance (ha.trans (backEdges_straight _ _ _ rfl (by rw [hd]; exact hs.1)))

/-- A core with a fault of the present cycle (R82). -/
def CoreSt.raised (c : CoreSt) (cycle : Nat) (code : FCode) (slot : Option Slot) (bundle detail : Nat) (closing : Bool) :
    CoreSt :=
  { c with due := c.due ++ [c.frec cycle code slot bundle detail closing] }

theorem raise_eq (s : State) (l : Nat) (code : FCode) (slot : Option Slot) (bundle detail : Nat) (closing : Bool) :
    s.raise l code slot bundle detail closing =
      s.updCore l fun c => c.raised s.time.cycle code slot bundle detail closing := rfl

/-- A fault raised before an effect on the one core of a number. -/
theorem Alone.raise_updCore {s : State} {l : Nat} {c : CoreSt} (h : Alone s l c) (code : FCode) (slot : Option Slot)
    (bundle detail : Nat) (closing : Bool) (f : CoreSt → CoreSt) :
    (s.raise l code slot bundle detail closing).updCore l f =
      s.updCore l fun _ => f (c.raised s.time.cycle code slot bundle detail closing) := by
  rw [raise_eq, updCore_updCore s l (fun d => d.raised s.time.cycle code slot bundle detail closing) f fun _ => rfl]
  exact h.updCore_congr rfl

end Sys2Proof.Machine
end

section
/-! PROOFS. The sequencer's instructions of the S slot (spec chapter 07): BR, LOOP and the end of a loop. Each has its effect
on its own core, so `present_s` leaves the successor to be computed (`advancePc`). -/

namespace Sys2Proof.Machine

/-! ### BR (R172, R176) -/

theorem advancePc_br_taken {c0 c : CoreSt} {b : Bundle} {pp : BitVec 2} {always sense : Bool} {target : BitVec 14}
    (h : always = true ∨ c0.preds.getD pp.toNat false = sense) :
    advancePc c0 { b with s := .br pp always sense target } true c =
      ({ c with loops := popLoops c.loops target.toNat }, target.toNat) := by
  have ht : brTaken c0 (.br pp always sense target) true = some target.toNat := by
    rcases h with rfl | rfl <;> simp [brTaken]
  simp only [advancePc, haltBroken, ht, Bool.false_eq_true, if_false]

theorem advancePc_br_untaken {c0 c : CoreSt} {b : Bundle} {pp : BitVec 2} {sense : Bool} {target : BitVec 14}
    (h : c0.preds.getD pp.toNat false ≠ sense) :
    advancePc c0 { b with s := .br pp false sense target } true c = backEdges c.loops c0.pc c := by
  have ht : brTaken c0 (.br pp false sense target) true = none :=
    if_neg (by simpa only [Bool.true_and, Bool.false_or, beq_iff_eq] using h)
  simp only [advancePc, haltBroken, ht, Bool.false_eq_true, if_false]

/-- A ready core that issues a bundle whose one instruction touches its core alone, with the effect `t`. -/
theorem present_own {s : State} {l : Nat} {c : CoreSt} {x : Region} {b : Bundle} {op : SOp} (hr : Ready s l c x)
    (hp : plainBundle b) (hb : haltBroken { b with s := op } = false)
    (hgo : judgeS (s.ctx c) (c.given { b with s := op }) { b with s := op } = .go)
    (hcore : ∀ k c0 s, applyS k c0 op s = s.updCore c0.lcore (applySCore k c0 op))
    (hl : ∀ k c0 d, (applySCore k c0 op d).lcore = d.lcore) (hk : ∀ t n, op ≠ .ttake t n)
    (hcd : ∀ k c0 d, (applySCore k c0 op d).conds = d.conds) {t : CoreSt}
    (ht : (c.shows { b with s := op } s.time.cycle).finished { b with s := op } true (op == .halt) s.time.cycle
      (applySCore (s.ctx c) (c.shows { b with s := op } s.time.cycle) op (c.shows { b with s := op } s.time.cycle)) = t)
    (hpc : t.run = .running → t.pc < 16384) :
    presentTo l { b with s := op } s = .next (s.updCore l fun _ => t) :=
  present_s hr (onlyS hp op) hb hgo hcore hl hk hcd t ht hpc

/-- Settles O4: the successor of a BR is its target or the next index, in either case three cycles later. -/
theorem branchGoesToItsTarget : Obligations.BranchGoesToItsTarget := by
  intro s l c x b pp always sense target hr hp
  have hp0 := hr.presented
  have hw0 := hr.waiting
  refine ⟨fun htk => ?_, fun ha hn hs => ?_⟩
  · refine present_own hr hp rfl rfl (fun _ _ _ => rfl) (fun _ _ _ => rfl) (fun _ _ => SOp.noConfusion) (fun _ _ _ => rfl)
      ((finished_of_advance (advancePc_br_taken (c0 := c.shows _ _) htk)).trans ?_) fun _ => target.isLt
    rw [pop_drop]
    cases c
    obtain rfl : _ = none := hp0
    obtain rfl : _ = [] := hw0
    rfl
  · subst ha
    refine present_own hr hp rfl rfl (fun _ _ _ => rfl) (fun _ _ _ => rfl) (fun _ _ => SOp.noConfusion) (fun _ _ _ => rfl)
      ((finished_of_advance ((advancePc_br_untaken (c0 := c.shows _ _) hn).trans
        (backEdges_straight _ _ (c.shows _ _) rfl hs.1))).trans ?_) fun _ => Nat.succ_lt_succ hs.2
    cases c
    obtain rfl : _ = none := hp0
    obtain rfl : _ = [] := hw0
    rfl

/-! ### LOOP and the end of a loop (R174, R175) -/

theorem loopCount_eq (c : CoreSt) (src : LoopSrc) :
    loopCount c src = match src with | .imm n => n.toNat | .reg cs => c.counter cs.toNat := by
  cases src <;> rfl

/-- A LOOP whose body fits instruction memory and the loop around it passes its checks. -/
theorem judgeS_loop {k : Ctx} {c : CoreSt} {b : Bundle} {cl : BitVec 3} {len1 : BitVec 14} {src : LoopSrc}
    (hstop : c.pc + len1.toNat + 1 ≤ 16383) (hn : c.loops.length < 8)
    (hin : ∀ e r, c.loops = e :: r → c.pc + len1.toNat + 1 ≤ e.stop) :
    judgeS k c { b with s := .loop cl len1 src } = .go := by
  have hgo : ¬ (16383 < c.pc + len1.toNat + 1) := by omega
  cases h : c.loops with
  | nil => simp only [judgeS, SOp.legal, h, List.head?_nil]; simp [hgo]
  | cons e r =>
    rw [h] at hn
    have := hin e r h
    have hle : ¬ (e.stop < c.pc + len1.toNat + 1) := by omega
    simp only [judgeS, SOp.legal, h, List.head?_cons, hgo, hle]
    simpa using Nat.lt_of_succ_lt_succ hn

/-- What a LOOP does to its core (R174). -/
theorem applySCore_loop (k : Ctx) (c0 c : CoreSt) (cl : BitVec 3) (len1 : BitVec 14) (src : LoopSrc) :
    applySCore k c0 (.loop cl len1 src) c =
      if loopCount c0 src = 0 then c.setCounter cl.toNat 0
      else { c.setCounter cl.toNat 0 with loops :=
        { start := c0.pc + 1, stop := c0.pc + len1.toNat + 1, counter := cl.toNat, count := loopCount c0 src } ::
          c.loops } := rfl

theorem applySCore_loop_frame (k : Ctx) (c0 c : CoreSt) (cl : BitVec 3) (len1 : BitVec 14) (src : LoopSrc) :
    ∃ ls, applySCore k c0 (.loop cl len1 src) c = { c.setCounter cl.toNat 0 with loops := ls } := by
  rw [applySCore_loop]
  split
  · exact ⟨c.loops, rfl⟩
  · exact ⟨_, rfl⟩

/-- A LOOP with count 0 leaves the loops and jumps past its body (R174). -/
theorem loop_skips {c0 : CoreSt} {src : LoopSrc} (h : loopCount c0 src = 0) (k : Ctx) (c : CoreSt) (b : Bundle)
    (cl : BitVec 3) (len1 : BitVec 14) :
    advancePc c0 { b with s := .loop cl len1 src } true (applySCore k c0 (.loop cl len1 src) c) =
      (c.setCounter cl.toNat 0, c0.pc + len1.toNat + 2) := by
  rw [applySCore_loop, if_pos h]
  exact if_pos h

/-- Any other LOOP enters its body as the innermost loop (R174). -/
theorem loop_begins {c0 : CoreSt} {src : LoopSrc} (h : loopCount c0 src ≠ 0) (k : Ctx) (c : CoreSt) (b : Bundle)
    (cl : BitVec 3) (len1 : BitVec 14) :
    advancePc c0 { b with s := .loop cl len1 src } true (applySCore k c0 (.loop cl len1 src) c) =
      ({ c.setCounter cl.toNat 0 with loops :=
          { start := c0.pc + 1, stop := c0.pc + len1.toNat + 1, counter := cl.toNat, count := loopCount c0 src } ::
            c.loops }, c0.pc + 1) := by
  rw [applySCore_loop, if_neg h]
  exact if_neg h

/-- Settles O5: the counter is cleared, and the count says whether the body is begun or skipped. -/
theorem loopBeginsOrSkipsItsBody : Obligations.LoopBeginsOrSkipsItsBody := by
  intro s l c x b cl len1 src hr hp count stop go hstop hn hin
  have hp0 := hr.presented
  have hw0 := hr.waiting
  have hstop' : c.pc + len1.toNat + 1 ≤ 16382 := hstop
  have hcount : loopCount c src = count := loopCount_eq c src
  refine present_own hr hp rfl (judgeS_loop (c := c.given _) (Nat.le_succ_of_le hstop) hn hin) (fun _ _ _ => rfl)
    (fun k c0 d => ?_) (fun _ _ => SOp.noConfusion) (fun k c0 d => ?_) ?_ fun _ => ?_
  · obtain ⟨_, e⟩ := applySCore_loop_frame k c0 d cl len1 src
    rw [e]; rfl
  · obtain ⟨_, e⟩ := applySCore_loop_frame k c0 d cl len1 src
    rw [e]; rfl
  · by_cases h0 : count = 0
    · rw [if_pos h0]
      refine (finished_of_advance (loop_skips (c0 := c.shows _ _) (hcount.trans h0) _ _ _ _ _)).trans ?_
      cases c
      obtain rfl : _ = none := hp0
      obtain rfl : _ = [] := hw0
      rfl
    · rw [if_neg h0]
      refine (finished_of_advance (loop_begins (c0 := c.shows _ _) (hcount ▸ h0 :) _ _ _ _ _)).trans ?_
      have hcount' : loopCount (c.shows { b with s := .loop cl len1 src } s.time.cycle) src = count := hcount
      rw [hcount']
      cases c
      obtain rfl : _ = none := hp0
      obtain rfl : _ = [] := hw0
      rfl
  · split
    · show stop + 1 < 16384
      omega
    · show c.pc + 1 < 16384
      omega

theorem setCounter_reduced (c : CoreSt) (k v : Nat) :
    c.setCounter k (v % 2 ^ 32) = { c with counters := c.counters.set k (v % 2 ^ 32) } := by
  rw [CoreSt.setCounter, Nat.mod_mod]
  rfl

/-- At the last bundle of the innermost loop its counter moves by one, and the body is entered again or the loop ends
(R175). -/
theorem backEdges_innermost {c : CoreSt} {e : LoopEntry} {r : List LoopEntry} (hc : c.loops = e :: r) {n : Nat}
    (he : e.stop = n) (hr : ∀ f q, r = f :: q → f.stop ≠ n) :
    let v := (c.counter e.counter + 1) % 2 ^ 32
    backEdges c.loops n c =
      if v < e.count then ({ c with counters := c.counters.set e.counter v }, e.start)
      else ({ c with counters := c.counters.set e.counter v, loops := r }, n + 1) := by
  intro v
  rw [hc]
  simp only [backEdges, he, if_true, setCounter_reduced]
  split
  · rw [← hc]
  · cases r with
    | nil => rfl
    | cons f q => exact if_neg (hr f q rfl)

/-- Behind a NOP the back-edges give the successor. -/
theorem advancePc_nop (c0 c : CoreSt) (b : Bundle) (ok : Bool) :
    advancePc c0 { b with s := .nop } ok c = backEdges c.loops c0.pc c := rfl

/-- Settles O6: a NOP at the last bundle leaves the back-edge to the innermost loop. -/
theorem loopEndGoesBackOrLeaves : Obligations.LoopEndGoesBackOrLeaves := by
  intro s l c x b slot e r hr hp hloops hstop hpc hstart hinner v go
  have hp0 := hr.presented
  have hw0 := hr.waiting
  show presentTo l (withNop b slot) s = _
  rw [withNop_s hp]
  refine present_own hr hp rfl rfl (fun _ _ _ => rfl) (fun _ _ _ => rfl) (fun _ _ => SOp.noConfusion)
    (fun _ _ _ => rfl) ?_ fun _ => ?_
  · have hadv := (advancePc_nop (c.shows { b with s := .nop } s.time.cycle) _ b true).trans
      (backEdges_innermost (c := c.shows { b with s := .nop } s.time.cycle) hloops hstop hinner)
    by_cases h : v < e.count
    · rw [if_pos h]
      refine (finished_of_advance (hadv.trans (if_pos h))).trans ?_
      cases c
      obtain rfl : _ = none := hp0
      obtain rfl : _ = [] := hw0
      rfl
    · rw [if_neg h]
      refine (finished_of_advance (hadv.trans (if_neg h))).trans ?_
      cases c
      obtain rfl : _ = none := hp0
      obtain rfl : _ = [] := hw0
      rfl
  · split
    · exact hstart
    · exact Nat.succ_lt_succ hpc

end Sys2Proof.Machine
end

section
/-! PROOFS. The tally instructions of the S slot, remote signals and DADV (spec chapters 07 and 10). -/

namespace Sys2Proof.Machine

/-! ### Local TSIG, TWAIT and TTAKE (R180 to R184) -/

/-- With no start condition waiting a wait sees the count alone (R180). -/
theorem tallyReady_of_conds {c : CoreSt} (h : c.conds = []) (t n : Nat) : c.tallyReady t n = decide (n ≤ c.avail t) := by
  rw [CoreSt.tallyReady, h]
  rfl

theorem judgeS_twait {k : Ctx} {c : CoreSt} {b : Bundle} {t : BitVec 6} {n : BitVec 12} (hc : c.conds = [])
    (ht : t.toNat ≤ 47) (hn : n.toNat ≤ c.avail t.toNat) : judgeS k c { b with s := .twait t n } = .go := by
  have : c.tallyReady t.toNat n.toNat = true := by rw [tallyReady_of_conds hc]; exact decide_eq_true hn
  simp only [judgeS, SOp.legal, ht, this]
  simp

theorem judgeS_ttake {k : Ctx} {c : CoreSt} {b : Bundle} {t : BitVec 6} {n : BitVec 12} (ht : t.toNat ≤ 47) :
    judgeS k c { b with s := .ttake t n } = .go := by
  simp [judgeS, SOp.legal, ht]

theorem judgeS_tsigLocal {k : Ctx} {c : CoreSt} {b : Bundle} {t : BitVec 6} {n : BitVec 12} (ht : t.toNat ≤ 47) :
    judgeS k c { b with s := .tsigLocal t n } = .go := by
  simp [judgeS, SOp.legal, ht]

/-- A TTAKE of what the tally holds takes it; of more, it raises TALLY_UNDERFLOW (R184). -/
theorem takeNow_ttake {s : State} {l : Nat} {c : CoreSt} (h : s.core? l = some c) (pc : Nat) (t : BitVec 6) (n : BitVec 12) :
    s.takeNow l pc (.ttake t n) =
      if n.toNat ≤ c.avail t.toNat then s.updCore l fun c => c.takeTally t.toNat n.toNat
      else s.raise l .tallyUnderflow (some .s) pc (overflowDetail t.toNat (c.avail t.toNat) n.toNat 0) := by
  simp only [State.takeNow, h]

/-- What the slots of a bundle with one TTAKE do: the TTAKE alone, behind the waits of the cycle. -/
theorem slots_ttake {s : State} {l : Nat} {c : CoreSt} {x : Region} (hr : Ready s l c x) {b : Bundle} {t : BitVec 6}
    {n : BitVec 12} :
    let bb : Bundle := { b with s := .ttake t n }
    ((applyS (s.ctx c) (c.shows bb s.time.cycle) bb.s (s.updCore l fun d => d.shows bb s.time.cycle)).updCore l
      CoreSt.serveConds).takeNow l c.pc bb.s =
    if n.toNat ≤ c.avail t.toNat then (s.updCore l fun d => d.shows bb s.time.cycle).updCore l fun c =>
      c.takeTally t.toNat n.toNat
    else (s.updCore l fun d => d.shows bb s.time.cycle).raise l .tallyUnderflow (some .s) c.pc
      (overflowDetail t.toNat (c.avail t.toNat) n.toNat 0) := by
  intro bb
  have hsh := hr.shown rfl bb s.time.cycle
  have happ : applyS (s.ctx c) (c.shows bb s.time.cycle) bb.s (s.updCore l fun d => d.shows bb s.time.cycle) =
      s.updCore l fun d => d.shows bb s.time.cycle := updCore_id _ _ _ fun _ _ _ => rfl
  have hserve : (s.updCore l fun d => d.shows bb s.time.cycle).updCore l CoreSt.serveConds =
      s.updCore l fun d => d.shows bb s.time.cycle :=
    updCore_id _ _ _ fun d hd e => by rw [hsh.2 d hd e]; exact serveConds_none _ hr.conds
  rw [happ, hserve]
  exact takeNow_ttake hsh.1 _ _ _

/-- The tallies that the end of a cycle leaves before any addition (R180). -/
theorem settleTallies_one {c : CoreSt} {a : TallyAdd} (h : c.fresh = [a]) (cy : Nat) :
    c.settleTallies cy = CoreSt.addOne cy
      { c with tallies := (List.range 48).map c.avail, taken := List.replicate 48 0, fresh := [] } a := by
  have : addOrder [a] = [a] := by
    unfold addOrder
    cases h : a.src == 0 <;> simp [h, bne]
  rw [CoreSt.settleTallies, h, this]
  rfl

theorem getD_avail {c : CoreSt} {t : Nat} (h : t < 48) : ((List.range 48).map c.avail).getD t 0 = c.avail t := by
  simp [List.getD, h]

/-- A local TSIG joins the additions of its cycle (R181). -/
theorem applyS_tsigLocal (k : Ctx) (c0 : CoreSt) (t : BitVec 6) (n : BitVec 12) (s : State) :
    applyS k c0 (.tsigLocal t n) s = s.updCore c0.lcore fun d =>
      d.giveTally { tally := t.toNat, n := n.toNat, src := 0, slot := some .s, bundle := c0.pc } := by
  show (s.updCore c0.lcore fun d => d).addTally _ _ _ _ _ _ = _
  rw [updCore_id s _ _ fun _ _ _ => rfl]
  rfl

/-- Settles O7. -/
theorem tallyInstructionsMoveTheCount : Obligations.TallyInstructionsMoveTheCount := by
  intro s l c x b t n a hr hp hs ht go taken
  have hp0 := hr.presented
  have hw0 := hr.waiting
  refine ⟨?_, fun hn => ?_, fun hn => ?_, fun hf ha hfit => ?_⟩
  · refine present_s_effect (w := s) hr (onlyS hp _) rfl (judgeS_tsigLocal ht) rfl rfl
      (fun d => d.giveTally { tally := t.toNat, n := n.toNat, src := 0, slot := some .s, bundle := c.pc }) (fun _ => rfl)
      (slots_s hr rfl (fun _ _ => SOp.noConfusion) (fun _ => rfl) hr.conds ?_) _
      ((finished_through hs (by rfl) _ (by rfl)).trans ?_) fun _ => Nat.succ_lt_succ hs.2
    · rw [applyS_tsigLocal, (hr.shown rfl _ _).lcore]
      rfl
    · cases c
      obtain rfl : _ = none := hp0
      obtain rfl : _ = [] := hw0
      rfl
  · refine present_own hr hp rfl (judgeS_twait (c := c.given _) hr.conds ht hn) (fun _ _ _ => rfl) (fun _ _ _ => rfl)
      (fun _ _ => SOp.noConfusion) (fun _ _ _ => rfl) ((finished_through hs (by rfl) _ (by rfl)).trans ?_) fun _ => Nat.succ_lt_succ hs.2
    cases c
    obtain rfl : _ = none := hp0
    obtain rfl : _ = [] := hw0
    rfl
  · refine present_s_effect (w := s) hr (onlyS hp _) rfl (judgeS_ttake ht) rfl rfl
      (fun d => d.takeTally t.toNat n.toNat) (fun _ => rfl) ((slots_ttake hr).trans (if_pos hn)) _
      ((finished_through hs (by rfl) _ (by rfl)).trans ?_) fun _ => Nat.succ_lt_succ hs.2
    cases c
    obtain rfl : _ = none := hp0
    obtain rfl : _ = [] := hw0
    rfl
  · have hv := getD_avail (c := c) (Nat.lt_succ_of_le ha)
    rw [settleTallies_one hf, CoreSt.addOne_fits s.time.cycle (hv ▸ hfit), hv]
    refine ⟨rfl, rfl, fun u _ => ?_, fun u hu => ?_⟩
    · show (List.replicate 48 0).getD u 0 = 0
      rw [List.getD, List.getElem?_replicate]
      split <;> rfl
    by_cases hua : u = a.tally
    · subst hua
      simp [setAt, List.getD, hu]
    · rw [if_neg hua, ← getD_avail (c := c) hu]
      simp [setAt, List.getD, Ne.symm hua]

/-! ### The faults of a cycle (R82) -/

/-- Recording a fault takes no time. -/
theorem recordFault_time (s : State) (l : Nat) (f : FRec) : (s.recordFault l f).time = s.time := by
  unfold State.recordFault
  split
  · rfl
  · dsimp only
    split
    · rfl
    · exact State.report_time _ _ _ _ _

/-- Policy LOG stops nothing. -/
theorem applyPolicy_log (s : State) (c : CoreSt) : s.applyPolicy c .log = s := by
  unfold State.applyPolicy
  split
  · rfl
  · split <;> rfl

theorem FRec.rank_lt (f : FRec) : f.rank < 5 := by
  unfold FRec.rank
  split <;> decide

/-- Two faults of a cycle stand in the order of their slots, and of one slot in the order in which they arose. -/
theorem inSlotOrder_two (f g : FRec) : inSlotOrder [f, g] = if f.rank ≤ g.rank then [f, g] else [g, f] := by
  have hf := f.rank_lt
  have hg := g.rank_lt
  simp only [inSlotOrder, List.range_succ, List.range_zero, List.nil_append, List.flatMap_append, List.flatMap_singleton,
    List.filter_cons, List.filter_nil]
  generalize f.rank = i at *
  generalize g.rank = j at *
  interval_cases i <;> interval_cases j <;> rfl

/-- Settles O8. -/
theorem tallyFaultsLeaveTheTally : Obligations.TallyFaultsLeaveTheTally := by
  intro s l c x b t n a f g hr hp hs ht
  have hp0 := hr.presented
  have hw0 := hr.waiting
  refine ⟨fun hn => ?_, fun hf ha hover => ?_, fun hdue hpf hpg => ?_⟩
  · rw [hr.sole.raise_updCore]
    refine present_s_effect (w := s) hr (onlyS hp _) rfl (judgeS_ttake ht) rfl rfl
      (fun d => d.raised s.time.cycle .tallyUnderflow (some .s) c.pc
        (overflowDetail t.toNat (c.avail t.toNat) n.toNat 0) false)
      (fun _ => rfl) ((slots_ttake hr).trans (if_neg (Nat.not_le.mpr hn))) _
      ((finished_through hs (by rfl) _ (by rfl)).trans ?_) fun _ => Nat.succ_lt_succ hs.2
    cases c
    obtain rfl : _ = none := hp0
    obtain rfl : _ = [] := hw0
    rfl
  · have hv := getD_avail (c := c) (Nat.lt_succ_of_le ha)
    rw [settleTallies_one hf, CoreSt.addOne_overflows s.time.cycle (by rw [hv]; omega), hv]
    exact ⟨rfl, fun u hu => getD_avail hu⟩
  · simp only [State.settleFaults, hr.core, hr.region, hdue, List.isEmpty_cons, Bool.false_eq_true, if_false,
      List.foldl_cons, List.foldl_nil, hpf, hpg, Policy.max, applyPolicy_log, inSlotOrder_two]
    split <;> simp only [List.foldl_cons, List.foldl_nil, recordFault_time, State.updCore_time]

end Sys2Proof.Machine
end

section
/-! PROOFS. TWAITANY, remote signals and DADV (spec chapters 07, 10 and 11). -/

namespace Sys2Proof.Machine

/-! ### TWAITANY (R183, R278) -/

theorem readyTallies_length (c : CoreSt) (t k1 n : Nat) : (readyTallies c t k1 n).length = k1 + 1 := by
  simp [readyTallies]

theorem readyTallies_getD {c : CoreSt} (hc : c.conds = []) {t k1 n i : Nat} (hi : i ≤ k1) :
    (readyTallies c t k1 n).getD i false = decide (n ≤ c.avail (t + i)) := by
  simp [readyTallies, List.getD, Nat.lt_succ_of_le hi, tallyReady_of_conds hc]

theorem readyTallies_all {c : CoreSt} (hc : c.conds = []) {t k1 n : Nat} :
    (readyTallies c t k1 n).all id = true ↔ ∀ i ≤ k1, n ≤ c.avail (t + i) := by
  simp [readyTallies, tallyReady_of_conds hc]

/-- Without a replay the lowest ready position is taken; the choice counts when not every position is ready. -/
theorem resolveAny_first {ready : List Bool} {j : Nat} (hj : j < ready.length) (h : ready.getD j false = true)
    (hlow : ∀ i < j, ready.getD i false = false) :
    resolveAny none ready = some (j, !ready.all id, false) := by
  have hfind : (List.range ready.length).find? (fun i => ready.getD i false) = some j := by
    rw [List.find?_range_eq_some]
    exact ⟨h, List.mem_range.mpr hj, fun i hi => by rw [hlow i hi]; rfl⟩
  simp only [resolveAny, hfind, Option.map_some]

/-- A TWAITANY without a replay takes the lowest ready tally. -/
theorem resolveAny_lowest {k : Ctx} {c : CoreSt} (hc : c.conds = []) (hrep : c.replay = none) {t k1 n j : Nat}
    (hj : j ≤ k1) (hready : n ≤ c.avail (t + j)) (hlow : ∀ i < j, ¬ n ≤ c.avail (t + i)) :
    resolveAny (replayIndex k c false) (readyTallies c t k1 n) =
      some (j, !(readyTallies c t k1 n).all id, false) := by
  rw [replayIndex, hrep]
  refine resolveAny_first (by rw [readyTallies_length]; omega) ?_ fun i hi => ?_
  · rw [readyTallies_getD hc hj]; exact decide_eq_true hready
  · rw [readyTallies_getD hc (by omega)]; exact decide_eq_false (hlow i hi)

/-- What a counted choice leaves (R278). -/
theorem choose_eq (c : CoreSt) (e : ChoiceEntry) : c.choose e = { c with
    choices := min (c.choices + 1) (2 ^ 32 - 1)
    choiceLog := if c.choiceLog.length < 256 then c.choiceLog ++ [e] else c.choiceLog
    choiceLost := if c.choiceLog.length < 256 then c.choiceLost else min (c.choiceLost + 1) (2 ^ 32 - 1) } := by
  by_cases h : c.choiceLog.length < 256
  · simp only [CoreSt.choose, h, if_true]
  · simp only [CoreSt.choose, h, if_false]

/-- The core after TWAITANY counted a choice where there was one, took `n` from tally `t` and wrote the index. -/
def CoreSt.tookAny (t n cd j : Nat) (choice : Option ChoiceEntry) (c : CoreSt) : CoreSt :=
  ((choice.elim c c.choose).takeTally t n).setCounter cd j

/-- What a counted choice leaves (R278). -/
theorem tookAny_some (t n cd j : Nat) (e : ChoiceEntry) (c : CoreSt) : c.tookAny t n cd j (some e) = { c with
    choices := min (c.choices + 1) (2 ^ 32 - 1)
    choiceLog := if c.choiceLog.length < 256 then c.choiceLog ++ [e] else c.choiceLog
    choiceLost := if c.choiceLog.length < 256 then c.choiceLost else min (c.choiceLost + 1) (2 ^ 32 - 1)
    taken := updAt c.taken t fun v => v + n
    counters := setAt c.counters cd (j % 2 ^ 32) } := by
  show ((c.choose e).takeTally t n).setCounter cd j = _
  rw [choose_eq]
  rfl

/-- The entry of the choice log of a TWAITANY that took ready position `j`, where its choice counts (R278). -/
def Ctx.choice (k : Ctx) (c : CoreSt) (j : Nat) (counts : Bool) : Option ChoiceEntry :=
  if counts = true then
    some { runStep := k.runStep c, bundle := c.pc, occurrence := c.occurrence c.pc, index := j, isTag := false }
  else none

/-- TWAITANY takes from the tally that it resolves to and writes the index (R183). -/
theorem applySCore_twaitany {k : Ctx} {c0 : CoreSt} {t : BitVec 6} {k1 cd : BitVec 3} {n : BitVec 8} {j : Nat}
    {counts : Bool} (h : resolveAny (replayIndex k c0 false) (readyTallies c0 t.toNat k1.toNat n.toNat) =
      some (j, counts, false)) (c : CoreSt) :
    applySCore k c0 (.twaitany t k1 cd n) c =
      c.tookAny (t.toNat + j) n.toNat cd.toNat j (k.choice c0 j counts) := by
  unfold applySCore
  dsimp only
  rw [h]
  cases counts with
  | false => rfl
  | true =>
    show CoreSt.choose _ _ = ((c.choose _).takeTally _ _).setCounter _ _
    rw [choose_eq, choose_eq]
    rfl

/-- A TWAITANY that resolves to a tally passes its checks. -/
theorem judgeS_twaitany {k : Ctx} {c : CoreSt} {b : Bundle} {t : BitVec 6} {k1 cd : BitVec 3} {n : BitVec 8}
    {r : Nat × Bool × Bool} (hrel : b.relaxed = true) (hs : b.s = .twaitany t k1 cd n) (hn : n ≠ 0)
    (ht : t.toNat + k1.toNat ≤ 47)
    (h : resolveAny (replayIndex k c false) (readyTallies c t.toNat k1.toNat n.toNat) = some r) :
    judgeS k c b = .go := by
  have hn' : (n != 0) = true := by simpa using hn
  simp only [judgeS, hs, SOp.legal, ht, hrel, hn', h]
  rfl

theorem tookAny_lcore (t n cd j : Nat) (o : Option ChoiceEntry) (c : CoreSt) : (c.tookAny t n cd j o).lcore = c.lcore := by
  cases o with
  | none => rfl
  | some e => rw [tookAny_some]

theorem tookAny_conds (t n cd j : Nat) (o : Option ChoiceEntry) (c : CoreSt) : (c.tookAny t n cd j o).conds = c.conds := by
  cases o with
  | none => rfl
  | some e => rw [tookAny_some]

theorem tookAny_loops (t n cd j : Nat) (o : Option ChoiceEntry) (c : CoreSt) : (c.tookAny t n cd j o).loops = c.loops := by
  cases o with
  | none => rfl
  | some e => rw [tookAny_some]

/-- The bundle of a TWAITANY ends with the next index. -/
theorem finished_twaitany {c : CoreSt} {b : Bundle} {cy t n cd j : Nat} {o : Option ChoiceEntry} (hp0 : c.presented = none)
    (hw0 : c.waiting = []) (hs : c.straight) {w : BitVec 6} {k1 kd : BitVec 3} {m : BitVec 8} :
    (c.shows { b with s := .twaitany w k1 kd m } cy).finished { b with s := .twaitany w k1 kd m } true false cy
      ((c.shows { b with s := .twaitany w k1 kd m } cy).tookAny t n cd j o) =
      (c.issued cy (b.delay.toNat + 1)).tookAny t n cd j o := by
  refine (finished_through hs (by exact tookAny_loops _ _ _ _ _ _) _ ?_).trans ?_
  · cases o with
    | none => rfl
    | some e => rw [tookAny_some]; rfl
  cases c
  obtain rfl : _ = none := hp0
  obtain rfl : _ = [] := hw0
  cases o with
  | none => rfl
  | some e => rw [tookAny_some, tookAny_some]; rfl

/-- A ready core that issues a TWAITANY which resolves to a tally. -/
theorem present_twaitany {s : State} {l : Nat} {c : CoreSt} {x : Region} {b : Bundle} {t : BitVec 6} {k1 cd : BitVec 3}
    {n : BitVec 8} {j : Nat} {counts : Bool} (hr : Ready s l c x) (hp : plainBundle b) (hs : c.straight)
    (hrel : b.relaxed = true) (hn : n ≠ 0) (ht : t.toNat + k1.toNat ≤ 47)
    (hres : resolveAny (replayIndex (s.ctx c) c false) (readyTallies c t.toNat k1.toNat n.toNat) = some (j, counts, false)) :
    presentTo l { b with s := .twaitany t k1 cd n } s = .next (s.updCore l fun _ =>
      (c.issued s.time.cycle (b.delay.toNat + 1)).tookAny (t.toNat + j) n.toNat cd.toNat j ((s.ctx c).choice c j counts)) := by
  have happ := applySCore_twaitany (k := s.ctx c) (c0 := c.shows { b with s := .twaitany t k1 cd n } s.time.cycle)
    (cd := cd) hres
  refine present_s_effect (w := s) hr (onlyS hp (.twaitany t k1 cd n)) rfl (judgeS_twaitany hrel rfl hn ht hres) rfl rfl
    (CoreSt.tookAny (t.toNat + j) n.toNat cd.toNat j ((s.ctx c).choice c j counts)) (fun e => tookAny_lcore _ _ _ _ _ _)
    (slots_s hr rfl (fun _ _ => SOp.noConfusion) (fun e => tookAny_lcore _ _ _ _ _ _)
      ((tookAny_conds _ _ _ _ _ _).trans hr.conds) ?_) _ ?_ fun _ => ?_
  · show State.updCore _ (c.shows _ _).lcore _ = _
    rw [(hr.shown rfl _ _).lcore]
    exact congrArg _ (funext happ)
  · exact finished_twaitany hr.presented hr.waiting hs
  · cases counts with
    | false => exact Nat.succ_lt_succ hs.2
    | true => rw [Ctx.choice, if_pos rfl, tookAny_some]; exact Nat.succ_lt_succ hs.2

/-- Settles O9: the lowest ready tally is the one TWAITANY resolves to, and a choice counts when one of them is not ready. -/
theorem twaitanyTakesTheLowestReady : Obligations.TwaitanyTakesTheLowestReady := by
  intro s l c x b t k1 cd n j hr hp hs hrel hrep hn ht hj ready hready hlow entry taken
  have hres := resolveAny_lowest (k := s.ctx c) hr.conds hrep hj hready hlow
  have hj' : j % 2 ^ 32 = j := Nat.mod_eq_of_lt (by have := k1.isLt; omega)
  have hx : (s.ctx c).region = x := by rw [State.ctx, hr.region]; rfl
  refine ⟨fun hall => ?_, fun hsome => ?_⟩
  · rw [(readyTallies_all hr.conds).mpr hall] at hres
    refine (present_twaitany hr hp hs hrel hn ht hres).trans ?_
    rw [CoreSt.tookAny, CoreSt.setCounter, hj']
    rfl
  · have hnot : (readyTallies c t.toNat k1.toNat n.toNat).all id = false := by
      rw [Bool.eq_false_iff, ne_eq, readyTallies_all hr.conds]
      rintro h
      obtain ⟨i, hi, hni⟩ := hsome
      exact hni (h i hi)
    rw [hnot] at hres
    refine (present_twaitany hr hp hs hrel hn ht hres).trans ?_
    rw [Bool.not_false, Ctx.choice, if_pos rfl, Ctx.runStep, hx, tookAny_some, hj']
    show Host.Outcome.next (s.updCore l fun _ => _) = .next (s.updCore l fun _ => taken (c.choose entry))
    rw [choose_eq]
    rfl

/-! ### Remote signals (R181, R254, R255) -/

/-- A module whose fabric carries one more signal, sent from bundle `bundle` of core `c` to tally `t` of core `l`. -/
def State.withSignal (s : State) (c : CoreSt) (bundle l t n : Nat) : State :=
  { s with fab := { s.fab with
      nextSig := s.fab.nextSig + 1
      signals := s.fab.signals ++
        [{ id := s.fab.nextSig, issuer := c.lcore, module := s.kol.module, lcore := l, tally := t, count := n
           issued := s.time.cycle, latency := s.sigLatency (some c.lcore) (some l) (dieOf c.phys) (s.coreDie l)
           ahead := laneAhead s.kol.module s.kol.module c, bundle := bundle }] } }

/-- A signal to a core of the own module enters the fabric. -/
theorem sendSignal_own {s : State} {m l n : Nat} (hn : n ≠ 0) (hin : s.inMap m = true) (hm : m = s.kol.module)
    (hl : (s.core? l).isSome = true) (c : CoreSt) (bundle t : Nat) :
    s.sendSignal c bundle m l t n = s.withSignal c bundle l t n := by
  subst hm
  obtain ⟨d, hd⟩ := Option.isSome_iff_exists.mp hl
  simp [State.sendSignal, hn, hin, hd, State.withSignal]

/-- A core after an update of the cores of number `l`. -/
theorem core?_updCore_any (s : State) (l : Nat) {f : CoreSt → CoreSt} (hf : ∀ d, (f d).lcore = d.lcore) (m : Nat) :
    (s.updCore l f).core? m = (s.core? m).map fun d => if d.lcore == l then f d else d := by
  show (s.cores.map _).find? _ = _
  rw [List.find?_map]
  refine congrArg (Option.map _) (congrArg (List.find? · s.cores) (funext fun d => ?_))
  show ((if d.lcore == l then f d else d).lcore == m) = (d.lcore == m)
  rw [apply_ite CoreSt.lcore, hf, ite_self]

theorem coreDie_updCore (s : State) (l : Nat) {f : CoreSt → CoreSt} (hf : ∀ d, (f d).lcore = d.lcore)
    (hp : ∀ d, (f d).phys = d.phys) (m : Nat) : (s.updCore l f).coreDie m = s.coreDie m := by
  rw [State.coreDie, core?_updCore_any s l hf, State.coreDie]
  cases s.core? m with
  | none => rfl
  | some d =>
    show dieOf (if d.lcore == l then f d else d).phys = _
    rw [apply_ite CoreSt.phys, hp, ite_self]

theorem core?_isSome_updCore (s : State) (l : Nat) {f : CoreSt → CoreSt} (hf : ∀ d, (f d).lcore = d.lcore) (m : Nat) :
    ((s.updCore l f).core? m).isSome = (s.core? m).isSome := by
  rw [core?_updCore_any s l hf, Option.isSome_map]

/-- The remote TSIG of a core that shows its bundle leaves its signal in the fabric. -/
theorem applyS_tsigRemote {s : State} {l : Nat} {c : CoreSt} (t : BitVec 6) (h n : BitVec 8) (b : Bundle) (hn : n ≠ 0)
    (hin : s.inMap (gaModule (descAt c.desc h.toNat).base) = true)
    (hm : gaModule (descAt c.desc h.toNat).base = s.kol.module)
    (hl : (s.core? (gaCore (descAt c.desc h.toNat).base)).isSome = true) (k : Ctx) (cy : Nat) :
    applyS k (c.shows b cy) (.tsigRemote t h n) (s.updCore l fun d => d.shows b cy) =
      (s.withSignal c c.pc (gaCore (descAt c.desc h.toNat).base) t.toNat n.toNat).updCore l fun d => d.shows b cy := by
  have hn' : n.toNat ≠ 0 := fun e => hn (BitVec.eq_of_toNat_eq e)
  show State.sendSignal ((s.updCore l fun d => d.shows b cy).updCore c.lcore fun d => d) _ _ _ _ _ _ = _
  rw [updCore_id _ _ (fun d => d) fun _ _ _ => rfl]
  refine (sendSignal_own (s := s.updCore l fun d => d.shows b cy) hn' hin hm
    ((core?_isSome_updCore s l (f := fun d => d.shows b cy) (fun _ => rfl) _).trans hl) _ _ _).trans ?_
  rw [State.withSignal, coreDie_updCore s l (f := fun d => d.shows b cy) (fun _ => rfl) fun _ => rfl]
  rfl

/-- A count of 0 sends nothing. -/
theorem applyS_tsigRemote_zero (t : BitVec 6) (h : BitVec 8) (k : Ctx) (c0 : CoreSt) (s : State) {l : Nat} :
    applyS k c0 (.tsigRemote t h 0) s = s.updCore l id := by
  rw [updCore_id s l id fun _ _ _ => rfl]
  show State.sendSignal (s.updCore c0.lcore fun d => d) _ _ _ _ _ _ = _
  rw [updCore_id s _ (fun d => d) fun _ _ _ => rfl]
  exact if_pos rfl

/-- Settles O10: a count of 0 leaves only the issue, any other count one signal more in the fabric. -/
theorem remoteTsigSendsASignal : Obligations.RemoteTsigSendsASignal := by
  intro s l c x b t h n hr hp hs hpass go target
  have hp0 := hr.presented
  have hw0 := hr.waiting
  have hgo := passes_s hp rfl hpass
  have hfin : (c.shows { b with s := .tsigRemote t h n } s.time.cycle).finished { b with s := .tsigRemote t h n } true false
      s.time.cycle (c.shows { b with s := .tsigRemote t h n } s.time.cycle) = c.issued s.time.cycle (b.delay.toNat + 1) := by
    refine (finished_through hs (by rfl) _ (by rfl)).trans ?_
    cases c
    obtain rfl : _ = none := hp0
    obtain rfl : _ = [] := hw0
    rfl
  refine ⟨fun hn => ?_, fun hn hin hm hl => ?_⟩
  · subst hn
    refine present_s_effect (w := s) hr (onlyS hp (.tsigRemote t h 0)) rfl hgo rfl rfl id (fun _ => rfl)
      (slots_s hr rfl (fun _ _ => SOp.noConfusion) (fun _ => rfl) hr.conds ?_) _ hfin fun _ => Nat.succ_lt_succ hs.2
    exact applyS_tsigRemote_zero t h _ _ _
  · have hlc : c.lcore = l := hr.sole.lcore
    refine (present_s_effect (w := s.withSignal c c.pc (gaCore target) t.toNat n.toNat) hr (onlyS hp (.tsigRemote t h n))
      rfl hgo rfl rfl id (fun _ => rfl) (slots_s (w := s.withSignal c c.pc (gaCore target) t.toNat n.toNat) (F := id) hr rfl
        (fun _ _ => SOp.noConfusion) (fun _ => rfl) hr.conds ?_) _ hfin fun _ => Nat.succ_lt_succ hs.2).trans ?_
    · exact (applyS_tsigRemote t h n _ hn hin hm hl _ _).trans (updCore_id _ _ _ fun _ _ _ => rfl).symm
    · rw [State.withSignal, hlc]
      rfl

/-! ### DADV (R168) -/

/-- Settles O11: the effect of DADV is on its own core. -/
theorem dadvMovesTheBase : Obligations.DadvMovesTheBase := by
  intro s l c x b h dim src hr hp hs hpass d n
  have hp0 := hr.presented
  have hw0 := hr.waiting
  refine present_own hr hp rfl (passes_s hp rfl hpass) (fun _ _ _ => rfl) (fun _ _ _ => rfl) (fun _ _ => SOp.noConfusion)
    (fun _ _ _ => rfl) ((finished_through hs (by rfl) _ (by rfl)).trans ?_) fun _ => Nat.succ_lt_succ hs.2
  cases c
  obtain rfl : _ = none := hp0
  obtain rfl : _ = [] := hw0
  cases src <;> rfl

end Sys2Proof.Machine
end

section
/-! PROOFS. The X slot: transfers, waits on tags and RADV (spec chapter 08). -/

namespace Sys2Proof.Machine

/-! ### A bundle with one X instruction -/

/-- A core at the end of a bundle that falls through (R66). -/
def CoreSt.ended (c : CoreSt) (idx next : Nat) : CoreSt :=
  { c with pc := idx + 1, lastIdx := idx, nextIssue := next, presented := none, occur := bump c.occur idx 1 }

/-- A change of the core that counts, queues and start conditions do not see commutes with serving start conditions. -/
structure ServeFrame (g : CoreSt → CoreSt) : Prop where
  take : ∀ d t n, (g d).takeTally t n = g (d.takeTally t n)
  queue : ∀ d q f, (g d).updQueue q f = g (d.updQueue q f)
  avail : ∀ d t, (g d).avail t = d.avail t
  conds : ∀ d, (g d).conds = d.conds
  left : ∀ d r, { g d with conds := r } = g { d with conds := r }

theorem ServeFrame.serveList {g : CoreSt → CoreSt} (h : ServeFrame g) (l : List Cond) (blocked : List Nat) (c : CoreSt) :
    Machine.serveList l blocked (g c) = (g (Machine.serveList l blocked c).1, (Machine.serveList l blocked c).2) := by
  induction l generalizing blocked c with
  | nil => rfl
  | cons x r ih =>
    simp only [Machine.serveList, h.avail, h.take, h.queue, ih]
    split <;> rfl

theorem ServeFrame.serveConds {g : CoreSt → CoreSt} (h : ServeFrame g) (c : CoreSt) :
    (g c).serveConds = g c.serveConds := by
  have hl := h.serveList c.conds [] c
  show (let p := Machine.serveList (g c).conds [] (g c); { p.1 with conds := p.2 }) = _
  rw [h.conds, hl]
  exact h.left _ _

/-- Serving start conditions does not see the sequencer. -/
theorem serveConds_ended (c : CoreSt) (idx next : Nat) : (c.ended idx next).serveConds = c.serveConds.ended idx next :=
  ServeFrame.serveConds (g := fun d => d.ended idx next)
    ⟨fun _ _ _ => rfl, fun _ _ _ => rfl, fun _ _ => rfl, fun _ => rfl, fun _ _ => rfl⟩ c

/-- A part of the core that counts, queues and conditions do not hold stays as start conditions are served. -/
theorem serveList_keeps {α : Type} (p : CoreSt → α) (ht : ∀ d t n, p (d.takeTally t n) = p d)
    (hq : ∀ d q f, p (d.updQueue q f) = p d) (l : List Cond) (blocked : List Nat) (c : CoreSt) :
    p (serveList l blocked c).1 = p c := by
  induction l generalizing blocked c with
  | nil => rfl
  | cons x r ih =>
    simp only [serveList]
    split
    · rw [ih, hq, ht]
    · exact ih _ _

theorem serveConds_lcore (c : CoreSt) : c.serveConds.lcore = c.lcore :=
  serveList_keeps CoreSt.lcore (fun _ _ _ => rfl) (fun _ _ _ => rfl) c.conds [] c

theorem serveConds_loops (c : CoreSt) : c.serveConds.loops = c.loops :=
  serveList_keeps CoreSt.loops (fun _ _ _ => rfl) (fun _ _ _ => rfl) c.conds [] c

/-- A core that shows a bundle ends it as the core that does not. -/
theorem shows_ended {c : CoreSt} (hp : c.presented = none) (hw : c.waiting = []) (b : Bundle) (cy d : Nat) :
    (c.shows b cy).ended c.pc (cy + d) = c.issued cy d := by
  cases c
  obtain rfl : _ = none := hp
  obtain rfl : _ = [] := hw
  rfl

/-- A ready core that issues a bundle with one X instruction whose effect `G` is on the core alone. -/
theorem present_x {s : State} {l : Nat} {c : CoreSt} {x : Region} {b : Bundle} {op : XOp} (hr : Ready s l c x)
    (hp : plainBundle b) (hs : c.straight) (hj : Passes s c { b with x := op }) (G : CoreSt → CoreSt)
    (hG : ∀ d, (G d).lcore = d.lcore)
    (happ : applyX (s.ctx c) (c.shows { b with x := op } s.time.cycle) op
        (s.updCore l fun d => d.shows { b with x := op } s.time.cycle) =
      (s.updCore l fun d => d.shows { b with x := op } s.time.cycle).updCore l G)
    (hloops : (G (c.shows { b with x := op } s.time.cycle)).loops = c.loops) :
    presentTo l { b with x := op } s = .next (s.updCore l fun _ =>
      ((G (c.shows { b with x := op } s.time.cycle)).ended c.pc (s.time.cycle + (b.delay.toNat + 1))).serveConds) := by
  obtain ⟨hmark, hres, hsn, -, hmn, hvn⟩ := hp
  refine straight_slots (b := { b with x := op }) hr hs hmark hres hsn hj (fun d => (G d).serveConds) (fun d => (serveConds_lcore _).trans (hG d)) ?_
    ((serveConds_loops _).trans hloops) _ ?_ ?_
  · show (((applyX _ _ op _).updCore l (applyM _ _ b.m)).updCore l (applyV _ _ b.v)).updCore l CoreSt.serveConds = _
    rw [happ, hmn, nop_m, hvn, nop_v, updCore_updCore _ l G _ hG]
  · rw [serveConds_ended]
    rfl
  · rw [serveConds_ended]
    rfl

/-! ### QPUT, MCAST and CHAIN (R192, R195 to R198, R228) -/

/-- What `enterXfer` leaves, field by field. -/
theorem enterXfer_eq (k : Ctx) (c0 : CoreSt) (f : XFields) (c : CoreSt) :
    enterXfer k c0 f c = { c with
      queues := c.queues.modify f.q fun y => { count := (c0.queue f.q).count + 1, live := y.live ++ [newXfer k c0 f] }
      conds := if (newXfer k c0 f).attr.startEn then
          c.conds ++ [{ q := f.q, idx := (newXfer k c0 f).idx, tally := (newXfer k c0 f).attr.startTally
                        count := (newXfer k c0 f).attr.startCount }] else c.conds
      rings := if (xOpnds k c0 f).1.d.ring && !(attrOf (xOpnds k c0 f).1.d.attr).stream then
          c.rings.modify (xOpnds k c0 f).1.d.ctx fun r => r.map fun r => { r with p := r.p + 1 } else c.rings
      counters := if f.tf = 1 then c.counters.set f.cx (tagWord f.q (c0.queue f.q).count % 2 ^ 32) else c.counters } := by
  unfold enterXfer xferRing
  generalize newXfer k c0 f = e
  generalize xOpnds k c0 f = o
  dsimp only
  split_ifs <;> rfl

/-- The core with the tag word of form 2 written (R89, R195). -/
def CoreSt.tagged (c : CoreSt) (w : Opnd) (tag : Nat) : CoreSt :=
  { c with spad := c.spad.write (gaOff w.base) (leBytes 4 tag)
           claims := c.claims ++ [{ bank := bankOf (granuleOf (gaOff w.base)), pos := 1 }] }

/-- The tag word is written where no claim stands (R91). -/
theorem writeTag_unclaimed {s : State} {l : Nat} {c : CoreSt} (h : s.core? l = some c) (hc : c.claims = []) {c0 : CoreSt}
    (h0 : c0.lcore = l) (w : Opnd) (tag : Nat) : writeTag c0 w tag s = s.updCore l fun d => d.tagged w tag := by
  subst h0
  simp only [writeTag, h, hc, List.any_nil, Bool.false_eq_true, if_false]
  rfl

/-- The effect of a transfer instruction on its core: the transfer is entered, and a tag of form 2 written. -/
def enteredX (k : Ctx) (c0 : CoreSt) (f : XFields) (c : CoreSt) : CoreSt :=
  if f.tf = 2 then (enterXfer k c0 f c).tagged (xOpnds k c0 f).2.2 (tagWord f.q (c0.queue f.q).count)
  else enterXfer k c0 f c

theorem enteredX_lcore (k : Ctx) (c0 : CoreSt) (f : XFields) (c : CoreSt) : (enteredX k c0 f c).lcore = c.lcore := by
  rw [enteredX, enterXfer_eq, apply_ite CoreSt.lcore]
  exact ite_self _

theorem enteredX_loops (k : Ctx) (c0 : CoreSt) (f : XFields) (c : CoreSt) : (enteredX k c0 f c).loops = c.loops := by
  rw [enteredX, enterXfer_eq, apply_ite CoreSt.loops]
  exact ite_self _

theorem enteredX_ended (k : Ctx) (c0 : CoreSt) (f : XFields) (c : CoreSt) (idx next : Nat) :
    (enteredX k c0 f c).ended idx next = enteredX k c0 f (c.ended idx next) := by
  rw [enteredX, enteredX, enterXfer_eq, enterXfer_eq]
  by_cases h : f.tf = 2
  · rw [if_pos h, if_pos h]; rfl
  · rw [if_neg h, if_neg h]; rfl

theorem enteredX_shows (k : Ctx) (c0 : CoreSt) (f : XFields) (c : CoreSt) (b : Bundle) (cy : Nat) :
    enteredX k (c0.shows b cy) f c = enteredX k c0 f c := rfl

/-- A transfer instruction acts on its core alone where no bank is claimed. -/
theorem applyX_transfer {s : State} {l : Nat} {c c0 : CoreSt} (h : s.core? l = some c) (hc : c.claims = [])
    (h0 : c0.lcore = l) {op : XOp} {f : XFields} (hf : xFields op = some f) (k : Ctx)
    (hcore : applyXCore k c0 op = enterXfer k c0 f) : applyX k c0 op s = s.updCore l (enteredX k c0 f) := by
  have hl : ∀ d, (enterXfer k c0 f d).lcore = d.lcore := fun d => by rw [enterXfer_eq]
  simp only [applyX, hf, hcore, h0]
  by_cases h2 : f.tf = 2
  · have h' : (s.updCore l (enterXfer k c0 f)).core? l = some (enterXfer k c0 f c) := by
      rw [State.core?_updCore s l _ hl, h]; rfl
    rw [if_pos h2, writeTag_unclaimed h' (by rw [enterXfer_eq]; exact hc) h0, updCore_updCore s l _ _ hl]
    refine updCore_congr s l _ _ fun d _ _ => ?_
    rw [enteredX, if_pos h2]
  · rw [if_neg h2]
    refine updCore_congr s l _ _ fun d _ _ => ?_
    rw [enteredX, if_neg h2]

/-- A ready core that issues a transfer instruction. -/
theorem present_transfer {s : State} {l : Nat} {c : CoreSt} {x : Region} {b : Bundle} {op : XOp} {f : XFields}
    (hr : Ready s l c x) (hp : plainBundle b) (hs : c.straight) (hc : c.claims = []) (hf : xFields op = some f)
    (hcore : ∀ k c0, applyXCore k c0 op = enterXfer k c0 f) (hj : Passes s c { b with x := op }) :
    presentTo l { b with x := op } s = .next (s.updCore l fun _ =>
      (enteredX (s.ctx c) c f (c.issued s.time.cycle (b.delay.toNat + 1))).serveConds) := by
  have hsh := hr.shown rfl { b with x := op } s.time.cycle
  refine (present_x hr hp hs hj (enteredX (s.ctx c) (c.shows { b with x := op } s.time.cycle) f) (enteredX_lcore _ _ _)
    (applyX_transfer hsh.1 hc hsh.lcore hf _ (hcore _ _)) (enteredX_loops _ _ _ _)).trans ?_
  rw [enteredX_ended, enteredX_shows]
  exact congrArg (fun d => Host.Outcome.next (s.updCore l fun _ => (enteredX (s.ctx c) c f d).serveConds))
    (shows_ended hr.presented hr.waiting _ _ _)

/-- Settles O14: the three instructions enter their transfers alike, and none of them waits on a claimed bank. -/
theorem transferInstructionsEnterTheQueue : Obligations.TransferInstructionsEnterTheQueue := by
  intro s l c x b q tf h cx grp hr hp hs hc after goes
  have key : ∀ (i : Instr) (op : XOp) (f : XFields), exec i s = presentTo l { b with x := op } s → xFields op = some f →
      (∀ k c0, applyXCore k c0 op = enterXfer k c0 f) → goes i op f := by
    intro i op f hi hf hcore hj
    rw [hi, present_transfer hr hp hs hc hf hcore hj]
    refine congrArg (fun d => Host.Outcome.next (s.updCore l fun _ => CoreSt.serveConds d)) ?_
    have hcl : (c.issued s.time.cycle (b.delay.toNat + 1)).claims = [] := hc
    have hcd : (c.issued s.time.cycle (b.delay.toNat + 1)).conds = [] := hr.conds
    rw [enteredX, enterXfer_eq, hcd]
    by_cases h2 : f.tf = 2
    · simp only [if_pos h2, CoreSt.tagged, hcl]
      rfl
    · simp only [if_neg h2]
      rw [← hcl]
      rfl
  exact ⟨key _ _ _ rfl rfl fun _ _ => rfl, key _ _ _ rfl rfl fun _ _ => rfl, key _ _ _ rfl rfl fun _ _ => rfl⟩

/-! ### QWAIT, QWAITANY and RADV (R199 to R201) -/

/-- A ready core that issues an X instruction whose effect on its core leaves no start condition. -/
theorem present_x_own {s : State} {l : Nat} {c : CoreSt} {x : Region} {b : Bundle} {op : XOp} (hr : Ready s l c x)
    (hp : plainBundle b) (hs : c.straight) (hj : Passes s c { b with x := op }) {G : CoreSt → CoreSt}
    (hG : ∀ d, (G d).lcore = d.lcore) (hf : xFields op = none)
    (hcore : applyXCore (s.ctx c) (c.shows { b with x := op } s.time.cycle) op = G)
    (hloops : ∀ d, (G d).loops = d.loops) (hconds : ∀ d, (G d).conds = d.conds)
    (hend : ∀ d i n, (G d).ended i n = G (d.ended i n)) :
    presentTo l { b with x := op } s = .next (s.updCore l fun _ => G (c.issued s.time.cycle (b.delay.toNat + 1))) := by
  have hsh := hr.shown rfl { b with x := op } s.time.cycle
  refine (present_x hr hp hs hj G hG ?_ (hloops _)).trans ?_
  · simp only [applyX, hf, hcore, hsh.lcore]
  · have hcd : (G (c.issued s.time.cycle (b.delay.toNat + 1))).conds = [] := (hconds _).trans hr.conds
    rw [hend, shows_ended hr.presented hr.waiting, serveConds_none _ hcd]

theorem readyTags_getD {c : CoreSt} {cs k1 i : Nat} (hi : i ≤ k1) :
    (c.readyTags cs k1).getD i false = true ↔ ∃ y, c.findTag (c.counter (cs + i)) = some y ∧ y.complete = true := by
  have h : (c.readyTags cs k1).getD i false = match c.findTag (c.counter (cs + i)) with
      | some y => y.complete | none => false := by
    simp [CoreSt.readyTags, List.getD, Nat.lt_succ_of_le hi] <;> rfl
  rw [h]
  cases c.findTag (c.counter (cs + i)) <;> simp

/-- Without a replay QWAITANY takes the lowest tag when all are complete, and counts no choice. -/
theorem resolveAny_tags {k : Ctx} {c : CoreSt} (hrep : c.replay = none) {cs k1 : Nat}
    (hall : ∀ i ≤ k1, (c.readyTags cs k1).getD i false = true) :
    resolveAny (replayIndex k c true) (c.readyTags cs k1) = some (0, false, false) := by
  have hlen : (c.readyTags cs k1).length = k1 + 1 := by simp [CoreSt.readyTags]
  have hevery : (c.readyTags cs k1).all id = true := by
    rw [List.all_eq_true]
    intro v hv
    obtain ⟨i, hi, rfl⟩ := List.mem_iff_getElem.mp hv
    have := hall i (by omega)
    rwa [List.getD_eq_getElem _ _ hi] at this
  rw [replayIndex, hrep]
  refine (resolveAny_first (by omega) (hall 0 (Nat.zero_le _)) fun i hi => absurd hi (Nat.not_lt_zero i)).trans ?_
  rw [hevery]
  rfl

/-- QWAITANY takes the tag that it resolves to and writes its index (R200). -/
theorem applyXCore_qwaitany {k : Ctx} {c0 : CoreSt} {cs k1 cd : BitVec 3} {j : Nat}
    (h : resolveAny (replayIndex k c0 true) (c0.readyTags cs.toNat k1.toNat) = some (j, false, false)) :
    applyXCore k c0 (.qwaitany cs k1 cd) = fun c => (c.takeTag (c0.counter (cs.toNat + j))).setCounter cd.toNat j := by
  funext c
  unfold applyXCore
  dsimp only
  rw [h]
  rfl

/-- Settles O15: each of the three touches its own core alone. -/
theorem waitsTakeTagsAndRadvMovesARing : Obligations.WaitsTakeTagsAndRadvMovesARing := by
  intro s l c x b cs k1 cd ctx j hr hp hs go taken complete
  refine ⟨fun hj => ?_, fun hj hrep hle hc hlow hall => ?_, fun hj => ?_, fun hj => ?_⟩
  · exact present_x_own (G := fun d => d.takeTag (c.counter cs.toNat)) hr hp hs hj (fun _ => rfl) rfl rfl (fun _ => rfl)
      (fun _ => rfl) (fun _ _ _ => rfl)
  · obtain rfl : j = 0 := by
      by_contra h0
      exact hlow 0 (by omega) (hall 0 (Nat.zero_le _))
    have hres : resolveAny (replayIndex (s.ctx c) c true) (c.readyTags cs.toNat k1.toNat) = some (0, false, false) :=
      resolveAny_tags hrep fun i hi => (readyTags_getD hi).mpr (hall i hi)
    exact present_x_own (G := fun d => (d.takeTag (c.counter (cs.toNat + 0))).setCounter cd.toNat 0) hr hp hs hj
      (fun _ => rfl) rfl (applyXCore_qwaitany hres) (fun _ => rfl) (fun _ => rfl) (fun _ _ _ => rfl)
  · exact present_x_own (G := fun d => d.updRing ctx.toNat Ring.fill) hr hp hs hj (fun _ => rfl) rfl rfl (fun _ => rfl)
      (fun _ => rfl) (fun _ _ _ => rfl)
  · exact present_x_own (G := fun d => d.updRing ctx.toNat Ring.drain) hr hp hs hj (fun _ => rfl) rfl rfl (fun _ => rfl)
      (fun _ => rfl) (fun _ _ _ => rfl)

end Sys2Proof.Machine
end

section
/-! PROOFS. The M slot (spec chapter 08). -/

namespace Sys2Proof.Machine

/-! ### A bundle with one M instruction -/

theorem applyM_lcore (k : Ctx) (c0 : CoreSt) (op : MOp) (c : CoreSt) : (applyM k c0 op c).lcore = c.lcore := by
  cases op <;> rfl

theorem applyM_loops (k : Ctx) (c0 : CoreSt) (op : MOp) (c : CoreSt) : (applyM k c0 op c).loops = c.loops := by
  cases op <;> rfl

theorem applyM_conds (k : Ctx) (c0 : CoreSt) (op : MOp) (c : CoreSt) : (applyM k c0 op c).conds = c.conds := by
  cases op <;> rfl

theorem applyM_ended (k : Ctx) (c0 : CoreSt) (op : MOp) (c : CoreSt) (i n : Nat) :
    (applyM k c0 op c).ended i n = applyM k c0 op (c.ended i n) := by
  cases op <;> rfl

theorem applyM_shows (k : Ctx) (c0 : CoreSt) (op : MOp) (c : CoreSt) (b : Bundle) (cy : Nat) :
    applyM k (c0.shows b cy) op c = applyM k c0 op c := by
  cases op <;> rfl

/-- The slots of a bundle with one M instruction. -/
theorem slots_m {b : Bundle} (hx : b.x = .nop) (hv : b.v = .nop) (k : Ctx) (c0 : CoreSt) (s : State) (l : Nat) :
    ((applyX k c0 b.x s).updCore l (applyM k (c0.moved b.x) b.m)).updCore l (applyV k (c0.moved b.x) b.v) =
      s.updCore l (applyM k c0 b.m) := by
  rw [hx, hv, nop_x, nop_v]
  rfl

/-- A ready core that issues a bundle with one M instruction: the instruction acts on the core at its next index. -/
theorem present_m {s : State} {l : Nat} {c : CoreSt} {x : Region} {b : Bundle} {op : MOp} (hr : Ready s l c x)
    (hp : plainBundle b) (hs : c.straight) (hj : Passes s c { b with m := op }) :
    presentTo l { b with m := op } s = .next (s.updCore l fun _ =>
      applyM (s.ctx c) c op (c.issued s.time.cycle (b.delay.toNat + 1))) := by
  obtain ⟨hmark, hres, hsn, hxn, -, hvn⟩ := hp
  have hsh := hr.shown rfl { b with m := op } s.time.cycle
  have hl := applyM_lcore (s.ctx c) (c.shows { b with m := op } s.time.cycle) op
  have hend := (applyM_ended (s.ctx c) (c.shows { b with m := op } s.time.cycle) op
    (c.shows { b with m := op } s.time.cycle) c.pc (s.time.cycle + (b.delay.toNat + 1)))
  rw [applyM_shows, shows_ended hr.presented hr.waiting] at hend
  refine (straight_slots (b := { b with m := op }) hr hs hmark hres hsn hj
    (applyM (s.ctx c) (c.shows { b with m := op } s.time.cycle) op) hl ?_ (applyM_loops _ _ _ _) _ rfl rfl).trans
    (congrArg (fun d => Host.Outcome.next (s.updCore l fun _ => d)) hend)
  rw [slots_m (b := { b with m := op }) hxn hvn]
  exact hsh.serve_idle hl ((applyM_conds _ _ _ _).trans hr.conds)

theorem pruneActives_cons (p : Nat × Tile) (r : List (Nat × Tile)) (floor : Nat) :
    ∃ older, pruneActives (p :: r) floor = p :: older := by
  by_cases h : p.1 ≤ floor
  · exact ⟨[], if_pos h⟩
  · exact ⟨_, if_neg h⟩

/-- MSWAP makes the shadow tile the newest active one (R206). -/
theorem applyM_mswap (k : Ctx) (c0 c : CoreSt) : ∃ older, applyM k c0 .mswap c = { c with
    shadowFree := max c.shadowFree (c0.dueNow k.cycle + 1), actives := (c0.dueNow k.cycle + 1, c0.shadow) :: older } := by
  obtain ⟨older, h⟩ := pruneActives_cons (c0.dueNow k.cycle + 1, c0.shadow) c.actives (c.oldestDue (c0.dueNow k.cycle))
  exact ⟨older, congrArg (fun a => { c with shadowFree := max c.shadowFree (c0.dueNow k.cycle + 1), actives := a }) h⟩

/-- Settles O17: the four instructions have their effect on the core at its next index. -/
theorem matrixControlTakesItsPath : Obligations.MatrixControlTakesItsPath := by
  intro s l c x b h part n two hr hp hs due go o z leave
  refine ⟨fun hj => present_m hr hp hs hj, fun hj => ?_, fun hj => present_m hr hp hs hj, fun hj => present_m hr hp hs hj⟩
  obtain ⟨older, h⟩ := applyM_mswap (s.ctx c) c (c.issued s.time.cycle (b.delay.toNat + 1))
  refine ⟨older, (present_m hr hp hs hj).trans ?_⟩
  rw [h]
  rfl

/-- What an M instruction that names a pass enters (R207 to R210). -/
theorem applyM_pass {op : MOp} {f : PassFields} (hf : passFields op = some f) (k : Ctx) (c0 c : CoreSt) :
    applyM k c0 op c = { c with
      passFree := c0.dueNow k.cycle + passCount f.kind ((c0.tileAt (c0.dueNow k.cycle)).pair (passOpnds k c0 f).2.1.d.fmt)
        * (passOpnds k c0 f).2.1.d.extent 1
      passes := c.passes ++ [{
        id := c.nextJob, bundle := c0.pc, kind := f.kind, shape := c0.shape, due := c0.dueNow k.cycle
        rows := (passOpnds k c0 f).2.1.d.extent 1
        subs := passCount f.kind ((c0.tileAt (c0.dueNow k.cycle)).pair (passOpnds k c0 f).2.1.d.fmt)
        src := (passOpnds k c0 f).2.1, area := areaEntry (passOpnds k c0 f).1, areaIm := areaEntry (passOpnds k c0 f).2.2
        accum := f.accum, keep := f.keep
        e := passE (c0.tileAt (c0.dueNow k.cycle)) ((c0.tileAt (c0.dueNow k.cycle)).pair (passOpnds k c0 f).2.1.d.fmt)
        runStep := k.runStep c0, occur := c0.occurrence c0.pc }]
      accEntries := c.accEntries ++
        [{ job := c.nextJob
           lo := (areaLines (areaEntry (passOpnds k c0 f).1) c0.shape.w ((passOpnds k c0 f).2.1.d.extent 1)).1
           hi := (areaLines (areaEntry (passOpnds k c0 f).1) c0.shape.w ((passOpnds k c0 f).2.1.d.extent 1)).2 }] ++
        (if f.kind = .complex then
          [{ job := c.nextJob
             lo := (areaLines (areaEntry (passOpnds k c0 f).2.2) c0.shape.w ((passOpnds k c0 f).2.1.d.extent 1)).1
             hi := (areaLines (areaEntry (passOpnds k c0 f).2.2) c0.shape.w ((passOpnds k c0 f).2.1.d.extent 1)).2 }] else [])
      engines := c.engines ++ (if c0.shape = .sq64 then
        [{ mclock := true, srcs := ((passOpnds k c0 f).2.1.wordRange (walkAll (passOpnds k c0 f).2.1)).toList, dst := none
           relSrc := c0.dueNow k.cycle + (passOpnds k c0 f).2.1.d.extent 1, relDst := 0
           rings := releases (passOpnds k c0 f).2.1 }] else [])
      nextJob := c.nextJob + 1 } := by
  cases op with
  | nop | mwload | mswap | mshape | mzero | illegal => exact absurd hf (by simp [passFields])
  | mpass h a e =>
    simp only [applyM, hf, beq_iff_eq]
  | mpassw h a e i j =>
    simp only [applyM, hf, beq_iff_eq]
  | mpassc h a e =>
    simp only [applyM, hf, beq_iff_eq]

/-- Settles O18: the three instructions enter their passes alike. -/
theorem matrixPassEntersTheUnit : Obligations.MatrixPassEntersTheUnit := by
  intro s l c x b h accum keep i j hr hp hs due goes
  have hx : (s.ctx c).region = x := by rw [State.ctx, hr.region]; rfl
  have hrun : (s.ctx c).runStep c = c.step - x.base := by rw [Ctx.runStep, hx]
  have key : ∀ (row : Instr) (op : MOp) (f : PassFields), exec row s = presentTo l { b with m := op } s →
      passFields op = some f → f.accum = accum → f.keep = keep → goes row op f := by
    intro row op f hi hf ha hk hj area src imag pair rows subs hold
    rw [hi, present_m hr hp hs hj, applyM_pass hf, hrun, ha, hk]
    rfl
  exact ⟨key _ _ _ rfl rfl rfl rfl, key _ _ _ rfl rfl rfl rfl, key _ _ _ rfl rfl rfl rfl⟩

end Sys2Proof.Machine
end

section
/-! PROOFS. The V slot (spec chapter 08), and the tag that is taken once (R199). -/

namespace Sys2Proof.Machine

/-! ### A bundle with one V instruction -/

/-- The three things a V instruction can do to its core: nothing, take the unit for a while, or put a job in flight. -/
theorem applyV_cases (k : Ctx) (c0 : CoreSt) (op : VOp) :
    (∀ c : CoreSt, applyV k c0 op c = c) ∨ (∃ v, ∀ c : CoreSt, applyV k c0 op c = { c with vFree := v }) ∨
    ∃ (job : VJob) (srcs : List GRange) (dst : Option GRange) (rings : List Nat),
      ∀ c : CoreSt, applyV k c0 op c = startV k c { job with id := c.nextJob } srcs dst rings := by
  unfold applyV
  cases vFields c0 op with
  | some f =>
    dsimp only
    by_cases h : f.len = 0
    · exact .inr (.inl ⟨k.cycle + 1, fun c => if_pos h⟩)
    · exact .inr (.inr ⟨
        { id := 0, bundle := c0.pc, op := op, at_ := k.cycle, len := vLength f
          lanes := vLanes f (vDst k c0 f) (vSrcs k c0 f)
          groups := groupsFor (vLength f) (vLanes f (vDst k c0 f) (vSrcs k c0 f))
          lat := if isLoad f then 1 else vLatency f.code, dst := vDst k c0 f
          srcs := (vSrcs k c0 f).map fun s => (s, isAcc k c0 s), runStep := k.runStep c0, module := k.module },
        _, _, _, fun c => if_neg h⟩)
  | none =>
    cases rngFields c0 op with
    | some f =>
      dsimp only
      by_cases h : f.len = 0
      · exact .inr (.inl ⟨k.cycle + 1, fun c => if_pos h⟩)
      · exact .inr (.inr ⟨
          { id := 0, bundle := c0.pc, op := op, at_ := k.cycle, len := f.len
            lanes := rngLanes (mkOpnd k.module c0 .producer (resolveHandle c0 .v f.h))
            groups := groupsFor f.len (rngLanes (mkOpnd k.module c0 .producer (resolveHandle c0 .v f.h))), lat := 16
            dst := some (mkOpnd k.module c0 .producer (resolveHandle c0 .v f.h)), srcs := [], ctr := c0.counter f.ctr
            runStep := k.runStep c0, module := k.module }, _, _, _, fun c => if_neg h⟩)
    | none => exact .inl fun _ => rfl

theorem applyV_lcore (k : Ctx) (c0 : CoreSt) (op : VOp) (c : CoreSt) : (applyV k c0 op c).lcore = c.lcore := by
  obtain h | ⟨v, h⟩ | ⟨job, srcs, dst, rings, h⟩ := applyV_cases k c0 op <;> exact (congrArg CoreSt.lcore (h c) :)

theorem applyV_loops (k : Ctx) (c0 : CoreSt) (op : VOp) (c : CoreSt) : (applyV k c0 op c).loops = c.loops := by
  obtain h | ⟨v, h⟩ | ⟨job, srcs, dst, rings, h⟩ := applyV_cases k c0 op <;> exact (congrArg CoreSt.loops (h c) :)

theorem applyV_conds (k : Ctx) (c0 : CoreSt) (op : VOp) (c : CoreSt) : (applyV k c0 op c).conds = c.conds := by
  obtain h | ⟨v, h⟩ | ⟨job, srcs, dst, rings, h⟩ := applyV_cases k c0 op <;> exact (congrArg CoreSt.conds (h c) :)

theorem applyV_ended (k : Ctx) (c0 : CoreSt) (op : VOp) (c : CoreSt) (i n : Nat) :
    (applyV k c0 op c).ended i n = applyV k c0 op (c.ended i n) := by
  obtain h | ⟨v, h⟩ | ⟨job, srcs, dst, rings, h⟩ := applyV_cases k c0 op <;> rw [h, h] <;> rfl

theorem applyV_shows (k : Ctx) (c0 : CoreSt) (op : VOp) (c : CoreSt) (b : Bundle) (cy : Nat) :
    applyV k (c0.shows b cy) op c = applyV k c0 op c := by
  rcases op with _ | ⟨code, h, _ | _⟩ | ⟨ctr, h, u, _ | _⟩ | _ <;> rfl

/-- The slots of a bundle with one V instruction. -/
theorem slots_v {b : Bundle} (hx : b.x = .nop) (hm : b.m = .nop) (k : Ctx) (c0 : CoreSt) (s : State) (l : Nat) :
    ((applyX k c0 b.x s).updCore l (applyM k (c0.moved b.x) b.m)).updCore l (applyV k (c0.moved b.x) b.v) =
      s.updCore l (applyV k c0 b.v) := by
  rw [hx, hm, nop_x, nop_m]
  rfl

/-- A ready core that issues a bundle with one V instruction: the instruction acts on the core at its next index. -/
theorem present_v {s : State} {l : Nat} {c : CoreSt} {x : Region} {b : Bundle} (hr : Ready s l c x)
    (hmark : b.marker = false) (hres : b.reserved = 0) (hsn : b.s = .nop) (hxn : b.x = .nop) (hmn : b.m = .nop)
    (hs : c.straight) (hj : Passes s c b) :
    presentTo l b s = .next (s.updCore l fun _ =>
      applyV (s.ctx c) c b.v (c.issued s.time.cycle (b.delay.toNat + 1))) := by
  have hsh := hr.shown rfl b s.time.cycle
  have hl := applyV_lcore (s.ctx c) (c.shows b s.time.cycle) b.v
  have hend := (applyV_ended (s.ctx c) (c.shows b s.time.cycle) b.v
    (c.shows b s.time.cycle) c.pc (s.time.cycle + (b.delay.toNat + 1)))
  rw [applyV_shows, shows_ended hr.presented hr.waiting] at hend
  refine (straight_slots hr hs hmark hres hsn hj (applyV (s.ctx c) (c.shows b s.time.cycle) b.v) hl ?_
    (applyV_loops _ _ _ _) _ rfl rfl).trans (congrArg (fun d => Host.Outcome.next (s.updCore l fun _ => d)) hend)
  rw [slots_v hxn hmn]
  exact hsh.serve_idle hl ((applyV_conds _ _ _ _).trans hr.conds)

/-- What the row of a V instruction presents. -/
theorem exec_vecRow (code : VCode) (l : Nat) (b : Bundle) (h : BitVec 8) (form : VForm) (s : State) :
    exec (vecRow code l b h form) s = presentTo l (withV b code h form) s := by
  cases code <;> rfl

/-- Settles O20: the instruction is applied to the core at its next index, whatever its code and form. -/
theorem vectorInstructionEntersTheEngine : Obligations.VectorInstructionEntersTheEngine := by
  intro s l c x b code h form hr hp hs hj go f dst srcs lanes groups lat acc
  obtain ⟨hmark, hres, hsn, hxn, hmn, -⟩ := hp
  have hx : (s.ctx c).region = x := by rw [State.ctx, hr.region]; rfl
  have hrun : (s.ctx c).runStep c = c.step - x.base := by rw [Ctx.runStep, hx]
  have hf : vFields c (.vec code h form) = some f := by cases form <;> rfl
  have hv : exec (vecRow code l b h form) s = .next (s.updCore l fun _ => applyV (s.ctx c) c (.vec code h form) go) :=
    (exec_vecRow code l b h form s).trans (present_v (b := withV b code h form) hr hmark hres hsn hxn hmn hs hj)
  refine ⟨fun h0 => ?_, fun h0 => ?_⟩
  · rw [hv, applyV, hf]
    simp only [h0, if_true]
    rfl
  · have hc : f.code = code := by cases form <;> rfl
    rw [hv, applyV, hf]
    simp only [h0, if_false, hrun, hc]
    rfl

/-- Settles O21: VRNG is applied to the core at its next index, in either form. -/
theorem vrngEntersTheEngine : Obligations.VrngEntersTheEngine := by
  intro s l c x b ctr h u01 form hr hp hs op hj go len d lanes groups
  obtain ⟨hmark, hres, hsn, hxn, hmn, -⟩ := hp
  have hx : (s.ctx c).region = x := by rw [State.ctx, hr.region]; rfl
  have hrun : (s.ctx c).runStep c = c.step - x.base := by rw [Ctx.runStep, hx]
  have hv : exec (.vrng l b ctr h u01 form) s = .next (s.updCore l fun _ => applyV (s.ctx c) c op go) :=
    present_v (b := { b with v := op, legacy := _ }) hr hmark hres hsn hxn hmn hs hj
  obtain ⟨f, hf, hlen, hctr, hh⟩ : ∃ f, rngFields c op = some f ∧ f.len = len ∧ f.ctr = ctr.toNat ∧ f.h = h.toNat := by
    cases form <;> exact ⟨_, rfl, rfl, rfl, rfl⟩
  have hnv : vFields c op = none := rfl
  refine ⟨fun h0 => ?_, fun h0 => ?_⟩
  · rw [hv, applyV, hnv, hf]
    simp only [hlen, h0, if_true]
    rfl
  · rw [hv, applyV, hnv, hf]
    simp only [hlen, h0, if_false, hrun, hctr, hh]
    rfl

/-! ### A tag is taken once (R193, R199) -/

/-- Freeing indices leaves no transfer that it did not find. -/
theorem mem_freeIndices {l : List Xfer} {y : Xfer} (h : y ∈ freeIndices l) (hy : y.freed = false) : y ∈ l := by
  induction l with
  | nil => exact h
  | cons x r ih =>
    unfold freeIndices at h
    split at h
    · rcases List.mem_cons.mp h with rfl | h
      · exact List.mem_cons_self
      · exact List.mem_cons_of_mem _ (ih h)
    · split at h
      · rcases List.mem_cons.mp h with rfl | h
        · exact absurd hy (by simp)
        · exact List.mem_cons_of_mem _ (ih h)
      · exact h

/-- A transfer that holds its index after the freeing held it before. -/
theorem mem_held_free {q : Queue} {y : Xfer} (h : y ∈ q.free.held) : y ∈ q.live := by
  obtain ⟨hm, hf⟩ := List.mem_filter.mp h
  exact mem_freeIndices (List.mem_of_mem_filter hm) (by simpa using hf)

/-- A queue after an update of a queue. -/
theorem queue_updQueue (c : CoreSt) (q k : Nat) (f : Queue → Queue) :
    (c.updQueue q f).queue k = if k = q ∧ q < c.queues.length then f (c.queue k) else c.queue k := by
  simp only [CoreSt.queue, CoreSt.updQueue, updAt, List.getD_eq_getElem?_getD, List.getElem?_modify]
  by_cases hk : k = q
  · subst hk
    by_cases hl : k < c.queues.length
    · simp [hl]
    · simp [hl]
  · simp [hk, Ne.symm hk]

/-- Settles O16: in its queue the taken tag is marked, and a queue frees only what it holds. -/
theorem tagIsTakenOnce : Obligations.TagIsTakenOnce := by
  intro c t
  refine ⟨?_, fun q hq => ?_⟩
  · unfold CoreSt.findTag
    split
    · rfl
    · rw [List.find?_eq_none]
      intro y hy
      rw [CoreSt.takeTag, queue_updQueue] at hy
      split at hy
      · obtain ⟨z, hz, rfl⟩ := List.mem_map.mp (mem_held_free hy)
        by_cases hz' : (!z.freed && z.idx == bits t 3 0 && z.gen == bits t 15 6) = true
        · rw [if_pos hz']
          simp
        · rw [if_neg hz']
          have hfree := (List.mem_filter.mp hy).2
          rw [if_neg hz'] at hfree
          rw [hfree, Bool.true_and] at hz'
          rw [Bool.not_eq_true] at hz'
          simp [hz']
      · rename_i hlen
        have hnone : c.queue (bits t 5 4) = {} := by
          rw [CoreSt.queue, List.getD_eq_getElem?_getD, List.getElem?_eq_none (by simpa using hlen), Option.getD_none]
        rw [hnone] at hy
        exact absurd hy List.not_mem_nil
  · rw [CoreSt.takeTag, queue_updQueue, if_neg fun h => hq h.1]

end Sys2Proof.Machine
end

section
/-! PROOFS. STEP on a marker bundle (spec chapters 03, 07 and 11). -/

namespace Sys2Proof.Machine

/-! ### A ready core that is given any bundle -/

/-- A ready core that is given a bundle no slot of which holds, marker or not: it issues with the verdicts of the core that
is judged. -/
theorem tryIssue_given {s : State} {l : Nat} {c : CoreSt} {x : Region} (hr : Ready s l c x) (b : Bundle)
    (hg : ∀ sl, ((judge (s.ctx c) (judgedCore (s.ctx c) (c.given b) b) { b := b, since := s.time.cycle }).at_ sl).holds =
      false) :
    (s.updCore l fun c => c.given b).tryIssue l =
      (s.updCore l fun c => c.shows b s.time.cycle).issueBundle l { b := b, since := s.time.cycle }
        (judge (s.ctx c) (judgedCore (s.ctx c) (c.given b) b) { b := b, since := s.time.cycle }) := by
  have hc1 : (s.updCore l fun d => d.given b).core? l = some (c.given b) := by
    rw [State.core?_updCore s l (fun d => d.given b) (fun _ => rfl), hr.core]; rfl
  have hctx : (s.updCore l fun d => d.given b).ctx (c.given b) = s.ctx c := rfl
  have hk : (s.ctx c).region = x := by simp [State.ctx, hr.region]
  have hcand : (c.given b).candidate (s.ctx c).cycle = some { b := b, since := s.time.cycle } := by
    have h0 : ¬ s.time.cycle < c.nextIssue := by have := hr.time; omega
    simp [CoreSt.candidate, CoreSt.given, hr.presented, State.ctx, hr.time]
  have hstop : (c.given b).stopsHere (s.ctx c).cycle b = false := by
    simp [CoreSt.stopsHere, CoreSt.given, hr.stopFrom, hr.stopBefore]
  have hsb : ¬ x.sbLimit ≤ 0 := by have := hr.sbLimit; omega
  have hwt : ¬ x.waitLimit ≤ 0 := by have := hr.waitLimit; omega
  have hany : (allSlots.any fun sl => ((judge (s.ctx c) (judgedCore (s.ctx c) (c.given b) b)
      { b := b, since := s.time.cycle }).at_ sl).holds) = false := by
    rw [List.any_eq_false]; intro sl _; simp [hg sl]
  have hrun : (c.given b).run = .running := hr.runs
  have hhold : (c.given b).arrayHold = false := hr.noHold
  unfold State.tryIssue
  rw [hc1]
  simp only [hctx, hk, Region.live, hr.phase]
  rw [hcand]
  simp only [hstop, hsb, hwt, hany, hrun, hhold, Bool.false_eq_true, if_false, bne_self_eq_false, Bool.or_false,
    beq_self_eq_true, Bool.false_and, decide_false, Bool.true_or, Bool.not_true]
  rw [updCore_updCore s l (fun d => d.given b) _ (fun _ => rfl)]
  congr 1
  refine updCore_congr s l _ _ fun d hd e => ?_
  have hp := hr.presented
  rw [hr.alone d hd e]
  simp only [CoreSt.given, CoreSt.shows, hp, Option.isNone_none, if_true, List.drop_one, List.tail_cons]

/-! ### The boundary of a step (R72) -/

/-- A core as the marker of a step leaves it when no configuration write waits (actions 2 and 3 of R72). -/
def CoreSt.atStep (c : CoreSt) (cycle : Nat) (chains : List Bool) : CoreSt :=
  { c with step := c.nextStep, begun := true, stepCycle := cycle, occur := []
           slip := if c.begun then c.slip else 0, chain := chains }

theorem withCfg_nil {c : CoreSt} (h : c.cfg = []) (cycle base : Nat) : c.withCfg cycle base = c := by
  simp only [CoreSt.withCfg, h, List.filter_nil, List.foldl_nil]
  rw [← h]

theorem boundary_eq {s : State} {l : Nat} {c : CoreSt} {x : Region} (h : Alone s l c) (hx : s.region? c.region = some x)
    (hcfg : c.cfg = []) (base : Nat) :
    s.boundary l base = s.updCore l fun d => d.atStep s.time.cycle x.chainMode := by
  have hdue : c.cfg.filter (fun e => e.dueAt s.time.cycle c.nextStep base) = [] := by rw [hcfg]; rfl
  simp only [State.boundary, h.1, hdue, List.foldl_nil]
  refine h.updCore_congr ?_
  rw [withCfg_nil hcfg, hx]
  rfl

/-- A marker bundle whose one instruction is STEP passes its checks. -/
theorem judge_step {k : Ctx} {c : CoreSt} {b : Bundle} {mask : BitVec 24} (hs : b.s = .step mask) (hm : b.marker = true)
    (hres : b.reserved = 0) (hx : b.x = .nop) (hmn : b.m = .nop) (hv : b.v = .nop) (cy : Nat) :
    judge k c { b := b, since := cy } = allGo := by
  have hw : stopsWhole b = false := by simp [stopsWhole, haltBroken, hs, hres]
  have hmv : c.moved b.x = c := by rw [hx]; rfl
  have hgo : judgeS k c b = .go := by simp [judgeS, hs, hm, SOp.legal]
  simp only [judge, hw, Bool.false_eq_true, if_false, Presented.out, hmv, ite_self, hgo]
  unfold judgeX judgeM judgeV
  simp [hx, hmn, hv, XOp.legal, MOp.legal, VOp.legal, VOp.formIs, xClaims, xFields, vFields, rngFields, allGo, slotPos]

/-- A bundle whose one instruction is STEP, on a marker. -/
structure StepBundle (b : Bundle) (mask : BitVec 24) : Prop where
  s : b.s = .step mask
  marker : b.marker = true
  reserved : b.reserved = 0
  x : b.x = .nop
  m : b.m = .nop
  v : b.v = .nop

/-- The slots of a STEP bundle have no effect beside the boundary. -/
theorem runSlots_step {s : State} {l : Nat} {c : CoreSt} {b : Bundle} {mask : BitVec 24} (hb : StepBundle b mask)
    (h : Alone s l c) (hc : c.conds = []) (k : Ctx) : s.runSlots k c b = s := by
  have hmv : c.moved .nop = c := rfl
  have hs : applyS k c (.step mask) s = s := updCore_id s c.lcore _ fun _ _ _ => rfl
  rw [State.runSlots, hb.s, hb.x, hb.m, hb.v, hmv, hs, nop_x, nop_m, nop_v, takeNow_other _ _ _ _ fun _ _ => SOp.noConfusion,
    h.lcore]
  exact updCore_id s l _ fun d hd e => by rw [h.2 d hd e, serveConds_none c hc]

/-- A STEP bundle issues: `s1` is the module after the check of the tallies, on which the run goes on. -/
theorem issueBundle_step {s s1 : State} {l : Nat} {c c1 : CoreSt} {x : Region} {b : Bundle} {mask : BitVec 24}
    (hb : StepBundle b mask) (h : s.core? l = some c) (hx : s.region? c.region = some x)
    (hcheck : (stepCheck c b false).elim s (fun d => s.raise l .tallyImbalance (some .s) c.pc d true) = s1)
    (hlog : (stepCheck c b false).isSome = true → x.policy .tallyImbalance = .log)
    (h1 : Alone (s1.boundary l x.base) l c1) (hc1 : c1.conds = []) (hrep : x.replayStop = none) (cy : Nat) :
    s.issueBundle l { b := b, since := cy } allGo = (s1.boundary l x.base).finish c1 b true false := by
  have hk : (s.ctx c).region = x := by rw [State.ctx, hx]; rfl
  have hout : ∀ sl, ({ b := b, since := cy } : Presented).out sl = false := fun sl => by cases sl <;> rfl
  have hhb : haltBroken b = false := by rw [haltBroken, hb.s]
  have hhalt : (b.s == .halt) = false := by rw [hb.s]; rfl
  have hgo : ((stepCheck c b false).isSome && x.policy .tallyImbalance != .log) = false := by
    cases hsome : (stepCheck c b false).isSome with
    | false => rfl
    | true => rw [hlog hsome]; rfl
  have hslots := runSlots_step hb h1 hc1 (s.ctx c)
  simp only [State.runSlots, h1.lcore] at hslots
  have e1 : (Slot.s == Slot.x) = false := rfl
  have e2 : (Slot.x == Slot.x) = true := rfl
  have e3 : (Slot.m == Slot.x) = false := rfl
  have e4 : (Slot.v == Slot.x) = false := rfl
  unfold State.issueBundle
  rw [h]
  cases hf : stepCheck c b false
  all_goals
    rw [hf] at hcheck hgo
    dsimp only [Option.elim] at hcheck
    subst hcheck
    simp only [hb.marker, hout, if_true, hk, hf, hgo, Bool.false_eq_true, if_false, h1.1, hb.reserved, hhb, hhalt,
      bne_self_eq_false, allSlots, List.foldl_cons, List.foldl_nil]
    rw [replayHit_none _ _ _ (by rw [hk]; exact hrep)]
    simp only [State.issueSlot, allGo, Verdicts.at_, Verdict.isGo, Bool.true_and, Bool.not_false, if_true,
      Bool.false_eq_true, if_false, e1, e2, e3, e4, moved_lcore, h1.lcore]
    rw [hslots]

/-! ### The STEP row -/

/-- The end of a STEP bundle. -/
theorem finished_step {b : Bundle} {mask : BitVec 24} (hb : StepBundle b mask) {c : CoreSt} {cy : Nat}
    (hs : ∀ e r, c.loops = e :: r → e.stop ≠ c.pc) :
    c.finished b true false cy c = c.ended c.pc (cy + (b.delay.toNat + 1)) := by
  have hhb : haltBroken b = false := by rw [haltBroken, hb.s]
  have ha : advancePc c b true c = (c, c.pc + 1) := by
    simp only [advancePc, hb.s, hhb, brTaken, Bool.false_eq_true, if_false]
    exact backEdges_straight _ _ _ rfl hs
  rw [finished_of_advance ha, successorDelay, hb.s]
  rfl

/-- The check of the tallies (R178). -/
theorem stepCheck_step {b : Bundle} {mask : BitVec 24} (hb : StepBundle b mask) (c : CoreSt) :
    stepCheck c b false = if badTallies c mask.toNat = [] then none
      else some (imbalanceDetail c (badTallies c mask.toNat)) := by
  simp only [stepCheck, hb.s, hb.reserved, bne_self_eq_false, Bool.or_self, Bool.false_eq_true, if_false]
  cases badTallies c mask.toNat <;> rfl

/-- A ready core that presents a STEP bundle: `F` is what the check leaves on the core. -/
theorem present_step {s : State} {l : Nat} {c : CoreSt} {x : Region} {b : Bundle} {mask : BitVec 24} (hr : Ready s l c x)
    (hb : StepBundle b mask) (hs : c.straight) (F : CoreSt → CoreSt) (hF : ∀ d, (F d).lcore = d.lcore)
    (hcheck : (stepCheck (c.shows b s.time.cycle) b false).elim (s.updCore l fun d => d.shows b s.time.cycle)
      (fun d => (s.updCore l fun d => d.shows b s.time.cycle).raise l .tallyImbalance (some .s) c.pc d true) =
      (s.updCore l fun d => d.shows b s.time.cycle).updCore l F)
    (hlog : (stepCheck (c.shows b s.time.cycle) b false).isSome = true → x.policy .tallyImbalance = .log)
    (hFc : (F (c.shows b s.time.cycle)).cfg = [] ∧ (F (c.shows b s.time.cycle)).conds = [] ∧
      (F (c.shows b s.time.cycle)).region = c.region ∧ (F (c.shows b s.time.cycle)).loops = c.loops)
    (hpc : (F (c.shows b s.time.cycle)).pc = c.pc) :
    presentTo l b s = .next (s.updCore l fun _ =>
      ((F (c.shows b s.time.cycle)).atStep s.time.cycle x.chainMode).ended c.pc (s.time.cycle + (b.delay.toNat + 1))) := by
  obtain ⟨hFcfg, hFconds, hFreg, hFloops⟩ := hFc
  have hsh := hr.shown rfl b s.time.cycle
  have hx : (s.updCore l fun d => d.shows b s.time.cycle).region? c.region = some x := hr.region
  have hA := hsh.updCore hF
  have hxF : ((s.updCore l fun d => d.shows b s.time.cycle).updCore l F).region?
      (F (c.shows b s.time.cycle)).region = some x := by rw [hFreg]; exact hr.region
  have hbd : ((s.updCore l fun d => d.shows b s.time.cycle).updCore l F).boundary l x.base =
      ((s.updCore l fun d => d.shows b s.time.cycle).updCore l F).updCore l fun d => d.atStep s.time.cycle x.chainMode :=
    boundary_eq hA hxF hFcfg x.base
  have hA2 : Alone (((s.updCore l fun d => d.shows b s.time.cycle).updCore l F).boundary l x.base) l
      ((F (c.shows b s.time.cycle)).atStep s.time.cycle x.chainMode) := by
    rw [hbd]
    exact hA.updCore fun _ => rfl
  rw [present_ready hr b, tryIssue_given hr b (by rw [judge_step hb.s hb.marker hb.reserved hb.x hb.m hb.v]; intro sl; cases sl <;> rfl),
    judge_step hb.s hb.marker hb.reserved hb.x hb.m hb.v]
  rw [issueBundle_step hb hsh.1 hx hcheck hlog hA2 hFconds hr.noReplay, hbd]
  have hfin := finished_step hb (c := (F (c.shows b s.time.cycle)).atStep s.time.cycle x.chainMode) (cy := s.time.cycle)
    (fun e r h => hpc ▸ hs.1 e r (hFloops ▸ h))
  rw [finish_core hA.1 (fun d => d.atStep s.time.cycle x.chainMode) (fun _ => rfl) _ hA2.lcore _ _ _ (by
      intro _
      refine lt_of_eq_of_lt (congrArg CoreSt.pc hfin) ?_
      exact lt_of_eq_of_lt (congrArg (· + 1) hpc) (Nat.succ_lt_succ hs.2)),
    updCore_updCore _ l F _ hF, updCore_updCore s l (fun d => d.shows b s.time.cycle) _ fun _ => rfl]
  refine congrArg Host.Outcome.next (hr.sole.updCore_congr ?_)
  rw [← hpc]
  exact hfin

theorem badTallies_eq (c : CoreSt) (mask : BitVec 24) :
    badTallies c mask.toNat = (List.range 48).filter fun u => mask.getLsbD (u / 2) && c.tallies.getD u 0 != 0 := by
  refine List.filter_congr fun u _ => congrArg (· && _) ?_
  rw [bits, BitVec.getLsbD, Nat.testBit_eq_decide_div_mod_eq, Nat.add_sub_cancel_left]
  rfl

/-- Whether a STEP mask names a tally and finds it nonzero (R178). -/
def badTally (c : CoreSt) (mask : BitVec 24) (t : Nat) : Prop :=
  t < 48 ∧ mask.getLsbD (t / 2) = true ∧ c.tallies.getD t 0 ≠ 0

theorem badTally_iff {c : CoreSt} {mask : BitVec 24} {t : Nat} :
    badTally c mask t ↔ t < 48 ∧ (mask.getLsbD (t / 2) && c.tallies.getD t 0 != 0) = true := by
  simp [badTally]

theorem badTallies_nil {c : CoreSt} {mask : BitVec 24} (h : ∀ t, ¬ badTally c mask t) : badTallies c mask.toNat = [] := by
  rw [badTallies_eq, List.filter_eq_nil_iff]
  exact fun t ht hb => h t (badTally_iff.mpr ⟨List.mem_range.mp ht, hb⟩)

/-- The first of the tallies found is the lowest. -/
theorem badTallies_head {c : CoreSt} {mask : BitVec 24} {t : Nat} (ht : badTally c mask t)
    (hlow : ∀ u < t, ¬ badTally c mask u) : (badTallies c mask.toNat).head? = some t := by
  obtain ⟨hlt, hb⟩ := badTally_iff.mp ht
  rw [badTallies_eq, List.head?_filter, List.find?_range_eq_some]
  refine ⟨hb, List.mem_range.mpr hlt, fun u hu => ?_⟩
  have := mt badTally_iff.mpr (hlow u hu)
  rw [not_and, Bool.not_eq_true] at this
  rw [this (hu.trans hlt)]
  rfl

/-- The core of a STEP bundle at its next index. -/
theorem ended_step {c : CoreSt} (hp : c.presented = none) (hw : c.waiting = []) (b : Bundle) (cy d : Nat) (ch : List Bool)
    (due : List FRec) :
    (({ c.shows b cy with due := due } : CoreSt).atStep cy ch).ended c.pc (cy + d) =
      { ({ c with due := due } : CoreSt).issued cy d with
        step := c.nextStep, begun := true, stepCycle := cy, slip := if c.begun then c.slip else 0
        chain := ch, occur := [(c.pc, 1)] } := by
  cases c
  obtain rfl : _ = none := hp
  obtain rfl : _ = [] := hw
  rfl

/-- Settles O12: the tallies that are bad decide whether the check raises its fault; the boundary is the same. -/
theorem stepMarkerBeginsAStep : Obligations.StepMarkerBeginsAStep := by
  intro s l c x b mask hr hp hs hcfg named begin_
  obtain ⟨-, hres, hsn, hxn, hmn, hvn⟩ := hp
  have hb : StepBundle { b with marker := true, s := .step mask } mask := ⟨rfl, rfl, hres, hxn, hmn, hvn⟩
  have hck : stepCheck (c.shows { b with marker := true, s := .step mask } s.time.cycle)
      { b with marker := true, s := .step mask } false =
      if badTallies c mask.toNat = [] then none else some (imbalanceDetail c (badTallies c mask.toNat)) :=
    stepCheck_step hb _
  refine ⟨fun hnone => ?_, fun t n ht hlow hlog hn => ?_⟩
  · rw [if_pos (badTallies_nil hnone)] at hck
    refine (present_step hr hb hs id (fun _ => rfl) ?_ ?_ ⟨hcfg, hr.conds, rfl, rfl⟩ rfl).trans ?_
    · rw [hck]; exact (updCore_id _ _ _ fun _ _ _ => rfl).symm
    · rw [hck]; exact fun h => Bool.noConfusion h
    · exact congrArg (fun d => Host.Outcome.next (s.updCore l fun _ => d))
        (ended_step hr.presented hr.waiting _ _ _ _ c.due)
  · have hhead := badTallies_head ht hlow
    have hne : badTallies c mask.toNat ≠ [] := by
      intro h0
      rw [h0] at hhead
      cases hhead
    have hdet : imbalanceDetail c (badTallies c mask.toNat) = t + 64 * n + 4096 * c.tallies.getD t 0 := by
      rw [imbalanceDetail, List.headD_eq_head?_getD, hhead, hn, badTallies_eq]
      rfl
    rw [if_neg hne] at hck
    refine (present_step hr hb hs (fun d => d.raised s.time.cycle .tallyImbalance (some .s) c.pc
      (t + 64 * n + 4096 * c.tallies.getD t 0) true) (fun _ => rfl) ?_ (fun _ => hlog)
      ⟨hcfg, hr.conds, rfl, rfl⟩ rfl).trans ?_
    · rw [hck]
      exact congrArg (State.raise _ l .tallyImbalance (some .s) c.pc · true) hdet
    · rw [hr.sole.raise_updCore]
      exact congrArg (fun d => Host.Outcome.next (s.updCore l fun _ => d))
        (ended_step hr.presented hr.waiting _ _ _ _ _)

end Sys2Proof.Machine
end

section
/-! PROOFS. Instructions that their checks skip (R76, R79, R213, R221). -/

namespace Sys2Proof.Machine

/-- What the four slots of an issuing bundle do, each by its verdict. -/
def State.judgedSlots (s : State) (k : Ctx) (c : CoreSt) (b : Bundle) (w : Verdicts) : State :=
  let moved := if w.x.isGo then c.moved b.x else c
  (((s.issueSlot k moved b .s w.s false).issueSlot k c b .x w.x false).issueSlot k moved b .m w.m false).issueSlot k moved b
    .v w.v false

/-- What issuing does for a bundle that is no marker and not skipped whole. -/
theorem issueBundle_slots {s : State} {l : Nat} {c : CoreSt} (h : s.core? l = some c) (b : Bundle) (cy : Nat) (w : Verdicts)
    (hm : b.marker = false) (hres : b.reserved = 0) (hb : haltBroken b = false)
    (hrep : (s.ctx c).region.replayStop = none) (htk : ∀ t n, b.s ≠ .ttake t n) :
    s.issueBundle l { b := b, since := cy } w =
      ((s.judgedSlots (s.ctx c) c b w).updCore l CoreSt.serveConds).finish c b w.s.isGo (b.s == .halt) := by
  have hout : ∀ sl, ({ b := b, since := cy } : Presented).out sl = false := fun sl => by cases sl <;> rfl
  have e1 : (Slot.s == Slot.x) = false := rfl
  have e2 : (Slot.x == Slot.x) = true := rfl
  have e3 : (Slot.m == Slot.x) = false := rfl
  have e4 : (Slot.v == Slot.x) = false := rfl
  unfold State.issueBundle
  rw [h]
  simp only [hm, Bool.false_eq_true, if_false, Option.isSome_none, Bool.false_and, h, hres, bne_self_eq_false, hb, hout,
    allSlots, List.foldl_cons, List.foldl_nil, Verdicts.at_, e1, e2, e3, e4, Bool.not_false, Bool.and_true, if_true,
    takeNow_other _ _ _ _ htk, ite_self]
  rw [replayHit_none _ _ _ hrep]
  rfl

/-- A ready core that presents a bundle no slot of which holds, with any verdicts: `F` is what its slots do to the core. -/
theorem present_judged {s : State} {l : Nat} {c : CoreSt} {x : Region} {b : Bundle} {w : Verdicts} (hr : Ready s l c x)
    (hm : b.marker = false) (hres : b.reserved = 0) (hb : haltBroken b = false) (hs : c.straight)
    (htk : ∀ t n, b.s ≠ .ttake t n) (hj : judge (s.ctx c) (c.given b) { b := b, since := s.time.cycle } = w)
    (hg : ∀ sl, (w.at_ sl).holds = false) (F : CoreSt → CoreSt) (hF : ∀ d, (F d).lcore = d.lcore)
    (hslots : (s.updCore l fun d => d.shows b s.time.cycle).judgedSlots (s.ctx c) (c.shows b s.time.cycle) b w =
      (s.updCore l fun d => d.shows b s.time.cycle).updCore l F)
    (hconds : (F (c.shows b s.time.cycle)).conds = c.conds) (hloops : (F (c.shows b s.time.cycle)).loops = c.loops)
    (ha : ∀ d, advancePc (c.shows b s.time.cycle) b w.s.isGo d = backEdges d.loops c.pc d)
    (hd : successorDelay (c.shows b s.time.cycle) b = b.delay.toNat + 1) (hh : (b.s == .halt) = false) :
    presentTo l b s = .next (s.updCore l fun _ =>
      (F (c.shows b s.time.cycle)).ended c.pc (s.time.cycle + (b.delay.toNat + 1))) := by
  have hsh := hr.shown rfl b s.time.cycle
  have hk : (s.ctx c).region = x := by rw [State.ctx, hr.region]; rfl
  have hctx : (s.updCore l fun d => d.shows b s.time.cycle).ctx (c.shows b s.time.cycle) = s.ctx c := rfl
  have hfin : (c.shows b s.time.cycle).finished b w.s.isGo false s.time.cycle (F (c.shows b s.time.cycle)) =
      (F (c.shows b s.time.cycle)).ended c.pc (s.time.cycle + (b.delay.toNat + 1)) := by
    rw [finished_of_advance ((ha _).trans (backEdges_straight _ _ _ rfl (by rw [hloops]; exact hs.1))), hd]
    rfl
  rw [present_ready hr b, tryIssue_ready hr b hm (by rw [hj]; exact hg), hj,
    issueBundle_slots hsh.1 b _ w hm hres hb (by rw [hctx, hk]; exact hr.noReplay) htk, hctx, hslots,
    hsh.serve_idle hF (hconds.trans hr.conds), hh,
    finish_core hsh.1 F hF _ hsh.lcore _ _ _ (by
      intro _
      exact lt_of_eq_of_lt (congrArg CoreSt.pc hfin) (Nat.succ_lt_succ hs.2)),
    updCore_updCore s l (fun d => d.shows b s.time.cycle) _ fun _ => rfl]
  exact congrArg Host.Outcome.next (hr.sole.updCore_congr hfin)

/-! ### One slot that is skipped -/

/-- The verdicts of a bundle with one instruction, in slot `sl`, whose own verdict is `v`. -/
def Verdicts.only (sl : Slot) (v : Verdict) : Verdicts :=
  match sl with
  | .s => { allGo with s := v }
  | .x => { allGo with x := v }
  | .m => { allGo with m := v }
  | .v => { allGo with v := v }

theorem holds_only_skip (sl : Slot) (code : FCode) (d : Nat) (j : Slot) :
    ((Verdicts.only sl (.skip code d)).at_ j).holds = false := by
  cases sl <;> cases j <;> rfl

theorem judge_only_s {k : Ctx} {c : CoreSt} {b : Bundle} {v : Verdict} (hres : b.reserved = 0) (hb : haltBroken b = false)
    (hx : b.x = .nop) (hm : b.m = .nop) (hv : b.v = .nop) (cy : Nat) (h : judgeS k c b = v) :
    judge k c { b := b, since := cy } = .only .s v := by
  have hw : stopsWhole b = false := by simp [stopsWhole, hres, hb]
  have hmv : c.moved b.x = c := by rw [hx]; rfl
  simp only [judge, hw, Bool.false_eq_true, if_false, Presented.out, hmv, ite_self, h]
  unfold judgeX judgeM judgeV
  simp [hx, hm, hv, XOp.legal, MOp.legal, VOp.legal, VOp.formIs, xClaims, xFields, vFields, rngFields, allGo, slotPos,
    Verdicts.only]

theorem judge_only_x {k : Ctx} {c : CoreSt} {b : Bundle} {v : Verdict} (hres : b.reserved = 0) (hs : b.s = .nop)
    (hm : b.m = .nop) (hv : b.v = .nop) (cy : Nat) (h : judgeX k c b = v) :
    judge k c { b := b, since := cy } = .only .x v := by
  have hw : stopsWhole b = false := by simp [stopsWhole, hres, haltBroken, hs]
  simp only [judge, hw, Bool.false_eq_true, if_false, Presented.out, h]
  unfold judgeS judgeM judgeV
  simp [hs, hm, hv, SOp.legal, MOp.legal, VOp.legal, VOp.formIs, vFields, rngFields, allGo, slotPos, Verdicts.only]

theorem judge_only_m {k : Ctx} {c : CoreSt} {b : Bundle} {v : Verdict} (hres : b.reserved = 0) (hs : b.s = .nop)
    (hx : b.x = .nop) (hv : b.v = .nop) (cy : Nat) (h : judgeM k c b = v) :
    judge k c { b := b, since := cy } = .only .m v := by
  have hw : stopsWhole b = false := by simp [stopsWhole, hres, haltBroken, hs]
  have hmv : c.moved b.x = c := by rw [hx]; rfl
  simp only [judge, hw, Bool.false_eq_true, if_false, Presented.out, hmv, ite_self, h]
  unfold judgeS judgeX judgeV
  simp [hs, hx, hv, SOp.legal, XOp.legal, VOp.legal, VOp.formIs, xClaims, xFields, vFields, rngFields, allGo, slotPos,
    Verdicts.only]

theorem judge_only_v {k : Ctx} {c : CoreSt} {b : Bundle} {v : Verdict} (hres : b.reserved = 0) (hs : b.s = .nop)
    (hx : b.x = .nop) (hm : b.m = .nop) (cy : Nat) (h : judgeV k c b = v) :
    judge k c { b := b, since := cy } = .only .v v := by
  have hw : stopsWhole b = false := by simp [stopsWhole, hres, haltBroken, hs]
  have hmv : c.moved b.x = c := by rw [hx]; rfl
  simp only [judge, hw, Bool.false_eq_true, if_false, Presented.out, hmv, ite_self, h]
  unfold judgeS judgeX judgeM
  simp [hs, hx, hm, SOp.legal, XOp.legal, MOp.legal, xClaims, xFields, allGo, slotPos, Verdicts.only]

/-- What a skip in a slot does to the core beside the fault. -/
def skipIn (k : Ctx) (c : CoreSt) (b : Bundle) (code : FCode) : Slot → CoreSt → CoreSt
  | .s | .x => id
  | .m => skipM k c b.m code
  | .v => skipV k c b.v code

/-- A bundle with one instruction, in slot `sl`. -/
def OnlyIn (b : Bundle) (sl : Slot) : Prop :=
  (sl ≠ .s → b.s = .nop) ∧ (sl ≠ .x → b.x = .nop) ∧ (sl ≠ .m → b.m = .nop) ∧ (sl ≠ .v → b.v = .nop)

/-- The slots of a bundle whose one instruction is skipped: its fault, and the occupancy of its unit. -/
theorem judgedSlots_skip {s : State} {l : Nat} {c : CoreSt} {b : Bundle} {sl : Slot} (ho : OnlyIn b sl) (hl : c.lcore = l)
    (hx : xRawFields b.x = none) (k : Ctx) (code : FCode) (d : Nat) :
    s.judgedSlots k c b (.only sl (.skip code d)) =
      s.updCore l fun e => skipIn k c b code sl (e.raised s.time.cycle code (some sl) c.pc d false) := by
  obtain ⟨hs, hxn, hm, hv⟩ := ho
  subst hl
  have hmv : c.moved .nop = c := rfl
  have hraise : ∀ f : CoreSt → CoreSt, (s.raise c.lcore code (some sl) c.pc d).updCore c.lcore f =
      s.updCore c.lcore fun e => f (e.raised s.time.cycle code (some sl) c.pc d false) := fun f => by
    rw [raise_eq, updCore_updCore s _ (fun e => e.raised s.time.cycle code (some sl) c.pc d false) f fun _ => rfl]
  cases sl with
  | s =>
    simp only [State.judgedSlots, Verdicts.only, allGo, Verdict.isGo, hxn (by decide), hm (by decide), hv (by decide), hmv,
      ite_self, State.issueSlot, Bool.false_eq_true, if_false, nop_x, nop_m, nop_v]
    exact raise_eq _ _ _ _ _ _ _
  | x =>
    have hskip : skipX k c b.x code (s.raise c.lcore code (some .x) c.pc d) = s.raise c.lcore code (some .x) c.pc d := by
      rw [skipX, hx]
      exact ite_self _
    simp only [State.judgedSlots, Verdicts.only, allGo, Verdict.isGo, hs (by decide), hm (by decide), hv (by decide),
      Bool.false_eq_true, if_false, State.issueSlot, nop_s, hskip, nop_m, nop_v]
    exact raise_eq _ _ _ _ _ _ _
  | m =>
    simp only [State.judgedSlots, Verdicts.only, allGo, Verdict.isGo, hs (by decide), hxn (by decide), hv (by decide), hmv,
      ite_self, State.issueSlot, Bool.false_eq_true, if_false, nop_s, nop_x, nop_v]
    exact hraise _
  | v =>
    simp only [State.judgedSlots, Verdicts.only, allGo, Verdict.isGo, hs (by decide), hxn (by decide), hm (by decide), hmv,
      ite_self, State.issueSlot, Bool.false_eq_true, if_false, nop_s, nop_x, nop_m]
    exact hraise _

/-- What a skip leaves on the core touches neither its number, its loops nor its start conditions. -/
theorem skipM_keeps {α : Type} (p : CoreSt → α) (hp : ∀ (c : CoreSt) a b d e,
      p { c with passFree := a, shadowFree := b, shapeFree := d, zeroFree := e } = p c)
    (k : Ctx) (c0 : CoreSt) (op : MOp) (code : FCode) (c : CoreSt) : p (skipM k c0 op code c) = p c := by
  cases op with
  | nop | illegal => rfl
  | mwload | mswap | mshape | mzero | mpass | mpassw | mpassc => exact hp c _ _ _ _

theorem skipM_shows (k : Ctx) (c0 : CoreSt) (b : Bundle) (cy : Nat) (op : MOp) (code : FCode) (c : CoreSt) :
    skipM k (c0.shows b cy) op code c = skipM k c0 op code c := by
  have hcs : ∀ due, (c0.shows b cy).comingShape.tileAt due = c0.comingShape.tileAt due := fun due => by
    have hn : (c0.shows b cy).newShape = c0.newShape := rfl
    rw [CoreSt.comingShape, CoreSt.comingShape, hn]
    cases c0.newShape <;> rfl
  cases op with
  | nop | illegal | mwload | mswap | mshape | mzero => rfl
  | mpass | mpassw | mpassc =>
    simp only [skipM, passFields, hcs]
    rfl

theorem skipV_eq (k : Ctx) (c0 : CoreSt) (op : VOp) (code : FCode) :
    ∃ v, ∀ c : CoreSt, skipV k c0 op code c = { c with vFree := max c.vFree v } := by
  cases op with
  | nop => exact ⟨0, fun c => by simp [skipV]⟩
  | vec | vrng | illegal => exact ⟨_, fun _ => rfl⟩

theorem skipIn_lcore (k : Ctx) (c0 : CoreSt) (b : Bundle) (code : FCode) (sl : Slot) (c : CoreSt) :
    (skipIn k c0 b code sl c).lcore = c.lcore := by
  cases sl with
  | s | x => rfl
  | m => exact skipM_keeps CoreSt.lcore (fun _ _ _ _ _ => rfl) _ _ _ _ _
  | v => obtain ⟨v, h⟩ := skipV_eq k c0 b.v code; exact (congrArg CoreSt.lcore (h c) :)

theorem skipIn_loops (k : Ctx) (c0 : CoreSt) (b : Bundle) (code : FCode) (sl : Slot) (c : CoreSt) :
    (skipIn k c0 b code sl c).loops = c.loops := by
  cases sl with
  | s | x => rfl
  | m => exact skipM_keeps CoreSt.loops (fun _ _ _ _ _ => rfl) _ _ _ _ _
  | v => obtain ⟨v, h⟩ := skipV_eq k c0 b.v code; exact (congrArg CoreSt.loops (h c) :)

theorem skipIn_conds (k : Ctx) (c0 : CoreSt) (b : Bundle) (code : FCode) (sl : Slot) (c : CoreSt) :
    (skipIn k c0 b code sl c).conds = c.conds := by
  cases sl with
  | s | x => rfl
  | m => exact skipM_keeps CoreSt.conds (fun _ _ _ _ _ => rfl) _ _ _ _ _
  | v => obtain ⟨v, h⟩ := skipV_eq k c0 b.v code; exact (congrArg CoreSt.conds (h c) :)

theorem skipIn_ended (k : Ctx) (c0 : CoreSt) (b : Bundle) (code : FCode) (sl : Slot) (c : CoreSt) (i n : Nat) :
    (skipIn k c0 b code sl c).ended i n = skipIn k c0 b code sl (c.ended i n) := by
  cases sl with
  | s | x => rfl
  | m => unfold skipIn; cases b.m <;> rfl
  | v =>
    obtain ⟨v, h⟩ := skipV_eq k c0 b.v code
    show (skipV k c0 b.v code c).ended i n = skipV k c0 b.v code (c.ended i n)
    rw [h, h]
    rfl

theorem skipIn_shows (k : Ctx) (c0 : CoreSt) (b' b : Bundle) (cy : Nat) (code : FCode) (sl : Slot) (c : CoreSt) :
    skipIn k (c0.shows b' cy) b code sl c = skipIn k c0 b code sl c := by
  cases sl with
  | s | x => rfl
  | m => exact skipM_shows _ _ _ _ _ _ _
  | v => unfold skipIn; rcases b.v with _ | ⟨_, _, _ | _⟩ | ⟨_, _, _, _ | _⟩ | _ <;> rfl

/-- A ready core that presents a bundle whose one instruction is skipped. -/
theorem present_skip {s : State} {l : Nat} {c : CoreSt} {x : Region} {b : Bundle} {sl : Slot} {code : FCode} {d : Nat}
    (hr : Ready s l c x) (hm : b.marker = false) (hres : b.reserved = 0) (hb : haltBroken b = false) (hs : c.straight)
    (htk : ∀ t n, b.s ≠ .ttake t n) (ho : OnlyIn b sl) (hx : xRawFields b.x = none)
    (hj : judge (s.ctx c) (c.given b) { b := b, since := s.time.cycle } = .only sl (.skip code d))
    (ha : ∀ e, advancePc (c.shows b s.time.cycle) b (Verdicts.only sl (.skip code d)).s.isGo e = backEdges e.loops c.pc e)
    (hd : successorDelay (c.shows b s.time.cycle) b = b.delay.toNat + 1) (hh : (b.s == .halt) = false) :
    presentTo l b s = .next ((s.raise l code (some sl) c.pc d).updCore l fun e =>
      skipIn (s.ctx c) c b code sl (e.issued s.time.cycle (b.delay.toNat + 1))) := by
  have hsh := hr.shown rfl b s.time.cycle
  have hend : (c.shows b s.time.cycle).raised s.time.cycle code (some sl) c.pc d false =
    (c.raised s.time.cycle code (some sl) c.pc d false).shows b s.time.cycle := rfl
  refine (present_judged hr hm hres hb hs htk hj (holds_only_skip sl code d)
    (fun e => skipIn (s.ctx c) (c.shows b s.time.cycle) b code sl (e.raised s.time.cycle code (some sl) c.pc d false))
    (fun e => skipIn_lcore _ _ _ _ _ _) (judgedSlots_skip ho hsh.lcore hx _ _ _) (skipIn_conds _ _ _ _ _ _)
    (skipIn_loops _ _ _ _ _ _) ha hd hh).trans ?_
  rw [hr.sole.raise_updCore, skipIn_ended, skipIn_shows, hend]
  exact congrArg (fun e => Host.Outcome.next (s.updCore l fun _ => skipIn (s.ctx c) c b code sl e))
    (shows_ended (c := c.raised s.time.cycle code (some sl) c.pc d false) hr.presented hr.waiting b _ _)

/-- Settles O13: in each of the five rows the one instruction is skipped by its own verdict. -/
theorem skippedInstructionOnlyRecords : Obligations.SkippedInstructionOnlyRecords := by
  intro s l c x b code d hr hp hs given after
  obtain ⟨hmark, hres, hsn, hxn, hmn, hvn⟩ := hp
  have hxr : xRawFields b.x = none := by rw [hxn]; rfl
  have hfall : ∀ (b' : Bundle) cy sl v, b'.s = .nop → ∀ e,
      advancePc (c.shows b' cy) b' (Verdicts.only sl v).s.isGo e = backEdges e.loops c.pc e := fun b' cy sl v h e => by
    simp only [advancePc, h, haltBroken, brTaken, Bool.false_eq_true, if_false]
    rfl
  have hwhole : ∀ b' : Bundle, b'.s = .nop → haltBroken b' = false := fun b' h => by rw [haltBroken, h]
  have hdelay : ∀ (b' : Bundle) cy, b'.s = .nop → successorDelay (c.shows b' cy) b' = b'.delay.toNat + 1 :=
    fun b' cy h => by rw [successorDelay, h]
  have htk : ∀ b' : Bundle, b'.s = .nop → ∀ t n, b'.s ≠ .ttake t n := fun b' h t n => by rw [h]; exact SOp.noConfusion
  have hhalt : ∀ b' : Bundle, b'.s = .nop → (b'.s == .halt) = false := fun b' h => by rw [h]; rfl
  refine ⟨?_, ?_, ?_, ?_, ?_⟩
  · intro t k1 cd n bb hj
    exact present_skip (b := bb) (sl := .s) hr hmark hres rfl hs (fun _ _ => SOp.noConfusion)
      ⟨fun h => absurd rfl h, fun _ => hxn, fun _ => hmn, fun _ => hvn⟩ hxr (judge_only_s (b := bb) hres rfl hxn hmn hvn _ hj)
      (fun _ => rfl) rfl rfl
  · intro cl len1 src bb hj
    exact present_skip (b := bb) (sl := .s) hr hmark hres rfl hs (fun _ _ => SOp.noConfusion)
      ⟨fun h => absurd rfl h, fun _ => hxn, fun _ => hmn, fun _ => hvn⟩ hxr (judge_only_s (b := bb) hres rfl hxn hmn hvn _ hj)
      (fun _ => rfl) rfl rfl
  · intro cs bb hj
    exact present_skip (b := bb) (sl := .x) hr hmark hres (hwhole bb hsn) hs (htk bb hsn)
      ⟨fun _ => hsn, fun h => absurd rfl h, fun _ => hmn, fun _ => hvn⟩ rfl (judge_only_x (b := bb) hres hsn hmn hvn _ hj)
      (hfall bb _ _ _ hsn) (hdelay bb _ hsn) (hhalt bb hsn)
  · intro h accum keep bb hj
    exact present_skip (b := bb) (sl := .m) hr hmark hres (hwhole bb hsn) hs (htk bb hsn)
      ⟨fun _ => hsn, fun _ => hxn, fun h => absurd rfl h, fun _ => hvn⟩ hxr (judge_only_m (b := bb) hres hsn hxn hvn _ hj)
      (hfall bb _ _ _ hsn) (hdelay bb _ hsn) (hhalt bb hsn)
  · intro op h form bb hj
    exact (exec_vecRow op l b h form s).trans (present_skip (b := bb) (sl := .v) hr hmark hres (hwhole bb hsn) hs
      (htk bb hsn) ⟨fun _ => hsn, fun _ => hxn, fun _ => hmn, fun h => absurd rfl h⟩ hxr
      (judge_only_v (b := bb) hres hsn hxn hmn _ hj) (hfall bb _ _ _ hsn) (hdelay bb _ hsn) (hhalt bb hsn))

end Sys2Proof.Machine
end

section
/-! PROOFS. The limits of held bundles (R97, R185, R248, R249). -/

namespace Sys2Proof.Machine

/-- What issuing does for a bundle with NOP in its X slot all of whose slots issue or were skipped by a limit. -/
theorem issueBundle_out {s : State} {l : Nat} {c : CoreSt} (h : s.core? l = some c) (p : Presented)
    (hm : p.b.marker = false) (hres : p.b.reserved = 0) (hb : haltBroken p.b = false) (hx : p.b.x = .nop)
    (hrep : (s.ctx c).region.replayStop = none) (htk : ∀ t n, p.b.s ≠ .ttake t n) :
    s.issueBundle l p allGo =
      (((((s.issueSlot (s.ctx c) c p.b .s .go (p.out .s)).issueSlot (s.ctx c) c p.b .x .go (p.out .x)).issueSlot (s.ctx c) c
        p.b .m .go (p.out .m)).issueSlot (s.ctx c) c p.b .v .go (p.out .v)).updCore l CoreSt.serveConds).finish c p.b
        (!p.out .s) (p.b.s == .halt) := by
  have hmv : c.moved p.b.x = c := by rw [hx]; rfl
  unfold State.issueBundle
  rw [h]
  simp only [hm, Bool.false_eq_true, if_false, Option.isSome_none, Bool.false_and, h, hres, bne_self_eq_false, hb, hmv,
    allSlots, List.foldl_cons, List.foldl_nil, allGo, Verdicts.at_, Verdict.isGo, Bool.true_and, ite_self,
    takeNow_other _ _ _ _ htk]
  rw [replayHit_none _ _ _ hrep]

theorem Holding.ctx {s : State} {l : Nat} {c : CoreSt} {x : Region} {p : Presented} (h : Holding s l c x p) :
    (s.ctx c).region = x := by rw [State.ctx, h.region]; rfl

/-- A held bundle reaches its check-8 limit, or its wait limit, with one slot held: the slot's fault is raised, and the
bundle issues without it. `p'` is the bundle with the slot skipped, `w` what it raises. -/
theorem tryIssue_limit {s s' : State} {l : Nat} {c : CoreSt} {x : Region} {p p' : Presented} (h : Holding s l c x p)
    (hm : p.b.marker = false) (hb' : p'.b = p.b)
    (hlim : (x.sbLimit ≤ p.sbCount ∧ s.holdLimits l p (judge (s.ctx c) c p) = (s', p') ∧ p'.waitCount < x.waitLimit) ∨
      (p.sbCount < x.sbLimit ∧ x.waitLimit ≤ p.waitCount ∧
        s.waitLimits l p (judge (s.ctx c) c p) false = (s', p')))
    (hgo : judge (s.ctx c) c p' = allGo) : s.tryIssue l = s'.issueBundle l p' allGo := by
  have hcand : c.candidate (s.ctx c).cycle = some p := by rw [CoreSt.candidate, h.held]
  have hstop : c.stopsHere (s.ctx c).cycle p.b = false := by simp [CoreSt.stopsHere, h.stopFrom, h.stopBefore]
  have hself : (s.updCore l fun d => { d with
      presented := some p, waiting := if d.presented.isNone then d.waiting.drop 1 else d.waiting }) = s := by
    refine updCore_id s l _ fun d hd e => ?_
    rw [h.alone.2 d hd e, h.held]
    simp only [Option.isNone_some, Bool.false_eq_true, if_false]
    rw [← h.held]
  have hjc : judgedCore (s.ctx c) c p.b = c := by simp [judgedCore, hm]
  have hjc' : judgedCore (s.ctx c) c p'.b = c := by rw [hb']; exact hjc
  have hany : (allSlots.any fun sl => (allGo.at_ sl).holds) = false := rfl
  unfold State.tryIssue
  rw [h.alone.1]
  simp only [h.runs, h.ctx, Region.live, h.phase, bne_self_eq_false, beq_self_eq_true, Bool.true_or, Bool.not_true,
    Bool.or_self, Bool.false_eq_true, if_false, hcand, hstop]
  rw [hself]
  obtain ⟨hsb, heq, hwt⟩ | ⟨hsb, hwt, heq⟩ := hlim
  · have hno : (decide (x.waitLimit ≤ p'.waitCount) && !p'.timedOut) = false := by
      rw [decide_eq_false (by omega), Bool.false_and]
    simp only [hsb, if_true, hjc, heq, hjc', hgo, hno, Bool.false_eq_true, if_false, hany, h.noHold, Bool.or_self]
  · have hyes : (decide (x.waitLimit ≤ p.waitCount) && !p.timedOut) = true := by rw [h.inTime, decide_eq_true hwt]; rfl
    have hno : ¬ x.sbLimit ≤ p.sbCount := by omega
    simp only [hno, if_false, hjc, hyes, if_true, heq, hjc', hgo, hany, h.noHold, Bool.or_self, Bool.false_eq_true]

/-- The check-8 limit of a bundle held in its V slot alone (R97). -/
theorem holdLimits_v {s : State} {l : Nat} {c : CoreSt} {p : Presented} {f : Check8} {d : Nat} (h : s.core? l = some c)
    (hd : p.lastC8.getD 3 none = some d) :
    s.holdLimits l p (.only .v (.hold none (some f))) =
      (s.raise l .holdLimit (some .v) c.pc d, { p with skipped := p.skipped.set 3 true }) := by
  simp only [State.holdLimits, allSlots, List.foldl_cons, List.foldl_nil, Verdicts.only, allGo, Verdicts.at_, Verdict.c8,
    slotPos, hd, h, Option.getD_some, Option.map_some]

/-- The wait limit of a bundle held by a wait in its S slot alone (R185, R249). -/
theorem waitLimits_s {s : State} {l : Nat} {c : CoreSt} {p : Presented} {code n : Nat} (h : s.core? l = some c)
    (array : Bool) :
    s.waitLimits l p (.only .s (.hold (some (code, n)) none)) array =
      (s.raise l .waitTimeout (some .s) c.pc (waitDetail code n),
        { p with timedOut := true, skipped := p.skipped.set 0 true }) := by
  have hheld : ([Slot.s, Slot.x].filter fun sl =>
      ((Verdicts.only .s (.hold (some (code, n)) none)).at_ sl).wait.isSome) = [.s] := rfl
  simp only [State.waitLimits, hheld, h, List.foldl_cons, List.foldl_nil, slotPos, Option.map_some, Option.getD_some]
  rfl

/-- Serving start conditions behind a skipped V instruction. -/
theorem serveConds_skipV (k : Ctx) (c0 : CoreSt) (op : VOp) (code : FCode) (c : CoreSt) :
    (skipV k c0 op code c).serveConds = skipV k c0 op code c.serveConds := by
  obtain ⟨v, h⟩ := skipV_eq k c0 op code
  have hf : ServeFrame (skipV k c0 op code) := by
    constructor <;> intros <;> simp only [h] <;> rfl
  exact hf.serveConds c

/-- A core that ends a bundle it held. -/
theorem ended_held (c : CoreSt) (cy d : Nat) :
    c.ended c.pc (cy + d) = { c.issued cy d with presented := none } := rfl

/-- A limit of a held bundle that has been reached is acted on at once. -/
theorem limitOn_reached {left : Region → CoreSt → Nat} {s : State} {l : Nat} {c : CoreSt} {x : Region} {p : Presented}
    (h : Holding s l c x p) (h0 : left x c = 0) : limitOn left l s = .next (s.tryIssue l) := by
  have hreg : s.regionOf l = some x := by rw [State.regionOf, h.alone.1]; exact h.region
  simp only [limitOn, onCore, h.alone.1, hreg, h.held, Option.isSome_some, if_true, h0]
  rfl

/-- The bundle of a core that was held ends with the next index, whatever its slot S has been. -/
theorem finished_held {c : CoreSt} {b : Bundle} {ok : Bool} {cy : Nat} (hs : c.straight) (d : CoreSt)
    (hd : d.loops = c.loops) (ha : advancePc c b ok d = backEdges d.loops c.pc d)
    (hdel : successorDelay c b = b.delay.toNat + 1) :
    c.finished b ok false cy d = d.ended c.pc (cy + (b.delay.toNat + 1)) := by
  rw [finished_of_advance (ha.trans (backEdges_straight _ _ _ rfl (by rw [hd]; exact hs.1))), hdel]
  rfl

/-- The end of a bundle that issues without the slot that its limit skipped: `raised` is the core with the limit's record,
`F` what the skip leaves on it. -/
theorem finish_limit {s : State} {l : Nat} {c : CoreSt} {b : Bundle} {ok : Bool} (h : Alone s l c) (hs : c.straight)
    (F : CoreSt → CoreSt) (hF : ∀ d, (F d).lcore = d.lcore) (hloops : (F c).loops = c.loops)
    (ha : ∀ d, advancePc c b ok d = backEdges d.loops c.pc d) (hdel : successorDelay c b = b.delay.toNat + 1)
    (hserve : (F c).serveConds = F c.serveConds)
    (hend : ∀ d i n, (F d).ended i n = F (d.ended i n)) :
    ((s.updCore l F).updCore l CoreSt.serveConds).finish c b ok false = s.updCore l fun e =>
      F { e.issued s.time.cycle (b.delay.toNat + 1) with presented := none }.serveConds := by
  have hG : ∀ d, (F d).serveConds.lcore = d.lcore := fun d => (serveConds_lcore _).trans (hF d)
  have hfin : c.finished b ok false s.time.cycle (F c).serveConds =
      F ({ c.issued s.time.cycle (b.delay.toNat + 1) with presented := none } : CoreSt).serveConds := by
    rw [finished_held hs _ ((serveConds_loops _).trans hloops) (ha _) hdel, hserve, hend, ← serveConds_ended]
    rfl
  rw [updCore_updCore s l F _ hF, finish_core h.1 (fun d => (F d).serveConds) hG _ h.lcore _ _ _ (by
    intro _
    refine lt_of_eq_of_lt (congrArg CoreSt.pc (finished_held hs _ ((serveConds_loops _).trans hloops) (ha _) hdel)) ?_
    exact Nat.succ_lt_succ hs.2)]
  exact h.updCore_congr hfin

/-- A bundle none of whose slots was skipped is judged as a new one. -/
theorem judge_whole {p : Presented} (h : p.skipped = [false, false, false, false]) (k : Ctx) (c : CoreSt) :
    judge k c p = judge k c { b := p.b, since := 0 } := by
  have hp : ∀ sl, p.out sl = false := fun sl => by rw [Presented.out, h]; cases sl <;> rfl
  have hq : ∀ sl, ({ b := p.b, since := 0 } : Presented).out sl = false := fun sl => by cases sl <;> rfl
  simp only [judge, hp, hq]

/-- A bundle whose one instruction has been skipped by a limit is let go. -/
theorem judge_out {k : Ctx} {c : CoreSt} {p : Presented} {sl : Slot} (hres : p.b.reserved = 0)
    (hb : haltBroken p.b = false) (ho : OnlyIn p.b sl) (hx : p.b.x = .nop) (hout : p.out sl = true) :
    judge k c p = allGo := by
  obtain ⟨hs, -, hm, hv⟩ := ho
  have hw : stopsWhole p.b = false := by simp [stopsWhole, hres, hb]
  have hmv : c.moved p.b.x = c := by rw [hx]; rfl
  have hS : ∀ c', p.b.s = .nop → judgeS k c' p.b = .go := fun c' h => by simp [judgeS, h, SOp.legal]
  have hX : judgeX k c p.b = .go := by simp [judgeX, hx, XOp.legal, xClaims, xFields]
  have hM : ∀ c', p.b.m = .nop → judgeM k c' p.b = .go := fun c' h => by simp [judgeM, h, MOp.legal]
  have hV : ∀ c', p.b.v = .nop → judgeV k c' p.b = .go := fun c' h => by
    simp [judgeV, h, VOp.legal, VOp.formIs, vFields, rngFields]
  simp only [judge, hw, Bool.false_eq_true, if_false, hmv, ite_self, hX]
  cases sl with
  | s => simp only [hout, if_true, hM c (hm (by decide)), hV c (hv (by decide)), ite_self]; rfl
  | x => simp only [hS c (hs (by decide)), hM c (hm (by decide)), hV c (hv (by decide)), ite_self]; rfl
  | m => simp only [hout, if_true, hS c (hs (by decide)), hV c (hv (by decide)), ite_self]; rfl
  | v => simp only [hout, if_true, hS c (hs (by decide)), hM c (hm (by decide)), ite_self]; rfl

/-- A bundle whose one instruction has been skipped by a limit issues: what the skip leaves, and the next index. -/
theorem issueBundle_limit {s : State} {l : Nat} {c : CoreSt} {p : Presented} {sl : Slot} (h : Alone s l c)
    (hs : c.straight) (hm : p.b.marker = false) (hres : p.b.reserved = 0) (hb : haltBroken p.b = false)
    (ho : OnlyIn p.b sl) (hx : p.b.x = .nop) (hout : ∀ j, p.out j = (j == sl)) (hsl : sl = .s ∨ sl = .v)
    (hrep : (s.ctx c).region.replayStop = none) (htk : ∀ t n, p.b.s ≠ .ttake t n) (hh : (p.b.s == .halt) = false)
    (ha : ∀ d, advancePc c p.b (!p.out .s) d = backEdges d.loops c.pc d)
    (hdel : successorDelay c p.b = p.b.delay.toNat + 1) :
    s.issueBundle l p allGo = s.updCore l fun e => skipIn (s.ctx c) c p.b .holdLimit sl
      { e.issued s.time.cycle (p.b.delay.toNat + 1) with presented := none }.serveConds := by
  have hl := h.lcore
  have hserve : ∀ d, (skipIn (s.ctx c) c p.b .holdLimit sl d).serveConds =
      skipIn (s.ctx c) c p.b .holdLimit sl d.serveConds := fun d => by
    rcases hsl with rfl | rfl
    · rfl
    · exact serveConds_skipV _ _ _ _ _
  rw [issueBundle_out h.1 p hm hres hb hx hrep htk, hh]
  refine Eq.trans (congrArg (fun t : State => (t.updCore l CoreSt.serveConds).finish c p.b (!p.out .s) false) ?_)
    (finish_limit h hs (skipIn (s.ctx c) c p.b .holdLimit sl) (fun d => skipIn_lcore _ _ _ _ _ _)
      (skipIn_loops _ _ _ _ _ _) ha hdel (hserve _) fun d i n => skipIn_ended _ _ _ _ _ _ _ _)
  obtain ⟨hsn, -, hmn, hvn⟩ := ho
  rcases hsl with rfl | rfl
  · have e1 : (Slot.x == Slot.s) = false := rfl
    have e2 : (Slot.m == Slot.s) = false := rfl
    have e3 : (Slot.v == Slot.s) = false := rfl
    simp only [hout, State.issueSlot, beq_self_eq_true, if_true, e1, e2, e3, Bool.false_eq_true, if_false, hx, nop_x,
      hmn (by decide), nop_m, hvn (by decide), nop_v]
    exact (updCore_id s l _ fun _ _ _ => rfl).symm
  · have e1 : (Slot.s == Slot.v) = false := rfl
    have e2 : (Slot.x == Slot.v) = false := rfl
    have e3 : (Slot.m == Slot.v) = false := rfl
    simp only [hout, State.issueSlot, beq_self_eq_true, if_true, e1, e2, e3, Bool.false_eq_true, if_false, hx, nop_x,
      hmn (by decide), nop_m, hsn (by decide), nop_s, hl]
    rfl

/-- A wait on a tally that holds too little holds its slot (R182). -/
theorem judgeS_twait_hold {k : Ctx} {c : CoreSt} {b : Bundle} {t : BitVec 6} {n : BitVec 12} (hs : b.s = .twait t n)
    (ht : t.toNat ≤ 47) (hn : n ≠ 0) (ha : c.avail t.toNat < n.toNat) :
    judgeS k c b = .hold (some (0, t.toNat)) none := by
  have hr : c.tallyReady t.toNat n.toNat = false := by
    rw [CoreSt.tallyReady, decide_eq_false (by omega), Bool.and_false]
  have hn' : ¬n = 0#12 := hn
  simp [judgeS, hs, SOp.legal, ht, hn', hr]

theorem skipV_raised (k : Ctx) (c0 : CoreSt) (cy : Nat) (f : FCode) (sl : Option Slot) (n d : Nat) (op : VOp)
    (code : FCode) (c : CoreSt) : skipV k (c0.raised cy f sl n d false) op code c = skipV k c0 op code c := by
  rcases op with _ | ⟨_, _, _ | _⟩ | ⟨_, _, _, _ | _⟩ | _ <;> rfl

/-- Settles O26: at the limit the held slot's fault is raised, and the bundle issues with that slot skipped. -/
theorem limitsSkipTheHeldSlot : Obligations.LimitsSkipTheHeldSlot := by
  intro s l c x p h hs hm hres hx hmn go
  refine ⟨fun f d hsn hv hd hsb hwt => ?_, fun t n hst hvn ht hn ha hwt hsb => ?_⟩
  · have hleft : holdLeft x c = 0 := by rw [holdLeft, h.held]; exact Nat.sub_eq_zero_of_le hsb
    have hb : haltBroken p.b = false := by rw [haltBroken, hsn]
    have ho : OnlyIn p.b .v := ⟨fun _ => hsn, fun _ => hx, fun _ => hmn, fun h => absurd rfl h⟩
    have hj : judge (s.ctx c) c p = .only .v (.hold none (some f)) :=
      (judge_whole h.whole _ _).trans (judge_only_v hres hsn hx hmn _ hv)
    have hout : ∀ j, ({ p with skipped := p.skipped.set 3 true } : Presented).out j = (j == .v) := fun j => by
      rw [Presented.out, h.whole]; cases j <;> rfl
    have hA := h.alone.updCore (f := fun e => e.raised s.time.cycle .holdLimit (some .v) c.pc d false) fun _ => rfl
    refine (limitOn_reached h hleft).trans (congrArg Host.Outcome.next ?_)
    rw [tryIssue_limit (p' := { p with skipped := p.skipped.set 3 true }) h hm rfl
      (.inl ⟨hsb, by rw [hj]; exact holdLimits_v h.alone.1 hd, hwt⟩) (judge_out hres hb ho hx (hout .v)), raise_eq]
    refine (issueBundle_limit (p := { p with skipped := p.skipped.set 3 true }) hA hs hm hres hb ho hx hout (.inr rfl)
      (by exact h.ctx ▸ h.noReplay) (fun t n => by show p.b.s ≠ _; rw [hsn]; exact SOp.noConfusion)
      (by show (p.b.s == _) = _; rw [hsn]; rfl) (fun e => ?_) (by show successorDelay _ p.b = _; rw [successorDelay, hsn])).trans ?_
    · simp only [advancePc, hsn, haltBroken, brTaken, Bool.false_eq_true, if_false]
    · exact congrArg (State.updCore _ l) (funext fun e => skipV_raised _ _ _ _ _ _ _ _ _ _)
  · have hleft : waitLeft x c = 0 := by rw [waitLeft, h.held]; exact Nat.sub_eq_zero_of_le hwt
    have hb : haltBroken p.b = false := by rw [haltBroken, hst]
    have ho : OnlyIn p.b .s := ⟨fun h => absurd rfl h, fun _ => hx, fun _ => hmn, fun _ => hvn⟩
    have hj : judge (s.ctx c) c p = .only .s (.hold (some (0, t.toNat)) none) :=
      (judge_whole h.whole _ _).trans (judge_only_s hres hb hx hmn hvn _ (judgeS_twait_hold hst ht hn ha))
    have hout : ∀ j, ({ p with timedOut := true, skipped := p.skipped.set 0 true } : Presented).out j = (j == .s) :=
      fun j => by rw [Presented.out, h.whole]; cases j <;> rfl
    have hA := h.alone.updCore (f := fun e => e.raised s.time.cycle .waitTimeout (some .s) c.pc (waitDetail 0 t.toNat) false)
      fun _ => rfl
    refine (limitOn_reached h hleft).trans (congrArg Host.Outcome.next ?_)
    rw [tryIssue_limit (p' := { p with timedOut := true, skipped := p.skipped.set 0 true }) h hm rfl
      (.inr ⟨hsb, hwt, by rw [hj]; exact waitLimits_s h.alone.1 _⟩) (judge_out hres hb ho hx (hout .s)), raise_eq]
    refine (issueBundle_limit (p := { p with timedOut := true, skipped := p.skipped.set 0 true }) hA hs hm hres hb ho hx hout
      (.inl rfl) (by exact h.ctx ▸ h.noReplay) (fun t n => by show p.b.s ≠ _; rw [hst]; exact SOp.noConfusion)
      (by show (p.b.s == _) = _; rw [hst]; rfl) (fun e => ?_) (by show successorDelay _ p.b = _; rw [successorDelay, hst])).trans
      rfl
    simp only [advancePc, hst, haltBroken, brTaken, Bool.false_eq_true, if_false]

end Sys2Proof.Machine
end

section
/-! PROOFS. Numbers (spec chapter 02): FP32 arithmetic, integer writes, and the finite FP32 patterns. -/

namespace Sys2Proof.Machine

/-! ### FP32 arithmetic (R44, R132, R215) -/

theorem modBit_of_testBit {md i : Nat} (h : md.testBit i = false) : modBit md i = false := by
  rw [Nat.testBit_eq_decide_div_mod_eq] at h
  simp only [modBit, bits, Nat.add_sub_cancel_left, pow_one]
  simpa using h

/-- Settles O22: with every element FP32 the working format is FP32. -/
theorem floatArithmeticRoundsOnce : Obligations.FloatArithmeticRoundsOnce := by
  intro job f i a b c d hfmt hdst hsrcs hmd u v w gives
  have ha : a.d.fmt = 0 := hfmt a (by simp)
  have hb : b.d.fmt = 0 := hfmt b (by simp)
  have hc : c.d.fmt = 0 := hfmt c (by simp)
  have hd : d.d.fmt = 0 := hfmt d (by simp)
  have hp : modBit f.md 3 = false := modBit_of_testBit hmd
  have hw : workingOf [0, 0, 0] 0 false = .flt fp32 0 := rfl
  have hdec : ∀ x s, decodeElem 0 x s = fp32.decode x := fun x s => by simp [decodeElem, fmtFloat, fmtMX]
  have h0 : fmtPart 0 = 0 := rfl
  refine ⟨?_, ?_, ?_, ?_⟩ <;>
  · simp only [gives, vElem, isPair, hp, hsrcs, hdst, List.map_cons, List.map_nil, ha, hb, hc, hd, h0, List.any_cons,
      List.any_nil, Bool.or_self, hw, Bool.false_eq_true, if_false]
    simp only [List.getElem?_cons_zero, List.getElem?_cons_succ, srcVal, ha, hb, hc, h0, hdec]
    simp only [arith, u, v, w]

/-! ### Integer writes (R35, R39) -/

theorem rneInt_zero (m : Nat) : rneInt m 0 = m := by simp [rneInt]

theorem signed_natAbs (n : Int) : signed (decide (n < 0)) n.natAbs = n := by
  unfold signed
  simp only [decide_eq_true_eq]
  split <;> omega

theorem toInt_ofInt (n lo hi : Int) : (Val.ofInt n).toInt lo hi = sat n lo hi := by
  rw [Val.ofInt, Val.toInt, rneInt_zero, signed_natAbs]

/-- Saturation is the nearest value of the range. -/
theorem sat_eq_clamp {lo hi : Int} (h : lo ≤ hi) (n : Int) : sat n lo hi = max lo (min n hi) := by
  unfold sat
  split_ifs <;> omega

theorem toBits_ofInt_width (w : Nat) (x : Int) : toBits w x = (BitVec.ofInt w x).toNat := by
  simp [toBits, BitVec.toNat_ofInt]

/-- Settles O23: a conversion saturates the integer itself, whatever the descriptor keeps of infinities. -/
theorem integerWritesSaturate : Obligations.IntegerWritesSaturate := by
  intro d w n clamp
  refine ⟨?_, ?_, ?_, ?_, ?_⟩
  all_goals
    intro h
    simp only [writeElem, h, fmtPart, encodeElem, fmtFloat, fmtLimits, fmtBits, toInt_ofInt, toBits_ofInt_width]
    rw [sat_eq_clamp (by decide)]
    rfl

/-! ### Finite FP32 patterns (R35, R38, R39) -/

theorem log2_of_bounds {m n : Nat} (h1 : 2 ^ n ≤ m) (h2 : m < 2 ^ (n + 1)) : m.log2 = n := by
  have hm : m ≠ 0 := by have := Nat.two_pow_pos n; omega
  exact (Nat.log2_eq_iff hm).mpr ⟨h1, h2⟩

/-- A significand that FP32 holds at its exponent is not rounded. -/
theorem fp32_round_exact {m : Nat} {e : Int} (hm : m < 2 ^ 24) (he : -149 ≤ e)
    (h : (e = -149 ∧ m ≠ 0) ∨ 2 ^ 23 ≤ m) : fp32.round m e = (m, e) := by
  have hq : max (e + ((m.log2 : Int) + 1) - 1 - 23) (1 - 127 - 23) = e := by
    rcases h with ⟨rfl, h0⟩ | hbig
    · have : m.log2 < 24 := (Nat.log2_lt h0).mpr hm
      omega
    · rw [log2_of_bounds hbig hm]
      omega
  have hne : m ≠ 2 ^ 24 := by omega
  simp only [FloatFmt.round, fp32, Nat.cast_ofNat, hq, sub_self, rneInt_zero, Nat.reduceAdd, hne, if_false]

theorem fp32_encode_fin {keep neg : Bool} {m : Nat} {e : Int} {pat : Nat} (hm0 : m ≠ 0)
    (hr : fp32.round m e = (m, e)) (hp : fp32.pattern m e = pat) (hmax : pat ≤ 0x7F7FFFFF) :
    fp32.encode keep (.fin neg m e) = fp32.sign neg + pat := by
  have hle : pat ≤ fp32.maxFin := hmax
  unfold FloatFmt.encode
  split
  · contradiction
  · contradiction
  · rename_i h
    cases h
    exact absurd rfl hm0
  · rename_i n m' e' _ h
    cases h
    simp only [hr, hp, hle, if_true]

/-- A pattern whose exponent field is not the highest reads as a finite value. -/
theorem fp32_decode_finite {x : Nat} (hex : x / 2 ^ 23 % 256 ≠ 255) :
    fp32.decode x = FloatFmt.decode.finOf fp32 (decide (1 ≤ x / 2 ^ 31 % 2)) (x / 2 ^ 23 % 256) (x % 2 ^ 23) := by
  have h1 : ¬ 0x7F800000 = x / 2 ^ 23 % 256 * 2 ^ 23 + x % 2 ^ 23 := by omega
  have h2 : ¬ 0x7F800000 < x / 2 ^ 23 % 256 * 2 ^ 23 + x % 2 ^ 23 := by omega
  have hneg : bits x 31 31 = x / 2 ^ 31 % 2 := rfl
  have hexp : bits x 30 23 = x / 2 ^ 23 % 256 := rfl
  show (if 0x7F800000 = bits x 30 23 * 2 ^ 23 + x % 2 ^ 23 then Val.inf (decide (1 ≤ bits x 31 31))
    else if 0x7F800000 < bits x 30 23 * 2 ^ 23 + x % 2 ^ 23 then .nan else
      FloatFmt.decode.finOf fp32 (decide (1 ≤ bits x 31 31)) (bits x 30 23) (x % 2 ^ 23)) = _
  rw [hneg, hexp, if_neg h1, if_neg h2]

theorem fp32_sign (x : Nat) (hx : x < 2 ^ 32) : fp32.sign (decide (1 ≤ x / 2 ^ 31 % 2)) = x / 2 ^ 31 * 2 ^ 31 := by
  have h : fp32.sign (decide (1 ≤ x / 2 ^ 31 % 2)) = if 1 ≤ x / 2 ^ 31 % 2 then 2 ^ 31 else 0 := by
    simp [FloatFmt.sign, fp32]
  rw [h]
  split <;> omega

/-- Settles O24: a zero keeps its sign, a subnormal its fraction, and a normal value its fraction and exponent. -/
theorem finiteFp32PatternsSurvive : Obligations.FiniteFp32PatternsSurvive := by
  intro x keep hx hex
  have hsign := fp32_sign x hx
  rw [fp32_decode_finite hex]
  generalize decide (1 ≤ x / 2 ^ 31 % 2) = neg at hsign ⊢
  have hmant : x % 2 ^ 23 < 2 ^ 23 := Nat.mod_lt _ (by decide)
  by_cases h0 : x / 2 ^ 23 % 256 = 0
  · have hfin : FloatFmt.decode.finOf fp32 neg (x / 2 ^ 23 % 256) (x % 2 ^ 23) = .fin neg (x % 2 ^ 23) (-149) := if_pos h0
    rw [hfin]
    by_cases hm : x % 2 ^ 23 = 0
    · rw [hm]
      show fp32.sign neg = x
      omega
    · rw [fp32_encode_fin hm (fp32_round_exact (by omega) le_rfl (.inl ⟨rfl, hm⟩)) (if_pos hmant) (by omega)]
      omega
  · have hfin : FloatFmt.decode.finOf fp32 neg (x / 2 ^ 23 % 256) (x % 2 ^ 23) =
        .fin neg (x % 2 ^ 23 + 2 ^ 23) ((x / 2 ^ 23 % 256 : Nat) - 127 - 23) := if_neg h0
    have hpat : fp32.pattern (x % 2 ^ 23 + 2 ^ 23) ((x / 2 ^ 23 % 256 : Nat) - 127 - 23) =
        x / 2 ^ 23 % 256 * 2 ^ 23 + x % 2 ^ 23 := by
      have hq : (((x / 2 ^ 23 % 256 : Nat) : Int) - 127 - 23 + 127 + 23).toNat = x / 2 ^ 23 % 256 := by omega
      have hlt : ¬ x % 2 ^ 23 + 2 ^ 23 < 2 ^ 23 := by omega
      simp only [FloatFmt.pattern, fp32, hlt, if_false, Nat.cast_ofNat, hq, Nat.add_sub_cancel]
    rw [hfin, fp32_encode_fin (by omega) (fp32_round_exact (by omega) (by omega) (.inr (by omega))) hpat (by omega)]
    omega

end Sys2Proof.Machine
end

section
/-! PROOFS. A step, and the state after an L0 reset. -/

namespace Sys2Proof.Machine

/-- Settles O47: the two arms of `step`. -/
theorem stepTakesTheFrontCommand : Obligations.StepTakesTheFrontCommand :=
  ⟨fun _ _ _ => rfl, fun s h => by unfold step; rw [h]⟩

/-- Settles O48: the reset state is a closed term, and its memories list nothing. -/
theorem resetState : Obligations.ResetState := by
  unfold Obligations.ResetState
  intro s
  have hcanon : s.Canon := ⟨⟨rfl, rfl, rfl, rfl⟩, fun c hc => absurd hc List.not_mem_nil⟩
  refine ⟨rfl, rfl, rfl, rfl, rfl, rfl, rfl, rfl, rfl, rfl, rfl, rfl, ?_, ?_, ?_, ?_, ?_, ?_, rfl, rfl, rfl, rfl, rfl, rfl,
    hcanon⟩ <;> decide

end Sys2Proof.Machine
end

section
/-! PROOFS. Every command answers a next state, but for a port, hart, die or stack that the part does not have. -/

namespace Sys2Proof.Machine

/-- A result that is a next state. -/
def Goes (r : Res) : Prop := ∃ t, r = .next t

/-- A result that is a next state, or the refusal of a command that is not well formed. -/
def Completes (ok : Bool) (r : Res) : Prop := Goes r ∨ ∃ n, r = .refused (.noSuchPort n) ∧ ok = false

theorem goes_next (s : State) : Goes (.next s) := ⟨s, rfl⟩

theorem Goes.completes {r : Res} (h : Goes r) (ok : Bool) : Completes ok r := .inl h

/-- A command whose place must lie below a bound. -/
theorem completes_bounded {r : Res} {p n : Nat} {ok : Bool} (hok : ok = true → p < n) (h : Goes r) :
    Completes ok (if n ≤ p then .refused (.noSuchPort p) else r) := by
  by_cases hp : n ≤ p
  · rw [if_pos hp]
    exact .inr ⟨p, rfl, by rw [Bool.eq_false_iff]; intro h'; have := hok h'; omega⟩
  · rw [if_neg hp]
    exact .inl h

/-! ### The rows of the slots and of a core -/

theorem presentTo_goes (l : Nat) (b : Bundle) (s : State) : Goes (presentTo l b s) := by
  unfold presentTo
  split
  · exact goes_next _
  · dsimp only
    split_ifs <;> exact goes_next _

theorem onCore_goes (l : Nat) (f : State → State) (s : State) : Goes (onCore l f s) := by
  unfold onCore
  split <;> exact goes_next _

theorem limitOn_goes (left : Region → CoreSt → Nat) (l : Nat) (s : State) : Goes (limitOn left l s) := onCore_goes _ _ _

/-! ### The rows of ports and places -/

theorem onPort_completes {p : Nat} {ok : Bool} (hok : ok = true → p < 16) (f : State → State) (s : State) :
    Completes ok (onPort p f s) := completes_bounded hok (goes_next _)

theorem onEth_completes {p : Nat} {ok : Bool} (hok : ok = true → p < 8) (f : State → State) (s : State) :
    Completes ok (onEth p f s) := completes_bounded hok (goes_next _)

theorem onUpEth_completes {p : Nat} {ok : Bool} (hok : ok = true → p < 8) (f : State → State) (s : State) :
    Completes ok (onUpEth p f s) := onEth_completes hok _ s

theorem prepCoreAccess_completes (hart : Nat) (acc : PrepAcc) (s : State) :
    Completes (Instr.wf (.prepCoreAccess hart acc)) (execPrepCoreAccess hart acc s) := by
  refine completes_bounded (fun h => by simp [Instr.wf] at h; omega) ?_
  split_ifs
  · exact goes_next _
  · cases acc <;> exact goes_next _

theorem stackRefresh_completes (stack ch : Nat) (begins : Bool) (s : State) :
    Completes (Instr.wf (.stackRefresh stack ch begins)) (execStackRefresh stack ch begins s) := by
  by_cases h : 20 ≤ stack ∨ 32 ≤ ch
  · refine .inr ⟨stack, if_pos h, ?_⟩
    simp [Instr.wf, channelOk]
    omega
  · refine .inl ?_
    unfold execStackRefresh
    rw [if_neg h]
    dsimp only
    split_ifs <;> exact goes_next _

theorem meshLinkDown_completes (die dir retries : Nat) (s : State) :
    Completes (Instr.wf (.meshLinkDown die dir retries)) (execMeshLinkDown die dir retries s) := by
  by_cases h : 48 ≤ die ∨ 4 ≤ dir
  · refine .inr ⟨die, if_pos h, ?_⟩
    simp [Instr.wf, dieOk]
    omega
  · exact .inl ⟨_, if_neg h⟩

theorem discoveryAndIdentity_completes (id : Identity) (s : State) :
    Completes (Instr.wf (.discoveryAndIdentity id)) (execDiscoveryAndIdentity id s) := by
  unfold execDiscoveryAndIdentity
  split
  · exact .inl (goes_next _)
  · refine completes_bounded (fun h => by simp [Instr.wf, kportOk] at h; omega) ?_
    split
    · exact goes_next _
    · exact goes_next _

theorem islandLockLost_completes (phys : Nat) (s : State) :
    Completes (Instr.wf (.islandLockLost phys)) (execIslandLockLost phys s) := by
  refine completes_bounded (fun h => by simpa [Instr.wf, physOk] using h) ?_
  split
  · exact goes_next _
  · exact goes_next _

theorem constantanStep_completes (phys : Nat) (up : Bool) (s : State) :
    Completes (Instr.wf (.constantanStep phys up)) (execConstantanStep phys up s) := by
  refine completes_bounded (fun h => by simpa [Instr.wf, physOk] using h) ?_
  split
  · exact goes_next _
  · exact goes_next _

/-! ### The rows with several outcomes -/

theorem onPmbus_goes (kind : Nat) (items : State → List Item) (f : State → State) (s : State) :
    Goes (onPmbus kind items f s) := by
  unfold onPmbus
  split_ifs <;> exact goes_next _

theorem remoteTsigApplied_goes (id : Nat) (s : State) : Goes (execRemoteTsigApplied id s) := by
  unfold execRemoteTsigApplied
  split <;> exact goes_next _

theorem parkTakesEffect_goes (unit : ParkUnit) (s : State) : Goes (execParkTakesEffect unit s) := by
  unfold execParkTakesEffect
  split
  · exact goes_next _
  · split <;> exact goes_next _

theorem unitParked_goes (unit : ParkUnit) (drained : Bool) (s : State) : Goes (execUnitParked unit drained s) := by
  unfold execUnitParked
  split
  · exact goes_next _
  · split <;> exact goes_next _

theorem loadComplete_goes (region : Nat) (s : State) : Goes (execLoadComplete region s) := by
  unfold execLoadComplete
  split
  · exact goes_next _
  · split_ifs <;> exact goes_next _

theorem regionTransitionDone_goes (region : Nat) (rows : Option (List (Nat × Nat))) (zeroed : List Nat) (s : State) :
    Goes (execRegionTransitionDone region rows zeroed s) := by
  unfold execRegionTransitionDone
  split
  · exact goes_next _
  · split
    · split_ifs <;> exact goes_next _
    all_goals exact goes_next _

theorem solderTStart_goes (seq : Nat) (s : State) : Goes (execSolderTStart seq s) := by
  unfold execSolderTStart
  split
  · exact goes_next _
  · split <;> exact goes_next _

theorem barrierTimeout_goes (seq now : Nat) (s : State) : Goes (execBarrierTimeout seq now s) := by
  unfold execBarrierTimeout
  dsimp only
  split
  · exact goes_next _
  · split
    · split_ifs <;> exact goes_next _
    all_goals exact goes_next _

theorem pacePause_goes (region : Nat) (s : State) : Goes (execPacePause region s) := by
  unfold execPacePause
  split <;> exact goes_next _

theorem paceResume_goes (region : Nat) (s : State) : Goes (execPaceResume region s) := by
  unfold execPaceResume
  split
  · exact goes_next _
  · split_ifs <;> exact goes_next _

theorem partnerLost_goes (m : Nat) (s : State) : Goes (execPartnerLost m s) := by
  unfold execPartnerLost
  split <;> exact goes_next _

theorem discoveryClose_goes (now : Nat) (s : State) : Goes (execDiscoveryClose now s) := by
  unfold execDiscoveryClose
  dsimp only
  split
  · exact goes_next _
  · split_ifs <;> exact goes_next _

theorem invarAlignment_goes (count delay : Nat) (s : State) : Goes (execInvarAlignment count delay s) := by
  unfold execInvarAlignment
  split_ifs <;> exact goes_next _

theorem resetComplete_goes (s : State) : Goes (execResetComplete s) := by
  unfold execResetComplete
  split <;> exact goes_next _

theorem powerOn_goes (k : Bool) (s : State) : Goes (execPowerOn k s) := by
  unfold execPowerOn
  split_ifs <;> exact goes_next _

theorem pwrEn_goes (level : Bool) (s : State) : Goes (execPwrEn level s) := by
  unfold execPwrEn
  dsimp only
  split_ifs <;> exact goes_next _

theorem rstIn_goes (micros : Nat) (s : State) : Goes (execRstIn micros s) := by
  unfold execRstIn
  split_ifs <;> exact goes_next _

theorem securityViolation_goes (cause : Nat) (s : State) : Goes (execSecurityViolation cause s) := by
  unfold execSecurityViolation
  split_ifs <;> exact goes_next _

theorem powerTransitionComplete_goes (cores : List Nat) (links : List (Nat × Nat)) (s : State) :
    Goes (execPowerTransitionComplete cores links s) := by
  unfold execPowerTransitionComplete
  split
  · exact goes_next _
  · dsimp only
    split
    · split_ifs <;> exact goes_next _
    all_goals exact goes_next _

theorem thermalAlarm_goes (place : TempPlace) (temp : Int) (s : State) : Goes (execThermalAlarm place temp s) := by
  unfold execThermalAlarm
  dsimp only
  split_ifs <;> exact goes_next _

theorem thermalHalt_goes (place : TempPlace) (temp : Int) (micros : Nat) (s : State) :
    Goes (execThermalHalt place temp micros s) := by
  unfold execThermalHalt
  dsimp only
  split_ifs <;> exact goes_next _

theorem thermTrip_goes (temp : Int) (s : State) : Goes (execThermTrip temp s) := by
  unfold execThermTrip
  dsimp only
  split_ifs <;> exact goes_next _

theorem inputPowerHalt_goes (v i m : Nat) (s : State) : Goes (execInputPowerHalt v i m s) := by
  unfold execInputPowerHalt
  dsimp only
  split_ifs <;> exact goes_next _

theorem inputBelowMainRailLimit_goes (v : Nat) (s : State) : Goes (execInputBelowMainRailLimit v s) := by
  unfold execInputBelowMainRailLimit
  dsimp only
  split_ifs <;> exact goes_next _

theorem protectiveHaltConditionCleared_goes (thermal : Bool) (s : State) :
    Goes (execProtectiveHaltConditionCleared thermal s) := by
  cases thermal <;> exact goes_next _

theorem refclkLoss_goes (micros : Nat) (s : State) : Goes (execRefclkLoss micros s) := by
  unfold execRefclkLoss
  dsimp only
  split_ifs <;> exact goes_next _

theorem syncIn_goes (s : State) : Goes (execSyncIn s) := by
  unfold execSyncIn
  dsimp only
  split_ifs <;> exact goes_next _

theorem capGovernor_goes (now watts : Nat) (s : State) : Goes (execCapGovernor now watts s) := by
  unfold execCapGovernor
  dsimp only
  split_ifs <;> exact goes_next _

theorem settingsCommitComplete_goes (result : CommitEnd) (s : State) : Goes (execSettingsCommitComplete result s) := by
  unfold execSettingsCommitComplete
  split
  · exact goes_next _
  · cases result <;> exact goes_next _

theorem firmwareFallback_goes (now : Nat) (s : State) : Goes (execFirmwareFallback now s) := by
  unfold execFirmwareFallback
  dsimp only
  split
  · split_ifs <;> exact goes_next _
  · exact goes_next _

theorem managementRestartComplete_goes (s : State) : Goes (execManagementRestartComplete s) := by
  unfold execManagementRestartComplete
  split
  · exact goes_next _
  · dsimp only
    split_ifs <;> exact goes_next _

theorem sessionIdleTimeout_goes (session now : Nat) (s : State) : Goes (execSessionIdleTimeout session now s) := by
  unfold execSessionIdleTimeout
  dsimp only
  split
  · split_ifs <;> exact goes_next _
  · exact goes_next _

theorem eventResend_goes (session seq now : Nat) (s : State) : Goes (execEventResend session seq now s) := by
  unfold execEventResend
  dsimp only
  split
  · split_ifs <;> exact goes_next _
  · exact goes_next _

theorem eventAcknowledge_goes (h : Hdr) (seq : Nat) (s : State) : Goes (execEventAcknowledge h seq s) := by
  unfold execEventAcknowledge
  dsimp only
  split
  · exact goes_next _
  · split <;> exact goes_next _

theorem cmtAckTimer_goes (session stream : Nat) (s : State) : Goes (execCmtAckTimer session stream s) := by
  unfold execCmtAckTimer
  split <;> exact goes_next _

theorem cmtRetransmitTimer_goes (session stream : Nat) (s : State) : Goes (execCmtRetransmitTimer session stream s) := by
  unfold execCmtRetransmitTimer
  split
  · exact goes_next _
  · dsimp only
    split_ifs <;> exact goes_next _

/-! ### The commands -/

theorem parityWalk_goes (now : Nat) (hits : List ParityHit) (s : State) : Goes (execParityWalk now hits s) := ⟨_, rfl⟩

theorem alnicoMeasureUpdate_goes (now : Nat) (temps : List (Nat × Int)) (counts : MeasureCounts) (s : State) :
    Goes (execAlnicoMeasureUpdate now temps counts s) := ⟨_, rfl⟩

theorem managementFlit_completes (port : Nat) (hdr : FlitHdr) (msg : MgmtMsg) (s : State) :
    Completes (Instr.wf (.managementFlit port hdr msg)) (execManagementFlit port hdr msg s) :=
  onPort_completes (fun h => by simp [Instr.wf, kportOk] at h; omega) _ _

theorem wellRefreshSlot_completes (die : Nat) (corrected : List (Nat × Nat)) (s : State) :
    Completes (Instr.wf (.wellRefreshSlot die corrected)) (execWellRefreshSlot die corrected s) :=
  completes_bounded (fun h => by simpa [Instr.wf, dieOk] using h) ⟨_, rfl⟩

/-- Every command ends in a next state or is refused as not well formed. -/
theorem exec_completes (i : Instr) (s : State) : Completes i.wf (exec i s) := by
  cases i with
  | nop | halt | step | cset | cadd | ccopy | cmp | br | setvl | waitc | tsigLocal | tsigRemote | twait | twaitany |
    ttake | dadv | loop | qput | qwait | qwaitany | radv | mcast | chain | mwload | mswap | mpass | mpassw | mpassc |
    mshape | mzero | vadd | vsub | vmul | vfma | vmax | vmin | vabs | vcmp | vsel | vcvt | vexp2 | vlog2 | vrsq | vrcp
    | vtanh | vred | vscan | vacc | vperm | vgather | vrng =>
    exact .inl (presentTo_goes _ _ _)
  | chainForward | unitEntersArray | arrayHold | announceTimeout | transferStart |
    startConditionServed | bytesLanded | transferComplete | tagIndexFree | announceApplied | backgroundPathAccess |
    combinerWrite | combinerRead | combinerEntryTimeout | accumulatorCombinerAccess | faultCountRead =>
    unfold exec
    exact .inl (onCore_goes _ _ _)
  | regionEntersIdle | requesterFence | tallySignal | solderArrival | solderCommit | solderConfirm |
    managementWatchdog | heldCommandExpiry | sessionOpen | sessionElevate | sessionClose | keepalive | eventSubscribe
    | discover | inventory | partners | load | start | resume | stop | solderStep | replayStop | define | undefine |
    park | repair | parkUnit | regionStatus | streamOpen | streamClose | stackAlloc | stackFree | regRead | regWrite |
    registerWrite | rcFieldRead | indDataRead | indDataWrite | powerState | powerCap | pace | reset | faultRead |
    faultPolicy | ledgerRead | runRecord | choiceLog | backupReg | settingsRead | settingsStage | settingsCommit |
    firmwareUpdate | securityStatus | lifecycle | debugToken | debugExpiry | attest | debugAccess | domainMap |
    rediscover | domainReset | write | read | writeAnnounce | fence | ack | nak | lldpTtlExpiry =>
    exact .inl ⟨_, rfl⟩
  | heartbeat | linkDown | linkRetryLimit | portRetrain | failedFlit | nakReceived | creditReturn | writeFlit |
    readRequest | readResponse | bareTsigFlit =>
    exact onPort_completes (fun h => by simp [Instr.wf, kportOk] at h; omega) _ _
  | ethLinkUp =>
    unfold exec
    exact onEth_completes (fun h => by simp [Instr.wf, eportOk] at h; omega) _ _
  | ethPortDown | arp | neighbourDiscovery | icmpEcho | pfcFrame | pfcThreshold | lldp | lldpNeighbour =>
    unfold exec
    exact onUpEth_completes (fun h => by simp [Instr.wf, eportOk] at h; omega) _ _
  | readVin | readIin | readPin | readTemperature1 | readTemperature2 | statusWord | clearFaults | mfrSerial =>
    unfold exec
    exact .inl (onPmbus_goes _ _ _ _)
  | holdLimit | waitTimeout =>
    unfold exec
    exact .inl (limitOn_goes _ _ _)
  | remoteTsigApplied => exact .inl (remoteTsigApplied_goes _ _)
  | prepCoreAccess => exact prepCoreAccess_completes _ _ _
  | wellRefreshSlot => exact wellRefreshSlot_completes _ _ _
  | stackRefresh => exact stackRefresh_completes _ _ _ _
  | parkTakesEffect => exact .inl (parkTakesEffect_goes _ _)
  | unitParked => exact .inl (unitParked_goes _ _ _)
  | meshLinkDown => exact meshLinkDown_completes _ _ _ _
  | partnerLost => exact .inl (partnerLost_goes _ _)
  | discoveryAndIdentity => exact discoveryAndIdentity_completes _ _
  | discoveryClose => exact .inl (discoveryClose_goes _ _)
  | invarAlignment => exact .inl (invarAlignment_goes _ _ _)
  | managementFlit => exact managementFlit_completes _ _ _ _
  | solderTStart => exact .inl (solderTStart_goes _ _)
  | barrierTimeout => exact .inl (barrierTimeout_goes _ _ _)
  | pacePause => exact .inl (pacePause_goes _ _)
  | paceResume => exact .inl (paceResume_goes _ _)
  | capGovernor => exact .inl (capGovernor_goes _ _ _)
  | constantanStep => exact constantanStep_completes _ _ _
  | alnicoMeasureUpdate => exact .inl (alnicoMeasureUpdate_goes _ _ _ _)
  | thermalAlarm => exact .inl (thermalAlarm_goes _ _ _)
  | thermalHalt => exact .inl (thermalHalt_goes _ _ _ _)
  | thermTrip => exact .inl (thermTrip_goes _ _)
  | inputPowerHalt => exact .inl (inputPowerHalt_goes _ _ _ _)
  | inputBelowMainRailLimit => exact .inl (inputBelowMainRailLimit_goes _ _)
  | islandLockLost => exact islandLockLost_completes _ _
  | refclkLoss => exact .inl (refclkLoss_goes _ _)
  | syncIn => exact .inl (syncIn_goes _)
  | powerOn => exact .inl (powerOn_goes _ _)
  | pwrEn => exact .inl (pwrEn_goes _ _)
  | rstIn => exact .inl (rstIn_goes _ _)
  | securityViolation => exact .inl (securityViolation_goes _ _)
  | resetComplete => exact .inl (resetComplete_goes _)
  | sessionIdleTimeout => exact .inl (sessionIdleTimeout_goes _ _ _)
  | eventResend => exact .inl (eventResend_goes _ _ _ _)
  | eventAcknowledge => exact .inl (eventAcknowledge_goes _ _ _)
  | loadComplete => exact .inl (loadComplete_goes _ _)
  | regionTransitionDone => exact .inl (regionTransitionDone_goes _ _ _ _)
  | firmwareFallback => exact .inl (firmwareFallback_goes _ _)
  | cmtAckTimer => exact .inl (cmtAckTimer_goes _ _ _)
  | cmtRetransmitTimer => exact .inl (cmtRetransmitTimer_goes _ _ _)
  | powerTransitionComplete => exact .inl (powerTransitionComplete_goes _ _ _)
  | settingsCommitComplete => exact .inl (settingsCommitComplete_goes _ _)
  | managementRestartComplete => exact .inl (managementRestartComplete_goes _)
  | refclkReturn => exact .inl ⟨_, rfl⟩
  | protectiveHaltConditionCleared => exact .inl (protectiveHaltConditionCleared_goes _ _)
  | parityWalk => exact .inl (parityWalk_goes _ _ _)

/-- Settles O50: a refusal names a place that no well-formed command has. -/
theorem commandsCompleteOnThePart : Obligations.CommandsCompleteOnThePart := by
  intro i s
  refine ⟨fun hwf => ?_, exec_completes i s⟩
  rcases exec_completes i s with h | ⟨n, -, hn⟩
  · exact h
  · exact absurd (hwf.symm.trans hn) Bool.noConfusion

end Sys2Proof.Machine
end

section
/-! PROOFS. Units that enter the array, and the array that holds (spec chapter 05). -/

namespace Sys2Proof.Machine

theorem nextPass_mem {c : CoreSt} {j : PassJob} (h : c.nextPass = some j) : j ∈ c.passes := List.mem_of_find?_eq_some h

/-- A unit writes one word for each column of its shape. -/
theorem unitValues_length (l : Nat) (j : PassJob) (t : Tile) (us : List (Nat × Nat)) (sub : Nat) :
    (unitValues l j t us sub).length = j.shape.w := by
  simp only [unitValues]
  split <;> rw [List.length_map, List.length_range]

/-- What the entry of a unit leaves of the passes. -/
theorem enterUnit_passes (c : CoreSt) (cycle : Nat) (j : PassJob) (us : List (Nat × Nat)) :
    (enterUnit c cycle j us).passes = c.passes.map fun x =>
      if x.id == j.id then { x with next := j.next + 1, lastWrite := c.dueNow cycle + j.shape.lat
                                    lagMax := max x.lagMax (c.dueNow cycle - (j.due + j.next)) } else x := rfl

/-- No unit waits on its record where every pass is of shape SQ64. -/
theorem waitingUnit_sq64 {c : CoreSt} (h : ∀ y ∈ c.passes, y.shape = .sq64) (cycle : Nat) : c.waitingUnit cycle = none := by
  unfold CoreSt.waitingUnit
  cases hn : c.nextPass with
  | none => rfl
  | some j => simp [h j (nextPass_mem hn)]

theorem enterRow_enterUnit (c : CoreSt) (cycle : Nat) (claims : List Claim) (j : PassJob) :
    ∃ us, (enterRow c cycle claims j).1 = enterUnit c cycle j us := ⟨_, rfl⟩

/-- The M unit in a cycle in which a row of an SQ64 pass is due and no shadow row is. -/
theorem mCycle_row {c : CoreSt} {cycle : Nat} {j : PassJob} (claims : List Claim) (hn : c.nextPass = some j)
    (hsq : ∀ y ∈ c.passes, y.shape = .sq64) (hdue : j.due + j.next = c.dueNow cycle) (hl : c.loads = []) :
    (mCycle c cycle claims).1.passes = (enterRow c cycle claims j).1.passes ∧
      (mCycle c cycle claims).1.accWrites =
        (enterRow c cycle claims j).1.accWrites.filter fun w => w.due != c.dueNow cycle := by
  have hj : j.shape = .sq64 := hsq j (nextPass_mem hn)
  have hshape : ∀ y ∈ (enterRow c cycle claims j).1.passes, y.shape = .sq64 := by
    obtain ⟨us, hu⟩ := enterRow_enterUnit c cycle claims j
    intro y hy
    rw [hu, enterUnit_passes] at hy
    obtain ⟨z, hz, rfl⟩ := List.mem_map.mp hy
    split
    · exact hsq z hz
    · exact hsq z hz
  have hwait := waitingUnit_sq64 hshape cycle
  unfold mCycle
  simp only [hl, List.find?_nil, hn, hj, hdue, beq_self_eq_true, Bool.and_self, if_true, hwait, Option.isSome_some]
  exact ⟨trivial, trivial⟩

/-- A WD unit that is late by 8 cycles without its record waits and holds the array. -/
theorem holdsArray_late {c : CoreSt} {cycle : Nat} {j : PassJob} (hn : c.nextPass = some j) (hsh : j.shape ≠ .sq64)
    (hlate : j.due + j.next + 8 ≤ c.dueNow cycle) (hrec : (c.recordAt j cycle).2 = none) : c.holdsArray cycle = true := by
  have hw : c.waitingUnit cycle = some j := by
    have hdue : j.due + j.next ≤ c.dueNow cycle := by omega
    simp only [CoreSt.waitingUnit, hn, bne_iff_ne.mpr hsh, hdue, decide_true, Bool.and_self, if_true]
  have h8 : 8 ≤ c.dueNow cycle - (j.due + j.next) := by omega
  simp only [CoreSt.holdsArray, hw, hrec, h8, decide_true, Option.isNone_none, Bool.and_self]

/-- No unit is left to wait for where one is already 8 cycles late. -/
theorem lagWait_late {c : CoreSt} {cycle : Nat} {j : PassJob} (hn : c.nextPass = some j) (hsh : j.shape ≠ .sq64)
    (hlate : j.due + j.next + 8 ≤ c.dueNow cycle) : lagWait c cycle = some 0 := by
  simp only [lagWait, hn, beq_eq_false_iff_ne.mpr hsh, Bool.false_eq_true, if_false, Nat.sub_eq_zero_of_le hlate]

/-- Under another policy than TRAP a hold raises no fault. -/
theorem slipBudget_untrapped {s : State} {l : Nat} {x : Region} (hx : s.regionOf l = some x) (ht : x.trap = false) :
    s.slipBudget l = s := by
  unfold State.slipBudget
  rw [hx]
  split
  · rfl
  · split
    next y _ hy =>
      rw [← Option.some.inj hy, ht]
      simp
    · rfl

/-- Settles O27: the clock stands at the due cycle after the wait; the row of an SQ64 pass is then entered by `mCycle_row`,
and a unit of another shape that is 8 cycles late holds by `holdsArray_late`. -/
theorem unitsEnterOrTheArrayHolds : Obligations.UnitsEnterOrTheArrayHolds := by
  intro s l c x j h hx hn now
  refine ⟨?_, fun hsq hdue hl => ?_, fun hsh hlate hrec htrap => ?_⟩
  · show execUnitEntersArray l s = _
    simp only [execUnitEntersArray, onCore, h.1, Option.bind_some, unitWait, hn, Option.map_some]
    rfl
  · intro m
    obtain ⟨hp, ha⟩ := mCycle_row c.claims hn hsq hdue hl
    obtain ⟨us, hu⟩ := enterRow_enterUnit c s.time.cycle c.claims j
    have hj : j.shape = .sq64 := hsq j (nextPass_mem hn)
    have hlat : j.shape.lat = 128 := by rw [hj]; rfl
    have hlag : c.dueNow s.time.cycle - (j.due + j.next) = 0 := Nat.sub_eq_zero_of_le hdue.ge
    refine ⟨_, (unitValues_length c.lcore j (c.tileAt (j.due + j.next)) us (j.next / j.rows)).trans (by rw [hj]; rfl),
      ?_, ?_⟩
    · rw [show m.passes = _ from hp, hu, enterUnit_passes, hlat, hlag]
      refine List.map_congr_left fun y _ => ?_
      simp only [beq_iff_eq, Nat.max_zero]
      rfl
    · rw [show m.accWrites = _ from ha, hu]
      refine ⟨_, List.mem_filter.mpr ⟨List.mem_append_right _ List.mem_cons_self, ?_⟩, ?_, rfl, ?_⟩
      · rw [hlat]
        simp only [bne_iff_ne, ne_eq]
        omega
      · show c.dueNow s.time.cycle + j.shape.lat = _
        rw [hlat]
        rfl
      · show (if (j.kind == .complex && decide (2 * (j.subs / 4) ≤ j.next / j.rows)) = true then j.areaIm else j.area) +
          j.shape.w * (j.next % j.rows) = _
        simp only [Bool.and_eq_true, beq_iff_eq, decide_eq_true_eq, hj, Shape.w, Nat.mul_comm 2]
  · have hhold := holdsArray_late hn hsh hlate hrec
    have hset := h.updCore_congr (f := fun d => { d with arrayHold := d.holdsArray s.time.cycle })
      (g := fun d => { d with arrayHold := true }) (congrArg (fun b => ({ c with arrayHold := b } : CoreSt)) hhold)
    have hreg : (s.updCore l fun d => { d with arrayHold := true }).regionOf l = some x := by
      rw [State.regionOf, (h.updCore (f := fun d => { d with arrayHold := true }) fun _ => rfl).1]
      exact hx
    show execArrayHold l s = _
    simp only [execArrayHold, onCore, h.1, Option.bind_some, lagWait_late hn hsh hlate, State.advance, hset,
      slipBudget_untrapped hreg htrap]

end Sys2Proof.Machine
end

section
/-! PROOFS. The events of a transfer in its queue (spec chapters 08 to 10): start, condition, completion, freeing. -/

namespace Sys2Proof.Machine

/-! ### One queue of a core, one transfer of a queue -/

theorem modify_congr {α : Type} {l : List α} {k : Nat} {f g : α → α} (h : ∀ x, l[k]? = some x → f x = g x) :
    l.modify k f = l.modify k g := by
  refine List.ext_getElem? fun i => ?_
  rw [List.getElem?_modify, List.getElem?_modify]
  by_cases hi : k = i
  · subst hi
    cases hx : l[k]? with
    | none => rfl
    | some x => simp [h x hx]
  · simp [hi]

/-- Two changes that agree on the queue of a number agree. -/
theorem updQueue_congr {c : CoreSt} {q : Nat} {f g : Queue → Queue} (h : f (c.queue q) = g (c.queue q)) :
    c.updQueue q f = c.updQueue q g := by
  refine congrArg (fun z => { c with queues := z }) (modify_congr fun x hx => ?_)
  rwa [CoreSt.queue, List.getD_eq_getElem?_getD, hx] at h

/-- A core whose queue holds other transfers. -/
def CoreSt.withLive (c : CoreSt) (q : Nat) (l : List Xfer) : CoreSt := c.updQueue q fun z => { z with live := l }

/-- The one transfer that a key picks is changed. -/
theorem map_one {older rest : List Xfer} {y : Xfer} {p : Xfer → Bool} (hy : p y = true)
    (ho : ∀ z ∈ older ++ rest, p z = false) (f : Xfer → Xfer) :
    (older ++ y :: rest).map (fun x => if p x then f x else x) = older ++ f y :: rest := by
  have hid : ∀ l : List Xfer, (∀ z ∈ l, p z = false) → l.map (fun x => if p x then f x else x) = l := fun l h =>
    (List.map_congr_left fun z hz => by rw [h z hz]; rfl).trans (List.map_id l)
  rw [List.map_append, List.map_cons, hy, hid older fun z hz => ho z (List.mem_append_left _ hz),
    hid rest fun z hz => ho z (List.mem_append_right _ hz)]
  rfl

/-- A transfer that its index and its generation name alone is changed. -/
theorem updXfer_one {c : CoreSt} {q : Nat} {y : Xfer} {older rest : List Xfer}
    (hl : (c.queue q).live = older ++ y :: rest) (hu : ∀ z ∈ older ++ rest, ¬ (z.idx = y.idx ∧ z.gen = y.gen))
    (f : Xfer → Xfer) : c.updXfer q y.idx y.gen f = c.withLive q (older ++ f y :: rest) := by
  refine updQueue_congr (congrArg (fun z => { c.queue q with live := z }) ?_)
  rw [hl]
  refine map_one (p := fun x => x.idx == y.idx && x.gen == y.gen) (by simp) (fun z hz => ?_) f
  simpa using hu z hz

theorem mem_one {older rest : List Xfer} {y z : Xfer} (h : z ∈ older ++ y :: rest) : z = y ∨ z ∈ older ++ rest := by
  simp only [List.mem_append, List.mem_cons] at h ⊢
  tauto

/-- The queues of a core do not enter its place in the module. -/
theorem place_updCore (s : State) (l : Nat) {f : CoreSt → CoreSt} (hf : ∀ d, (f d).lcore = d.lcore)
    (hp : ∀ d, (f d).phys = d.phys) (g : GA) : (s.updCore l f).place g = s.place g := by
  have hcore : ∀ m, (s.updCore l f).core? m = (s.core? m).map fun d => if d.lcore == l then f d else d :=
    core?_updCore_any s l hf
  have hnear : (s.updCore l f).nearPlace g = s.nearPlace g := by
    unfold State.nearPlace
    rw [hcore]
    cases s.core? (gaCore g) with
    | none => rfl
    | some d =>
      have : (if d.lcore == l then f d else d).phys = d.phys := by rw [apply_ite CoreSt.phys, hp, ite_self]
      simp only [Option.map_some, this]
      rfl
  unfold State.place
  rw [hnear, hcore]
  cases s.core? (gaCore g) <;> rfl

theorem unbackedAt_updCore (s : State) (l : Nat) {f : CoreSt → CoreSt} (hf : ∀ d, (f d).lcore = d.lcore)
    (hp : ∀ d, (f d).phys = d.phys) (as : List GA) : (s.updCore l f).unbackedAt as = s.unbackedAt as :=
  congrArg (List.find? · as) (funext fun g => by rw [place_updCore s l hf hp])

/-! ### Starting -/

/-- The next transfer of a queue whose earlier ones have started. -/
theorem next?_first {z : Queue} {y : Xfer} {older rest : List Xfer} (hl : z.live = older ++ y :: rest)
    (ho : ∀ x ∈ older, x.started.isSome = true) (hs : y.started = none) (hd : y.discarded = false) (hf : y.freed = false) :
    z.next? = some y := by
  have hnone : older.find? (fun x => x.started.isNone && !x.discarded && !x.freed) = none := by
    refine List.find?_eq_none.mpr fun x hx => ?_
    rw [Option.isNone_eq_false_iff.mpr (ho x hx)]
    simp
  rw [Queue.next?, hl, List.find?_append, hnone, List.find?_cons, hs, hd, hf]
  rfl

/-- What stands behind a transfer in its queue. -/
theorem dropWhile_one {y : Xfer} {older rest : List Xfer} (hu : ∀ z ∈ older ++ rest, ¬ (z.idx = y.idx ∧ z.gen = y.gen)) :
    (((older ++ y :: rest).dropWhile fun z => !(z.idx == y.idx && z.gen == y.gen)).drop 1) = rest := by
  have hdrop : older.dropWhile (fun z => !(z.idx == y.idx && z.gen == y.gen)) = [] := by
    refine List.dropWhile_eq_nil_iff.mpr fun z hz => ?_
    simpa [imp_iff_not_or] using hu z (List.mem_append_left _ hz)
  rw [List.dropWhile_append, hdrop, List.isEmpty_nil, if_pos rfl, List.dropWhile_cons]
  simp

/-- A transfer between memories of this module that the router backs starts with no fault and no request. -/
theorem startOne_own {s : State} {l : Nat} {c : CoreSt} (h : s.core? l = some c) {y : Xfer} (hs : y.attr.stream = false)
    (hm : gaModule y.src.base = s.kol.module) (hsrc : s.unbackedAt (chunkAddrs y.src y.src.base 0 y.bytes) = none)
    (hdst : ∀ d ∈ y.deliveries, s.unbackedAt (chunkAddrs y.dst (y.dstBase s.kol.module d.member) 0 y.bytes) = none) :
    s.startOne l y = s.updCore l fun d => d.updXfer y.q y.idx y.gen (Xfer.begun d s.time.cycle) := by
  unfold State.startOne
  rw [h]
  dsimp only
  generalize ht : s.updCore l _ = t
  have hF : t = s.updCore l fun d => d.updXfer y.q y.idx y.gen (Xfer.begun d s.time.cycle) := by
    rw [← ht, hs]
    rfl
  clear ht
  have hu : ∀ as, t.unbackedAt as = s.unbackedAt as := fun as => by
    rw [hF]
    refine unbackedAt_updCore s l ?_ ?_ as
    exacts [fun _ => rfl, fun _ => rfl]
  have hk : t.kol = s.kol := by rw [hF]; rfl
  have hfind : (y.deliveries.findSome? fun d =>
      s.unbackedAt (chunkAddrs y.dst (y.dstBase s.kol.module d.member) 0 y.bytes)) = none :=
    List.findSome?_eq_none_iff.mpr hdst
  simp only [hu, hk, hs, hsrc, hfind, hm, bne_self_eq_false, Bool.false_and, Bool.false_eq_true, if_false]
  exact hF

/-- The first transfer of a queue that has not started starts alone. -/
theorem startQueue_one {s : State} {l q : Nat} {c : CoreSt} {y : Xfer} {older rest : List Xfer} (h : Alone s l c)
    (hl : (c.queue q).live = older ++ y :: rest) (hu : ∀ z ∈ older ++ rest, ¬ (z.idx = y.idx ∧ z.gen = y.gen))
    (ho : ∀ x ∈ older, x.started.isSome = true) (hb : s.startsBarred l = false)
    (hnow : ∀ z ∈ older ++ rest, z.started ≠ some s.time.cycle) (hs : y.started = none) (hd : y.discarded = false)
    (hf : y.freed = false) (hcan : canStart (s.ctx c) c (c.queue q) y = true)
    (hg : s.gatherRun (c.queue q).open_ y y rest 1 y.bytes s.time.cycle = []) : s.startQueue l q = s.startOne l y := by
  have hcy : (s.ctx c).cycle = s.time.cycle := rfl
  have hany : ((c.queue q).live.any fun x => x.started == some s.time.cycle) = false := by
    refine List.any_eq_false.mpr fun z hz => ?_
    rw [hl] at hz
    rcases mem_one hz with rfl | hz'
    · simp [hs]
    · simpa using hnow z hz'
  unfold State.startQueue
  rw [h.1]
  simp only [hcy, hb, hany, Bool.or_self, Bool.false_eq_true, if_false, next?_first hl ho hs hd hf, hcan, Bool.not_true]
  rw [hl, dropWhile_one hu, hg]
  rfl

/-! ### Start conditions, completion, freeing -/

/-- The only start condition of a core is served. -/
theorem serveOne_only {c : CoreSt} {q : Nat} {k : Cond} {y : Xfer} {older rest : List Xfer} (hk : c.conds = [k]) (hkq : k.q = q)
    (hl : (c.queue q).live = older ++ y :: rest) (hi : k.idx = y.idx) (hf : y.freed = false)
    (hu : ∀ z ∈ older ++ rest, z.idx ≠ y.idx) (hn : k.count ≤ c.avail k.tally) :
    c.serveOne q y.idx = { (c.withLive q (older ++ { y with condServed := true } :: rest)) with
      conds := [], taken := c.taken.modify k.tally fun v => v + k.count } := by
  subst hkq
  have hq : (c.takeTally k.tally k.count).updQueue k.q (fun z => { z with live := z.live.map fun t =>
      if t.idx == y.idx && !t.freed then { t with condServed := true } else t }) =
      (c.takeTally k.tally k.count).withLive k.q (older ++ { y with condServed := true } :: rest) := by
    refine updQueue_congr (congrArg (fun z => ({ (c.queue k.q) with live := z } : Queue)) ?_)
    show (c.queue k.q).live.map _ = _
    rw [hl]
    refine map_one (p := fun t => t.idx == y.idx && !t.freed) (by simp [hf]) (fun z hz => ?_) _
    simp [hu z hz]
  have hk' : (c.takeTally k.tally k.count).conds = [k] := hk
  unfold CoreSt.serveOne
  simp only [hk, hk', List.find?_cons, hi, beq_self_eq_true, Bool.and_self, hn, decide_true, if_true, hq, bne_self_eq_false,
    List.filter_cons, Bool.false_eq_true, if_false, List.filter_nil]
  rfl

/-- The first open transfer of a queue whose earlier ones are complete. -/
theorem firstOpen_first {y : Xfer} {older rest : List Xfer} (ho : ∀ z ∈ older, z.complete = true) (hy : y.complete = false)
    (done : List Xfer) : firstOpen (older ++ y :: rest) done = some (done ++ older, y) := by
  induction older generalizing done with
  | nil => simp [firstOpen, hy]
  | cons x r ih =>
    rw [List.cons_append, firstOpen, if_pos (ho x List.mem_cons_self), ih fun z hz => ho z (List.mem_cons_of_mem _ hz)]
    simp

/-- A transfer whose bytes have all landed completes behind the ones before it. -/
theorem completeOne_first {c : CoreSt} {q : Nat} {y : Xfer} {older rest : List Xfer}
    (hl : (c.queue q).live = older ++ y :: rest) (hu : ∀ z ∈ older ++ rest, ¬ (z.idx = y.idx ∧ z.gen = y.gen))
    (ho : ∀ z ∈ older, z.complete = true) (hs : y.started.isSome = true) (hy : y.complete = false)
    (hd : y.discarded = false) (hall : ∀ d ∈ y.deliveries, y.bytes ≤ d.count) (hr : y.dst.d.ring = false) :
    c.completeOne q = (c.withLive q (older ++ { y with complete := true } :: rest)).updQueue q Queue.free := by
  have hland : y.deliveries.all (fun d => y.allLanded d) = true :=
    List.all_eq_true.mpr fun d hd => decide_eq_true (hall d hd)
  have hold : older.all (fun z => z.complete || z.freed) = true :=
    List.all_eq_true.mpr fun z hz => by rw [ho z hz, Bool.true_or]
  have hcan : canComplete older y = true := by simp [canComplete, hs, hy, hd, hland, hold]
  unfold CoreSt.completeOne
  rw [hl, firstOpen_first ho hy]
  simp only [List.nil_append, hcan, Bool.not_true, Bool.false_eq_true, if_false, hr, Bool.false_and, updXfer_one hl hu]

/-- A complete transfer without a tag to take and without an announce leaves its queue. -/
theorem free_done {z : Queue} {y : Xfer} (hl : z.live = [y]) (hy : y.complete = true)
    (ht : y.tagForm = 0 ∨ y.taken = true) (ha : y.attr.annEn = false) : z.free = { z with live := [] } := by
  have hfree : freeIndices [y] = [{ y with freed := true }] := by
    unfold freeIndices
    cases hf : y.freed with
    | true =>
      have : ({ y with freed := true } : Xfer) = y := by rw [← hf]
      simp [freeIndices, this]
    | false =>
      have : (y.complete && (y.tagForm == 0 || y.taken)) = true := by
        rcases ht with ht | ht <;> simp [hy, ht]
      simp [freeIndices, this]
  rw [Queue.free, hl, hfree]
  simp [dropDone, ha]

/-- Settles O28: each event by its lemma: `startQueue_one` with `startOne_own`, `serveOne_only`, `completeOne_first`,
`free_done`. -/
theorem queueEventsMoveATransfer : Obligations.QueueEventsMoveATransfer := by
  intro s l q c y older rest h hl hu hq _ put chains
  subst hq
  refine ⟨fun ho hnow hb hs hd hf hcan hg hst hm hsrc hdst => ?_, fun k hk hkq hki hf hu' hn => ?_,
    fun ho hs hy hd hall hr => ?_, fun ho hr hy ht ha => ?_⟩
  · show execTransferStart l y.q s = _
    rw [execTransferStart, onCore, h.1]
    refine congrArg Host.Outcome.next ?_
    rw [startQueue_one h hl hu ho hb hnow hs hd hf hcan hg, startOne_own h.1 hst hm hsrc hdst]
    refine h.updCore_congr ?_
    rw [updXfer_one hl hu, Xfer.begun, hst]
    rfl
  · show execStartConditionServed l y.q y.idx s = _
    rw [execStartConditionServed, onCore, h.1]
    refine congrArg Host.Outcome.next (h.updCore_congr ?_)
    rw [serveOne_only hk hkq hl hki hf hu' hn]
    rfl
  · show execTransferComplete l y.q s = _
    rw [execTransferComplete, onCore, h.1]
    refine congrArg Host.Outcome.next (h.updCore_congr ?_)
    rw [completeOne_first hl hu ho hs hy hd hall hr]
    rfl
  · show execTagIndexFree l y.q s = _
    rw [execTagIndexFree, onCore, h.1]
    refine congrArg Host.Outcome.next (h.updCore_congr (updQueue_congr ?_))
    rw [free_done (by rw [hl, ho, hr]; rfl) hy ht ha]

end Sys2Proof.Machine
end

section
/-! PROOFS. The bytes of a transfer: chunks that are read and land, chains, and the banks of the background path (spec
chapters 04, 08 and 09). -/

namespace Sys2Proof.Machine

/-! ### Transfers of a core, looked up -/

/-- A transfer that is found by its index and its generation has them. -/
theorem xferOf_names {s : State} {l q idx gen : Nat} {y : Xfer} (h : s.xferOf l q idx gen = some y) :
    y.idx = idx ∧ y.gen = gen := by
  obtain ⟨c, -, hc⟩ := Option.bind_eq_some_iff.mp h
  simpa using List.find?_some hc

/-- A change that keeps what a transfer is found by. -/
theorem find?_updated {l : List Xfer} {p : Xfer → Bool} {f : Xfer → Xfer} (hf : ∀ x, p (f x) = p x) {y : Xfer}
    (h : l.find? p = some y) : (l.map fun x => if p x then f x else x).find? p = some (f y) := by
  have hp : (p ∘ fun x => if p x then f x else x) = p := funext fun x => by
    by_cases hx : p x = true <;> simp [hx, hf]
  rw [List.find?_map, hp, h, Option.map_some, if_pos (List.find?_some h)]

/-- A transfer that a change of it has written is found again. -/
theorem xferOf_updXfer {s : State} {l q idx gen : Nat} {c : CoreSt} {y : Xfer} (h : Alone s l c)
    (hy : s.xferOf l q idx gen = some y) (F : CoreSt → CoreSt) (hF : ∀ d, (F d).lcore = d.lcore) (f : Xfer → Xfer)
    (hf : ∀ x, (f x).idx = x.idx ∧ (f x).gen = x.gen) (hq : (F c).queues = (c.updXfer q idx gen f).queues) :
    (s.updCore l F).xferOf l q idx gen = some (f y) := by
  rw [State.xferOf, h.1, Option.bind_some] at hy
  have hlen : q < c.queues.length := by
    by_contra hn
    rw [CoreSt.queue, List.getD_eq_default _ _ (Nat.le_of_not_lt hn)] at hy
    cases hy
  have hqueue : (F c).queue q = (c.updXfer q idx gen f).queue q := by rw [CoreSt.queue, hq, ← CoreSt.queue]
  rw [State.xferOf, (h.updCore hF).1, Option.bind_some, hqueue, CoreSt.updXfer, queue_updQueue, if_pos ⟨rfl, hlen⟩]
  exact find?_updated (p := fun x => x.idx == idx && x.gen == gen) (fun x => by rw [(hf x).1, (hf x).2]) hy

/-! ### Banks of the background path -/

theorem takeBank_free {s : State} {l b : Nat} {c : CoreSt} (h : s.core? l = some c) (hb : b ∉ c.bgUsed) :
    s.takeBank l b = some (s.updCore l fun c => { c with bgUsed := b :: c.bgUsed }) := by
  have : c.bgUsed.contains b = false := by simpa using hb
  rw [State.takeBank, h]
  simp only [this, Bool.false_eq_true, if_false]

theorem dedup_const {α : Type} [DecidableEq α] {l : List α} {a : α} (hne : l ≠ []) (h : ∀ x ∈ l, x = a) : l.dedup = [a] := by
  rw [List.eq_replicate_of_mem h]
  exact List.replicate_dedup (by simpa using hne)

/-- The whole payload of one granule is written through its bank. -/
theorem inbound_granule {s : State} {l g : Nat} {c : CoreSt} {w : Landing} (h : Alone s l c) (hl : c.landing = [w])
    (hne : w.cells ≠ []) (ho : w.outer = none) (hg : ∀ v ∈ w.cells, granuleOf v.1 = g) (hb : bankOf g ∉ c.bgUsed) :
    s.inbound l = (s.updCore l fun v => { v with
        bgUsed := bankOf g :: v.bgUsed, spad := v.spad.writeCells w.cells, landing := [] }).markLanded w.issuer w.q w.idx
      w.gen w.member w.off w.len := by
  have hd : (w.cells.map fun x => granuleOf x.1).dedup = [g] :=
    dedup_const (by simpa using hne) fun x hx => by
      obtain ⟨v, hv, rfl⟩ := List.mem_map.mp hx
      exact hg v hv
  have hall : (w.cells.filter fun x => granuleOf x.1 == g) = w.cells :=
    List.filter_eq_self.mpr fun x hx => beq_iff_eq.mpr (hg x hx)
  have hnone : (w.cells.filter fun x => granuleOf x.1 != g) = [] :=
    List.filter_eq_nil_iff.mpr fun x hx => by simp [hg x hx]
  have hone : s.landOne l w = ((s.updCore l fun v => { v with bgUsed := bankOf g :: v.bgUsed }).updCore l
      fun v => { v with spad := v.spad.writeCells w.cells }, { w with cells := [] }) := by
    rw [State.landOne, hd, List.foldl_cons, takeBank_free h.1 hb, List.foldl_nil]
    simp only [hall, hnone]
  unfold State.inbound
  rw [h.1]
  simp only [hl, List.foldl_cons, List.foldl_nil, hone, List.nil_append, List.filter_cons, List.isEmpty_nil, ho,
    Option.isNone_none, Bool.and_self, Bool.not_true, Bool.false_eq_true, if_false, if_true, List.filter_nil]
  refine congrArg (fun t : State => t.markLanded w.issuer w.q w.idx w.gen w.member w.off w.len) ?_
  rw [updCore_updCore, updCore_updCore]
  all_goals exact fun _ => rfl

/-! ### Reads on the background path -/

/-- No byte of a chunk has been read yet. -/
theorem missing_all {y : Xfer} {off len : Nat} (h : ∀ b ∈ y.srcRead, b.1 < off ∨ off + len ≤ b.1) :
    y.missing off len = (List.range len).map fun i => off + i := by
  refine List.filter_eq_self.mpr fun i hi => ?_
  obtain ⟨j, hj, rfl⟩ := List.mem_map.mp hi
  have hj' := List.mem_range.mp hj
  rw [Bool.not_eq_true', List.any_eq_false]
  intro b hb hbi
  have := h b hb
  have := beq_iff_eq.mp hbi
  omega

/-- A chunk's cells, read address by address. -/
theorem cells_eq {o : Opnd} {base off len : Nat} (f : GA → Byte) :
    ((List.range len).map fun i => (off + i, ((chunkAddrs o base off len).map f).getD i 0)) =
      (List.range len).map fun i => (off + i, f (o.d.byteAt base (off + i))) := by
  refine List.map_congr_left fun i hi => ?_
  have hi' := List.mem_range.mp hi
  simp [chunkAddrs, List.getD, hi']

theorem placeByte_core_bgUsed (s : State) (t b k o : Nat) :
    (s.updCore t fun v => { v with bgUsed := b :: v.bgUsed }).placeByte (.core k o) = s.placeByte (.core k o) := by
  have hf : ∀ d : CoreSt, ({ d with bgUsed := b :: d.bgUsed } : CoreSt).lcore = d.lcore := fun _ => rfl
  unfold State.placeByte
  simp only [core?_updCore_any s t hf]
  cases s.core? k with
  | none => rfl
  | some d =>
    show (if d.lcore == t then { d with bgUsed := b :: d.bgUsed } else d : CoreSt).byteAt o = d.byteAt o
    split <;> rfl

/-- A read of one granule of a scratchpad, whose bank is free. -/
theorem servePull_granule {s : State} {t g : Nat} {e : CoreSt} {p : Pull} {y : Xfer} (he : s.core? t = some e)
    (hb : bankOf g ∉ e.bgUsed) (hy : s.xferOf p.issuer p.q p.idx p.gen = some y) (hn : 0 < p.len)
    (hr : ∀ b ∈ y.srcRead, b.1 < p.off ∨ p.off + p.len ≤ b.1)
    (hs : ∀ a ∈ chunkAddrs y.src y.src.base p.off p.len,
      ∃ o, s.srcByte a y.started = .bank t o ∧ granuleOf o = g ∧ s.place a = .core t o) :
    s.servePull p = (s.updCore t fun v => { v with bgUsed := bankOf g :: v.bgUsed }).noteRead p.issuer p.q p.idx p.gen
      ((List.range p.len).map fun i => (p.off + i, s.placeByte (s.place (y.src.d.byteAt y.src.base (p.off + i))))) := by
  have hs' : ∀ i : Nat, i < p.len → ∃ o, s.srcByte (y.srcAt (p.off + i)) y.started = .bank t o ∧ granuleOf o = g ∧
      s.place (y.srcAt (p.off + i)) = .core t o := fun i hi =>
    hs _ (List.mem_map.mpr ⟨i, List.mem_range.mpr hi, rfl⟩)
  choose! o ho hg hp using hs'
  have hbank : s.bankBytes y p.off p.len = (List.range p.len).map fun i => (p.off + i, t, o i) := by
    rw [State.bankBytes, missing_all hr, List.filterMap_map, ← List.filterMap_eq_map]
    refine List.filterMap_congr fun i hi => ?_
    show (match s.srcByte (y.srcAt (p.off + i)) y.started with
      | .bank l o => some (p.off + i, l, o) | _ => none) = _
    rw [ho i (List.mem_range.mp hi)]
    rfl
  have hd : ((s.bankBytes y p.off p.len).map fun b => (b.2.1, granuleOf b.2.2)).dedup = [(t, g)] := by
    refine dedup_const ?_ fun x hx => ?_
    · rw [hbank]
      simp [Nat.pos_iff_ne_zero.mp hn]
    · rw [hbank, List.map_map] at hx
      obtain ⟨i, hi, rfl⟩ := List.mem_map.mp hx
      exact Prod.ext rfl (hg i (List.mem_range.mp hi))
  unfold State.servePull
  simp only [hy, hd, List.foldl_cons, List.foldl_nil, takeBank_free he hb]
  refine congrArg (State.noteRead _ p.issuer p.q p.idx p.gen) ?_
  rw [hbank, List.filter_map, List.filter_eq_self.mpr, List.map_map]
  · refine List.map_congr_left fun i hi => ?_
    show (p.off + i, _) = (p.off + i, s.placeByte (s.place (y.srcAt (p.off + i))))
    rw [hp i (List.mem_range.mp hi), placeByte_core_bgUsed]
  · intro i hi
    simp [hg i (List.mem_range.mp hi)]

/-! ### Chains -/

/-- The member behind one in chain order. -/
theorem dropWhile_member {pre post : List Delivery} {d n : Delivery} {member : Nat} (hpre : ∀ e ∈ pre, e.member ≠ member)
    (hd : d.member = member) :
    (((pre ++ d :: n :: post).dropWhile fun y => y.member != member).drop 1).head? = some n := by
  have hdrop : pre.dropWhile (fun y => y.member != member) = [] :=
    List.dropWhile_eq_nil_iff.mpr fun e he => by simpa using hpre e he
  rw [List.dropWhile_append, hdrop, List.isEmpty_nil, if_pos rfl, List.dropWhile_cons]
  simp [hd]

theorem allCovered_of_range {rs : List (Nat × Nat)} {r : Nat × Nat} {off len : Nat} (hr : r ∈ rs) (h1 : r.1 ≤ off)
    (h2 : off + len ≤ r.1 + r.2) : allCovered rs off len = true := by
  refine List.all_eq_true.mpr fun i hi => List.any_eq_true.mpr ⟨r, hr, ?_⟩
  have := List.mem_range.mp hi
  simp only [Bool.and_eq_true, decide_eq_true_eq]
  omega

theorem foldl_max_le {α : Type} {l : List α} {f : α → Nat} {a n : Nat} (ha : a ≤ n) (h : ∀ x ∈ l, f x ≤ n) :
    l.foldl (fun t x => max t (f x)) a ≤ n := by
  induction l generalizing a with
  | nil => exact ha
  | cons x r ih =>
    exact ih (max_le ha (h x List.mem_cons_self)) fun z hz => h z (List.mem_cons_of_mem _ hz)

theorem advanceTo_past {s : State} {t : Nat} (h : t ≤ s.time.cycle) : s.advanceTo t = s := by
  rw [State.advanceTo, if_pos h]

/-- A chunk that landed at a member 16 cycles ago is sent on to the next. -/
theorem chainForward_next {s : State} {l q idx member off len : Nat} {c : CoreSt} {y : Xfer} {d n : Delivery}
    {pre post : List Delivery} (h : Alone s l c) (hy : c.xfer? q idx = some y) (hd : y.delivery? member = some d)
    (hm : y.chainMode = true) (hds : y.deliveries = pre ++ d :: n :: post) (hlen : 0 < len)
    (hpre : ∀ e ∈ pre, e.member ≠ member) (hmeet : meets (n.forwarded.map fun r => (r.1, r.2.1)) off len = false)
    (hcov : ∃ r ∈ d.landed, r.1 ≤ off ∧ off + len ≤ r.1 + r.2.1)
    (hold : ∀ r ∈ d.landed, r.1 < off + len → off < r.1 + r.2.1 → r.2.2 + 16 ≤ s.time.cycle) :
    exec (.chainForward l q idx member off len) s = .next (s.updCore l fun e =>
      e.updXfer y.q y.idx y.gen fun z => z.updDelivery n.member fun v =>
        { v with forwarded := v.forwarded ++ [(off, len, s.time.cycle)] }) := by
  have hdm : d.member = member := by simpa using List.find?_some hd
  obtain ⟨r, hr, h1, h2⟩ := hcov
  have hfloor : s.forwardCycle l q idx member off len ≤ s.time.cycle := by
    unfold State.forwardCycle
    simp only [h.1, Option.bind_some, hy, hd]
    split
    · refine foldl_max_le (Nat.zero_le _) fun x hx => ?_
      obtain ⟨hx, hx2⟩ := List.mem_filter.mp hx
      simp only [Bool.and_eq_true, decide_eq_true_eq] at hx2
      exact hold x hx hx2.1 hx2.2
    · exact Nat.zero_le _
  have hdue : allCovered ((d.landed.filter fun r => r.2.2 + 16 ≤ s.time.cycle).map fun r => (r.1, r.2.1)) off len = true := by
    refine allCovered_of_range (r := (r.1, r.2.1)) (List.mem_map.mpr ⟨r, List.mem_filter.mpr ⟨hr, ?_⟩, rfl⟩) h1 h2
    exact decide_eq_true (hold r hr (by omega) (by omega))
  show execChainForward l q idx member off len s = _
  rw [execChainForward, onCore, h.1]
  refine congrArg Host.Outcome.next ?_
  rw [advanceTo_past hfloor, State.chainForward]
  simp only [h.1, Option.bind_some, hy, hd, hds, dropWhile_member hpre hdm, hm, hdue, hlen, decide_true, hmeet,
    Bool.not_false, Bool.and_self, if_true]

/-! ### Landing -/

/-- What the source bytes of a transfer become with new ones. -/
def Xfer.withRead (x : Xfer) (new : List (Nat × Byte)) (done : Bool) : Xfer :=
  { x with srcRead := x.srcRead ++ new, srcDone := x.srcDone || done }

/-- Bytes that were not read before are noted in the transfer; the core keeps its place and its region. -/
theorem noteRead_new {s : State} {l q idx gen : Nat} {y : Xfer} {cells : List (Nat × Byte)}
    (hy : s.xferOf l q idx gen = some y) (hnew : ∀ b ∈ cells, ∀ a ∈ y.srcRead, a.1 ≠ b.1) :
    ∃ (F : CoreSt → CoreSt) (done : Bool), s.noteRead l q idx gen cells = s.updCore l F ∧
      (∀ d, (F d).lcore = d.lcore ∧ (F d).phys = d.phys ∧ (F d).region = d.region) ∧
      ∀ d, (F d).queues = (d.updXfer q idx gen fun z => z.withRead cells done).queues := by
  have hfil : (cells.filter fun b => !(y.srcRead.any fun a => a.1 == b.1)) = cells := by
    refine List.filter_eq_self.mpr fun b hb => ?_
    rw [Bool.not_eq_true', List.any_eq_false]
    exact fun a ha hab => hnew b hb a ha (beq_iff_eq.mp hab)
  unfold State.noteRead
  simp only [hy, hfil]
  refine ⟨_, decide (y.bytes ≤ y.srcRead.length + cells.length), rfl, fun d => ?_, fun d => ?_⟩
  · split <;> exact ⟨rfl, rfl, rfl⟩
  · split <;> rfl

/-- A change of a core that keeps its number and region keeps what refuses inbound traffic. -/
theorem refusing_updCore (s : State) (l : Nat) {F : CoreSt → CoreSt}
    (hF : ∀ d, (F d).lcore = d.lcore ∧ (F d).region = d.region) (m : Nat) :
    (s.updCore l F).refusing m = s.refusing m := by
  unfold State.refusing State.regionOf
  rw [core?_updCore_any s l fun d => (hF d).1]
  cases s.core? m with
  | none => rfl
  | some d =>
    have : (if d.lcore == l then F d else d).region = d.region := by rw [apply_ite CoreSt.region, (hF d).2, ite_self]
    simp only [Option.map_some, Option.bind_some, this]
    rfl

/-- A change of a core that keeps its number and region keeps how every place serves. -/
theorem placeFault_updCore (s : State) (l : Nat) {F : CoreSt → CoreSt}
    (hF : ∀ d, (F d).lcore = d.lcore ∧ (F d).region = d.region) (p : Place) (g : GA) (st : Option Nat) :
    (s.updCore l F).placeFault p g st = s.placeFault p g st := by
  unfold State.placeFault
  simp only [refusing_updCore s l hF]
  rfl

/-- The targets of a chunk are one: it is one part. -/
theorem partsOf_const {f : Nat → Option (Nat × Nat)} {t : Option (Nat × Nat)} {len : Nat} (hn : 0 < len) (off : Nat)
    (h : ∀ i : Nat, i < len → f (off + i) = t) : partsOf f off len = [(off, len)] := by
  induction len generalizing off with
  | zero => exact absurd hn (Nat.lt_irrefl 0)
  | succ k ih =>
    cases k with
    | zero => rfl
    | succ k =>
      have hr : partsOf f (off + 1) (k + 1) = [(off + 1, k + 1)] := ih (Nat.succ_pos k) (off + 1) fun i hi => by
        rw [Nat.add_right_comm, Nat.add_assoc]
        exact h (i + 1) (Nat.succ_lt_succ hi)
      have he : f off = f (off + 1) := (h 0 (Nat.succ_pos _)).trans (h 1 (by omega)).symm
      unfold partsOf
      rw [hr]
      simp only [he, beq_self_eq_true, if_true]

theorem eccChunk_clean (s : State) (l : Nat) (x : Xfer) (off : Nat) (cells : List (Nat × Byte)) :
    s.eccChunk l x off cells .clean = (s, cells) := by
  unfold State.eccChunk
  rfl

theorem findSome?_none {α β : Type} (l : List α) : l.findSome? (fun _ => (none : Option β)) = none :=
  List.findSome?_eq_none_iff.mpr fun _ _ => rfl

/-- The clean bytes of a chunk from memories that serve are read at once. -/
theorem pullChunk_now {s : State} {l off len : Nat} {y : Xfer} (hn : 0 < len) (hu : y.srcUnmapped = false)
    (hr : ∀ b ∈ y.srcRead, b.1 < off ∨ off + len ≤ b.1)
    (hs : ∀ g ∈ chunkAddrs y.src y.src.base off len, s.srcByte g y.started = .now (s.placeByte (s.place g)) none) :
    s.pullChunk l y off len .clean = s.noteRead l y.q y.idx y.gen
      ((List.range len).map fun i => (off + i, s.placeByte (s.place (y.src.d.byteAt y.src.base (off + i))))) := by
  have hreads : ((y.missing off len).map fun i => (i, s.srcByte (y.srcAt i) y.started)) = (List.range len).map fun i =>
      (off + i, SrcByte.now (s.placeByte (s.place (y.src.d.byteAt y.src.base (off + i)))) none) := by
    rw [missing_all hr, List.map_map]
    refine List.map_congr_left fun i hi => ?_
    exact congrArg (Prod.mk (off + i)) (hs _ (List.mem_map.mpr ⟨i, hi, rfl⟩))
  have hmiss : (y.missing off len).isEmpty = false := by
    rw [missing_all hr]
    simp [Nat.pos_iff_ne_zero.mp hn]
  unfold State.pullChunk
  simp only [hmiss, hu, Bool.false_eq_true, if_false, hreads]
  have hany : (List.range len).any (fun _ => false) = false := List.any_eq_false.mpr fun _ _ => Bool.false_ne_true
  have hcells : ((List.range len).map fun i =>
      (off + i, s.placeByte (s.place (y.src.d.byteAt y.src.base (off + i))))).isEmpty = false := by
    simp [Nat.pos_iff_ne_zero.mp hn]
  simp only [List.filterMap_map, List.findSome?_map, List.any_map, Function.comp_def, findSome?_none, eccChunk_clean,
    List.filterMap_eq_map', hany, hcells, Bool.false_and, Bool.false_eq_true, if_false]

/-- Bytes put to memories of one kind that serve land at once. -/
theorem putChunk_memory {s : State} {l off : Nat} {y : Xfer} {d : Delivery} {bs : List Byte} {t : Nat × Nat}
    (hs : y.attr.stream = false) (hn : 0 < bs.length) (h1 : 1 ≤ t.1) (h3 : t.1 ≤ 3)
    (hd : ∀ g ∈ chunkAddrs y.dst (y.dstBase s.kol.module d.member) off bs.length,
      s.placeFault (s.place g) g y.started = none ∧ s.refreshing (s.place g) = false ∧ targetOf (s.place g) = some t) :
    s.putChunk l y d off bs = ((((chunkAddrs y.dst (y.dstBase s.kol.module d.member) off bs.length).zip bs).foldl
      (fun s a => s.putByte (s.place a.1) a.2) s).markLanded l y.q y.idx y.gen d.member off bs.length, bs.length) := by
  have hmem : (chunkAddrs y.dst (y.dstBase s.kol.module d.member) off bs.length).headD 0 ∈
      chunkAddrs y.dst (y.dstBase s.kol.module d.member) off bs.length := by
    obtain ⟨k, hk⟩ := Nat.exists_eq_succ_of_ne_zero (Nat.pos_iff_ne_zero.mp hn)
    rw [hk, chunkAddrs, List.range_succ_eq_map]
    exact List.mem_cons_self
  obtain ⟨hf, hr, ht⟩ := hd _ hmem
  unfold State.putChunk
  simp only [hs, Bool.false_eq_true, if_false, hf]
  generalize s.place ((chunkAddrs y.dst (y.dstBase s.kol.module d.member) off bs.length).headD 0) = p at hr ht ⊢
  cases p with
  | core k o =>
    cases ht
    omega
  | remote m =>
    cases ht
    omega
  | well ph o => simp only [hr, Bool.false_eq_true, if_false]
  | pool k o => simp only [hr, Bool.false_eq_true, if_false]
  | stack k o => simp only [hr, Bool.false_eq_true, if_false]
  | control m => cases ht
  | unmapped => cases ht
  | unbacked => cases ht

/-- The bytes of a chunk that has just been read. -/
theorem readBytes_withRead {y : Xfer} {off len : Nat} (hr : ∀ b ∈ y.srcRead, b.1 < off ∨ off + len ≤ b.1) (v : Nat → Byte)
    (done : Bool) : (y.withRead ((List.range len).map fun i => (off + i, v i)) done).readBytes off len =
      (List.range len).map v := by
  refine List.map_congr_left fun i hi => ?_
  have hi' := List.mem_range.mp hi
  have hold : y.srcRead.find? (fun b => b.1 == off + i) = none := by
    refine List.find?_eq_none.mpr fun b hb hbi => ?_
    have := hr b hb
    have := beq_iff_eq.mp hbi
    omega
  have hnew : ((List.range len).map fun i => (off + i, v i)).find? (fun b => b.1 == off + i) = some (off + i, v i) := by
    rw [List.find?_map]
    have : (List.range len).find? ((fun b : Nat × Byte => b.1 == off + i) ∘ fun i => (off + i, v i)) = some i := by
      rw [List.find?_range_eq_some]
      refine ⟨by simp, hi, fun j hj => ?_⟩
      simp only [Function.comp_def, Bool.not_eq_true', beq_eq_false_iff_ne]
      omega
    rw [this]
    rfl
  rw [Xfer.withRead, List.find?_append, hold, Option.none_or, hnew]
  rfl

/-- Nothing of a chunk that has just been read is missing. -/
theorem missing_withRead (y : Xfer) (off len : Nat) (v : Nat → Byte) (done : Bool) :
    (y.withRead ((List.range len).map fun i => (off + i, v i)) done).missing off len = [] := by
  refine List.filter_eq_nil_iff.mpr fun i hi => ?_
  obtain ⟨j, hj, rfl⟩ := List.mem_map.mp hi
  rw [Bool.not_eq_true', Bool.not_eq_false, List.any_eq_true]
  exact ⟨(off + j, v j), List.mem_append_right _ (List.mem_map.mpr ⟨j, hj, rfl⟩), beq_self_eq_true _⟩

/-- One step brings a whole chunk between memories that serve. -/
theorem stepChunk_lands {s : State} {l member off len : Nat} {c : CoreSt} {y : Xfer} {d : Delivery} {t : Nat × Nat}
    (h : Alone s l c) (hy : s.xferOf l y.q y.idx y.gen = some y) (hd : y.delivery? member = some d) (hn : 0 < len)
    (hdis : y.discarded = false) (hs : y.attr.stream = false) (hu : y.srcUnmapped = false)
    (hr : ∀ b ∈ y.srcRead, b.1 < off ∨ off + len ≤ b.1)
    (hsrc : ∀ g ∈ chunkAddrs y.src y.src.base off len, s.srcByte g y.started = .now (s.placeByte (s.place g)) none)
    (h1 : 1 ≤ t.1) (h3 : t.1 ≤ 3) (hdst : ∀ g ∈ chunkAddrs y.dst (y.dstBase s.kol.module member) off len,
      s.placeFault (s.place g) g y.started = none ∧ s.refreshing (s.place g) = false ∧ targetOf (s.place g) = some t) :
    s.stepChunk { issuer := l, q := y.q, idx := y.idx, gen := y.gen, member := member, off := off, len := len, ecc := .clean } =
      ((((chunkAddrs y.dst (y.dstBase s.kol.module member) off len).zip ((List.range len).map fun i =>
          s.placeByte (s.place (y.src.d.byteAt y.src.base (off + i))))).foldl (fun s a => s.putByte (s.place a.1) a.2)
        (s.noteRead l y.q y.idx y.gen ((List.range len).map fun i =>
          (off + i, s.placeByte (s.place (y.src.d.byteAt y.src.base (off + i))))))).markLanded l y.q y.idx y.gen member off len,
        none) := by
  have hdm : d.member = member := by simpa using List.find?_some hd
  obtain ⟨F, done, hnote, hF, hqs⟩ := noteRead_new (cells := (List.range len).map fun i =>
      (off + i, s.placeByte (s.place (y.src.d.byteAt y.src.base (off + i))))) hy (by
    intro b hb a ha
    obtain ⟨i, hi, rfl⟩ := List.mem_map.mp hb
    have := hr a ha
    have := List.mem_range.mp hi
    show a.1 ≠ off + i
    omega)
  have hy1 := xferOf_updXfer h hy F (fun d => (hF d).1) (fun z => z.withRead _ done) (fun _ => ⟨rfl, rfl⟩) (hqs c)
  have hput := putChunk_memory (s := s.updCore l F) (l := l) (off := off) (d := d) (bs := (List.range len).map fun i =>
      s.placeByte (s.place (y.src.d.byteAt y.src.base (off + i)))) (t := t)
      (y := y.withRead ((List.range len).map fun i =>
        (off + i, s.placeByte (s.place (y.src.d.byteAt y.src.base (off + i))))) done) hs (by simpa using hn) h1 h3 (by
    intro g hg
    rw [List.length_map, List.length_range, hdm] at hg
    rw [place_updCore s l (fun d => (hF d).1) fun d => (hF d).2.1, placeFault_updCore s l fun d => ⟨(hF d).1, (hF d).2.2⟩]
    exact hdst g hg)
  rw [List.length_map, List.length_range, hdm] at hput
  unfold State.stepChunk
  simp only [hy, hdis, Bool.false_eq_true, if_false, pullChunk_now hn hu hr hsrc, hnote, hy1,
    show (y.withRead _ done).delivery? member = some d from hd, missing_withRead, List.isEmpty_nil, Bool.not_true,
    readBytes_withRead hr, hput, Nat.lt_irrefl]
  rfl

/-- A chunk that its path may bring is part of a transfer under way. -/
theorem chunkOpen_ready {s : State} {l q idx member off len : Nat} {y : Xfer} {d : Delivery}
    (h : s.chunkOpen l q idx member off len = some (y, d, false)) : 0 < len ∧ y.discarded = false := by
  unfold State.chunkOpen at h
  split at h
  · cases h
  · split at h
    · cases h
    · dsimp only at h
      split_ifs at h with h1
      · simp only [Option.some.injEq, Prod.mk.injEq, reduceCtorEq, and_false] at h
      · simp only [Option.some.injEq, Prod.mk.injEq, and_true] at h
        obtain ⟨rfl, rfl⟩ := h
        simp only [Bool.or_eq_true, Bool.not_eq_true', not_or, Bool.and_eq_true, Bool.not_eq_false, decide_eq_true_eq] at h1
        tauto

/-- BYTES_LANDED of a chunk between memories that serve, from the first cycle of its path on. -/
theorem bytesLanded_memory {s : State} {l idx member off len : Nat} {c : CoreSt} {y : Xfer} {d : Delivery} {t : Nat × Nat}
    (h : Alone s l c) (hy : s.xferOf l y.q idx y.gen = some y) (hd : y.delivery? member = some d)
    (hopen : s.chunkOpen l y.q idx member off len = some (y, d, false))
    (hfloor : s.landFloor l y d off len ≤ s.time.cycle) (hs : y.attr.stream = false) (hu : y.srcUnmapped = false)
    (hr : ∀ b ∈ y.srcRead, b.1 < off ∨ off + len ≤ b.1)
    (hsrc : ∀ g ∈ chunkAddrs y.src y.src.base off len, s.srcByte g y.started = .now (s.placeByte (s.place g)) none)
    (h1 : 1 ≤ t.1) (h3 : t.1 ≤ 3) (hdst : ∀ g ∈ chunkAddrs y.dst (y.dstBase s.kol.module member) off len,
      s.placeFault (s.place g) g y.started = none ∧ s.refreshing (s.place g) = false ∧ targetOf (s.place g) = some t) :
    exec (.bytesLanded l y.q idx member off len .clean) s = .next
      ((((chunkAddrs y.dst (y.dstBase s.kol.module member) off len).zip ((List.range len).map fun i =>
          s.placeByte (s.place (y.src.d.byteAt y.src.base (off + i))))).foldl (fun s a => s.putByte (s.place a.1) a.2)
        (s.noteRead l y.q idx y.gen ((List.range len).map fun i =>
          (off + i, s.placeByte (s.place (y.src.d.byteAt y.src.base (off + i))))))).markLanded l y.q idx y.gen member off
        len) := by
  obtain ⟨hn, hdis⟩ := chunkOpen_ready hopen
  obtain ⟨hidx, -⟩ := xferOf_names hy
  subst hidx
  have hadv : s.advanceTo (s.chunkFloor l y.q y.idx member off len) = s := by
    refine advanceTo_past ?_
    unfold State.chunkFloor
    rw [hopen]
    dsimp only
    split
    · exact Nat.zero_le _
    · exact hfloor
  have htarget : ∀ i : Nat, i < len → s.dstTarget y member (off + i) = some t := fun i hi => by
    obtain ⟨hf, -, ht⟩ := hdst _ (List.mem_map.mpr ⟨i, List.mem_range.mpr hi, rfl⟩)
    simp only [State.dstTarget, hs, Bool.false_eq_true, if_false, hf, Option.isSome_none, ht]
  show execBytesLanded l y.q y.idx member off len .clean s = _
  rw [execBytesLanded, onCore, h.1]
  refine congrArg Host.Outcome.next ?_
  rw [hadv, State.bytesLanded, hopen]
  simp only [partsOf_const hn off htarget, List.foldl_cons, List.foldl_nil,
    stepChunk_lands h hy hd hn hdis hs hu hr hsrc h1 h3 hdst, Option.toList_none, List.append_nil]

/-- Settles O29: a chunk between memories is one part that is read and put in one step (`bytesLanded_memory`), a chain sends
on by `chainForward_next`, and the bank accesses are those of one granule. -/
theorem bytesMoveThroughATransfer : Obligations.BytesMoveThroughATransfer := by
  intro s l q idx member off len c y d h hx hy hq hd src dst bytes cells
  subst hq
  have hcells : cells = (List.range len).map fun i =>
      (off + i, s.placeByte (s.place (y.src.d.byteAt y.src.base (off + i)))) := cells_eq fun g => s.placeByte (s.place g)
  have hbytes : bytes = (List.range len).map fun i => s.placeByte (s.place (y.src.d.byteAt y.src.base (off + i))) :=
    List.map_map
  clear_value cells bytes
  subst hcells hbytes
  refine ⟨fun t hopen hfloor hs hu hr hsrc h1 h3 hdst => ?_, fun n pre post hm hds hlen hpre hmeet hcov hold => ?_, ?_, ?_,
    fun t g e p he hb hpl hpq hpi hpg hpo hplen hlen hr hsrc => ?_, fun g w hl hne ho hg hb => ?_⟩
  · exact bytesLanded_memory h hy hd hopen hfloor hs hu hr hsrc h1 h3 hdst
  · exact chainForward_next h hx hd hm hds hlen hpre hmeet hcov hold
  · show execBackgroundPathAccess l (.outbound y.q idx off len) s = _
    rw [execBackgroundPathAccess, onCore, h.1]
  · show execBackgroundPathAccess l .inbound s = _
    rw [execBackgroundPathAccess, onCore, h.1]
  · obtain ⟨acc, iss, pq, pidx, pgen, poff, plen⟩ := p
    dsimp only at hpl hpq hpi hpg hpo hplen
    subst hpl hpq hpi hpg hpo hplen
    exact servePull_granule he hb hy hlen hr hsrc
  · exact inbound_granule h hl hne ho hg hb

end Sys2Proof.Machine
end

section
/-! PROOFS. Announces and remote signals that meet their tally (spec chapters 07 and 10). -/

namespace Sys2Proof.Machine

theorem length_of_live {c : CoreSt} {q : Nat} {y : Xfer} (h : y ∈ (c.queue q).live) : q < c.queues.length := by
  by_contra hn
  rw [CoreSt.queue, List.getD_eq_default _ _ (Nat.le_of_not_lt hn)] at h
  cases h

theorem queue_withLive {c : CoreSt} {q : Nat} (h : q < c.queues.length) (l : List Xfer) :
    (c.withLive q l).queue q = { c.queue q with live := l } := by
  rw [CoreSt.withLive, queue_updQueue, if_pos ⟨rfl, h⟩]

/-- A change that leaves the queue of a number leaves the core. -/
theorem updQueue_fixed {c : CoreSt} {q : Nat} {f : Queue → Queue} (h : f (c.queue q) = c.queue q) : c.updQueue q f = c :=
  (updQueue_congr (g := id) h).trans (congrArg (fun z => { c with queues := z }) (modify_id c.queues q id fun _ _ => rfl))

theorem xfer?_one {c : CoreSt} {q : Nat} {y : Xfer} (hl : (c.queue q).live = [y]) (hf : y.freed = false) :
    c.xfer? q y.idx = some y := by
  simp [CoreSt.xfer?, hl, hf]

/-- Two changes of an only transfer that agree on it agree. -/
theorem updXfer_congr_one {c : CoreSt} {q : Nat} {y : Xfer} (hl : (c.queue q).live = [y]) {f g : Xfer → Xfer}
    (h : f y = g y) : c.updXfer q y.idx y.gen f = c.updXfer q y.idx y.gen g := by
  have hone := updXfer_one (older := []) (rest := []) hl fun _ hz => nomatch hz
  rw [hone f, hone g, h]

theorem delivery?_one {y : Xfer} {d : Delivery} (hd : y.deliveries = [d]) : y.delivery? d.member = some d := by
  simp [Xfer.delivery?, hd]

/-- Nothing of a queue whose only transfer is not complete is freed. -/
theorem free_open {z : Queue} {y : Xfer} (hl : z.live = [y]) (hc : y.complete = false) (hf : y.freed = false) :
    z.free = z := by
  have : dropDone (freeIndices z.live) = z.live := by simp [hl, freeIndices, dropDone, hc, hf]
  rw [Queue.free, this]

/-- The announce of an only transfer, whose bytes have all landed. -/
theorem announceApplied_one {s : State} {l q target : Nat} {c t : CoreSt} {y : Xfer} {d : Delivery} (h : Alone s l c)
    (ht : s.core? target = some t) (href : s.refusing target = false) (hl : (c.queue q).live = [y]) (hk : y.kind = .put)
    (hd : y.deliveries = [d]) (hen : y.attr.annEn = true) (hcore : y.attr.annCore = target) (hdis : y.discarded = false)
    (hf : y.freed = false) (hst : y.attr.stream = false) (hann : d.announced = false) (hw : d.withdrawn = false)
    (hall : y.bytes ≤ d.count) (hm : gaModule y.dst.base = s.kol.module) (hc : y.complete = false)
    (hcy : d.lastCycle + s.landLatency (s.lastPoint l y d target) target ≤ s.time.cycle) :
    s.announceApplied l q y.idx d.member = (s.updCore l fun e => e.updXfer q y.idx y.gen fun z =>
      z.updDelivery d.member fun z => { z with announced := true }).updCore target fun e =>
        e.giveTally { tally := y.attr.annTally, n := y.attr.annCount, src := 2, slot := none, bundle := 0 } := by
  have htar : y.annTarget d = target := by rw [Xfer.annTarget, hk, hcore]
  have hmod : y.dstModule s.kol.module = s.kol.module := by simp [Xfer.dstModule, hst, hk, hm]
  have hearly : earlierAnnounce s.kol.module (c.queue q).live y target = false := by simp [hl, earlierAnnounce]
  have hupd : s.updCore l (fun e => (e.updXfer q y.idx y.gen fun z =>
      z.updDelivery d.member fun z => { z with announced := true }).updQueue q Queue.free) =
      s.updCore l fun e => e.updXfer q y.idx y.gen fun z =>
        z.updDelivery d.member fun z => { z with announced := true } := by
    have hone := updXfer_one (older := []) (rest := []) hl (fun _ hz => nomatch hz) fun z =>
      z.updDelivery d.member fun z => { z with announced := true }
    refine h.updCore_congr ?_
    rw [hone]
    refine updQueue_fixed ?_
    rw [queue_withLive (length_of_live (hl ▸ List.mem_cons_self))]
    exact free_open rfl hc hf
  have hcore' : ((s.updCore l fun e => e.updXfer q y.idx y.gen fun z =>
      z.updDelivery d.member fun z => { z with announced := true }).core? target).isNone = false := by
    rw [← Option.not_isSome, core?_isSome_updCore, ht]
    · rfl
    · exact fun _ => rfl
  have href' : (s.updCore l fun e => e.updXfer q y.idx y.gen fun z =>
      z.updDelivery d.member fun z => { z with announced := true }).refusing target = false := by
    rw [refusing_updCore, href]
    exact fun _ => ⟨rfl, rfl⟩
  unfold State.announceApplied
  simp only [h.1, hl, List.find?_cons, beq_self_eq_true, hen, hdis, hd, List.any_cons, hann, hw, List.any_nil,
    Bool.not_false, Bool.and_self, Bool.or_false, delivery?_one hd]
  rw [hl] at hearly
  simp only [htar, hearly, hmod, hcy, Xfer.allLanded, hall, decide_true, beq_self_eq_true, Bool.not_true, Bool.false_or,
    Bool.not_false, Bool.and_self, Bool.false_eq_true, if_false, hupd, hcore', href']
  rfl

theorem unitOf_updCore (s : State) (l : Nat) (F : CoreSt → CoreSt) (p : Place) (g : GA) :
    unitOf (s.updCore l F) p g = unitOf s p g := rfl

/-- ANNOUNCE_TIMEOUT of an only transfer that has not landed. -/
theorem announceTimeout_one {s : State} {l q n : Nat} {c : CoreSt} {x : Region} {y : Xfer} {d : Delivery} (h : Alone s l c)
    (hx : s.region? c.region = some x) (hl : (c.queue q).live = [y]) (hk : y.kind = .put) (hd : y.deliveries = [d])
    (hen : y.attr.annEn = true) (hdis : y.discarded = false) (hf : y.freed = false) (hst : y.attr.stream = false)
    (hann : d.announced = false) (hw : d.withdrawn = false) (hn : y.started = some n)
    (hlate : n + x.annLimit < s.time.cycle) (hcount : d.count < y.bytes) (hr : y.raised = []) :
    s.announceTimeout l q y.idx d.member = (s.updCore l fun e => e.updXfer q y.idx y.gen fun z =>
        { z.updDelivery d.member (fun v => { v with withdrawn := true }) with raised := [.announceTimeout] }).raise l
      .announceTimeout (some .x) y.bundle
      (targetDetail (unitOf s (s.place y.dst.base) y.dst.base).1 true 0 (unitOf s (s.place y.dst.base) y.dst.base).2.2 q y.idx
        (c.step - y.step)) := by
  have hctx : (s.ctx c).region = x := by rw [State.ctx, hx]; rfl
  have hall : y.allLanded d = false := decide_eq_false (Nat.not_le.mpr hcount)
  have hdue : announceLate (s.ctx c) y d = true := by
    have : (s.ctx c).cycle = s.time.cycle := rfl
    simp [announceLate, hen, hdis, hann, hw, hall, hn, hctx, this, hlate.le]
  have hupd : s.updCore l (fun e => e.updXfer q y.idx y.gen fun z =>
      { z.updDelivery d.member (fun v => { v with withdrawn := true }) with raised := z.raised ++ [.announceTimeout] }) =
      s.updCore l fun e => e.updXfer q y.idx y.gen fun z =>
        { z.updDelivery d.member (fun v => { v with withdrawn := true }) with raised := [.announceTimeout] } :=
    h.updCore_congr (updXfer_congr_one hl (congrArg (fun r => { y.updDelivery d.member (fun v =>
      { v with withdrawn := true }) with raised := r ++ [FCode.announceTimeout] }) hr))
  have hbase : y.dstBase s.kol.module d.member = y.dst.base := by rw [Xfer.dstBase, hk]
  unfold State.announceTimeout
  simp only [h.1, xfer?_one hl hf, delivery?_one hd, hdue, hr, List.contains_nil, hst, Bool.not_true, Bool.false_eq_true,
    if_false, hupd, State.updCore_kol, hbase, unitOf_updCore]
  rw [place_updCore]
  · exact fun _ => rfl
  · exact fun _ => rfl

/-- A core's signal to a core of this module that has arrived. -/
theorem signalApplied_one {s : State} {target : Nat} {t : CoreSt} {g : Signal} (ht : s.core? target = some t)
    (href : s.refusing target = false) (hg : s.fab.signals = [g]) (ha : g.ahead = [])
    (hi : g.issued + g.latency ≤ s.time.cycle) (hm : g.module = s.kol.module) (ho : g.origin = .core)
    (hl : g.lcore = target) :
    s.signalApplied g.id = ({ s with fab := { s.fab with signals := [] } } : State).updCore target fun e =>
      e.giveTally { tally := g.tally, n := g.count, src := 1, slot := none, bundle := 0 } := by
  have hready : s.signalReady g = true := by
    have hlane : s.laneBusy g = false := by rw [State.laneBusy, ho]
    have hbefore : g.before s.kol.module g = false := by simp [Signal.before]
    unfold State.signalReady
    simp only [ho, hlane, hi, hg, List.any_cons, hbefore, List.any_nil, ha, List.all_nil]
    cases s.core? g.issuer <;> rfl
  have hcore : (({ s with fab := { s.fab with signals := [] } } : State).core? target).isNone = false := by
    show (s.core? target).isNone = false
    rw [ht]
    rfl
  have href' : ({ s with fab := { s.fab with signals := [] } } : State).refusing target = false := href
  unfold State.signalApplied
  simp only [hg, List.find?_cons, beq_self_eq_true, hready, Bool.not_true, Bool.false_eq_true, if_false, List.filter_cons,
    bne_self_eq_false, List.filter_nil, ho]
  unfold State.coreSignal
  simp only [hm, hl, hcore, href', beq_self_eq_true, Bool.not_true, Bool.false_eq_true, if_false]
  rfl

/-- Settles O30: each event on its only transfer or signal, by `announceApplied_one`, `announceTimeout_one` and
`signalApplied_one`. -/
theorem announcesAndSignalsReachTheirTally : Obligations.AnnouncesAndSignalsReachTheirTally := by
  intro s l q idx c t y d target h ht href hl hi hq hk hd hen hcore hdis hf hst hann hw mark
  subst hi
  refine ⟨fun hall hm hc hcy => ?_, ?_, fun g hg ha hi hm ho hgl => ?_⟩
  · show execAnnounceApplied l q y.idx d.member s = _
    rw [execAnnounceApplied, onCore, h.1]
    exact congrArg Host.Outcome.next
      (announceApplied_one h ht.1 href hl hk hd hen hcore hdis hf hst hann hw hall hm hc hcy)
  · intro x n hx hn hlate hcount hr u
    have hreg : s.regionOf l = some x := by rw [State.regionOf, h.1]; exact hx
    show execAnnounceTimeout l q y.idx d.member s = _
    rw [execAnnounceTimeout, onCore, h.1]
    refine congrArg Host.Outcome.next ?_
    simp only [Option.bind_some, xfer?_one hl hf, hreg, hn]
    rw [advanceTo_past hlate]
    exact announceTimeout_one h hx hl hk hd hen hdis hf hst hann hw hn hlate hcount hr
  · have hfind : s.fab.signals.find? (fun k => k.id == g.id) = some g := by simp [hg]
    show execRemoteTsigApplied g.id s = _
    unfold execRemoteTsigApplied
    rw [hfind]
    refine congrArg Host.Outcome.next ?_
    rw [advanceTo_past hi]
    exact signalApplied_one ht.1 href hg ha hi hm ho hgl

end Sys2Proof.Machine
end

section
/-! PROOFS. The narrow-access combiner of a core (spec chapter 04). -/

namespace Sys2Proof.Machine

/-! ### Entries that leave -/

theorem leaving_cons (p : CombEntry → Bool) (e : CombEntry) (l : List CombEntry) :
    leaving p (e :: l) = if p e || (leaving p l).1.any e.shares then (e :: (leaving p l).1, (leaving p l).2)
      else ((leaving p l).1, e :: (leaving p l).2) := rfl

/-- Nothing leaves where nothing is picked. -/
theorem leaving_none {p : CombEntry → Bool} {l : List CombEntry} (h : ∀ e ∈ l, p e = false) : leaving p l = ([], l) := by
  induction l with
  | nil => rfl
  | cons e r ih =>
    rw [leaving_cons, ih fun z hz => h z (List.mem_cons_of_mem _ hz), h e List.mem_cons_self]
    rfl

/-- Each entry leaves or stays, and none that is picked stays. -/
theorem leaving_mem (p : CombEntry → Bool) (l : List CombEntry) :
    (∀ z ∈ (leaving p l).2, p z = false) ∧ ∀ z ∈ l, z ∈ (leaving p l).2 ∨ z ∈ (leaving p l).1 := by
  induction l with
  | nil => exact ⟨fun _ h => (nomatch h), fun _ h => (nomatch h)⟩
  | cons e r ih =>
    obtain ⟨hkeep, hall⟩ := ih
    rw [leaving_cons]
    by_cases hp : (p e || (leaving p r).1.any e.shares) = true
    · rw [if_pos hp]
      refine ⟨hkeep, fun z hz => ?_⟩
      rcases List.mem_cons.mp hz with rfl | hz
      · exact .inr List.mem_cons_self
      · exact (hall z hz).imp_right (List.mem_cons_of_mem _)
    · rw [if_neg hp]
      rw [Bool.not_eq_true, Bool.or_eq_false_iff] at hp
      refine ⟨fun z hz => ?_, fun z hz => ?_⟩
      · rcases List.mem_cons.mp hz with rfl | hz
        · exact hp.1
        · exact hkeep z hz
      · rcases List.mem_cons.mp hz with rfl | hz
        · exact .inl List.mem_cons_self
        · exact (hall z hz).imp_left (List.mem_cons_of_mem _)

theorem flushIf_eq {c : CoreSt} {p : CombEntry → Bool} {out keep : List CombEntry}
    (h : leaving p c.combiner = (out, keep)) :
    c.flushIf p = { c with flushes := c.flushes ++ out, combiner := keep } := by
  rw [CoreSt.flushIf, h]

/-- Nothing leaves a combiner that is empty or whose entries stay. -/
theorem flushIf_none {c : CoreSt} {p : CombEntry → Bool} (h : ∀ e ∈ c.combiner, p e = false) : c.flushIf p = c := by
  rw [flushIf_eq (leaving_none h), List.append_nil]

/-! ### One access of a requester to the scratchpad -/

/-- The access that a narrow access of one granule puts before the combiner. -/
def narrowAcc (s : State) (req : Requester) (off len : Nat) (data : Option (List Byte)) : CombAcc :=
  { req := req, stamp := s.fab.nextStamp, granule := granuleOf off, at_ := off % 64, len := len
    cells := data.map fun bs => cellsAt (off % 64) bs, sink := none }

theorem granuleParts_one {off len : Nat} (hn : 0 < len) (h : off % 64 + len ≤ 64) : granuleParts off len = [(off, len)] := by
  have hk : min len (64 - off % 64) = len := by omega
  have h0 : (len != 0) = true := by simp; omega
  simp [granuleParts, hk, h0]

theorem windowOf_spad {off : Nat} (h : off < 0x1000000) : windowOf off = some (.spad, off) := by
  simp [windowOf, h]

theorem cellsAt_eq (a : Nat) (bs : List Byte) : cellsAt a bs = (List.range bs.length).map fun i => (a + i, bs.getD i 0) := by
  induction bs generalizing a with
  | nil => rfl
  | cons b r ih =>
    rw [cellsAt, ih, List.length_cons, List.range_succ_eq_map, List.map_cons, List.map_map]
    refine congrArg _ (List.map_congr_left fun i _ => ?_)
    simp [Nat.add_assoc, Nat.add_comm 1]

/-- A narrow access within one granule of the scratchpad waits at the combiner, which scans in a cycle of its own. -/
theorem combAccess_narrow {s : State} {l : Nat} {c : CoreSt} (h : Alone s l c) {req : Requester} {off len : Nat}
    {data : Option (List Byte)} (hn : 0 < len) (h32 : len ≤ 32) (h64 : off % 64 + len ≤ 64) (ho : off + len ≤ 0x1000000)
    (hdata : ∀ bs, data = some bs → bs.length = len) (hw : c.combWait = []) :
    s.combAccess l req off len data = s.nextStamp.updCore l fun _ =>
      CoreSt.combScan s.time.cycle { c with combWait := [narrowAcc s req off len data] } := by
  have hguard : (len = 0 || 32 < len : Bool) = false := by simp; omega
  have hpart : (data.map fun bs => (bs.drop (off - off)).take len) = data := by
    cases data with
    | none => rfl
    | some bs => simp [← hdata bs rfl]
  have hspad := windowOf_spad (off := off) (by omega)
  have hns : Alone s.nextStamp l c := h
  unfold State.combAccess
  rw [hguard, granuleParts_one hn h64]
  simp only [Bool.false_eq_true, if_false, List.foldl_cons, List.foldl_nil, hpart, State.combPart, hspad]
  unfold State.combEnter State.combPut
  rw [updCore_updCore]
  · refine hns.updCore_congr ?_
    rw [hw]
    rfl
  · exact fun _ => rfl

/-- An access that the combiner takes at once. -/
theorem combScan_taken {c d : CoreSt} {cy : Nat} {a : CombAcc} (h : ({ c with combWait := [a] } : CoreSt).combTake cy a = some d) :
    CoreSt.combScan cy { c with combWait := [a] } = { d with combWait := [] } := by
  unfold CoreSt.combScan
  simp only [List.foldl_cons, List.foldl_nil, List.any_nil, Bool.false_eq_true, if_false, h]

/-! ### What the combiner does with it -/

/-- A write opens an entry of an empty combiner. -/
theorem combTake_open {c : CoreSt} {cy : Nat} {a : CombAcc} {cells : List (Nat × Byte)} (hc : c.combiner = [])
    (hf : c.flushWrites < 16) (ha : a.cells = some cells) (hn : cells.length < 64) :
    c.combTake cy a = some { c with
      combiner := [({ granule := a.granule, bytes := [], opened := cy } : CombEntry).merge a.req a.stamp cells] } := by
  unfold CoreSt.combTake
  simp only [ha, hc, List.any_nil, Bool.false_eq_true, if_false, List.length_nil, Nat.zero_add, hf, if_true, List.nil_append]
  rw [flushIf_none fun e he => ?_]
  obtain rfl := List.mem_singleton.mp he
  have : (({ granule := a.granule, bytes := [], opened := cy } : CombEntry).merge a.req a.stamp cells).bytes.length =
      cells.length := by simp [CombEntry.merge]
  simp [this, hn]

/-- A write merges into the entry of its granule. -/
theorem combTake_merge {c : CoreSt} {cy : Nat} {a : CombAcc} {e : CombEntry} {cells : List (Nat × Byte)}
    (hc : c.combiner = [e]) (hg : e.granule = a.granule) (ha : a.cells = some cells) :
    c.combTake cy a = some (({ c with combiner := [e.merge a.req a.stamp cells] } : CoreSt).flushIf
      fun e => 64 ≤ e.bytes.length) := by
  unfold CoreSt.combTake
  simp only [ha, hc, List.any_cons, hg, beq_self_eq_true, List.any_nil, Bool.or_false, if_true, List.map_cons, List.map_nil]

/-- A read of an empty combiner waits for its bank alone. -/
theorem combTake_read {c : CoreSt} {cy : Nat} {a : CombAcc} (hc : c.combiner = []) (ha : a.cells = none) :
    c.combTake cy a = some { c with flushes := c.flushes ++
      [{ granule := a.granule, bytes := [], opened := cy
         read := some { req := a.req, at_ := a.at_, len := a.len, sink := a.sink } }] } := by
  unfold CoreSt.combTake
  simp only [ha]
  rw [flushIf_none fun e he => ?_]
  rw [hc] at he
  cases he

/-! ### What the background path serves -/

/-- An only flush or read whose bank is free. -/
theorem combServe_one {s : State} {l : Nat} {c : CoreSt} {e : CombEntry} (h : Alone s l c) (hf : c.flushes = [e])
    (hb : bankOf e.granule ∉ c.bgUsed) :
    s.combServe l = ((s.updCore l fun c => { c with bgUsed := bankOf e.granule :: c.bgUsed }).combPerform l e).updCore l
      fun c => { c with flushes := [] } := by
  unfold State.combServe
  simp only [h.1, hf, List.foldl_cons, List.foldl_nil, List.any_nil, Bool.false_eq_true, if_false, takeBank_free h.1 hb]

theorem waits_none {d : CoreSt} (h : d.combWait = []) : ({ d with combWait := [] } : CoreSt) = d :=
  congrArg (fun w => ({ d with combWait := w } : CoreSt)) h.symm

/-- The entry of an access that a fence, its age or its length picks alone. -/
theorem leaving_head {p : CombEntry → Bool} {e : CombEntry} {r : List CombEntry} (he : p e = true)
    (hr : ∀ z ∈ r, p z = false) : leaving p (e :: r) = ([e], r) := by
  rw [leaving_cons, leaving_none hr, he]
  rfl

/-- Settles O31: a narrow access waits alone at the combiner (`combAccess_narrow`), which takes it at once (`combTake_open`,
`combTake_merge`, `combTake_read`); what leaves is `leaving`, and the bank serves it by `combServe_one`. -/
theorem combinerMergesAndFlushes : Obligations.CombinerMergesAndFlushes := by
  intro s l c req off bs h hw hn h32 h64 ho g cells n merged then_
  have hcells : cellsAt (off % 64) bs = cells := cellsAt_eq _ _
  have hclen : cells.length = bs.length := (List.length_map _).trans List.length_range
  have hns : Alone s.nextStamp l c := h
  have hwrite : ∀ {f : CoreSt → CoreSt},
      CoreSt.combScan s.time.cycle { c with combWait := [narrowAcc s req off bs.length (some bs)] } = f c →
      exec (.combinerWrite l req off bs) s = .next (s.nextStamp.updCore l f) := fun hf => by
    show execCombinerWrite l req off bs s = _
    rw [execCombinerWrite, onCore, h.1]
    exact congrArg Host.Outcome.next ((combAccess_narrow h hn h32 h64 ho (fun _ e => by cases e; rfl) hw).trans
      (hns.updCore_congr hf))
  refine ⟨fun hc hf => hwrite ?_, fun e hc hg hlen => hwrite ?_, fun e hc hg hlen => hwrite ?_, fun e r hc hold hyoung => ?_,
    ⟨_, rfl, List.length_map _, fun i d e hd he => ?_⟩, fun hc => ?_, ?_, fun e r hf hr hs hb => ?_, fun e hf hr hb => ?_⟩
  · rw [combScan_taken (combTake_open (c := { c with combWait := _ }) hc hf (congrArg some hcells) (by omega))]
    exact waits_none (d := { c with combiner := _ }) hw
  · rw [combScan_taken (combTake_merge (c := { c with combWait := _ }) hc hg (congrArg some hcells)),
      flushIf_none fun z hz => ?_]
    · exact waits_none (d := { c with combiner := _ }) hw
    · obtain rfl := List.mem_singleton.mp hz
      exact decide_eq_false (Nat.not_le.mpr hlen)
  · rw [combScan_taken (combTake_merge (c := { c with combWait := _ }) hc hg (congrArg some hcells)),
      flushIf_eq (leaving_head (decide_eq_true hlen) (by simp))]
    exact waits_none (d := { c with combiner := _, flushes := _ }) hw
  · show execCombinerEntryTimeout l s = _
    rw [execCombinerEntryTimeout, onCore, h.1]
    simp only [Option.bind_some, hc, List.head?_cons, advanceTo_past hold]
    refine congrArg Host.Outcome.next (h.updCore_congr ?_)
    rw [CoreSt.combTimeout, flushIf_eq (c := c)]
    rw [hc]
    exact leaving_head (decide_eq_true hold) fun z hz => decide_eq_false (Nat.not_le.mpr (hyoung z hz))
  · replace he : (s.cores.map fun c => c.flushIf fun z => z.has req)[i]? = some e := he
    rw [List.getElem?_map, hd] at he
    obtain rfl := Option.some.inj he
    obtain ⟨hkeep, hall⟩ := leaving_mem (fun z => z.has req) d.combiner
    exact ⟨hkeep, fun z hz => (hall z hz).imp_right (List.mem_append_right _), rfl, rfl⟩
  · show execCombinerRead l req off bs.length s = _
    rw [execCombinerRead, onCore, h.1]
    refine congrArg Host.Outcome.next ((combAccess_narrow h hn h32 h64 ho (fun _ e => by cases e) hw).trans
      (hns.updCore_congr ?_))
    rw [combScan_taken (combTake_read (c := { c with combWait := _ }) hc rfl)]
    exact waits_none (d := { c with flushes := _ }) hw
  · show execBackgroundPathAccess l .combiner s = _
    rw [execBackgroundPathAccess, onCore, h.1]
  · have hcore := (h.updCore (f := fun d => { d with bgUsed := bankOf e.granule :: d.bgUsed }) fun _ => rfl).1
    rw [combServe_one h hf hb, State.combPerform, hr]
    simp only [hcore, Option.map_some, Option.getD_some, hs, State.deliverRead]
    show ((s.updCore l fun d => { d with bgUsed := bankOf e.granule :: d.bgUsed }).updCore l
      fun d => { d with flushes := [] }).emit _ = _
    rw [updCore_updCore]
    exact fun _ => rfl
  · rw [combServe_one h hf hb, State.combPerform, hr]
    dsimp only
    rw [updCore_updCore, updCore_updCore]
    all_goals exact fun _ => rfl

end Sys2Proof.Machine
end

section
/-! PROOFS. Accesses of requesters to a stack that serves: each is carried out in the cycle in which it is made (spec chapters
01, 09, 10 and 13). -/

namespace Sys2Proof.Machine

/-! ### The pieces of an access -/

/-- Pieces that follow each other from one offset to another. -/
def Runs (a : Nat) (ps : List (Nat × Nat)) (n : Nat) : Prop :=
  match ps with
  | [] => a = n
  | p :: r => p.1 = a ∧ 0 < p.2 ∧ Runs (a + p.2) r n

theorem Runs.le {a n : Nat} {ps : List (Nat × Nat)} (h : Runs a ps n) : a ≤ n := by
  induction ps generalizing a with
  | nil => exact Nat.le_of_eq h
  | cons p r ih => exact (Nat.le_add_right a p.2).trans (ih h.2.2)

theorem runs_range {k n : Nat} (hk : 0 < k) (m a : Nat) (hm : m = (n - a + k - 1) / k) (ha : a ≤ n) :
    Runs a ((List.range m).map fun i => (a + k * i, min k (n - a - k * i))) n := by
  induction m generalizing a with
  | zero =>
    have : n - a + k - 1 < k := (Nat.div_eq_zero_iff_lt hk).mp hm.symm
    show a = n
    omega
  | succ m ih =>
    have hlow : k * (m + 1) ≤ n - a + k - 1 := (Nat.mul_comm _ _).trans_le (hm ▸ Nat.div_mul_le_self _ _)
    have hupp : n - a + k - 1 < k * (m + 1 + 1) := by
      have := Nat.lt_mul_div_succ (n - a + k - 1) hk
      rwa [← hm] at this
    have hkm : k * (m + 1) = k * m + k := Nat.mul_succ k m
    have hkm' : k * (m + 1 + 1) = k * m + k + k := by rw [Nat.mul_succ, hkm]
    rw [List.range_succ_eq_map, List.map_cons, List.map_map]
    refine ⟨by simp, by simp; omega, ?_⟩
    by_cases hfull : k ≤ n - a
    · have hmin : min k (n - a - k * 0) = k := by simp [hfull]
      rw [hmin]
      have hr := ih (a + k) (by
        refine (Nat.div_eq_of_lt_le ?_ ?_).symm
        · rw [Nat.mul_comm]; omega
        · rw [Nat.mul_comm, hkm]; omega) (by omega)
      convert hr using 2
      funext i
      simp only [Function.comp_apply, Nat.mul_succ]
      refine Prod.ext ?_ ?_ <;> dsimp only
      · omega
      · congr 1; omega
    · obtain rfl : m = 0 := by
        rcases Nat.eq_zero_or_pos m with h0 | h0
        · exact h0
        · have : k * 1 ≤ k * m := Nat.mul_le_mul_left k h0
          omega
      show a + min k (n - a - k * 0) = n
      simp only [Nat.mul_zero, Nat.sub_zero]
      omega

/-- The pieces of an access cover it. -/
theorem accessPieces_runs {k n : Nat} (hk : 0 < k) (g : Nat) : Runs 0 (accessPieces k g n) n := by
  unfold accessPieces
  by_cases h0 : n = 0
  · subst h0
    simp only [if_true, Nat.zero_min, Nat.sub_self, Nat.zero_add, List.nil_append]
    rw [Nat.div_eq_of_lt (by omega)]
    rfl
  · have hg := Nat.mod_lt g hk
    dsimp only
    rw [if_neg h0]
    refine ⟨rfl, by dsimp only; omega, ?_⟩
    dsimp only
    rw [Nat.zero_add]
    exact runs_range hk _ _ rfl (Nat.min_le_left _ _)

/-! ### Bytes of a stack -/

/-- The module with other bytes in its stacks. -/
def State.withStack (s : State) (m : Mem) : State := { s with mem := { s.mem with stackMem := m } }

/-- Bytes put in a stack from an offset on. -/
def stackPut (m : Mem) (st o : Nat) (bs : List Byte) : Mem :=
  (cellsAt o bs).foldl (fun m c => m.set (stackKey st c.1) c.2) m

theorem cellsAt_append (a : Nat) (x y : List Byte) : cellsAt a (x ++ y) = cellsAt a x ++ cellsAt (a + x.length) y := by
  induction x generalizing a with
  | nil => rfl
  | cons b r ih =>
    rw [List.cons_append, cellsAt, ih, cellsAt, List.length_cons, List.cons_append, Nat.add_right_comm, Nat.add_assoc]

theorem stackPut_append (m : Mem) (st o : Nat) (x y : List Byte) :
    stackPut (stackPut m st o x) st (o + x.length) y = stackPut m st o (x ++ y) := by
  rw [stackPut, stackPut, stackPut, cellsAt_append, List.foldl_append]

theorem withBytes_stack {s : State} {g st o : Nat} {bs : List Byte}
    (h : ∀ i < bs.length, s.place (g + i) = .stack st (o + i)) :
    s.withBytes g bs = s.withStack (stackPut s.mem.stackMem st o bs) := by
  induction bs generalizing s g o with
  | nil => rfl
  | cons b r ih =>
    have h0 : s.place g = .stack st o := h 0 (Nat.succ_pos _)
    show (s.putByte (s.place g) b).withBytes (g + 1) r = _
    rw [h0]
    show (s.withStack (s.mem.stackMem.set (stackKey st o) b)).withBytes (g + 1) r = _
    rw [ih (o := o + 1) fun i hi => ?_]
    · rfl
    · show s.place (g + 1 + i) = _
      rw [Nat.add_assoc, Nat.add_comm 1, h (i + 1) (Nat.succ_lt_succ hi), Nat.add_assoc, Nat.add_comm 1]

/-- A stack in which every byte of an access serves. -/
def Serves (s : State) (j : Job) (st o : Nat) : Prop :=
  ∀ i < j.len, s.place (j.ga + i) = .stack st (o + i) ∧ s.jobFault j (j.ga + i) = none ∧
    s.refreshing (.stack st (o + i)) = false

/-- A piece of a write to a stack that serves. -/
theorem servePiece_write {s : State} {j : Job} {st o off m : Nat} {bs : List Byte} (h : Serves s j st o)
    (hd : j.data = some bs) (hl : bs.length = j.len) (hm : 0 < m) (hoff : off + m ≤ j.len) :
    s.servePiece j off m = some (s.withStack (stackPut s.mem.stackMem st (o + off) ((bs.drop off).take m))) := by
  obtain ⟨hp, hf, hr⟩ := h off (by omega)
  have hlen : ((bs.drop off).take m).length = m := by
    rw [List.length_take, List.length_drop]
    omega
  have hput := withBytes_stack (s := s) (g := j.ga + off) (st := st) (o := o + off) (bs := (bs.drop off).take m)
    fun i hi => by
      rw [Nat.add_assoc, (h (off + i) (by omega)).1, Nat.add_assoc]
  unfold State.servePiece
  simp only [hf, hp, hr, hd, Option.map_some, Bool.false_eq_true, if_false]
  exact congrArg some hput

/-- A piece of a read of a stack that serves. -/
theorem servePiece_read {s : State} {j : Job} {st o off m : Nat} (h : Serves s j st o) (hd : j.data = none) (hm : 0 < m)
    (hoff : off + m ≤ j.len) : s.servePiece j off m = some (s.updJob j.stamp fun j =>
      { j with got := j.got ++ (List.range m).map fun i => (off + i, s.placeByte (.stack st (o + off + i))) }) := by
  obtain ⟨hp, hf, hr⟩ := h off (by omega)
  have hcells : ((List.range m).map fun i => (off + i, s.placeByte (s.place (j.ga + off + i)))) =
      (List.range m).map fun i => (off + i, s.placeByte (.stack st (o + off + i))) :=
    List.map_congr_left fun i hi => by
      have := List.mem_range.mp hi
      rw [Nat.add_assoc, (h (off + i) (by omega)).1, Nat.add_assoc]
  unfold State.servePiece
  simp only [hf, hp, hr, hd, Option.map_none, Bool.false_eq_true, if_false, hcells]

/-! ### The queue of accesses -/

/-- The queue of accesses replaced. -/
def State.withJobs (s : State) (l : List Job) : State := { s with fab := { s.fab with jobs := l } }

/-- An only access waits for none. -/
theorem eachJob_one {s : State} {j : Job} (h : s.fab.jobs = [j]) (f : State → Job → State) : s.eachJob f = f s j := by
  have hb : (s.fab.jobs.any fun i => i.stamp < j.stamp && j.behind i) = false := by simp [h]
  unfold State.eachJob State.job?
  simp only [h, List.map_cons, List.map_nil, List.foldl_cons, List.foldl_nil, List.find?_cons, beq_self_eq_true]
  rw [← h, hb]
  rfl

/-- The pieces of an access that all find their place. -/
def servePieces (j : Job) (ps : List (Nat × Nat)) (a : State × List (Nat × Nat)) : State × List (Nat × Nat) :=
  ps.foldl (fun a p => match a.1.servePiece j p.1 p.2 with
    | some s => (s, a.2)
    | none => (a.1, a.2 ++ [p])) a

theorem servePieces_cons {j : Job} {p : Nat × Nat} {ps : List (Nat × Nat)} {a : State × List (Nat × Nat)} {t : State}
    (h : a.1.servePiece j p.1 p.2 = some t) : servePieces j (p :: ps) a = servePieces j ps (t, a.2) := by
  rw [servePieces, List.foldl_cons, h]
  rfl

theorem placeJob_eq (s : State) (j : Job) : s.placeJob j =
    (servePieces j j.todo (s, [])).1.updJob j.stamp fun i => { i with todo := (servePieces j j.todo (s, [])).2 } := rfl

/-- The pieces of a write to a stack put the bytes that they cover. -/
theorem servePieces_write {s : State} {j : Job} {st o : Nat} {bs : List Byte} (h : Serves s j st o) (hd : j.data = some bs)
    (hl : bs.length = j.len) {ps : List (Nat × Nat)} {a : Nat} (hr : Runs a ps j.len) (r : List (Nat × Nat)) :
    servePieces j ps (s.withStack (stackPut s.mem.stackMem st o (bs.take a)), r) =
      (s.withStack (stackPut s.mem.stackMem st o bs), r) := by
  induction ps generalizing a with
  | nil =>
    obtain rfl : a = j.len := hr
    rw [List.take_of_length_le hl.le]
    rfl
  | cons p ps ih =>
    obtain ⟨off, m⟩ := p
    obtain ⟨rfl, hm, hrest⟩ : off = a ∧ 0 < m ∧ Runs (a + m) ps j.len := hr
    have hle := hrest.le
    have hs : Serves (s.withStack (stackPut s.mem.stackMem st o (bs.take off))) j st o := h
    have ha : (bs.take off).length = off := by
      rw [List.length_take]
      omega
    have hput : stackPut (stackPut s.mem.stackMem st o (bs.take off)) st (o + off) ((bs.drop off).take m) =
        stackPut s.mem.stackMem st o (bs.take (off + m)) := by
      have happ := stackPut_append s.mem.stackMem st o (bs.take off) ((bs.drop off).take m)
      rwa [ha, ← List.take_add] at happ
    have hpiece : (s.withStack (stackPut s.mem.stackMem st o (bs.take off))).servePiece j off m =
        some (s.withStack (stackPut s.mem.stackMem st o (bs.take (off + m)))) :=
      (servePiece_write hs hd hl hm hle).trans (congrArg (fun m => some (s.withStack m)) hput)
    exact (servePieces_cons (p := (off, m)) (a := (_, r)) hpiece).trans (ih hrest)

/-- The bytes of an access that its first pieces have read. -/
def Job.withGot (j : Job) (s : State) (st o a : Nat) : Job :=
  { j with got := (List.range a).map fun i => (i, s.placeByte (.stack st (o + i))) }

/-- The pieces of a read of a stack bring the bytes that they cover. -/
theorem servePieces_read {s : State} {j : Job} {st o : Nat} (h : Serves s j st o) (hd : j.data = none)
    {ps : List (Nat × Nat)} {a : Nat} (hr : Runs a ps j.len) (r : List (Nat × Nat)) :
    servePieces j ps (s.withJobs [j.withGot s st o a], r) = (s.withJobs [j.withGot s st o j.len], r) := by
  induction ps generalizing a with
  | nil =>
    obtain rfl : a = j.len := hr
    rfl
  | cons p ps ih =>
    obtain ⟨off, m⟩ := p
    obtain ⟨rfl, hm, hrest⟩ : off = a ∧ 0 < m ∧ Runs (a + m) ps j.len := hr
    have hs : Serves (s.withJobs [j.withGot s st o off]) j st o := h
    have hgot : (j.withGot s st o off).got ++ ((List.range m).map fun i => (off + i, s.placeByte (.stack st (o + off + i)))) =
        (j.withGot s st o (off + m)).got := by
      rw [Job.withGot, Job.withGot, List.range_add, List.map_append, List.map_map]
      refine congrArg _ (List.map_congr_left fun i _ => ?_)
      rw [Function.comp_apply, Nat.add_assoc]
    have hupd : (s.withJobs [j.withGot s st o off]).updJob j.stamp (fun j => { j with
        got := j.got ++ (List.range m).map fun i => (off + i, s.placeByte (.stack st (o + off + i))) }) =
        s.withJobs [j.withGot s st o (off + m)] := by
      refine congrArg s.withJobs ?_
      show [if j.stamp == j.stamp then _ else _] = _
      rw [beq_self_eq_true, if_pos rfl]
      exact congrArg (fun g => [({ j with got := g } : Job)]) hgot
    have hpiece : (s.withJobs [j.withGot s st o off]).servePiece j off m = some (s.withJobs [j.withGot s st o (off + m)]) :=
      (servePiece_read hs hd hm hrest.le).trans (congrArg some hupd)
    exact (servePieces_cons (p := (off, m)) (a := (_, r)) hpiece).trans (ih hrest)

/-- An access that is done and has an end leaves the queue. -/
theorem endJob_one {s : State} {j : Job} (h : s.fab.jobs = [j]) (hd : s.jobDone j = true) (hf : j.fin ≠ .debug) :
    s.endJob j = (s.withJobs []).finishJob j := by
  have hnil : (s.fab.jobs.filter fun i => i.stamp != j.stamp) = [] := by simp [h]
  unfold State.endJob
  rw [hd, bne_iff_ne.mpr hf, Bool.and_self, if_pos rfl, hnil]
  rfl

/-! ### Accesses to a stack -/

/-- An access as it arrives. -/
def State.jobOf (s : State) (req : Option Requester) (g : GA) (len : Nat) (data : Option (List Byte)) (ecc : EccOutcome)
    (fin : JobEnd) : Job :=
  { stamp := s.fab.nextStamp, req := req, ga := g, len := len, data := data, ecc := ecc, since := s.time.cycle, fin := fin
    todo := accessPieces (if req.isSome then 32 else 64) g len }

/-- An access with nothing left on its way. -/
def Job.placed (j : Job) : Job := { j with todo := [] }

theorem addJob_one {s : State} (h : s.fab.jobs = []) (req : Option Requester) (g : GA) (len : Nat)
    (data : Option (List Byte)) (ecc : EccOutcome) (fin : JobEnd) :
    s.addJob req g len data ecc fin = s.nextStamp.withJobs [s.jobOf req g len data ecc fin] :=
  congrArg s.nextStamp.withJobs ((congrArg (· ++ [s.jobOf req g len data ecc fin]) h).trans (List.nil_append _))

theorem nearPlace_ne_stack (s : State) (g st o : Nat) : s.nearPlace g ≠ .stack st o := by
  unfold State.nearPlace
  split
  · split
    · simp
    · split <;> simp
  · split
    · simp
    · split
      · simp
      · dsimp only
        split
        · simp
        · split <;> simp

theorem space_of_stack {s : State} {g st o : Nat} (h : s.place g = .stack st o) : gaSpace g = 2 := by
  unfold State.place at h
  split at h
  · split at h <;> cases h
  · split at h
    · split at h <;> cases h
    · exact absurd h (nearPlace_ne_stack s g st o)
    · assumption
    · cases h

/-- An access that arrives at a stack that serves. -/
theorem serves_jobOf {s : State} {g n st o : Nat} (h : InStack s g n st o) (req : Option Requester)
    (data : Option (List Byte)) (ecc : EccOutcome) (fin : JobEnd) : Serves s (s.jobOf req g n data ecc fin) st o := by
  intro i hi
  obtain ⟨hp, hk, hr⟩ := h i hi
  refine ⟨hp, ?_, hr⟩
  cases req with
  | some _ =>
    show s.reqFault (g + i) s.time.cycle = none
    simp only [State.reqFault, hp, hk, Bool.false_eq_true, if_false]
  | none =>
    show s.placeFault (s.place (g + i)) (g + i) (some s.time.cycle) = none
    simp [State.placeFault, hp, hk, space_of_stack hp]

theorem jobOf_runs (s : State) (req : Option Requester) (g n : Nat) (data : Option (List Byte)) (ecc : EccOutcome)
    (fin : JobEnd) : Runs 0 (s.jobOf req g n data ecc fin).todo n := by
  refine accessPieces_runs ?_ g
  split <;> decide

/-- The only access of the queue, once its pieces are served. -/
theorem updJob_one (s : State) (j : Job) (f : Job → Job) : (s.withJobs [j]).updJob j.stamp f = s.withJobs [f j] := by
  refine congrArg s.withJobs ?_
  show [if j.stamp == j.stamp then f j else j] = [f j]
  rw [beq_self_eq_true, if_pos rfl]

section
variable {s : State} {g st o : Nat} (hw : NoneWaits s) (req : Option Requester) (ecc : EccOutcome) (fin : JobEnd)
include hw

/-- A write to a stack that serves is carried out in the cycle in which it arrives. -/
theorem placed_write {bs : List Byte} (h : InStack s g bs.length st o) :
    (s.addJob req g bs.length (some bs) ecc fin).eachJob State.placeJob =
      (s.nextStamp.withBytes g bs).withJobs [(s.jobOf req g bs.length (some bs) ecc fin).placed] := by
  have hserve : Serves (s.nextStamp.withJobs [s.jobOf req g bs.length (some bs) ecc fin])
    (s.jobOf req g bs.length (some bs) ecc fin) st o := serves_jobOf h req (some bs) ecc fin
  have hpieces := servePieces_write hserve rfl rfl (jobOf_runs s req g bs.length (some bs) ecc fin) []
  have hput := withBytes_stack (s := s.nextStamp) fun i hi => (h i hi).1
  rw [addJob_one hw.jobs, eachJob_one rfl, placeJob_eq, hput]
  refine (congrArg (fun a : State × List (Nat × Nat) => a.1.updJob _ fun i => { i with todo := a.2 }) hpieces).trans ?_
  exact updJob_one (s.nextStamp.withStack _) _ _

/-- Nothing of a placed write is left on its way. -/
theorem jobDone_write {bs : List Byte} {t : State} (hc : t.cores = s.cores) :
    t.jobDone (s.jobOf req g bs.length (some bs) ecc fin).placed = true := by
  have hall : (t.cores.all fun c => !c.holdsStamp s.fab.nextStamp &&
      !(c.landing.any fun w => w.outer == some s.fab.nextStamp)) = true := by
    rw [hc, List.all_eq_true]
    intro c hcm
    obtain ⟨h1, h2⟩ := hw.cores c hcm
    rw [h1, Bool.not_false, Bool.true_and, Bool.not_eq_true', List.any_eq_false]
    exact fun w hwm hww => h2 w hwm (beq_iff_eq.mp hww)
  exact hall

/-- A write to a stack that serves has its end in the cycle in which it arrives. -/
theorem access_write {bs : List Byte} (h : InStack s g bs.length st o) (hf : fin ≠ .debug) :
    s.access req g bs.length (some bs) ecc fin =
      (s.nextStamp.withBytes g bs).finishJob (s.jobOf req g bs.length (some bs) ecc fin).placed := by
  have hput := withBytes_stack (s := s.nextStamp) fun i hi => (h i hi).1
  rw [State.access, placed_write hw req ecc fin h, hput, eachJob_one rfl, endJob_one rfl]
  · exact congrArg (fun l => (((s.nextStamp.withStack _).withJobs l).finishJob _)) hw.jobs.symm
  · exact jobDone_write hw req ecc fin rfl
  · exact hf

end

section
variable {s : State} {g st o : Nat} (hj : s.fab.jobs = []) (req : Option Requester) (ecc : EccOutcome) (fin : JobEnd)
include hj

/-- A read of a stack that serves is carried out in the cycle in which it arrives. -/
theorem placed_read {n : Nat} (h : InStack s g n st o) :
    (s.addJob req g n none ecc fin).eachJob State.placeJob =
      s.nextStamp.withJobs [((s.jobOf req g n none ecc fin).withGot s st o n).placed] := by
  have hserve : Serves (s.nextStamp.withJobs [s.jobOf req g n none ecc fin]) (s.jobOf req g n none ecc fin) st o :=
    serves_jobOf h req none ecc fin
  have hpieces := servePieces_read hserve rfl (jobOf_runs s req g n none ecc fin) []
  rw [addJob_one hj, eachJob_one rfl, placeJob_eq]
  refine (congrArg (fun a : State × List (Nat × Nat) => a.1.updJob _ fun i => { i with todo := a.2 }) hpieces).trans ?_
  exact updJob_one s.nextStamp _ _

/-- A read of a stack that serves has its end in the cycle in which it arrives. -/
theorem access_read {n : Nat} (h : InStack s g n st o) (hf : fin ≠ .debug) :
    s.access req g n none ecc fin =
      s.nextStamp.finishJob ((s.jobOf req g n none ecc fin).withGot s st o n).placed := by
  rw [State.access, placed_read hj req ecc fin h, eachJob_one rfl, endJob_one rfl]
  · exact congrArg (fun l => ((s.nextStamp.withJobs l).finishJob _)) hj.symm
  · show decide (n ≤ ((List.range n).map _).length) = true
    rw [List.length_map, List.length_range, decide_eq_true_eq]
  · exact hf

end

/-- The bytes that an access has read. -/
theorem bytes_withGot {s : State} {j : Job} {st o : Nat} : (j.withGot s st o j.len).bytes = s.stackBytes st o j.len := by
  refine List.map_congr_left fun i hi => ?_
  have hfind : ((List.range j.len).map fun i => (i, s.placeByte (.stack st (o + i)))).find? (fun b => b.1 == i) =
      some (i, s.placeByte (.stack st (o + i))) := by
    rw [List.find?_map]
    have : (List.range j.len).find? ((fun b : Nat × Byte => b.1 == i) ∘ fun i => (i, s.placeByte (.stack st (o + i)))) =
        some i := by
      rw [List.find?_range_eq_some]
      refine ⟨by simp, hi, fun k hk => ?_⟩
      simp only [Function.comp_def, Bool.not_eq_true', beq_eq_false_iff_ne]
      omega
    rw [this]
    rfl
  show (((((List.range j.len).map fun i => (i, s.placeByte (.stack st (o + i)))).find? fun b => b.1 == i).map
    fun b => b.2).getD 0) = _
  rw [hfind]
  rfl

/-- Settles O33: a prep core's access to a stack that serves ends in its cycle (`access_write`, `access_read`). -/
theorem prepCoreReachesMemory : Obligations.PrepCoreReachesMemory := by
  intro s hart st o g bs n hh hon hn hl hw h
  have h0 : s.place g = .stack st o := (h 0 hn).1
  subst hl
  refine ⟨?_, ?_⟩
  · show execPrepCoreAccess hart (.store g bs) s = _
    rw [execPrepCoreAccess, if_neg (Nat.not_le.mpr hh), hon]
    simp only [Bool.not_true, Bool.false_eq_true, if_false, State.prepStore, h0]
    rw [access_write hw _ _ _ h (by simp)]
    rfl
  · show execPrepCoreAccess hart (.load g bs.length .clean) s = _
    rw [execPrepCoreAccess, if_neg (Nat.not_le.mpr hh), hon]
    simp only [Bool.not_true, Bool.false_eq_true, if_false, State.prepLoad, h0]
    rw [access_read hw.jobs _ _ _ h (by simp)]
    refine congrArg (fun b => Host.Outcome.next (s.nextStamp.emit (.prepRead hart b true))) ?_
    exact bytes_withGot (j := s.jobOf (some (.prep hart)) g bs.length none .clean (.prep hart))

end Sys2Proof.Machine
end

section
/-! PROOFS. Refresh, parking units and mesh links (spec chapters 00 and 09). -/

namespace Sys2Proof.Machine

/-- Settles O34: the moment of the row has come, so the clock stands and the row's effect is all that happens. -/
theorem refreshRewritesAndHoldsChannels : Obligations.RefreshRewritesAndHoldsChannels := by
  intro s die stack ch k
  refine ⟨fun hd hslot => ?_, fun hs hc hk hlast => ?_, fun hs hc hk hbusy => ?_⟩
  · show execWellRefreshSlot die [] s = _
    rw [execWellRefreshSlot, if_neg (Nat.not_le.mpr hd), hslot, advanceTo_past le_rfl]
    rfl
  · have hnk : s.mem.refreshing.contains (stack * 64 + ch) = false := by simpa using hk
    have hadv : (if s.mem.stackLast.any (fun x => x.1 == stack * 64 + ch) then
        s.advanceTo (countOf s.mem.stackLast (stack * 64 + ch) + s.refreshGap stack) else s) = s := by
      split
      case isTrue h => exact advanceTo_past (hlast h)
      case isFalse => rfl
    show execStackRefresh stack ch true s = _
    rw [execStackRefresh, if_neg (by omega)]
    simp only [if_true, hnk, Bool.false_eq_true, if_false, hadv]
    rfl
  · have hck : s.mem.refreshing.contains (stack * 64 + ch) = true := by simpa using hk
    show execStackRefresh stack ch false s = _
    rw [execStackRefresh, if_neg (by omega)]
    have hadv : s.advanceTo (countOf s.mem.stackBusy (stack * 64 + ch)) = s := advanceTo_past hbusy
    simp only [Bool.false_eq_true, if_false, hck, if_true, hadv]
    rfl

/-! ### Parking units -/

/-- The only entry of the parking table. -/
theorem parkEntry_one {s : State} {e : ParkEntry} (h : s.mem.parked = [e]) : s.parkEntry e.unit = some e := by
  simp [State.parkEntry, h]

theorem settleParks_one {s : State} {e : ParkEntry} (h : s.mem.parked = [e]) (hm : s.fw.mgmtDown = false) :
    s.settleParks = s.settlePark e := by
  simp [State.settleParks, h, hm]

theorem updPark_one {s : State} {e : ParkEntry} (h : s.mem.parked = [e]) (f : ParkEntry → ParkEntry) :
    s.updPark e.unit f = { s with mem := { s.mem with parked := [f e] } } := by
  simp [State.updPark, h]

theorem parkAck_silent {e : ParkEntry} (h : e.session = 0) (s : State) (p : Nat) : s.parkAck e p = s := by
  rw [State.parkAck, if_pos h]

/-- Settles O35: the one entry of the table settles in the cycle to which the clock has come. -/
theorem parkingUnitsDrainAndReopen : Obligations.ParkingUnitsDrainAndReopen := by
  intro s e p l c hp hm becomes
  have hsettle := settleParks_one hp hm
  have htakes : ∀ q, (e.phase = .pending q ∨ e.phase = .reopening q) → (∀ t, s.parkWait e q = some t → t ≤ s.time.cycle) →
      exec (.parkTakesEffect e.unit) s = .next (s.settlePark e) := fun q hq hw => by
    show execParkTakesEffect e.unit s = _
    have hnow : (match s.parkWait e q with | some t => (s.advanceTo t).settleParks | none => s.settleParks) =
        s.settlePark e := by
      split
      next t ht => rw [advanceTo_past (hw t ht), hsettle]
      next => exact hsettle
    unfold execParkTakesEffect
    simp only [parkEntry_one hp]
    rcases hq with hq | hq <;> simp only [hq] <;> exact congrArg Host.Outcome.next hnow
  have hparked : ∀ drained, e.phase = .draining p → e.session = 0 →
      (drained = false → p + s.ns 10000 ≤ s.time.cycle) → (drained = true → s.drainBusy e.place p = false) →
      exec (.unitParked e.unit drained) s = becomes .parked := fun drained hph hs hlate hidle => by
    have hadv : (if drained then s else s.advanceTo (p + s.ns 10000)) = s := by
      cases drained with
      | true => rfl
      | false => exact advanceTo_past (hlate rfl)
    have hdue : (decide (p + s.ns 10000 ≤ s.time.cycle) || !s.drainBusy e.place p) = true := by
      cases drained with
      | true => rw [hidle rfl, Bool.not_false, Bool.or_true]
      | false => rw [decide_eq_true (hlate rfl), Bool.true_or]
    show execUnitParked e.unit drained s = _
    unfold execUnitParked
    simp only [parkEntry_one hp, hph, hadv, hsettle, State.settlePark, hdue, if_true, updPark_one hp, parkAck_silent hs]
    rfl
  refine ⟨fun hph hpc => ?_, fun hph hw hc hst hlt => ?_, fun hph hpc hs => ?_,
    fun hph hs hidle => hparked true hph hs (fun h => nomatch h) fun _ => hidle,
    fun hph hs hlate => hparked false hph hs (fun _ => hlate) fun h => nomatch h⟩
  · rw [htakes (some p) (.inl hph) fun t ht => by
      obtain rfl : p = t := by simpa [State.parkWait] using ht
      exact hpc]
    simp only [State.settlePark, hph, State.parkNow, hpc, if_true, updPark_one hp]
    rfl
  · rw [htakes none (.inl hph) fun t ht => by simp [State.parkWait, hst] at ht]
    have hnow : s.parkNow e none = some c.stepCycle := by simp [State.parkNow, hw, hc, hlt]
    simp only [State.settlePark, hph, hnow, updPark_one hp]
    rfl
  · rw [htakes (some p) (.inr hph) fun t ht => by
      obtain rfl : p = t := by simpa [State.parkWait] using ht
      exact hpc]
    simp only [State.settlePark, hph, State.parkNow, hpc, if_true, hp, parkAck_silent hs, List.filter_cons,
      bne_self_eq_false, Bool.false_eq_true, if_false, List.filter_nil]

/-! ### Mesh links -/

/-- A group of the only region moves to chain mode. -/
theorem toChain_one {s : State} {x : Region} {g : Nat} (h : s.regions = [x]) (hc : x.chainMode.getD g true = false) :
    s.toChain x.num g = (s.updRegion x.num fun y => { y with chainMode := y.chainMode.set g true }).notify .groupMode
      [.num x.num, .num g, .flag true] := by
  have hx : s.region? x.num = some x := by simp [State.region?, h]
  unfold State.toChain
  simp only [hx, hc, Bool.false_eq_true, if_false]
  rfl

/-- Settles O36: the two ends are marked first, and then each group of the link moves by `toChain_one`. -/
theorem meshLinkDownMarksBothEnds : Obligations.MeshLinkDownMarksBothEnds := by
  intro s die dir retries other g x hd hdir hn hm ends down
  have hexec : exec (.meshLinkDown die dir retries) s =
      .next ((s.regions.flatMap fun x => (x.groupsOn ends).map fun g => (x.num, g)).foldl
        (fun s (m : Nat × Nat) => s.toChain m.1 m.2) down) := by
    show execMeshLinkDown die dir retries s = _
    rw [execMeshLinkDown, if_neg (by omega)]
    simp only [hn, hm, List.contains_nil, Bool.not_false, List.filter_true, List.nil_append]
    rfl
  refine ⟨fun hy => ?_, fun hx hg hc => ?_⟩
  · have hnil : (s.regions.flatMap fun x => (x.groupsOn ends).map fun g => (x.num, g)) = [] :=
      List.flatMap_eq_nil_iff.mpr fun y hyr => by rw [hy y hyr, List.map_nil]
    rw [hexec, hnil, List.foldl_nil]
  · have hone : (s.regions.flatMap fun x => (x.groupsOn ends).map fun g => (x.num, g)) = [(x.num, g)] := by
      simp [hx, hg]
    rw [hexec, hone, List.foldl_cons, List.foldl_nil, toChain_one (s := down) hx hc]

end Sys2Proof.Machine
end

section
/-! PROOFS. What the Kollek ports send and what a report moves: the state around them (spec chapters 10 and 13). -/

namespace Sys2Proof.Machine

/-! ### Reports and module-level faults -/

/-- What reports, module faults and the stops they cause leave as it is. -/
structure Aside (s t : State) : Prop where
  kol : t.kol = s.kol
  mem : t.mem = s.mem
  fab : t.fab = s.fab
  time : t.time = s.time
  set : t.set = s.set
  sec : t.sec = s.sec
  eth : t.eth = s.eth
  part : t.part = s.part
  pending : t.pending = s.pending

theorem Aside.refl (s : State) : Aside s s := ⟨rfl, rfl, rfl, rfl, rfl, rfl, rfl, rfl, rfl⟩

theorem Aside.trans {s t u : State} (h : Aside s t) (g : Aside t u) : Aside s u :=
  ⟨g.kol.trans h.kol, g.mem.trans h.mem, g.fab.trans h.fab, g.time.trans h.time, g.set.trans h.set, g.sec.trans h.sec,
    g.eth.trans h.eth, g.part.trans h.part, g.pending.trans h.pending⟩

theorem aside_report (s : State) (p : Session → Bool) (code : EvCode) (items : List Item) (core : Option Nat) :
    Aside s (s.report p code items core) := by
  obtain ⟨h, f, e⟩ := s.report_shape p code items core
  rw [e]
  exact ⟨rfl, rfl, rfl, rfl, rfl, rfl, rfl, rfl, rfl⟩

theorem aside_notify (s : State) (code : EvCode) (items : List Item) (core : Option Nat) :
    Aside s (s.notify code items core) := aside_report s _ code items core

theorem aside_updRegion (s : State) (r : Nat) (f : Region → Region) : Aside s (s.updRegion r f) :=
  ⟨rfl, rfl, rfl, rfl, rfl, rfl, rfl, rfl, rfl⟩

theorem aside_updCoresOf (s : State) (r : Nat) (f : CoreSt → CoreSt) : Aside s (s.updCoresOf r f) :=
  ⟨rfl, rfl, rfl, rfl, rfl, rfl, rfl, rfl, rfl⟩

theorem aside_setPhase (s : State) (r : Nat) (p : Phase) (cause : Nat) : Aside s (s.setPhase r p cause) := by
  unfold State.setPhase
  split
  · exact Aside.refl s
  · exact (aside_updRegion s r _).trans (aside_notify _ _ _ _)

theorem aside_toStopping (s : State) (r : Nat) (k : EndReason) (g : StopGoal) (cause : Nat) :
    Aside s (s.toStopping r k g cause) := by
  unfold State.toStopping
  split
  · exact Aside.refl s
  · dsimp only
    split
    · exact (aside_updRegion s r _).trans (aside_setPhase _ _ _ _)
    · exact aside_updRegion s r _

theorem aside_stopRegionStep (s : State) (r k : Nat) (e : EndReason) (g : StopGoal) (cause : Nat) :
    Aside s (s.stopRegionStep r k e g cause) :=
  (aside_updCoresOf s r _).trans (aside_toStopping _ _ _ _ _)

theorem aside_stopRegionNow (s : State) (r : Nat) (first : Nat → Bool) (a b : Nat) (e : EndReason) (g : StopGoal)
    (cause : Nat) : Aside s (s.stopRegionNow r first a b e g cause) :=
  (aside_updCoresOf s r _).trans (aside_toStopping _ _ _ _ _)

theorem aside_foldl {α : Type} {f : State → α → State} (h : ∀ s x, Aside s (f s x)) (l : List α) (s : State) :
    Aside s (l.foldl f s) := by
  induction l generalizing s with
  | nil => exact Aside.refl s
  | cons x r ih => exact (h s x).trans (ih _)

theorem aside_moduleStop (s : State) (p : Policy) (cause : Nat) : Aside s (s.moduleStop p cause) := by
  refine aside_foldl (fun s x => ?_) _ _
  dsimp only
  split
  · exact Aside.refl s
  · cases p with
    | log => exact Aside.refl s
    | stopStep => exact aside_stopRegionStep _ _ _ _ _ _
    | stop => exact aside_stopRegionNow _ _ _ _ _ _ _ _

theorem aside_raiseModule (s : State) (code : FCode) (detail cause : Nat) : Aside s (s.raiseModule code detail cause) := by
  unfold State.raiseModule
  refine Aside.trans ?_ (aside_moduleStop _ _ _)
  refine Aside.trans (Aside.trans ?_ (aside_notify _ _ _ _)) ⟨rfl, rfl, rfl, rfl, rfl, rfl, rfl, rfl, rfl⟩
  exact ⟨rfl, rfl, rfl, rfl, rfl, rfl, rfl, rfl, rfl⟩

/-! ### What a port sends -/

/-- The module with other ports and other output. -/
def State.net (s : State) (ps : List KPort) (out : List Out) : State :=
  { s with kol := { s.kol with ports := ps }, host := { s.host with outbox := out } }

/-- Only ports and output have moved. -/
def Net (s t : State) : Prop := ∃ ps out, t = s.net ps out

theorem Net.refl (s : State) : Net s s := ⟨_, _, rfl⟩

theorem Net.trans {s t u : State} (h : Net s t) (g : Net t u) : Net s u := by
  obtain ⟨ps, o, rfl⟩ := h
  obtain ⟨ps', o', rfl⟩ := g
  exact ⟨ps', o', rfl⟩

theorem net_updPort (s : State) (p : Nat) (f : KPort → KPort) : Net s (s.updPort p f) := ⟨_, _, rfl⟩

theorem net_sendFlit (s : State) (p vl kind : Nat) (hdr : FlitHdr) (data : List Byte) :
    Net s (s.sendFlit p vl kind hdr data) := by
  unfold State.sendFlit
  dsimp only
  split
  · exact ⟨_, _, rfl⟩
  · exact ⟨_, _, rfl⟩

theorem net_foldl {α : Type} {f : State → α → State} (h : ∀ s x, Net s (f s x)) (l : List α) (s : State) :
    Net s (l.foldl f s) := by
  induction l generalizing s with
  | nil => exact Net.refl s
  | cons x r ih => exact (h s x).trans (ih _)

theorem net_pump (s : State) (p : Nat) : Net s (s.pump p) :=
  (net_updPort s p _).trans (net_foldl (fun s (k : FlitPkt) => net_sendFlit s p k.vl k.kind k.hdr k.data) _ _)

theorem net_receive (s : State) (p vl kind : Nat) (hdr : FlitHdr) (n : Nat) : Net s (s.receive p vl kind hdr n) :=
  (net_updPort s p _).trans (net_pump _ p)

theorem net_flood (s : State) (kind : Nat) (hdr : FlitHdr) (data : List Byte) : Net s (s.flood kind hdr data) :=
  net_foldl (fun s p => net_sendFlit s p _ _ _ _) _ _

theorem net_passOn (s : State) (port kind : Nat) (hdr : FlitHdr) (msg : MgmtMsg) : Net s (s.passOn port kind hdr msg) := by
  unfold State.passOn
  split
  · exact Net.refl s
  · exact net_foldl (fun s p => net_sendFlit s p _ _ _ _) _ _

/-! ### A port's link state -/

/-- The link state of a port: what numbering, credits and the queue of a packet do not touch. -/
def KPort.link (x : KPort) : KPort := { x with sendSeq := 0, retry := [], spent := [], owed := [], queue := [] }

theorem port_of_getElem {s : State} {p : Nat} {x : KPort} (h : s.kol.ports[p]? = some x) : s.port p = x := by
  rw [State.port, h]
  rfl

theorem port_updPort {s : State} {p : Nat} {x : KPort} (h : s.kol.ports[p]? = some x) (f : KPort → KPort) :
    (s.updPort p f).kol.ports[p]? = some (f x) := by
  show (s.kol.ports.modify p f)[p]? = _
  rw [List.getElem?_modify, h]
  simp

/-- A packet sent on a port keeps its link state. -/
theorem port_sendFlit {s : State} {p : Nat} {x : KPort} (h : s.kol.ports[p]? = some x) (vl kind : Nat) (hdr : FlitHdr)
    (data : List Byte) : ∃ y, (s.sendFlit p vl kind hdr data).kol.ports[p]? = some y ∧ y.link = x.link := by
  unfold State.sendFlit
  dsimp only
  split
  · exact ⟨_, port_updPort h _, rfl⟩
  · exact ⟨_, port_updPort h _, rfl⟩

end Sys2Proof.Machine
end

section
/-! PROOFS. Kollek links, lost partners and link-level retry (spec chapters 10 and 17). -/

namespace Sys2Proof.Machine

theorem onPort_in {p : Nat} (h : p < 16) (f : State → State) (s : State) : onPort p f s = .next (f s) :=
  if_neg (Nat.not_le.mpr h)

/-- A module told of the health of one of this module's links. -/
def State.tellLink (s : State) (p : Nat) (up : Bool) : State :=
  if s.kol.inDomain then s.flood 0x09 { dst := 0, src := 0, body := some (.linkHealth s.kol.module p up) } [] else s

/-- An up port that leaves the routes. -/
theorem portDown_up {s : State} {p : Nat} (h : (s.port p).up = true) (code : FCode) :
    s.portDown p code = ((((((s.noteRoutes).updPort p fun y =>
        { y with up := false, trained := false, inRoutes := false, missed := 0, retry := [], queue := [] }).raiseFree
          code).linkEvent true p false).reroutes).tellLink p false).resendFrom (s.port p) := by
  unfold State.portDown
  dsimp only
  rw [h]
  rfl

/-- The heartbeat of an up port that hears none. -/
theorem heartbeat_missed {s : State} {p : Nat} {x : KPort} (hp : p < 16) (hx : s.kol.ports[p]? = some x)
    (hu : x.up = true) : ∃ t, t = (s.sendFlit p 3 0x05 { dst := 0, src := s.kol.module } []).updPort p
      (fun y => { y with missed := y.missed + 1 }) ∧ (t.port p).up = true ∧ (t.port p).missed = x.missed + 1 ∧
      exec (.heartbeat p none) s = .next (if 3 ≤ x.missed + 1 then t.portDown p .linkDown else t) := by
  obtain ⟨y, hy, hl⟩ := port_sendFlit hx 3 0x05 { dst := 0, src := s.kol.module } []
  have hup : y.up = x.up := (congrArg KPort.up hl :)
  have hmis : y.missed = x.missed := (congrArg KPort.missed hl :)
  have hport := port_of_getElem (port_updPort hy fun y => { y with missed := y.missed + 1 })
  refine ⟨_, rfl, by rw [hport]; exact hup.trans hu, by rw [hport, ← hmis], ?_⟩
  show execHeartbeat p none s = _
  rw [execHeartbeat, onPort_in hp]
  simp only [port_of_getElem hx, hu, Bool.not_true, Bool.false_eq_true, if_false, hport, hmis]

/-- A port of the routes that its verified partner has trained again. -/
theorem portRetrain_rejoins {s : State} {p : Nat} {x : KPort} (hp : p < 16) (hx : s.kol.ports[p]? = some x) (i : Identity)
    (hin : x.inRoutes = false) (hpwr : s.pwr.state = .active) (hpart : x.partner.isSome = true)
    (hser : x.partnerSerial = i.serial) (hid : s.identityOk i = true) :
    exec (.portRetrain p (.trained i)) s = .next ((((((s.updPort p fun y =>
        { y with up := true, trained := true, missed := 0, sendSeq := 0, expect := 0, retry := [], queue := []
                 spent := [0, 0, 0, 0], owed := [0, 0, 0, 0], discarding := false }).identify p).updPort p fun y =>
          { y with inRoutes := true, partnerSerial := i.serial }).linkEvent true p true).reroutes).tellLink p true) := by
  generalize hfresh : (s.updPort p fun y => { y with
      up := true, trained := true, missed := 0, sendSeq := 0, expect := 0, retry := [], queue := []
      spent := [0, 0, 0, 0], owed := [0, 0, 0, 0], discarding := false }).identify p = u
  obtain ⟨y, hy, hyp, hys⟩ : ∃ y, u.port p = y ∧ y.partner = x.partner ∧ y.partnerSerial = x.partnerSerial := by
    obtain ⟨y, hy, hl⟩ := port_sendFlit (port_updPort hx fun y => { y with
      up := true, trained := true, missed := 0, sendSeq := 0, expect := 0, retry := [], queue := []
      spent := [0, 0, 0, 0], owed := [0, 0, 0, 0], discarding := false }) _ _ _ _
    exact ⟨y, hfresh ▸ port_of_getElem hy, (congrArg KPort.partner hl :), (congrArg KPort.partnerSerial hl :)⟩
  have hidu : u.identityOk i = true := by
    obtain ⟨ps, o, hn⟩ := (net_updPort s p fun y => { y with
      up := true, trained := true, missed := 0, sendSeq := 0, expect := 0, retry := [], queue := []
      spent := [0, 0, 0, 0], owed := [0, 0, 0, 0], discarding := false }).trans (net_sendFlit _ _ _ _ _ _)
    rw [← hfresh]
    exact (congrArg (fun t : State => t.identityOk i) hn).trans hid
  show execPortRetrain p (.trained i) s = _
  rw [execPortRetrain, onPort_in hp]
  simp only [port_of_getElem hx, hin, hpwr, hfresh, hy, hyp, hys, hpart, hser, hidu, beq_self_eq_true, Bool.or_true,
    Bool.not_true, Bool.or_false, Bool.and_self, Bool.true_or, Bool.false_eq_true, if_false, if_true]
  rfl

/-- Settles O38: what a heartbeat leaves of the port decides whether it goes down, and a port that goes down or rejoins does so
by `portDown_up` and `portRetrain_rejoins`. -/
theorem kollekLinksGoDownAndRejoin : Obligations.KollekLinksGoDownAndRejoin := by
  intro s p x hp hx beat told down
  have hport := port_of_getElem hx
  have hdown : ∀ (t : State) (code : FCode), (t.port p).up = true → t.portDown p code = down t code := fun t code h =>
    portDown_up h code
  refine ⟨fun hu h => ?_, fun hu hm => ?_, fun hu hm => ?_, fun hu => ?_, fun hu hr => ?_,
    fun i hin hpwr hpart hser hid => portRetrain_rejoins hp hx i hin hpwr hpart hser hid, ?_⟩
  · show execHeartbeat p (some h) s = _
    rw [execHeartbeat, onPort_in hp]
    simp only [hport, hu, Bool.not_true, Bool.false_eq_true, if_false]
    rfl
  · obtain ⟨t, ht, -, -, he⟩ := heartbeat_missed hp hx hu
    rw [he, if_neg (by omega), ht]
  · obtain ⟨t, ht, htu, -, he⟩ := heartbeat_missed hp hx hu
    rw [he, if_pos (by omega), hdown t .linkDown htu, ht]
  · show execLinkDown p true s = _
    rw [execLinkDown, onPort_in hp, ← hdown s .linkDown (by rw [hport]; exact hu)]
    rfl
  · show execLinkRetryLimit p s = _
    rw [execLinkRetryLimit, onPort_in hp, ← hdown s .linkRetryLimit (by rw [hport]; exact hu)]
    simp only [hport, hr, if_true]
  · show execPortRetrain p .failed s = _
    rw [execPortRetrain, onPort_in hp]
    exact congrArg Host.Outcome.next (ite_self _)

/-! ### Lost partners -/

/-- The output has moved, and nothing else. -/
theorem answerLost_out (s : State) (r : RemoteRead) : ∃ o, s.answerLost r = s.net s.kol.ports o := by
  unfold State.answerLost
  split
  · exact ⟨_, rfl⟩
  · exact ⟨_, rfl⟩

/-- What is left of the domain when a member is lost that is neither this module nor the master. -/
structure WithoutMember (s t : State) (m : Nat) : Prop where
  members : t.kol.members = s.kol.members.filter fun y => y.num != m
  lost : t.kol.lost = s.kol.lost ++ [m]
  module : t.kol.module = s.kol.module
  inDomain : t.kol.inDomain = s.kol.inDomain
  master : t.kol.master = s.kol.master
  unreach : t.kol.unreach = s.kol.unreach.filter fun u => u.1 != m
  mem : t.mem = s.mem
  signals : t.fab.signals = s.fab.signals.filter fun g => g.module != m

theorem WithoutMember.of_aside {s t u : State} {m : Nat} (h : WithoutMember s t m) (g : Aside t u) : WithoutMember s u m := by
  obtain ⟨h1, h2, h3, h4, h5, h6, h7, h8⟩ := h
  exact ⟨g.kol ▸ h1, g.kol ▸ h2, g.kol ▸ h3, g.kol ▸ h4, g.kol ▸ h5, g.kol ▸ h6, g.mem.trans h7, g.fab ▸ h8⟩

/-- What was sent before makes no difference. -/
theorem WithoutMember.of_net {s t u : State} {m : Nat} (h : Net s t) (g : WithoutMember t u m) : WithoutMember s u m := by
  obtain ⟨ps, o, rfl⟩ := h
  obtain ⟨h1, h2, h3, h4, h5, h6, h7, h8⟩ := g
  exact ⟨h1, h2, h3, h4, h5, h6, h7, h8⟩

theorem losePartner_other {s : State} {m : Nat} (hd : s.kol.inDomain = true) (hm : ∃ y ∈ s.kol.members, y.num = m)
    (hne : m ≠ s.kol.module) (hma : s.kol.master ≠ m) (hb : s.fab.barriers = []) :
    WithoutMember s (s.losePartner m) m := by
  obtain ⟨y, hy, hym⟩ := hm
  have hany : (s.kol.members.any fun x => x.num == m) = true := List.any_eq_true.mpr ⟨y, hy, beq_iff_eq.mpr hym⟩
  have hnet : Net s.noteRoutes ((s.noteRoutes.fab.reads.filter fun r => r.module == m).foldl State.answerLost s.noteRoutes) :=
    net_foldl (fun s r => by
      obtain ⟨o, h⟩ := answerLost_out s r
      exact ⟨_, o, h⟩) _ _
  obtain ⟨ps, o, hans⟩ := hnet
  have hb' : (s.noteRoutes.net ps o).fab.barriers = [] := hb
  have hma' : (s.noteRoutes.net ps o).kol.master ≠ m := hma
  unfold State.losePartner
  simp only [hd, hany, Bool.not_true, Bool.or_self, Bool.false_eq_true, decide_false, hne, if_false, hans, hb', hma',
    List.filter_nil, List.foldl_nil]
  refine WithoutMember.of_aside ?_ ((aside_raiseModule _ _ _ _).trans (aside_notify _ _ _ _))
  exact ⟨rfl, rfl, rfl, rfl, rfl, rfl, rfl, rfl⟩

/-- Settles O39: what is sent before makes no difference (`WithoutMember.of_net`), and the map loses the member by
`losePartner_other`. -/
theorem lostPartnerLeavesTheMap : Obligations.LostPartnerLeavesTheMap := by
  intro s m p t hdr x hd hm hne hma hb hp hx hu hdis hun ht hlost gone
  have hgone : ∀ u v, Net s u → v = u.losePartner m → gone v := fun u v hn hv => by
    have hw : WithoutMember s (u.losePartner m) m := by
      refine WithoutMember.of_net hn ?_
      obtain ⟨ps, o, rfl⟩ := hn
      exact losePartner_other hd hm hne hma hb
    obtain ⟨h1, h2, h3, h4, h5, h6, h7, h8⟩ := hw
    rw [hv]
    exact ⟨h1, h2, h3, h4.trans hd, h5, h7, by simp [h6, hun], h8⟩
  refine ⟨⟨_, ?_, hgone _ _ (net_flood s 0x09 { dst := 0, src := 0, body := some (.partnerLost m) } []) rfl⟩,
    ⟨_, ?_, hgone _ _ ((net_receive s p 3 0x09 hdr 1).trans
      (net_passOn _ p 0x09 hdr (.partnerLost m))) rfl⟩⟩
  · show execPartnerLost m s = _
    unfold execPartnerLost
    simp only [hun, List.find?_cons, beq_self_eq_true, advanceTo_past ht]
  · have htakes : (s.port p).takes hdr = true := by
      rw [port_of_getElem hx, KPort.takes, hu, hdis]
      rfl
    have hlost' : (s.receive p 3 0x09 hdr 1).kol.lost.contains hdr.src = false := by
      obtain ⟨ps, o, hn⟩ := net_receive s p 3 0x09 hdr 1
      rw [hn]
      exact hlost
    show execManagementFlit p hdr (.partnerLost m) s = _
    unfold execManagementFlit
    rw [onPort_in hp]
    simp only [htakes, Bool.not_true, Bool.false_eq_true, if_false, hlost', MgmtMsg.flooded, if_true]
    rfl

/-! ### Link-level retry -/

/-- Settles O40: each row on a port that is up. -/
theorem linkLevelRetryAndCredits : Obligations.LinkLevelRetryAndCredits := by
  intro s p x hdr hp hx hu got
  have hport := port_of_getElem hx
  refine ⟨fun hd => ?_, fun ht hn => ?_, fun ht hn => ?_, ?_, fun k hk => ?_⟩
  · show execFailedFlit p s = _
    rw [execFailedFlit, onPort_in hp]
    simp only [hport, hu, hd, Bool.not_true, Bool.or_self, Bool.false_eq_true, if_false]
  · show execNakReceived p hdr s = _
    rw [execNakReceived, onPort_in hp]
    simp only [hport, ht, hn, Bool.not_true, Bool.not_false, Bool.false_eq_true, if_false, if_true]
    rfl
  · intro t
    show execNakReceived p hdr s = _
    rw [execNakReceived, onPort_in hp]
    have htime : (s.receive p 3 0x00 hdr 1).time = s.time := by
      obtain ⟨ps, o, h⟩ := net_receive s p 3 0x00 hdr 1
      rw [h]
      rfl
    have hns : ∀ f, ((s.receive p 3 0x00 hdr 1).updPort p f).ns 320 = s.ns 320 := fun f => by
      obtain ⟨ps, o, h⟩ := net_receive s p 3 0x00 hdr 1
      rw [h]
      rfl
    simp only [hport, ht, hn, Bool.not_true, Bool.false_eq_true, if_false, State.updPort_time, htime, hns]
    rfl
  · show execCreditReturn p s = _
    rw [execCreditReturn, onPort_in hp]
    simp only [hport, hu, Bool.not_true, Bool.false_eq_true, if_false]
  · have hcan : ((s.kol.ports[p]?).getD {}).canSend { vl := k.vl, kind := k.kind, hdr := k.hdr, data := k.data } = false := by
      rw [hx]
      exact hk
    unfold State.sendFlit
    simp only [hcan, Bool.false_and, Bool.false_eq_true, if_false]

end Sys2Proof.Machine
end

section
/-! PROOFS. Packets of other modules (spec chapters 10 and 17). -/

namespace Sys2Proof.Machine

theorem takes_up {x : KPort} (hu : x.up = true) (hd : x.discarding = false) (hdr : FlitHdr) : x.takes hdr = true := by
  rw [KPort.takes, hu, hd]
  rfl

section
variable {s : State} {p : Nat} {x : KPort} {hdr : FlitHdr} (hp : p < 16) (hx : s.kol.ports[p]? = some x)
  (hu : x.up = true) (hd : x.discarding = false) (vl kind : Nat) (data : List Byte) (f : State → State)
include hp hx hu hd

/-- A packet of a lost module never arrives. -/
theorem onPacket_lost (hl : s.kol.lost.contains hdr.src = true) :
    onPacket p vl kind hdr data f s = .next (s.receive p vl kind hdr (1 + (data.length + 255) / 256)) := by
  have hlost : (s.receive p vl kind hdr (1 + (data.length + 255) / 256)).kol.lost.contains hdr.src = true := by
    obtain ⟨ps, o, h⟩ := net_receive s p vl kind hdr (1 + (data.length + 255) / 256)
    rw [h]
    exact hl
  rw [onPacket, onPort_in hp]
  simp only [port_of_getElem hx, takes_up hu hd, Bool.not_true, Bool.false_eq_true, if_false, hlost, if_true]

/-- A packet for this module has its meaning. -/
theorem onPacket_own (hl : s.kol.lost.contains hdr.src = false) (hm : hdr.dst = s.kol.module) :
    onPacket p vl kind hdr data f s = .next (f (s.receive p vl kind hdr (1 + (data.length + 255) / 256))) := by
  have hgot : (s.receive p vl kind hdr (1 + (data.length + 255) / 256)).kol.lost.contains hdr.src = false ∧
      hdr.dst = (s.receive p vl kind hdr (1 + (data.length + 255) / 256)).kol.module := by
    obtain ⟨ps, o, h⟩ := net_receive s p vl kind hdr (1 + (data.length + 255) / 256)
    rw [h]
    exact ⟨hl, hm⟩
  rw [onPacket, onPort_in hp]
  simp only [port_of_getElem hx, takes_up hu hd, Bool.not_true, Bool.false_eq_true, if_false, hgot.1, if_pos hgot.2]

/-- A packet for another module goes on. -/
theorem onPacket_other (hl : s.kol.lost.contains hdr.src = false) (hm : hdr.dst ≠ s.kol.module) :
    onPacket p vl kind hdr data f s =
      .next ((s.receive p vl kind hdr (1 + (data.length + 255) / 256)).forward vl kind hdr data) := by
  have hgot : (s.receive p vl kind hdr (1 + (data.length + 255) / 256)).kol.lost.contains hdr.src = false ∧
      hdr.dst ≠ (s.receive p vl kind hdr (1 + (data.length + 255) / 256)).kol.module := by
    obtain ⟨ps, o, h⟩ := net_receive s p vl kind hdr (1 + (data.length + 255) / 256)
    rw [h]
    exact ⟨hl, hm⟩
  rw [onPacket, onPort_in hp]
  simp only [port_of_getElem hx, takes_up hu hd, Bool.not_true, Bool.false_eq_true, if_false, hgot.1, if_neg hgot.2]

end

/-- A write of another module that lands in a stack, with no announce. -/
theorem outerWrite_lands {s : State} {port g st o : Nat} {hdr : FlitHdr} {bs : List Byte} (hw : NoneWaits s)
    (h : InStack s g bs.length st o) (hs : hdr.sigLast = false) :
    s.access none g bs.length (some bs) .clean (.outerWrite port hdr) = s.nextStamp.withBytes g bs := by
  rw [access_write hw _ _ _ h (by simp)]
  show State.outerAnnounce _ port _ hdr = _
  rw [State.outerAnnounce, hs]
  rfl

/-- A packet that its route takes on. -/
theorem forward_route {s : State} {q hops : Nat} {hdr : FlitHdr} (h : s.route hdr.dst = some (q, hops)) (vl kind : Nat)
    (data : List Byte) : s.forward vl kind hdr data = s.sendFlit q vl kind { hdr with hops := hdr.hops + 1 } data := by
  rw [State.forward, h]

/-- Bytes of one packet sent back. -/
theorem respond_one {s : State} {q hops : Nat} {hdr : FlitHdr} (h : s.route hdr.dst = some (q, hops)) {bs : List Byte}
    (hn : 0 < bs.length) (h64 : bs.length ≤ 65536) (k : Nat) :
    s.respond (k + 1) hdr bs = s.sendFlit q 2 0x03 { hdr with payload := bs.length, hops := hdr.hops + 1 } bs := by
  have hemp : bs.isEmpty = false := by
    cases bs with
    | nil => cases hn
    | cons b r => rfl
  have htake : bs.take 65536 = bs := List.take_of_length_le h64
  have hdrop : bs.drop 65536 = [] := List.drop_of_length_le h64
  have hnil : ∀ (t : State) (n : Nat), t.respond n hdr [] = t := fun t n => by cases n <;> rfl
  unfold State.respond
  rw [hemp, htake, hdrop, hnil, forward_route (hdr := { hdr with payload := bs.length }) h]
  rfl

/-- A read of another module that a stack answers. -/
theorem answer_reads {s : State} {port st o q hops : Nat} {hdr : FlitHdr} (hw : NoneWaits s)
    (h : InStack s hdr.srcGA hdr.payload st o) (hn : 0 < hdr.payload) (h64 : hdr.payload ≤ 65536)
    (hr : s.route hdr.src = some (q, hops)) :
    s.access none hdr.srcGA hdr.payload none .clean (.answer port hdr) = s.nextStamp.sendFlit q 2 0x03
      { dst := hdr.src, src := s.kol.module, srcCore := hdr.srcCore, dstGA := hdr.dstGA, hops := 1
        tagIdx := hdr.tagIdx, queue := hdr.queue, issuer := hdr.issuer, payload := (s.stackBytes st o hdr.payload).length }
      (s.stackBytes st o hdr.payload) := by
  have hlen : (s.stackBytes st o hdr.payload).length = hdr.payload := (List.length_map _).trans List.length_range
  have hbytes : ((s.jobOf none hdr.srcGA hdr.payload none .clean (.answer port hdr)).withGot s st o hdr.payload).placed.bytes =
      s.stackBytes st o hdr.payload :=
    bytes_withGot (j := s.jobOf none hdr.srcGA hdr.payload none .clean (.answer port hdr))
  rw [access_read hw.jobs _ _ _ h (by simp)]
  show State.respond s.nextStamp (hdr.payload / 65536 + 1) _ (Job.bytes _) = _
  rw [hbytes]
  exact respond_one (s := s.nextStamp)
    (hdr := { dst := hdr.src, src := s.kol.module, srcCore := hdr.srcCore, dstGA := hdr.dstGA
              tagIdx := hdr.tagIdx, queue := hdr.queue, issuer := hdr.issuer }) hr (by omega) (by omega) _

theorem laneBusy_idle {s : State} (h : s.fab.jobs = []) (g : Signal) : s.laneBusy g = false := by
  unfold State.laneBusy
  split <;> simp [h]

/-- An only signal of another module that has arrived, with no access on its way, may meet its target. -/
theorem signalReady_sole {s : State} {g : Signal} {m : Nat} (hg : s.fab.signals = [g]) (hj : s.fab.jobs = [])
    (ho : g.origin = .remoteTsig m) (hi : g.issued + g.latency ≤ s.time.cycle) : s.signalReady g = true := by
  unfold State.signalReady
  simp only [ho, laneBusy_idle hj, hi, hg, List.any_cons, List.any_nil]
  simp [Signal.before]

/-- The signal of a bare packet meets its core. -/
theorem signalApplied_remote {s : State} {t : CoreSt} {g : Signal} {m : Nat} (hg : s.fab.signals = [g])
    (ht : s.core? g.lcore = some t) (href : s.refusing g.lcore = false) (hj : s.fab.jobs = []) (ho : g.origin = .remoteTsig m)
    (hi : g.issued + g.latency ≤ s.time.cycle) (ht48 : g.tally < 48) (hc : 0 < g.count) :
    s.signalApplied g.id = ({ s with fab := { s.fab with signals := [] } } : State).updCore g.lcore fun c =>
        c.giveTally { tally := g.tally, n := g.count, src := 1, slot := none, bundle := 0 } := by
  have hbad : ((({ s with fab := { s.fab with signals := [] } } : State).core? g.lcore).isNone || 48 ≤ g.tally ||
      g.count == 0) = false := by
    have ht' : ({ s with fab := { s.fab with signals := [] } } : State).core? g.lcore = some t := ht
    simp only [ht', Option.isNone_some, Bool.false_or, Bool.or_eq_false_iff, decide_eq_false_iff_not, beq_eq_false_iff_ne]
    omega
  have href' : ({ s with fab := { s.fab with signals := [] } } : State).refusing g.lcore = false := href
  unfold State.signalApplied
  simp only [hg, List.find?_cons, beq_self_eq_true, signalReady_sole hg hj ho hi, Bool.not_true, Bool.false_eq_true, if_false,
    List.filter_cons, bne_self_eq_false, List.filter_nil, ho]
  unfold State.remoteSignal
  rw [hbad, href']
  rfl

/-- Settles O41: a packet is counted (`net_receive` moves ports and output alone) and then has its meaning, goes on, or never
arrives. -/
theorem packetsReachTheirModule : Obligations.PacketsReachTheirModule := by
  intro s p q x hdr data st o hops t r hp hx hu hd hw got back known
  refine ⟨fun hl => ?_, fun hk hm hsig hn hlen hst => ?_, fun hk hm hn h64 hr hst => ?_,
    fun hk hm hreads hc hq hi hrl hlen => ?_, fun hk hm ht href hsig ht48 hc => ?_, fun hk hm hr => ?_⟩
  · show execWriteFlit p hdr data s = _
    exact onPacket_lost hp hx hu hd 0 0x01 data _ hl
  · show execWriteFlit p hdr data s = _
    refine (onPacket_own hp hx hu hd 0 0x01 data _ hk hm).trans (congrArg Host.Outcome.next ?_)
    have htake : data.take hdr.payload = data := List.take_of_length_le hlen.le
    obtain ⟨ps, out, hgot⟩ := net_receive s p 0 0x01 hdr (1 + (data.length + 255) / 256)
    have hwg : NoneWaits (s.receive p 0 0x01 hdr (1 + (data.length + 255) / 256)) := by
      rw [hgot]
      exact ⟨hw.jobs, hw.cores⟩
    have hsg : InStack (s.receive p 0 0x01 hdr (1 + (data.length + 255) / 256)) hdr.dstGA data.length st o := by
      rw [hgot]
      exact hst
    rw [htake, outerWrite_lands hwg hsg hsig]
  · intro bs
    show execReadRequest p { hdr := hdr, ecc := .clean } s = _
    refine (onPacket_own hp hx hu hd 1 0x02 [] _ hk hm).trans (congrArg Host.Outcome.next ?_)
    obtain ⟨ps, out, hgot⟩ := net_receive s p 1 0x02 hdr 1
    have hans := answer_reads (s := s.receive p 1 0x02 hdr 1) (port := p) (hdr := hdr) (st := st) (o := o)
      (hgot ▸ ⟨hw.jobs, hw.cores⟩) (hgot ▸ hst) hn h64 hr
    have hbytes : (s.receive p 1 0x02 hdr 1).stackBytes st o hdr.payload = bs := by
      rw [hgot]
      rfl
    have hmod : (s.receive p 1 0x02 hdr 1).kol.module = s.kol.module := by
      rw [hgot]
      rfl
    rw [hbytes, hmod] at hans
    exact hans
  · intro u w
    show execReadResponse p hdr data s = _
    refine (onPacket_own hp hx hu hd 2 0x03 data _ hk hm).trans (congrArg Host.Outcome.next ?_)
    obtain ⟨ps, out, hgot⟩ := net_receive s p 2 0x03 hdr (1 + (data.length + 255) / 256)
    have hrd : (s.receive p 2 0x03 hdr (1 + (data.length + 255) / 256)).fab.reads = [r] := by
      rw [hgot]
      exact hreads
    have hfind : [r].find? (fun r => r.core == hdr.issuer && r.q == hdr.queue && r.idx == hdr.tagIdx) = some r := by
      simp [hc, hq, hi]
    have hdata : (data.take hdr.payload).take r.len = data := by
      rw [List.take_of_length_le hlen.le, List.take_of_length_le (hlen.trans hrl.symm).le]
    have htake : takeRead [r] r.core r.q r.idx data.length = [] := by
      simp [takeRead, hlen, hrl]
    simp only [hrd, hfind, hdata, htake]
    by_cases hcore : r.core < 2048
    · rw [if_neg (Nat.not_le.mpr hcore), if_pos hcore]
    · rw [if_pos (Nat.not_lt.mp hcore), if_neg hcore]
  · intro u
    show execBareTsigFlit p hdr s = _
    refine (onPacket_own hp hx hu hd 0 0x04 [] _ hk hm).trans (congrArg Host.Outcome.next ?_)
    obtain ⟨ps, out, hgot⟩ := net_receive s p 0 0x04 hdr 1
    show State.signalApplied (State.putSignal u _) u.fab.nextSig = _
    have hus : u.fab.signals = [] := (congrArg (fun t : State => t.fab.signals) hgot).trans hsig
    have hsole : ∀ g : Signal, (u.putSignal g).fab.signals = [{ g with id := u.fab.nextSig }] := fun g => by
      show u.fab.signals ++ _ = _
      rw [hus]
      rfl
    have hcore : u.core? hdr.sigCore = some t := (congrArg (fun v : State => v.core? hdr.sigCore) hgot).trans ht.1
    have href' : u.refusing hdr.sigCore = false := (congrArg (fun v : State => v.refusing hdr.sigCore) hgot).trans href
    have hjobs : u.fab.jobs = [] := (congrArg (fun v : State => v.fab.jobs) hgot).trans hw.jobs
    refine (signalApplied_remote (t := t) (m := hdr.src) (hsole _) ?_ ?_ ?_ ?_ ?_ ?_ ?_).trans ?_
    · exact hcore
    · exact href'
    · exact hjobs
    · rfl
    · exact le_rfl
    · exact ht48
    · exact hc
    · exact congrArg (fun l => State.updCore { u with fab := { u.fab with nextSig := u.fab.nextSig + 1, signals := l } }
        hdr.sigCore _) hus.symm
  · show execWriteFlit p hdr data s = _
    exact (onPacket_other hp hx hu hd 0 0x01 data _ hk hm).trans (congrArg Host.Outcome.next (forward_route hr 0 0x01 data))

end Sys2Proof.Machine
end

section
/-! PROOFS. Discovery, numbering and Invar alignment (spec chapters 10 and 15). -/

namespace Sys2Proof.Machine

/-! ### Numbers that the cabling gives -/

/-- Numbers gained from one link. -/
def Numbers.gain (u : Numbers) (xs : List (Nat × Nat)) : Numbers :=
  xs.foldl (fun (u : Numbers) x => if (u.of x.1).isSome then u else u ++ [x]) u

theorem Numbers.gain_known {u : Numbers} {xs : List (Nat × Nat)} (h : ∀ x ∈ xs, (u.of x.1).isSome = true) :
    u.gain xs = u := by
  induction xs with
  | nil => rfl
  | cons x r ih =>
    rw [Numbers.gain, List.foldl_cons, if_pos (h x List.mem_cons_self)]
    exact ih fun z hz => h z (List.mem_cons_of_mem _ hz)

theorem Numbers.grow_two (l k : KLink) (t : Numbers) : t.grow [l, k] = (t.gain (l.gives t)).gain (k.gives t) := rfl

theorem KLink.gives_ends {l : KLink} {t : Numbers} {x : Nat × Nat} (h : x ∈ l.gives t) : x.1 = l.a ∨ x.1 = l.b := by
  unfold KLink.gives at h
  dsimp only at h
  rcases List.mem_append.mp h with h | h
  · split at h
    · obtain rfl := List.mem_singleton.mp h
      exact .inr rfl
    · cases h
  · split at h
    · obtain rfl := List.mem_singleton.mp h
      exact .inl rfl
    · cases h

/-- Where every end has its number, nothing is gained any more. -/
theorem Numbers.walk_done {ls : List KLink} {t : Numbers}
    (h : ∀ l ∈ ls, (t.of l.a).isSome = true ∧ (t.of l.b).isSome = true) (n : Nat) : Numbers.walk ls n t = t := by
  have hgrow : t.grow ls = t := by
    have hall : ∀ ks : List KLink, (∀ l ∈ ks, l ∈ ls) → ks.foldl (fun u l => u.gain (KLink.gives l t)) t = t := fun ks hks => by
      induction ks with
      | nil => rfl
      | cons l r ih =>
        have hl := h l (hks l List.mem_cons_self)
        rw [List.foldl_cons, Numbers.gain_known fun x hx => ?_]
        · exact ih fun z hz => hks z (List.mem_cons_of_mem _ hz)
        · rcases KLink.gives_ends hx with e | e <;> rw [e]
          · exact hl.1
          · exact hl.2
    exact hall ls fun _ hl => hl
  induction n with
  | zero => rfl
  | succ k ih => rw [Numbers.walk, hgrow, ih]

/-- Two links in a row from the master: the second module is numbered by the first. -/
theorem numbersFrom_two {a b c n m p q : Nat} (hab : a ≠ b) (hbc : b ≠ c) (hac : a ≠ c) (hn : portPartner 0 p = some n)
    (hm : portPartner n q = some m) :
    numbersFrom [{ a := a, b := b, port := p, agrees := true }, { a := b, b := c, port := q, agrees := true }] a =
      [(a, 0), (b, n), (c, m)] := by
  have h1 : Numbers.grow [{ a := a, b := b, port := p, agrees := true }, { a := b, b := c, port := q, agrees := true }]
      [(a, 0)] = [(a, 0), (b, n)] := by
    have hl : KLink.gives { a := a, b := b, port := p, agrees := true } [(a, 0)] = [(b, n)] := by
      simp [KLink.gives, Numbers.of, hab, hn]
    have hk : KLink.gives { a := b, b := c, port := q, agrees := true } [(a, 0)] = [] := by
      simp [KLink.gives, Numbers.of, hab, hac]
    rw [Numbers.grow_two, hl, hk]
    simp [Numbers.gain, Numbers.of, hab]
  have h2 : Numbers.grow [{ a := a, b := b, port := p, agrees := true }, { a := b, b := c, port := q, agrees := true }]
      [(a, 0), (b, n)] = [(a, 0), (b, n), (c, m)] := by
    have hl : Numbers.gain [(a, 0), (b, n)] (KLink.gives { a := a, b := b, port := p, agrees := true } [(a, 0), (b, n)]) =
        [(a, 0), (b, n)] := Numbers.gain_known fun x hx => by
      rcases KLink.gives_ends hx with e | e <;> simp [e, Numbers.of, hab]
    have hk : KLink.gives { a := b, b := c, port := q, agrees := true } [(a, 0), (b, n)] = [(c, m)] := by
      simp [KLink.gives, Numbers.of, hab, hac, hbc, hm]
    rw [Numbers.grow_two, hl, hk]
    simp [Numbers.gain, Numbers.of, hac, hbc]
  show Numbers.walk _ (62 + 1 + 1) [(a, 0)] = _
  rw [Numbers.walk, h1, Numbers.walk, h2]
  refine Numbers.walk_done (fun l hl => ?_) 62
  rcases List.mem_cons.mp hl with rfl | hl
  · simp [Numbers.of, hab]
  · obtain rfl := List.mem_singleton.mp hl
    simp [Numbers.of, hab, hac, hbc]

/-- Settles O42: each row of discovery on its conditions; the numbers by `numbersFrom_two`. -/
theorem discoveryAndAlignment : Obligations.DiscoveryAndAlignment := by
  intro s d i now count delay a b c n m p q keep
  refine ⟨fun hd hp hid hn => ?_, fun hd hp hid hn => ?_, fun hd hp hid => ?_, numbersFrom_two,
    fun hd hv hc hnow hwin => ?_, fun hin ha hr hm => ?_, fun hin ha hr hm => ?_⟩
  · show execDiscoveryAndIdentity i s = _
    unfold execDiscoveryAndIdentity
    simp only [hd, if_neg (Nat.not_le.mpr hp), hid, Bool.not_true, Bool.false_eq_true, if_false]
    rw [if_pos hn]
  · show execDiscoveryAndIdentity i s = _
    unfold execDiscoveryAndIdentity
    simp only [hd, if_neg (Nat.not_le.mpr hp), hid, Bool.not_true, Bool.false_eq_true, if_false]
    rw [if_neg hn]
  · show execDiscoveryAndIdentity i s = _
    unfold execDiscoveryAndIdentity
    simp only [hd, if_neg (Nat.not_le.mpr hp), hid, Bool.not_false, if_true]
  · have htick : s.atTick now = s := if_pos hnow
    have hclose : s.closeDiscovery d = s.solo := by
      unfold State.closeDiscovery
      rw [hv]
      rfl
    show execDiscoveryClose now s = _
    unfold execDiscoveryClose
    simp only [htick, hd, hv, List.isEmpty_nil, Bool.not_true, Bool.and_false, Bool.false_or, hwin, decide_true, if_true,
      hclose, hc]
    rfl
  · have hrun : (s.regions.any fun x => x.phase == .running) = false :=
      List.any_eq_false.mpr fun x hx => by simpa using hr x hx
    show execInvarAlignment count delay s = _
    rw [execInvarAlignment, hin, ha, hrun, hm]
    rfl
  · have hrun : (s.regions.any fun x => x.phase == .running) = false :=
      List.any_eq_false.mpr fun x hx => by simpa using hr x hx
    show execInvarAlignment count delay s = _
    rw [execInvarAlignment, hin, ha, hrun, hm]
    rfl

end Sys2Proof.Machine
end

section
/-! PROOFS. The Ethernet ports (spec chapter 17). -/

namespace Sys2Proof.Machine

variable {s : State} {p now : Nat} {e : EPort} {f : State → State}

/-! ### What a port that is up does -/

theorem ethPort_of_getElem (he : s.eth[p]? = some e) : s.ethPort p = e := by simp [State.ethPort, he]

theorem onEth_live (hp : p < 8) (hl : s.portsLive = true) : onEth p f s = .next (f s) := by
  rw [onEth, if_neg (Nat.not_le.mpr hp), if_pos hl]

theorem onUpEth_up (hp : p < 8) (hl : s.portsLive = true) (he : s.eth[p]? = some e) (hu : e.up = true) :
    onUpEth p f s = .next (f s) := by
  rw [onUpEth, onEth_live hp hl, if_pos (by rw [ethPort_of_getElem he, hu])]

theorem atTick_past (h : now ≤ s.time.tick) : s.atTick now = s := if_pos h

theorem updEth_updEth {g h : EPort → EPort} : (s.updEth p g).updEth p h = s.updEth p (h ∘ g) :=
  congrArg (fun l => { s with eth := l }) (List.modify_modify_eq g h p s.eth)

/-- Two changes of a port that agree on what stands there. -/
theorem updEth_congr {g h : EPort → EPort} (he : s.eth[p]? = some e) (hg : g e = h e) : s.updEth p g = s.updEth p h := by
  refine congrArg (fun l => { s with eth := l }) (List.ext_getElem? fun i => ?_)
  simp only [updAt, List.getElem?_modify]
  by_cases hi : p = i
  · subst hi
    simp [he, hg]
  · simp [hi]

/-- Settles O46: each row on a port that is up; two changes of one port are one. -/
theorem ethernetPortsAnswer : Obligations.EthernetPortsAnswer := by
  intro s p ip source quanta level chassis portId ttl now e bs fast hp hl he upd
  have run {f : State → State} (hu : e.up = true) : onUpEth p f s = .next (f s) := onUpEth_up hp hl he hu
  have hport := ethPort_of_getElem he
  refine ⟨fun hu => ?_, fun hu => ?_, fun hu hv => ?_, fun hu hv => ?_, fun hu hv hb => ?_, fun hu hq => ?_, fun hu => ?_,
    fun hu hx hlv => ?_, fun hu hx hlv => ?_, fun hu => ?_, fun hu hn ht hnb => ?_, fun hn => ?_⟩
  · show execEthLinkUp p fast s = _
    rw [execEthLinkUp, onEth_live hp hl, hport, hu]
    rfl
  · show execEthPortDown p s = _
    exact run hu
  · exact (run hu).trans (congrArg Host.Outcome.next (if_pos hv))
  · exact (run hu).trans (congrArg Host.Outcome.next (if_pos hv))
  · exact (run hu).trans (congrArg Host.Outcome.next (if_pos (by simp [hv, hb])))
  · refine (run hu).trans (congrArg Host.Outcome.next ((if_pos rfl).trans ?_))
    simp only [if_neg hq]
    rfl
  · exact (run hu).trans (congrArg Host.Outcome.next (if_pos rfl))
  · show execPfcThreshold p level s = _
    rw [execPfcThreshold, run hu]
    simp only [hport, hx, hlv, Bool.not_false, decide_true, Bool.and_self, if_true, updEth_updEth]
    rfl
  · show execPfcThreshold p level s = _
    rw [execPfcThreshold, run hu]
    simp only [hport, hx, hlv, Bool.not_true, Bool.false_and, Bool.false_eq_true, if_false, decide_true, Bool.and_self,
      if_true, updEth_updEth]
    rfl
  · show execLldp p s = _
    exact run hu
  · show execLldpNeighbour p chassis portId ttl now s = _
    refine (run hu).trans (congrArg Host.Outcome.next ?_)
    rw [atTick_past hn]
    exact updEth_congr he (by simp [hnb, ht])
  · show execLldpTtlExpiry now s = _
    rw [execLldpTtlExpiry, atTick_past hn]

end Sys2Proof.Machine
end

section
/-! PROOFS. What the operations on regions leave and how a region stands after them (spec chapter 12). -/

namespace Sys2Proof.Machine

variable {s t u : State} {r k : Nat} {x y : Region}

/-! ### Regions and cores through the operations -/

@[simp] theorem State.report_region? (p : Session → Bool) (code : EvCode) (items : List Item) (core : Option Nat) :
    (s.report p code items core).region? r = s.region? r := by
  unfold State.region?
  rw [State.report_regions]

@[simp] theorem State.notify_region? (code : EvCode) (items : List Item) (core : Option Nat) :
    (s.notify code items core).region? r = s.region? r := State.report_region? _ _ _ _

@[simp] theorem State.done_region? (n q code : Nat) (st : Status) (items : List Item) :
    (s.done n q code st items).region? r = s.region? r := State.report_region? _ _ _ _

theorem region?_updRegion_of (h : s.region? r = some x) {f : Region → Region} (hf : ∀ z, (f z).num = z.num) :
    (s.updRegion r f).region? r = some (f x) := by rw [State.region?_updRegion s r f hf, h, Option.map_some]

theorem setPhase_of (h : s.region? r = some x) (p : Phase) (cause : Nat) :
    s.setPhase r p cause =
      (s.updRegion r fun x => { x with phase := p }).notify .regionState
        [.num r, .phase x.phase, .phase p, .num cause] := by rw [State.setPhase, h]

theorem region?_setPhase (h : s.region? r = some x) (p : Phase) (cause : Nat) :
    (s.setPhase r p cause).region? r = some { x with phase := p } := by
  rw [setPhase_of h, State.notify_region?, region?_updRegion_of h]
  exact fun _ => rfl

@[simp] theorem setPhase_cores (p : Phase) (cause : Nat) : (s.setPhase r p cause).cores = s.cores := by
  unfold State.setPhase
  split
  · rfl
  · rw [State.notify_cores]
    rfl

/-- A property of a region's cores through an operation on these cores. -/
theorem forall_updCoresOf {P : CoreSt → Prop} {f : CoreSt → CoreSt} (hf : ∀ c, P c → P (f c))
    (h : ∀ c ∈ s.cores, c.region = r → P c) : ∀ c ∈ (s.updCoresOf r f).cores, c.region = r → P c := by
  intro c hc hr
  obtain ⟨d, hd, rfl⟩ := List.mem_map.mp hc
  by_cases he : (d.region == r) = true
  · rw [if_pos he]
    exact hf d (h d hd (by simpa using he))
  · rw [if_neg he] at hr ⊢
    exact h d hd hr

/-- A property that an operation on a region's cores gives each of them. -/
theorem forall_updCoresOf_all {P : CoreSt → Prop} {f : CoreSt → CoreSt} (hf : ∀ c, P (f c)) :
    ∀ c ∈ (s.updCoresOf r f).cores, c.region = r → P c := by
  intro c hc hr
  obtain ⟨d, _, rfl⟩ := List.mem_map.mp hc
  by_cases he : (d.region == r) = true
  · rw [if_pos he]
    exact hf d
  · rw [if_neg he] at hr
    exact absurd (by simpa using hr) he

/-! ### Module registers and the regions' commitment -/

/-- The number of each region and whether it is committed to a start. -/
def State.commitments (s : State) : List (Nat × Bool) := s.regions.map fun x => (x.num, x.committed)

/-- What stops of a region and reports leave: the module's registers and fault records, and which regions are committed. -/
structure Steady (s t : State) : Prop where
  glb : t.glb = s.glb
  marks : t.commitments = s.commitments

theorem Steady.refl (s : State) : Steady s s := ⟨rfl, rfl⟩

theorem Steady.trans (h : Steady s t) (g : Steady t u) : Steady s u := ⟨g.glb.trans h.glb, g.marks.trans h.marks⟩

theorem steady_report (s : State) (p : Session → Bool) (code : EvCode) (items : List Item) (core : Option Nat) :
    Steady s (s.report p code items core) := by
  obtain ⟨h, f, e⟩ := s.report_shape p code items core
  rw [e]
  exact ⟨rfl, rfl⟩

theorem steady_notify (s : State) (code : EvCode) (items : List Item) (core : Option Nat) :
    Steady s (s.notify code items core) := steady_report s _ code items core

theorem steady_done (s : State) (n q code : Nat) (st : Status) (items : List Item) : Steady s (s.done n q code st items) :=
  steady_report s _ _ _ _

theorem steady_updRegion (s : State) (r : Nat) {f : Region → Region}
    (hf : ∀ z, (f z).num = z.num ∧ (f z).committed = z.committed) : Steady s (s.updRegion r f) := by
  refine ⟨rfl, ?_⟩
  simp only [State.commitments, State.updRegion, List.map_map]
  refine List.map_congr_left fun z _ => ?_
  simp only [Function.comp]
  split
  · rw [(hf z).1, (hf z).2]
  · rfl

theorem steady_updCoresOf (s : State) (r : Nat) (f : CoreSt → CoreSt) : Steady s (s.updCoresOf r f) := ⟨rfl, rfl⟩

theorem steady_setPhase (s : State) (r : Nat) (p : Phase) (cause : Nat) : Steady s (s.setPhase r p cause) := by
  unfold State.setPhase
  split
  · exact Steady.refl s
  · refine Steady.trans (steady_updRegion s r ?_) (steady_notify _ _ _ _)
    exact fun _ => ⟨rfl, rfl⟩

theorem steady_toStopping (s : State) (r : Nat) (k : EndReason) (g : StopGoal) (cause : Nat) :
    Steady s (s.toStopping r k g cause) := by
  unfold State.toStopping
  split
  · exact Steady.refl s
  · dsimp only
    split
    · refine Steady.trans (steady_updRegion s r ?_) (steady_setPhase _ _ _ _)
      exact fun _ => ⟨rfl, rfl⟩
    · exact steady_updRegion s r fun _ => ⟨rfl, rfl⟩

theorem steady_foldl {α : Type} {f : State → α → State} (h : ∀ s x, Steady s (f s x)) (l : List α) (s : State) :
    Steady s (l.foldl f s) := by
  induction l generalizing s with
  | nil => exact Steady.refl s
  | cons x r ih => exact (h s x).trans (ih _)

theorem steady_moduleStop (s : State) (p : Policy) (cause : Nat) : Steady s (s.moduleStop p cause) := by
  refine steady_foldl (fun s x => ?_) _ _
  dsimp only
  split
  · exact Steady.refl s
  · cases p with
    | log => exact Steady.refl s
    | stopStep => exact (steady_updCoresOf s _ _).trans (steady_toStopping _ _ _ _ _)
    | stop => exact (steady_updCoresOf s _ _).trans (steady_toStopping _ _ _ _ _)

theorem steady_endRun (s : State) (r : Nat) (why : EndReason) : Steady s (s.endRun r why) := by
  unfold State.endRun
  split
  · exact Steady.refl s
  · split
    · exact Steady.refl s
    · dsimp only
      split
      · exact Steady.refl s
      · refine Steady.trans (steady_updRegion s r ?_) (steady_notify _ _ _ _)
        exact fun _ => ⟨rfl, rfl⟩

theorem aside_endRun (s : State) (r : Nat) (why : EndReason) : Aside s (s.endRun r why) := by
  unfold State.endRun
  split
  · exact Aside.refl s
  · split
    · exact Aside.refl s
    · dsimp only
      split
      · exact Aside.refl s
      · exact (aside_updRegion s r _).trans (aside_notify _ _ _ _)

/-- A module fault leaves one record, of its code and detail in the present cycle and at the module's step. -/
theorem raiseModule_record (s : State) (code : FCode) (detail cause : Nat) :
    (∃ f, (s.raiseModule code detail cause).glb = { s.glb with faults := s.glb.faults ++ [f] } ∧ f.code = code ∧ f.detail = detail ∧
      f.cycle = s.time.cycle ∧ f.lcore = none ∧ f.step = s.stepFor none) ∧ (s.raiseModule code detail cause).commitments = s.commitments := by
  unfold State.raiseModule
  dsimp only
  generalize hf : FRec.mk code .. = f
  generalize (s.pwr.alertFault || _) = al
  generalize (s.pwr.stOther || _) = st
  have h1 := steady_notify { s with glb := { s.glb with faults := s.glb.faults ++ [f] }
                                    pwr := { s.pwr with alertFault := al, stOther := st } } .fault
    [.fault f, .num 255, .num (s.modulePolicy code).num, .num 0, .num (2 ^ 32 - 1)] none
  generalize State.notify _ _ _ = v at h1 ⊢
  have h2 : Steady v { v with regions := v.regions.map fun (x : Region) =>
      if x.ran then { x with runRec := x.runRec.map fun (r : RunRec) =>
        if r.ended.isNone then { r with faults := r.faults ++ [f] } else r } else x } := by
    refine ⟨rfl, ?_⟩
    simp only [State.commitments, List.map_map]
    refine List.map_congr_left fun z _ => ?_
    simp only [Function.comp]
    split <;> rfl
  have h3 := (h1.trans h2).trans (steady_moduleStop _ (s.modulePolicy code) cause)
  refine ⟨⟨f, ?_, ?_, ?_, ?_, ?_, ?_⟩, h3.marks⟩
  · rw [h3.glb]
  all_goals rw [← hf]
  rfl

end Sys2Proof.Machine
end

section
/-! PROOFS. The Solder barrier and the pace of a region (spec chapters 10 and 11). -/

namespace Sys2Proof.Machine

variable {s : State} {b : Barrier} {r t : Nat} {x : Region}

/-! ### The only barrier -/

/-- The module with other barriers. -/
def State.withBarriers (s : State) (bs : List Barrier) : State := { s with fab := { s.fab with barriers := bs } }

theorem barrier_one (h : s.fab.barriers = [b]) : s.barrier? b.seq = some b := by simp [State.barrier?, h]

theorem updBarrier_one (h : s.fab.barriers = [b]) (f : Barrier → Barrier) :
    s.updBarrier b.seq f = s.withBarriers [f b] := by
  simp [State.updBarrier, State.withBarriers, h]

theorem dropBarrier_one (h : s.fab.barriers = [b]) : s.dropBarrier b.seq = s.withBarriers [] := by
  simp [State.dropBarrier, State.withBarriers, h]

/-! ### Turns of 65,536 cycles -/

theorem turnFrom_spec (t : Nat) : turnFrom t % 65536 = 0 ∧ t ≤ turnFrom t ∧ turnFrom t < t + 65536 := by
  unfold turnFrom
  omega

/-! ### A region that is started -/

theorem noteInputs_region (hr : s.region? r = some x) (es : List CfgEntry) (k : Nat) :
    ∃ q, (es.foldl (fun s e => s.noteInput r [e.off, e.value] k) s).region? r = some { x with runRec := q } := by
  induction es generalizing s x with
  | nil => exact ⟨x.runRec, hr⟩
  | cons e es ih =>
    have hs : (s.noteInput r [e.off, e.value] k).region? r = some { x with runRec := _ } :=
      region?_updRegion_of hr fun _ => rfl
    obtain ⟨q, h⟩ := ih hs
    exact ⟨q, h⟩

theorem noteCores_region (hr : s.region? r = some x) (cs : List CoreSt) (k : Nat) :
    ∃ q, (cs.foldl (fun s c => (c.cfg.filter fun e => e.target == .start).foldl
      (fun s e => s.noteInput r [e.off, e.value] k) s) s).region? r = some { x with runRec := q } := by
  induction cs generalizing s x with
  | nil => exact ⟨x.runRec, hr⟩
  | cons c cs ih =>
    obtain ⟨q, h⟩ := noteInputs_region hr (c.cfg.filter fun e => e.target == .start) k
    obtain ⟨q', h'⟩ := ih h
    exact ⟨q', h'⟩

theorem aside_armPause (s : State) (r : Nat) : Aside s (s.armPause r) := by
  unfold State.armPause
  split
  · exact Aside.refl s
  · dsimp only
    split
    · exact aside_updRegion s r _
    · exact (aside_updRegion s r _).trans (aside_updCoresOf _ r _)

theorem aside_armReplay (s : State) (r : Nat) : Aside s (s.armReplay r) := by
  unfold State.armReplay
  split
  · split
    · exact aside_updCoresOf s r _
    · exact Aside.refl s
  · exact Aside.refl s

theorem aside_runRegion (s : State) (r t : Nat) (resume starts : Bool) (base : Option Nat) (k : Nat) :
    Aside s (s.runRegion r t resume starts base k) := by
  unfold State.runRegion
  dsimp only
  refine Aside.trans ?_ (aside_armReplay _ r)
  refine Aside.trans ?_ (aside_armPause _ r)
  refine Aside.trans ?_ (aside_setPhase _ r _ _)
  refine Aside.trans ?_ (aside_updRegion _ r _)
  refine Aside.trans ?_ (aside_updCoresOf _ r _)
  split
  · exact aside_foldl (fun s c => aside_foldl (fun s e => aside_updRegion s r _) _ s) _ s
  · exact Aside.refl s

theorem region?_armPause (h : s.region? r = some x) : (s.armPause r).region? r = some { x with pauseFor := s.nextPause x } := by
  rw [State.armPause, h]
  dsimp only
  split <;> exact region?_updRegion_of h fun _ => rfl

theorem region?_armReplay (h : s.region? r = some x) : (s.armReplay r).region? r = some x := by
  rw [State.armReplay, h]
  dsimp only
  split <;> exact h

/-- A core that runs again: it presents its next bundle from a cycle on. -/
def CoreSt.RunsFrom (t : Nat) (c : CoreSt) : Prop := c.run = .running ∧ c.nextIssue = t ∧ c.presented = none

theorem runsFrom_armPause (h : ∀ c ∈ s.cores, c.region = r → c.RunsFrom t) :
    ∀ c ∈ (s.armPause r).cores, c.region = r → c.RunsFrom t := by
  unfold State.armPause
  split
  · exact h
  · dsimp only
    split
    · exact h
    · exact forall_updCoresOf (fun _ hc => hc) h

theorem runsFrom_armReplay (h : ∀ c ∈ s.cores, c.region = r → c.RunsFrom t) :
    ∀ c ∈ (s.armReplay r).cores, c.region = r → c.RunsFrom t := by
  unfold State.armReplay
  split
  · split
    · exact forall_updCoresOf (fun _ hc => hc) h
    · exact h
  · exact h

/-- Every core of a region that is started presents from the region's cycle on. -/
theorem runRegion_cores (s : State) (r t : Nat) (resume starts : Bool) (base : Option Nat) (k : Nat) :
    ∀ c ∈ (s.runRegion r t resume starts base k).cores, c.region = r → c.RunsFrom t := by
  unfold State.runRegion
  refine runsFrom_armReplay (runsFrom_armPause ?_)
  rw [setPhase_cores]
  exact forall_updCoresOf_all fun _ => ⟨rfl, rfl, rfl⟩

/-- A region that is started: RUNNING, no longer committed, with the step base that its start names. -/
theorem runRegion_region (hr : s.region? r = some x) (t : Nat) (resume starts : Bool) (base : Option Nat) (k : Nat) :
    ∃ y, (s.runRegion r t resume starts base k).region? r = some y ∧ y.phase = .running ∧ y.committed = false ∧
      y.ran = true ∧ (resume = false → y.base = base.getD x.base) := by
  unfold State.runRegion
  dsimp only
  generalize hs' : (if (starts && resume) = true then _ else s) = s'
  have h' : ∃ q, s'.region? r = some { x with runRec := q } := by
    subst hs'
    split
    · exact noteCores_region hr _ k
    · exact ⟨x.runRec, hr⟩
  obtain ⟨q, h'⟩ := h'
  have hc : ∀ f, (s'.updCoresOf r f).region? r = some { x with runRec := q } := fun _ => h'
  refine ⟨_, region?_armReplay (region?_armPause (region?_setPhase (region?_updRegion_of (hc _) ?_) _ _)), ?_⟩
  · exact fun _ => rfl
  exact ⟨rfl, rfl, rfl, fun h => by subst h; rfl⟩

/-! ### A barrier that fails -/

/-- Every region of a list stands uncommitted. -/
def State.Freed (s : State) (ks : List Nat) : Prop := ∀ p ∈ s.commitments, p.1 ∈ ks → p.2 = false

theorem freed_of_steady {t : State} {ks : List Nat} (h : s.Freed ks) (g : Steady s t) : t.Freed ks := by
  unfold State.Freed
  rw [g.marks]
  exact h

/-- The regions of a barrier that fails: uncommitted, and stopped by the fault where they drain to it. -/
def State.takeBack (s : State) (seq : Nat) (ks : List Nat) : State :=
  ks.foldl (fun s r => s.updRegion r fun x => { x with
    committed := false, goal := if x.goal == .solder seq then .fault else x.goal }) s

theorem aside_takeBack (s : State) (seq : Nat) (ks : List Nat) : Aside s (s.takeBack seq ks) :=
  aside_foldl (fun s r => aside_updRegion s r _) ks s

theorem takeBack_glb (s : State) (seq : Nat) (ks : List Nat) : (s.takeBack seq ks).glb = s.glb := by
  induction ks generalizing s with
  | nil => rfl
  | cons k ks ih => exact ih _

theorem freed_takeBack (seq : Nat) (ks done : List Nat) (h : s.Freed done) : (s.takeBack seq ks).Freed (done ++ ks) := by
  induction ks generalizing s done with
  | nil => rwa [List.append_nil]
  | cons k ks ih =>
    rw [show done ++ k :: ks = (done ++ [k]) ++ ks by simp]
    refine ih _ fun p hp hk => ?_
    simp only [State.commitments, State.updRegion, List.map_map, List.mem_map] at hp
    obtain ⟨x, hx, rfl⟩ := hp
    simp only [Function.comp] at hk ⊢
    split
    · rfl
    · rename_i hne
      rw [if_neg hne] at hk
      rcases List.mem_append.mp hk with hk | hk
      · exact h _ (List.mem_map.mpr ⟨x, hx, rfl⟩) hk
      · exact absurd (by simpa using hk) hne

/-- The runs that end with a barrier's failure. -/
def State.closeRuns (s : State) (ks : List Nat) : State :=
  ks.foldl
    (fun s r => match s.region? r with
      | some x => if x.phase == .idle && x.ran && !s.resumable x then s.endRun r .stopStep else s
      | none => s) s

theorem closeRuns_frame (s : State) (ks : List Nat) : Aside s (s.closeRuns ks) ∧ Steady s (s.closeRuns ks) := by
  refine ⟨aside_foldl (fun s r => ?_) ks s, steady_foldl (fun s r => ?_) ks s⟩
  · split
    · split
      · exact aside_endRun s r _
      · exact Aside.refl s
    · exact Aside.refl s
  · split
    · split
      · exact steady_endRun s r _
      · exact Steady.refl s
    · exact Steady.refl s

theorem failBarrier_eq (s : State) (b : Barrier) (missing : List Nat) (phase : Nat) :
    s.failBarrier b missing phase =
      if b.phase == .started then
        (((s.dropBarrier b.seq).takeBack b.seq b.regions).closeRuns b.regions).raiseModule .barrierTimeout
          (barrierDetail b.seq missing phase)
      else b.clients.foldl (fun s c => s.done c.1 c.2.1 c.2.2 .state [])
        ((((s.dropBarrier b.seq).takeBack b.seq b.regions).closeRuns b.regions).raiseModule .barrierTimeout
          (barrierDetail b.seq missing phase)) := rfl

/-- A barrier that fails leaves the list, keeps the memories, frees its regions, and leaves one record. -/
theorem failBarrier_spec (h : s.fab.barriers = [b]) (missing : List Nat) (phase : Nat) :
    (s.failBarrier b missing phase).fab.barriers = [] ∧ (s.failBarrier b missing phase).mem = s.mem ∧
      (s.failBarrier b missing phase).Freed b.regions ∧
      ∃ f, (s.failBarrier b missing phase).glb.faults = s.glb.faults ++ [f] ∧ f.code = .barrierTimeout ∧
        f.detail = barrierDetail b.seq missing phase ∧ f.cycle = s.time.cycle := by
  rw [failBarrier_eq, dropBarrier_one h]
  have a1 := aside_takeBack (s.withBarriers []) b.seq b.regions
  have g1 := takeBack_glb (s.withBarriers []) b.seq b.regions
  have f1 := freed_takeBack (s := s.withBarriers []) b.seq b.regions [] fun p _ hp => absurd hp List.not_mem_nil
  generalize (s.withBarriers []).takeBack b.seq b.regions = u at a1 g1 f1 ⊢
  obtain ⟨a2, s2⟩ := closeRuns_frame u b.regions
  generalize u.closeRuns b.regions = v at a2 s2 ⊢
  have a3 := a1.trans (a2.trans (aside_raiseModule v .barrierTimeout (barrierDetail b.seq missing phase) 1))
  obtain ⟨⟨f, hf, hcode, hdetail, hcycle, -⟩, hmarks⟩ := raiseModule_record v .barrierTimeout (barrierDetail b.seq missing phase) 1
  have f3 : (v.raiseModule .barrierTimeout (barrierDetail b.seq missing phase)).Freed b.regions := by
    unfold State.Freed
    rw [hmarks]
    exact freed_of_steady f1 s2
  rw [s2.glb, g1] at hf
  replace hf := congrArg Globals.faults hf
  rw [(a1.trans a2).time] at hcycle
  generalize v.raiseModule .barrierTimeout (barrierDetail b.seq missing phase) = w at a3 hf f3 ⊢
  have out (z : State) (ha : Aside w z) (hs : Steady w z) : z.fab.barriers = [] ∧ z.mem = s.mem ∧ z.Freed b.regions ∧
      ∃ f, z.glb.faults = s.glb.faults ++ [f] ∧ f.code = .barrierTimeout ∧
        f.detail = barrierDetail b.seq missing phase ∧ f.cycle = s.time.cycle :=
    ⟨congrArg Fabric.barriers (a3.trans ha).fab, (a3.trans ha).mem, freed_of_steady f3 hs,
      f, (congrArg Globals.faults hs.glb).trans hf, hcode, hdetail, hcycle⟩
  split
  · exact out w (Aside.refl w) (Steady.refl w)
  · exact out _ (aside_foldl (fun s c => aside_report s _ _ _ _) _ w) (steady_foldl (fun s c => steady_done s _ _ _ _ _) _ w)

theorem Freed.region {ks : List Nat} (h : s.Freed ks) (hk : r ∈ ks) (hx : s.region? r = some x) : x.committed = false := by
  refine h _ (List.mem_map.mpr ⟨x, List.mem_of_find?_eq_some hx, rfl⟩) ?_
  rwa [State.region?_num hx]

/-- The last confirmation takes the barrier out. -/
theorem solderConfirmed_last {m : Nat} {cs : List Nat} (h : s.fab.barriers = [b]) (hp : b.phase = .started)
    (hu : (if b.members.contains m && !b.confirms.contains m then { b with confirms := b.confirms ++ [m] } else b) =
      { b with confirms := cs }) (hall : ∀ k ∈ b.members, k ∈ cs) : s.solderConfirmed b.seq m = s.withBarriers [] := by
  rw [State.solderConfirmed, updBarrier_one h, hu]
  generalize hd : ({ b with confirms := cs } : Barrier) = d
  have hone : (s.withBarriers [d]).fab.barriers = [d] := rfl
  have hfull : d.notConfirmed = [] := by
    subst hd
    exact List.filter_eq_nil_iff.mpr fun k hk => by simpa using hall k hk
  have hphase : d.phase = .started := by rw [← hd, hp]
  rw [show b.seq = d.seq by rw [← hd]]
  rw [barrier_one hone]
  simp only [hphase, hfull, beq_self_eq_true, List.isEmpty_nil, Bool.and_self, if_true]
  exact dropBarrier_one hone

/-- Settles O43: each row of the barrier on the only barrier of the module; the failures by `failBarrier_spec`, the start by
`runRegion_region` and `runRegion_cores`. -/
theorem solderBarrierRunsItsRegions : Obligations.SolderBarrierRunsItsRegions := by
  intro s b m ready r t x hb put wait
  have hfind := barrier_one hb
  have hput (bs : List Barrier) : put bs = s.withBarriers bs := rfl
  refine ⟨fun hp hm hn => ?_, fun hp hd hrep hmem harr => ?_, fun hp ht hle hreg hlen hcl hr hph hco hld => ?_,
    fun hp hl => ?_, fun hp hm hall => ?_, fun now phase missing hnow hcase => ?_⟩
  · show execSolderArrival b.seq m true ready s = _
    have hnone : (b.arrivals.any fun a => a.1 == m) = false := List.any_eq_false.mpr fun a ha => by simpa using hn a ha
    rw [execSolderArrival, State.solderArrived, updBarrier_one hb, hput]
    simp only [hp, beq_self_eq_true, List.contains_iff_mem.mpr hm, hnone, Bool.and_self, Bool.not_false, if_true]
  · have hturn : s.turnOf b 0 = turnFrom (max (ready + wait) b.floor) := by
      simp only [State.turnOf, harr, List.foldl_cons, List.foldl_nil, Nat.zero_max, Nat.max_zero]
      rfl
    obtain ⟨h0, hge, hlt⟩ := turnFrom_spec (max (ready + wait) b.floor)
    refine ⟨_, h0, le_trans (le_max_left _ _) hge, le_trans (le_max_right _ _) hge, hlt, ?_⟩
    have hlead : s.leads b.members = true := by rw [State.leads, hmem]; rfl
    have hin : b.notArrived = [] := by simp [Barrier.notArrived, hmem, harr]
    show execSolderCommit b.seq none s = _
    rw [execSolderCommit, State.solderCommitted, hfind]
    have hmove : s.replaceFor b = (s, 0) := if_pos (by rw [hrep]; rfl)
    simp only [hp, bne_self_eq_false, hd, Bool.or_self, Bool.false_eq_true, if_false, hlead, if_true, hin,
      List.isEmpty_nil, hmove]
    rw [hturn, State.commitAt]
    by_cases hpast : turnFrom (max (ready + wait) b.floor) < s.time.cycle
    · rw [if_pos hpast, if_neg (Nat.not_le.mpr hpast)]
    · rw [if_neg hpast, if_pos (Nat.not_lt.mp hpast), updBarrier_one hb, hput]
      have hone : ¬ 1 < b.members.length := by simp [hmem]
      rw [if_neg (by simp [hone])]
  · have hfold : s.solderStarted b t = (s.runRegion r t b.resume (!b.resume) b.base b.step).dropBarrier b.seq := by
      unfold State.solderStarted
      simp only [advanceTo_past hle, hreg, hcl, List.any_nil, Bool.or_false, List.foldl_cons, List.foldl_nil, hr, hph, hco,
        hld, beq_self_eq_true, Bool.and_self, if_true, hlen]
    have ha := aside_runRegion s r t b.resume (!b.resume) b.base b.step
    refine ⟨s.solderStarted b t, ?_, ?_, ?_, ?_, ?_⟩
    · show execSolderTStart b.seq s = _
      rw [execSolderTStart, hfind]
      simp only [hp, ht]
    · rw [hfold, dropBarrier_one ((congrArg Fabric.barriers ha.fab).trans hb)]
      rfl
    · rw [hfold]
      exact ha.mem
    · rw [hfold]
      exact runRegion_region hr t b.resume (!b.resume) b.base b.step
    · rw [hfold]
      exact runRegion_cores s r t b.resume (!b.resume) b.base b.step
  · show execSolderTStart b.seq s = _
    rw [execSolderTStart, hfind]
    simp only [hp, hl, Bool.false_eq_true, if_false]
  · show execSolderConfirm b.seq m s = _
    rw [execSolderConfirm, hput]
    refine congrArg Host.Outcome.next ?_
    by_cases hin : m ∈ b.confirms
    · refine solderConfirmed_last hb hp (cs := b.confirms) (if_neg ?_) fun k hk => (hall k hk).elim (fun e => e ▸ hin) id
      simp [hin]
    · refine solderConfirmed_last hb hp (cs := b.confirms ++ [m]) (if_pos ?_) fun k hk =>
        (hall k hk).elim (fun e => by simp [e]) fun e => List.mem_append_left _ e
      simp [hin, hm]
  · have htick := atTick_past hnow
    have run : exec (.barrierTimeout b.seq now) s = .next (s.failBarrier b missing phase) := by
      show execBarrierTimeout b.seq now s = _
      rw [execBarrierTimeout, htick]
      simp only [hfind]
      rcases hcase with ⟨hp, hw, rfl, rfl⟩ | ⟨hp, ht, hle, rfl, rfl⟩
      · simp only [hp, hw, if_true]
        rfl
      · simp only [hp, ht, advanceTo_past hle]
        rfl
    obtain ⟨hbs, hmem, hfree, hrec⟩ := failBarrier_spec hb missing phase
    exact ⟨_, run, hbs, hmem, fun k hk y hy => Freed.region hfree hk hy, hrec⟩

/-! ### The pace -/

/-- The next declared step or pace multiple is none that lies below. -/
theorem optMin_fold {n : Nat} (ks : List Nat) (o : Option Nat) (hk : ∀ k ∈ ks, n ≤ k) (ho : ∀ k, o = some k → n ≤ k) {k : Nat}
    (h : ks.foldl (fun o k => optMin o k) o = some k) : n ≤ k := by
  induction ks generalizing o with
  | nil => exact ho k h
  | cons a r ih =>
    refine ih (optMin o a) (fun z hz => hk z (List.mem_cons_of_mem _ hz)) (fun z hz => ?_) h
    have ha := hk a List.mem_cons_self
    cases o with
    | none => cases hz; exact ha
    | some m => cases hz; exact le_min (ho m rfl) ha

theorem le_foldl_max (l : List Nat) (a : Nat) : a ≤ l.foldl max a := by
  induction l generalizing a with
  | nil => exact le_rfl
  | cons b r ih => exact le_trans (le_max_left a b) (ih _)

/-- A region's next pause lies beyond its last one. -/
theorem nextPause_beyond {k : Nat} (h : s.nextPause x = some k) : x.paused < k := by
  unfold State.nextPause at h
  dsimp only at h
  generalize hl : (s.coresOf x.num).map _ = l at h
  have htop := le_foldl_max l (x.paused + 1)
  generalize l.foldl max (x.paused + 1) = top at h htop
  refine lt_of_lt_of_le htop (optMin_fold _ _ (fun z hz => ?_) (fun z hz => ?_) h)
  · obtain ⟨p, _, hp⟩ := List.mem_filterMap.mp hz
    split at hp
    · cases hp
      assumption
    · cases hp
  · split at hz
    · cases hz
    · rename_i hne
      cases hz
      have hlt := Nat.lt_div_mul_add (a := top + x.paceP - 1) (Nat.pos_of_ne_zero hne)
      omega

/-- Settles O44: the pause by the row's own steps, its place by `nextPause_beyond`, the end by `turnFrom_spec`. -/
theorem pacePausesAndResumes : Obligations.PacePausesAndResumes := by
  intro s r k x hr
  refine ⟨fun hreach hk hdecl hset => ?_, nextPause_beyond, fun hp hg hc hd => ?_⟩
  · have hrun : x.phase = .running := by
      simp only [pauseReached, Bool.and_eq_true, beq_iff_eq] at hreach
      exact hreach.1
    have hfind : (x.solderSteps.find? fun p => p.1 == k) = none :=
      List.find?_eq_none.mpr fun p hp => by simpa using hdecl p hp
    show execPacePause r s = _
    rw [execPacePause, hr]
    simp only [hreach, if_true, State.pacePause, hr, hrun, bne_self_eq_false, Bool.false_eq_true, if_false, hk, hfind,
      Option.isNone_none, Bool.true_and]
    rw [if_pos]
    exact decide_eq_true hset
  · obtain ⟨h0, hge, hlt⟩ := turnFrom_spec (max (x.lastStop + x.paceI) s.time.cycle)
    refine ⟨_, h0, le_trans (le_max_left _ _) hge, le_trans (le_max_right _ _) hge, hlt, ?_⟩
    show execPaceResume r s = _
    rw [execPaceResume, hr]
    simp only [hp, hg, hc, hd, bne_self_eq_false, Bool.not_true, Bool.or_self, Bool.false_eq_true, if_false]

end Sys2Proof.Machine
end

section
/-! PROOFS. The ends of a region's transitions (spec chapter 12). -/

namespace Sys2Proof.Machine

variable {s t u : State} {r : Nat} {x : Region}

/-! ### What only the host is told -/

/-- Only the host's side and the firmware's deferred reports have moved. -/
def Told (s t : State) : Prop := ∃ h f, t = { s with host := h, fw := f }

theorem Told.refl (s : State) : Told s s := ⟨_, _, rfl⟩

theorem Told.trans (h : Told s t) (g : Told t u) : Told s u := by
  obtain ⟨h, f, rfl⟩ := h
  obtain ⟨h', f', rfl⟩ := g
  exact ⟨h', f', rfl⟩

theorem told_report (s : State) (p : Session → Bool) (code : EvCode) (items : List Item) (core : Option Nat) :
    Told s (s.report p code items core) := s.report_shape p code items core

theorem told_notify (s : State) (code : EvCode) (items : List Item) (core : Option Nat) :
    Told s (s.notify code items core) := told_report s _ _ _ _

theorem told_done (s : State) (n q code : Nat) (st : Status) (items : List Item) : Told s (s.done n q code st items) :=
  told_report s _ _ _ _

theorem told_foldl {α : Type} {f : State → α → State} (h : ∀ s x, Told s (f s x)) (l : List α) (s : State) :
    Told s (l.foldl f s) := by
  induction l generalizing s with
  | nil => exact Told.refl s
  | cons x r ih => exact (h s x).trans (ih _)

theorem told_ticketMark (s : State) (id l : Nat) (k : Option Nat) : Told s (s.ticketMark id l k) := by
  unfold State.ticketMark
  dsimp only
  split
  · exact ⟨_, _, rfl⟩
  · exact Told.trans ⟨_, _, rfl⟩ (told_report _ _ _ _ _)

theorem told_dropBuffered (s : State) (r : Nat) : Told s (s.dropBuffered r) :=
  told_foldl (fun s _ => told_foldl (fun s _ => told_ticketMark s _ _ _) _ s) _ s

/-! ### A waiting command that is settled -/

theorem settleWaiter_of {w : Nat × Nat × Nat} (h : s.region? r = some x) (hw : x.waiter = some w) (st : Status)
    (items : List Item) :
    s.settleWaiter r st items = (s.updRegion r fun y => { y with waiter := none }).done w.1 w.2.1 w.2.2 st items := by
  rw [State.settleWaiter, h, Option.bind_some, hw]

@[simp] theorem settleWaiter_cores (st : Status) (items : List Item) : (s.settleWaiter r st items).cores = s.cores := by
  unfold State.settleWaiter
  split
  · rw [State.done_cores]
    rfl
  · rfl

@[simp] theorem settleWaiter_mem (st : Status) (items : List Item) : (s.settleWaiter r st items).mem = s.mem := by
  unfold State.settleWaiter
  split
  · rw [State.done_mem]
    rfl
  · rfl

/-- The region that a command waited for, with no waiter any more or as it was. -/
theorem region?_settleWaiter (h : s.region? r = some x) (st : Status) (items : List Item) :
    ∃ w, (s.settleWaiter r st items).region? r = some { x with waiter := w } := by
  cases hw : x.waiter with
  | none =>
    rw [State.settleWaiter, h, Option.bind_some, hw]
    exact ⟨none, by rw [h, ← hw]⟩
  | some w =>
    rw [settleWaiter_of h hw, State.done_region?, region?_updRegion_of h]
    · exact ⟨none, rfl⟩
    · exact fun _ => rfl

/-! ### The stack tensors of a region, freed -/

theorem zeroStacks_frame (ts : List (GA × Nat)) (s : State) :
    (ts.foldl (fun s t => s.zeroStack t.1 t.2) s).cores = s.cores ∧
      (ts.foldl (fun s t => s.zeroStack t.1 t.2) s).regions = s.regions := by
  induction ts generalizing s with
  | nil => exact ⟨rfl, rfl⟩
  | cons t ts ih => exact ih _

theorem zeroStacks_cores (ts : List (GA × Nat)) (s : State) :
    (ts.foldl (fun s t => s.zeroStack t.1 t.2) s).cores = s.cores := (zeroStacks_frame ts s).1

/-- No bank work waits: the cores' banks are drained at once. -/
theorem drainBanks_done {n : Nat} (h : ∀ c ∈ s.cores, c.region = r → c.combIdle = true ∧ c.landing = []) :
    s.drainBanks n r = s := by
  cases n with
  | zero => rfl
  | succ k =>
    rw [State.drainBanks, if_pos]
    refine List.all_eq_true.mpr fun c hc => ?_
    obtain ⟨hm, hr⟩ := List.mem_filter.mp hc
    obtain ⟨h1, h2⟩ := h c hm (by simpa using hr)
    rw [h1, h2]
    rfl

/-- What a region keeps that is parked. -/
def Region.unloaded (x : Region) : Region :=
  { x with
    loaded := false, ran := false, spoiled := false, obj := none, groups := [], chainMode := [], release := false
    solderSteps := [], replayStop := none, pauseFor := none, goal := .command
    tensors := if x.release then [] else x.tensors }

theorem finishPark_cores (s : State) (x : Region) : (s.finishPark x).cores = s.cores.filter fun c => c.region != x.num := by
  unfold State.finishPark
  rw [setPhase_cores]
  show ((if x.release then x.tensors.foldl (fun s t => s.zeroStack t.1 t.2) _ else _ : State).cores.filter _) = _
  refine congrArg (List.filter fun c : CoreSt => c.region != x.num) ?_
  obtain ⟨h, f, e⟩ := told_dropBuffered s x.num
  split
  · rw [zeroStacks_cores, e]
    rfl
  · rw [e]
    rfl

theorem finishPark_region (hr : s.region? x.num = some x) :
    ∃ y, (s.finishPark x).region? x.num = some y ∧ y.phase = .parked ∧ y.loaded = false ∧ y.obj = none := by
  unfold State.finishPark
  dsimp only
  obtain ⟨h, f, e⟩ := told_dropBuffered s x.num
  generalize hv : (if x.release then _ else _ : State) = v
  have hregions : v.region? x.num = some x := by
    have : v.regions = s.regions := by
      subst hv
      split
      · rw [(zeroStacks_frame _ _).2, e]
        rfl
      · rw [e]
        rfl
    rw [State.region?, this]
    exact hr
  have hu : (({ v with cores := v.cores.filter fun c => c.region != x.num } : State).updRegion x.num
      Region.unloaded).region? x.num = some x.unloaded := region?_updRegion_of hregions fun _ => rfl
  exact ⟨_, region?_setPhase hu .parked 0, rfl, rfl, rfl⟩

/-- Settles O45: the ends of load, DEFINE and UNDEFINE by the rules above; parking by `finishPark_cores`. -/
theorem regionTransitionsEnd : Obligations.RegionTransitionsEnd := by
  intro s r a q l ph rows x zeroed hr hnum
  subst hnum
  refine ⟨fun hp hw => ?_, fun hp hu => ?_, fun hp hu => ?_, fun hp hc => ?_, fun hp hrep hph hnot => ?_⟩
  · show execLoadComplete x.num s = _
    rw [execLoadComplete, hr]
    have h1 := region?_updRegion_of hr (f := fun y => { y with pendingLoad := none }) fun _ => rfl
    have h2 := settleWaiter_of (region?_setPhase h1 .idle 0) (w := (a, q, 0x0200)) hw .ok [.num x.base, .num x.place.digest]
    simp only [hp, bne_self_eq_false, Bool.false_eq_true, if_false, h2]
  · show execRegionTransitionDone x.num rows zeroed s = _
    rw [execRegionTransitionDone, hr]
    simp only [hp, hu, Bool.false_eq_true, if_false]
  · refine ⟨s.finishUndefine x, ?_, ?_, ?_⟩
    · show execRegionTransitionDone x.num rows zeroed s = _
      rw [execRegionTransitionDone, hr]
      simp only [hp, hu, if_true]
    · refine List.find?_eq_none.mpr fun y hy => ?_
      obtain ⟨_, hne⟩ := List.mem_filter.mp hy
      simpa using hne
    · show (State.notify _ _ _ _).cores = _
      rw [State.notify_cores, settleWaiter_cores, zeroStacks_cores]
  · refine ⟨((s.drainBanks 65536 x.num).finishPark x).settleWaiter x.num .ok [], ?_, ?_, ?_⟩
    · show execRegionTransitionDone x.num rows zeroed s = _
      rw [execRegionTransitionDone, hr]
      simp only [hp]
    · rw [settleWaiter_cores, finishPark_cores, drainBanks_done hc]
    · rw [drainBanks_done hc]
      obtain ⟨y, hy, h1, h2, h3⟩ := finishPark_region hr
      obtain ⟨w, hw⟩ := region?_settleWaiter hy .ok []
      exact ⟨_, hw, h1, h2, h3⟩
  · refine ⟨s.finishRepair x rows zeroed, ?_, ?_⟩
    · show execRegionTransitionDone x.num rows zeroed s = _
      rw [execRegionTransitionDone, hr]
      simp only [hp]
    · have hmark : s.markFailed ph = { s with mem := { s.mem with defects := s.mem.defects ++ [ph] } } := by
        simp [State.markFailed, hnot]
      have hwell : x.repairWell (.coreSwap l) = some (ph, 0) := by rw [Region.repairWell, hph]; rfl
      unfold State.finishRepair
      rw [hrep]
      cases rows with
      | none =>
        simp only [hwell, hmark, settleWaiter_mem, settleWaiter_cores, setPhase_cores]
        rw [(aside_setPhase _ _ _ _).mem]
        exact ⟨rfl, rfl⟩
      | some rows =>
        simp only [State.repairDone, hwell, hmark, settleWaiter_mem, settleWaiter_cores, setPhase_cores]
        rw [(aside_setPhase _ _ _ _).mem]
        exact ⟨rfl, rfl⟩

end Sys2Proof.Machine
end

section
/-! PROOFS. A mailbox command in its turn: what its meaning does is what the command does, with the reply put first
(spec chapter 13). -/

namespace Sys2Proof.Machine

variable {s t u : State} {h : Hdr} {x : Session} {c : MbxCmd} {st : Status} {items : List Item} {i : Instr}

/-! ### Sessions through an update -/

theorem updSession_updSession (n : Nat) (f g : Session → Session) (hf : ∀ y, (f y).num = y.num) :
    (s.updSession n f).updSession n g = s.updSession n fun y => g (f y) := by
  unfold State.updSession
  simp only [List.map_map]
  congr 2
  refine List.map_congr_left fun y _ => ?_
  simp only [Function.comp]
  split <;> simp_all

theorem session?_num {n : Nat} (h : s.session? n = some x) : x.num = n := by simpa using List.find?_some h

@[simp] theorem noted_pending : (s.noted h).pending = s.pending := rfl
@[simp] theorem noted_part : (s.noted h).part = s.part := rfl
@[simp] theorem noted_time : (s.noted h).time = s.time := rfl
@[simp] theorem noted_pwr : (s.noted h).pwr = s.pwr := rfl
@[simp] theorem noted_set : (s.noted h).set = s.set := rfl
@[simp] theorem noted_fw : (s.noted h).fw = s.fw := rfl
@[simp] theorem noted_sec : (s.noted h).sec = s.sec := rfl
@[simp] theorem noted_regions : (s.noted h).regions = s.regions := rfl
@[simp] theorem noted_cores : (s.noted h).cores = s.cores := rfl
@[simp] theorem noted_mem : (s.noted h).mem = s.mem := rfl
@[simp] theorem noted_fab : (s.noted h).fab = s.fab := rfl
@[simp] theorem noted_kol : (s.noted h).kol = s.kol := rfl
@[simp] theorem noted_eth : (s.noted h).eth = s.eth := rfl
@[simp] theorem noted_glb : (s.noted h).glb = s.glb := rfl
@[simp] theorem noted_outbox : (s.noted h).host.outbox = s.host.outbox := rfl
@[simp] theorem noted_streams : (s.noted h).host.streams = s.host.streams := rfl
@[simp] theorem noted_allocs : (s.noted h).host.allocs = s.host.allocs := rfl
@[simp] theorem noted_ledger : (s.noted h).host.ledger = s.host.ledger := rfl

/-- The session as its command finds it. -/
def Session.notedAt (x : Session) (tick : Nat) (h : Hdr) : Session := { x with lastTick := tick, source := (h.source, h.udp) }

theorem noted_session (hx : s.session? h.session = some x) :
    (s.noted h).session? h.session = some (x.notedAt s.time.tick h) := by
  have hr : (s.heard h.port h.source).session? h.session = some x := hx
  rw [State.noted, State.session?_updSession, hr]
  · rfl
  · exact fun _ => rfl

theorem noted_isPriv (hx : s.session? h.session = some x) : (s.noted h).isPriv h.session = x.priv := by
  rw [State.isPriv, noted_session hx]
  rfl

/-! ### The state after the reply -/

/-- A session after the reply to its command: it awaits the next sequence number, and the reply is kept (R312, R313). -/
def Session.answered (x : Session) (h : Hdr) (st : Status) (items : List Item) : Session :=
  { x with
    next := h.seq + 1
    cache := (x.cache ++ [({ seq := h.seq, status := st, items := items } : CachedReply)]).drop (x.cache.length + 1 - 32)
    authFails := 0 }

/-- The state that a command leaves, with what is sent in its order. -/
def State.afterReply (t : State) (out : List Out) (h : Hdr) (st : Status) (items : List Item) : State :=
  { t with host := { t.host with outbox := out } }.updSession h.session fun x => x.answered h st items

theorem afterReply_session (out : List Out) :
    (t.afterReply out h st items).session? h.session = (t.session? h.session).map fun y => y.answered h st items :=
  State.session?_updSession _ _ _ fun _ => rfl

/-- A command whose reply is not AUTH leaves no count of such replies. -/
theorem countAuth_other (n : Nat) (hst : st ≠ .auth) : s.countAuth n st = s.updSession n fun y => { y with authFails := 0 } := by
  have he : (st == Status.auth) = false := by simpa using hst
  unfold State.countAuth
  simp only [he, Bool.false_eq_true, if_false]
  rw [State.session?_updSession]
  swap
  · exact fun _ => rfl
  cases s.session? n with
  | none => rfl
  | some y => rfl

/-- No command of the session waits for its turn (R312). -/
theorem performHeld_none {n num : Nat} (hn : ∀ y, s.session? num = some y → ∀ e ∈ y.held, e.hdr.seq ≠ y.next) :
    s.performHeld n num = s := by
  cases n with
  | zero => rfl
  | succ k =>
    unfold State.performHeld
    cases hy : s.session? num with
    | none => rfl
    | some y =>
      have hf : y.held.find? (fun e => e.hdr.seq == y.next) = none :=
        List.find?_eq_none.mpr fun e he => by simpa using hn y hy e he
      simp only [hf]

theorem codeOf_known (c : MbxCmd) : (openCodes.contains (codeOf c) || privCodes.contains (codeOf c)) = true := by
  cases c <;> rfl

/-- A command that is known, privileged as it must be, and of its length has its own answer. -/
theorem answer_own {w : Who} (hcode : h.code = none) (hlen : h.lengthOk = true)
    (hp : privCodes.contains (codeOf c) = true → w.priv = true) : s.answer w h c = s.runCmd w (h.source, h.udp) c := by
  have hk : codeFor h c = codeOf c := by rw [codeFor, hcode]; rfl
  have hpriv : (privCodes.contains (codeOf c) && !w.priv) = false := by
    cases hb : privCodes.contains (codeOf c) with
    | false => rfl
    | true => rw [hp hb]; rfl
  unfold State.answer
  simp only [hk, codeOf_known, hpriv, hlen, Bool.not_true, bne_self_eq_false, Bool.or_self, Bool.false_eq_true, if_false]

/-- A command in its turn, executed and answered (R312). -/
theorem perform_eq {n : Nat} (hst : st ≠ .auth) (hn : s.host.outbox.length = n)
    (ha : s.answer { session := h.session, seq := h.seq, priv := s.isPriv h.session } h c = (t, st, items)) :
    ∃ m, ReplyTo h st m ∧ s.perform h c [] =
      t.afterReply (t.host.outbox.take n ++ [.reply h.session h.seq st items m] ++ t.host.outbox.drop n) h st items := by
  unfold State.perform
  simp only [ha, hn]
  rw [countAuth_other _ hst, updSession_updSession]
  · exact ⟨_, ⟨rfl, rfl, rfl⟩, rfl⟩
  · exact fun _ => rfl

/-- The own answer of a command of a session in its turn. -/
theorem answer_inTurn (hin : InTurn s h x) (hp : privCodes.contains (codeOf c) = true → x.priv = true) :
    (s.noted h).answer { session := h.session, seq := h.seq, priv := x.priv } h c =
      (s.noted h).runCmd { session := h.session, seq := h.seq, priv := x.priv } (h.source, h.udp) c :=
  answer_own hin.heard.code hin.heard.length hp

/-- A datagram of a session in its turn, by the answer to it. -/
theorem deliver_inTurn (hin : InTurn s h x)
    (hans : (s.noted h).answer { session := h.session, seq := h.seq, priv := x.priv } h c = (t, st, items))
    (hst : st ≠ .auth) (hheld : ∀ y, t.session? h.session = some y → ∀ e ∈ y.held, e.hdr.seq ≠ h.seq + 1) :
    ∃ m, ReplyTo h st m ∧ s.deliver h c =
      t.afterReply (t.host.outbox.take s.host.outbox.length ++ [.reply h.session h.seq st items m] ++
        t.host.outbox.drop s.host.outbox.length) h st items := by
  obtain ⟨⟨hlis, hgood, -, -⟩, hopen, -, hses, htag, hturn, -⟩ := hin
  rw [← noted_isPriv hopen] at hans
  obtain ⟨m, hm, hperf⟩ := perform_eq (s := s.noted h) (n := s.host.outbox.length) hst rfl hans
  refine ⟨m, hm, ?_⟩
  have htagOk : (x.priv && h.tag != .good) = false := by
    cases hb : x.priv with
    | false => rfl
    | true => rw [htag hb]; rfl
  have hfind : (s.heard h.port h.source).session? h.session = some x := hopen
  unfold State.deliver
  simp only [hlis, hgood, Bool.not_true, Bool.or_self, Bool.false_eq_true, if_false, hses, hfind, htagOk]
  unfold State.sequenced
  simp only [hturn, if_true, session?_num hopen]
  rw [← hturn]
  show (State.perform (s.noted h) h c []).performHeld 7 h.session = _
  rw [hperf]
  refine performHeld_none fun y hy e he => ?_
  rw [afterReply_session] at hy
  obtain ⟨z, hz, rfl⟩ := Option.map_eq_some_iff.mp hy
  exact hheld z hz e he

/-! ### What a command leaves of the sessions and the output -/

/-- What is sent is added, and the held commands of every session stand. -/
structure Mail (s t : State) : Prop where
  out : ∃ more, t.host.outbox = s.host.outbox ++ more
  held : t.host.sessions.map (fun y => (y.num, y.held)) = s.host.sessions.map fun y => (y.num, y.held)

theorem Mail.of_host (h : t.host = s.host) : Mail s t := ⟨⟨[], by rw [h, List.append_nil]⟩, by rw [h]⟩

theorem Mail.refl (s : State) : Mail s s := .of_host rfl

theorem Mail.trans (h : Mail s t) (g : Mail t u) : Mail s u := by
  obtain ⟨⟨a, ha⟩, hh⟩ := h
  obtain ⟨⟨b, hb⟩, hg⟩ := g
  exact ⟨⟨a ++ b, by rw [hb, ha, List.append_assoc]⟩, hg.trans hh⟩

theorem mail_updSession (n : Nat) {f : Session → Session} (hf : ∀ y, (f y).num = y.num ∧ (f y).held = y.held) :
    Mail s (s.updSession n f) := by
  refine ⟨⟨[], (List.append_nil _).symm⟩, ?_⟩
  show (s.host.sessions.map _).map _ = _
  rw [List.map_map]
  refine List.map_congr_left fun y _ => ?_
  simp only [Function.comp]
  split
  · rw [(hf y).1, (hf y).2]
  · rfl

theorem mail_sendTo (p : Session → Bool) (code : EvCode) (items : List Item) (step : Nat) :
    Mail s (s.sendTo p code items step) := by
  refine ⟨⟨_, rfl⟩, ?_⟩
  show (s.host.sessions.map _).map _ = _
  rw [List.map_map]
  refine List.map_congr_left fun y _ => ?_
  simp only [Function.comp, Session.push]
  split
  · split <;> rfl
  · rfl

theorem mail_ledger (s : State) (kind : Nat) (items : List Item) : Mail s (s.ledger kind items) := by
  unfold State.ledger
  exact ⟨⟨[], (List.append_nil _).symm⟩, rfl⟩

theorem mail_emit (o : Out) : Mail s (s.emit o) := ⟨⟨_, rfl⟩, rfl⟩

theorem mail_report (s : State) (p : Session → Bool) (code : EvCode) (items : List Item) (core : Option Nat) :
    Mail s (s.report p code items core) := by
  unfold State.report
  have hl : Mail s (if code.inLedger || s.fw.mgmtDown then s.ledger code.num items else s) := by
    split
    · exact mail_ledger s _ _
    · exact Mail.refl s
  dsimp only
  generalize (if code.inLedger || s.fw.mgmtDown then s.ledger code.num items else s) = v at hl ⊢
  split
  · exact hl.trans (.of_host rfl)
  · exact hl.trans (mail_sendTo _ _ _ _)

theorem mail_notify (s : State) (code : EvCode) (items : List Item) (core : Option Nat) :
    Mail s (s.notify code items core) := mail_report s _ _ _ _

theorem mail_done (s : State) (n q code : Nat) (st : Status) (items : List Item) : Mail s (s.done n q code st items) :=
  mail_report s _ _ _ _

theorem mail_updRegion (s : State) (r : Nat) (f : Region → Region) : Mail s (s.updRegion r f) := .of_host rfl

theorem mail_updCoresOf (s : State) (r : Nat) (f : CoreSt → CoreSt) : Mail s (s.updCoresOf r f) := .of_host rfl

theorem mail_foldl {α : Type} {f : State → α → State} (h : ∀ s x, Mail s (f s x)) (l : List α) (s : State) :
    Mail s (l.foldl f s) := by
  induction l generalizing s with
  | nil => exact Mail.refl s
  | cons x r ih => exact (h s x).trans (ih _)

theorem mail_setPhase (s : State) (r : Nat) (p : Phase) (cause : Nat) : Mail s (s.setPhase r p cause) := by
  unfold State.setPhase
  split
  · exact Mail.refl s
  · exact (mail_updRegion s r _).trans (mail_notify _ _ _ _)

theorem mail_toStopping (s : State) (r : Nat) (k : EndReason) (g : StopGoal) (cause : Nat) :
    Mail s (s.toStopping r k g cause) := by
  unfold State.toStopping
  split
  · exact Mail.refl s
  · dsimp only
    split
    · exact (mail_updRegion s r _).trans (mail_setPhase _ _ _ _)
    · exact mail_updRegion s r _

theorem mail_endRun (s : State) (r : Nat) (why : EndReason) : Mail s (s.endRun r why) := by
  unfold State.endRun
  split
  · exact Mail.refl s
  · split
    · exact Mail.refl s
    · dsimp only
      split
      · exact Mail.refl s
      · exact (mail_updRegion s r _).trans (mail_notify _ _ _ _)

theorem mail_ticketMark (s : State) (id l : Nat) (k : Option Nat) : Mail s (s.ticketMark id l k) := by
  unfold State.ticketMark
  dsimp only
  split
  · exact ⟨⟨[], (List.append_nil _).symm⟩, rfl⟩
  · refine Mail.trans ?_ (mail_report _ _ _ _ _)
    exact ⟨⟨[], (List.append_nil _).symm⟩, rfl⟩

theorem mail_moduleStop (s : State) (p : Policy) (cause : Nat) : Mail s (s.moduleStop p cause) := by
  refine mail_foldl (fun s x => ?_) _ _
  dsimp only
  split
  · exact Mail.refl s
  · cases p with
    | log => exact Mail.refl s
    | stopStep => exact (mail_updCoresOf s _ _).trans (mail_toStopping _ _ _ _ _)
    | stop => exact (mail_updCoresOf s _ _).trans (mail_toStopping _ _ _ _ _)

theorem mail_raiseModule (s : State) (code : FCode) (detail cause : Nat) : Mail s (s.raiseModule code detail cause) := by
  unfold State.raiseModule
  refine Mail.trans ?_ (mail_moduleStop _ _ _)
  refine Mail.trans (Mail.trans ?_ (mail_notify _ _ _ _)) (.of_host rfl)
  exact .of_host rfl

/-- The held commands of a session that a command leaves as they were: none has its turn next. -/
theorem held_of_mail (hin : InTurn s h x) (hm : Mail (s.noted h) t) :
    ∀ y, t.session? h.session = some y → ∀ e ∈ y.held, e.hdr.seq ≠ h.seq + 1 := by
  intro y hy e he
  have hmem : (y.num, y.held) ∈ t.host.sessions.map fun z => (z.num, z.held) :=
    List.mem_map.mpr ⟨y, List.mem_of_find?_eq_some hy, rfl⟩
  have hnoted : Mail (s.heard h.port h.source) (s.noted h) := mail_updSession _ fun _ => ⟨rfl, rfl⟩
  rw [hm.held, hnoted.held] at hmem
  obtain ⟨z, hz, heq⟩ := List.mem_map.mp hmem
  simp only [Prod.mk.injEq] at heq
  obtain rfl := hin.alone z hz (heq.1.trans (session?_num hy))
  exact hin.held e (heq.2 ▸ he)

/-- A command in its turn ends with its answer, whatever becomes of its session. -/
theorem answers_of_answer (hin : InTurn s h x) (hi : exec i s = .next (s.deliver h c))
    (hans : (s.noted h).answer { session := h.session, seq := h.seq, priv := x.priv } h c = (t, st, items))
    (hst : st ≠ .auth) (hout : ∃ more, t.host.outbox = s.host.outbox ++ more)
    (hheld : ∀ y, t.session? h.session = some y → ∀ e ∈ y.held, e.hdr.seq ≠ h.seq + 1) {P : State → Prop}
    (hP : ∀ out, P (t.afterReply out h st items)) : Answers i s h st items P := by
  obtain ⟨m, hm, he⟩ := deliver_inTurn hin hans hst hheld
  obtain ⟨more, hmore⟩ := hout
  refine ⟨_, hi.trans (congrArg Host.Outcome.next he), ⟨m, more, ?_, hm⟩, fun _ y hy => ?_, hP _⟩
  · show t.host.outbox.take _ ++ _ ++ t.host.outbox.drop _ = _
    rw [hmore, List.take_left, List.drop_left, List.append_assoc]
    rfl
  · rw [afterReply_session] at hy
    obtain ⟨z, -, rfl⟩ := Option.map_eq_some_iff.mp hy
    rfl

/-- A command in its turn answers as its meaning says. -/
theorem answers_of_run (hin : InTurn s h x) (hi : exec i s = .next (s.deliver h c))
    (hp : privCodes.contains (codeOf c) = true → x.priv = true)
    (hrun : (s.noted h).runCmd { session := h.session, seq := h.seq, priv := x.priv } (h.source, h.udp) c = (t, st, items))
    (hst : st ≠ .auth) (hout : ∃ more, t.host.outbox = s.host.outbox ++ more)
    (hheld : ∀ y, t.session? h.session = some y → ∀ e ∈ y.held, e.hdr.seq ≠ h.seq + 1) {P : State → Prop}
    (hP : ∀ out, P (t.afterReply out h st items)) : Answers i s h st items P :=
  answers_of_answer hin hi ((answer_inTurn hin hp).trans hrun) hst hout hheld hP

/-- The same, for a command that leaves the held commands as they are. -/
theorem answers_of_mail (hin : InTurn s h x) (hi : exec i s = .next (s.deliver h c))
    (hp : privCodes.contains (codeOf c) = true → x.priv = true)
    (hrun : (s.noted h).runCmd { session := h.session, seq := h.seq, priv := x.priv } (h.source, h.udp) c = (t, st, items))
    (hst : st ≠ .auth) (hm : Mail (s.noted h) t) {P : State → Prop} (hP : ∀ out, P (t.afterReply out h st items)) :
    Answers i s h st items P :=
  answers_of_run hin hi hp hrun hst hm.out (held_of_mail hin hm) hP

end Sys2Proof.Machine
end

section
/-! PROOFS. What reports, tickets and the ends of runs and commands move: regions and the host side alone
(spec chapters 12 and 13). -/

namespace Sys2Proof.Machine

variable {s t u : State} {r : Nat} {x : Region}

/-- The state with other regions, and with what the host is told. -/
def State.saying (s : State) (rs : List Region) (ss : List Session) (o : List Out) (l : List LedgerEntry) (n : Nat)
    (k : List Ticket) (d : List (EvCode × List Item × Nat)) : State :=
  { s with
    regions := rs
    host := { s.host with sessions := ss, outbox := o, ledger := l, ledgerSeq := n, tickets := k }
    fw := { s.fw with deferred := d } }

/-- Only the regions and what the host is told have moved, and the sessions' held commands stand. -/
structure Spoken (s t : State) : Prop where
  shape : ∃ rs ss o l n k d, t = s.saying rs ss o l n k d
  mail : Mail s t

theorem Spoken.refl (s : State) : Spoken s s := ⟨⟨_, _, _, _, _, _, _, rfl⟩, Mail.refl s⟩

theorem Spoken.trans (h : Spoken s t) (g : Spoken t u) : Spoken s u := by
  obtain ⟨⟨_, _, _, _, _, _, _, rfl⟩, hm⟩ := h
  obtain ⟨⟨_, _, _, _, _, _, _, rfl⟩, gm⟩ := g
  exact ⟨⟨_, _, _, _, _, _, _, rfl⟩, hm.trans gm⟩

theorem spoken_ledger (s : State) (kind : Nat) (items : List Item) : Spoken s (s.ledger kind items) :=
  ⟨⟨s.regions, s.host.sessions, s.host.outbox, _, _, s.host.tickets, s.fw.deferred, rfl⟩, mail_ledger s kind items⟩

theorem spoken_sendTo (s : State) (p : Session → Bool) (code : EvCode) (items : List Item) (step : Nat) :
    Spoken s (s.sendTo p code items step) :=
  ⟨⟨s.regions, _, _, s.host.ledger, s.host.ledgerSeq, s.host.tickets, s.fw.deferred, rfl⟩, mail_sendTo _ _ _ _⟩

theorem spoken_emit (s : State) (o : Out) : Spoken s (s.emit o) :=
  ⟨⟨s.regions, s.host.sessions, _, s.host.ledger, s.host.ledgerSeq, s.host.tickets, s.fw.deferred, rfl⟩, mail_emit o⟩

theorem spoken_report (s : State) (p : Session → Bool) (code : EvCode) (items : List Item) (core : Option Nat) :
    Spoken s (s.report p code items core) := by
  unfold State.report
  have hl : Spoken s (if code.inLedger || s.fw.mgmtDown then s.ledger code.num items else s) := by
    split
    · exact spoken_ledger s _ _
    · exact Spoken.refl s
  dsimp only
  generalize (if code.inLedger || s.fw.mgmtDown then s.ledger code.num items else s) = v at hl ⊢
  split
  · exact hl.trans ⟨⟨v.regions, v.host.sessions, v.host.outbox, v.host.ledger, v.host.ledgerSeq, v.host.tickets, _, rfl⟩,
      .of_host rfl⟩
  · exact hl.trans (spoken_sendTo _ _ _ _ _)

theorem spoken_notify (s : State) (code : EvCode) (items : List Item) (core : Option Nat) :
    Spoken s (s.notify code items core) := spoken_report s _ _ _ _

theorem spoken_done (s : State) (n q code : Nat) (st : Status) (items : List Item) : Spoken s (s.done n q code st items) :=
  spoken_report s _ _ _ _

theorem spoken_updRegion (s : State) (r : Nat) (f : Region → Region) : Spoken s (s.updRegion r f) :=
  ⟨⟨_, s.host.sessions, s.host.outbox, s.host.ledger, s.host.ledgerSeq, s.host.tickets, s.fw.deferred, rfl⟩, .of_host rfl⟩

theorem spoken_foldl {α : Type} {f : State → α → State} (h : ∀ s x, Spoken s (f s x)) (l : List α) (s : State) :
    Spoken s (l.foldl f s) := by
  induction l generalizing s with
  | nil => exact Spoken.refl s
  | cons x r ih => exact (h s x).trans (ih _)

theorem spoken_setPhase (s : State) (r : Nat) (p : Phase) (cause : Nat) : Spoken s (s.setPhase r p cause) := by
  unfold State.setPhase
  split
  · exact Spoken.refl s
  · exact (spoken_updRegion s r _).trans (spoken_notify _ _ _ _)

theorem spoken_toStopping (s : State) (r : Nat) (k : EndReason) (g : StopGoal) (cause : Nat) :
    Spoken s (s.toStopping r k g cause) := by
  unfold State.toStopping
  split
  · exact Spoken.refl s
  · dsimp only
    split
    · exact (spoken_updRegion s r _).trans (spoken_setPhase _ _ _ _)
    · exact spoken_updRegion s r _

theorem spoken_endRun (s : State) (r : Nat) (why : EndReason) : Spoken s (s.endRun r why) := by
  unfold State.endRun
  split
  · exact Spoken.refl s
  · split
    · exact Spoken.refl s
    · dsimp only
      split
      · exact Spoken.refl s
      · exact (spoken_updRegion s r _).trans (spoken_notify _ _ _ _)

theorem spoken_endRuns (s : State) (why : EndReason) : Spoken s (s.endRuns why) := by
  unfold State.endRuns
  exact spoken_foldl (fun s (x : Region) => spoken_endRun s x.num why) _ s

theorem spoken_ticketMark (s : State) (id l : Nat) (k : Option Nat) : Spoken s (s.ticketMark id l k) := by
  have set (v : State) (ts : List Ticket) : Spoken v { v with host := { v.host with tickets := ts } } :=
    ⟨⟨v.regions, v.host.sessions, v.host.outbox, v.host.ledger, v.host.ledgerSeq, ts, v.fw.deferred, rfl⟩,
      ⟨⟨[], (List.append_nil _).symm⟩, rfl⟩⟩
  unfold State.ticketMark
  dsimp only
  split
  · exact set s _
  · exact ((set s _).trans (set _ _)).trans (spoken_report _ _ _ _ _)

theorem spoken_settleWaiter (s : State) (r : Nat) (st : Status) (items : List Item) :
    Spoken s (s.settleWaiter r st items) := by
  unfold State.settleWaiter
  split
  · exact (spoken_updRegion s r _).trans (spoken_done _ _ _ _ _ _)
  · exact Spoken.refl s

/-- The buffered writes of some cores, dropped. -/
theorem spoken_dropWrites (cs : List CoreSt) (s : State) :
    Spoken s (cs.foldl (fun s c => c.cfg.foldl (fun s e => s.ticketMark e.ticket c.lcore none) s) s) :=
  spoken_foldl (fun s _ => spoken_foldl (fun s _ => spoken_ticketMark s _ _ _) _ s) cs s

theorem spoken_abandon (s : State) : Spoken s s.abandon := by
  unfold State.abandon
  dsimp only
  refine Spoken.trans ?_ (spoken_foldl (fun s e => ?_) _ _)
  · refine Spoken.trans ?_ (spoken_foldl (fun s b => ?_) _ _)
    · refine Spoken.trans (spoken_dropWrites s.cores s) (spoken_foldl (fun s x => ?_) _ _)
      exact spoken_settleWaiter s _ _ _
    · split
      · exact Spoken.refl s
      · exact spoken_foldl (fun s c => spoken_done s _ _ _ _ _) _ s
  · split
    · exact Spoken.refl s
    · exact spoken_done s _ _ _ _ _

/-- No session is left where there was none. -/
theorem sessions_of_mail (h : Mail s t) (hs : s.host.sessions = []) : t.host.sessions = [] := by
  have := h.held
  rw [hs] at this
  exact List.map_eq_nil_iff.mp this

/-! ### What the host is told of a region keeps its place and its phase -/

/-- A region's run record aside, the region stands. -/
theorem region?_endRun (h : s.region? r = some x) (why : EndReason) :
    ∃ q, (s.endRun r why).region? r = some { x with runRec := q } := by
  rw [State.endRun, h]
  dsimp only
  cases hq : x.runRec with
  | none => exact ⟨none, by rw [h, ← hq]⟩
  | some q =>
    dsimp only
    split
    · exact ⟨some q, by rw [h, ← hq]⟩
    · rw [State.notify_region?, region?_updRegion_of h]
      · exact ⟨_, rfl⟩
      · exact fun _ => rfl

theorem told_dropWrites (cs : List CoreSt) (s : State) :
    Told s (cs.foldl (fun s c => c.cfg.foldl (fun s e => s.ticketMark e.ticket c.lcore none) s) s) :=
  told_foldl (fun s _ => told_foldl (fun s _ => told_ticketMark s _ _ _) _ s) cs s

theorem Told.region (h : Told s t) (k : Nat) : t.region? k = s.region? k := by
  obtain ⟨_, _, rfl⟩ := h
  rfl

theorem Told.coresEq (h : Told s t) : t.cores = s.cores := by
  obtain ⟨_, _, rfl⟩ := h
  rfl

end Sys2Proof.Machine
end

section
/-! PROOFS. Resets: their sources, what they leave, and how they end (spec chapters 15 and 16). -/

namespace Sys2Proof.Machine

variable {s t u v : State} {h : Hdr} {x : Session} {lv : RLevel}

/-! ### What the state loses -/

/-- What L1 leaves of a state from which only regions and the host side have moved. -/
theorem loseL1_spec (hv : Spoken s v) (q : ResetRun) (hq : q.level = .l1) :
    WasReset .l1 s { v.loseL1 with pwr := { v.loseL1.pwr with reset := some q } } ∧
      v.loseL1.glb.backup = s.glb.backup ∧ ∃ more, v.loseL1.host.outbox = s.host.outbox ++ more := by
  obtain ⟨⟨rs, ss, o, l, n, k, d, rfl⟩, hm⟩ := hv
  have ha := spoken_abandon (s.saying rs ss o l n k d).loseManagement
  have hs := sessions_of_mail ha.mail rfl
  obtain ⟨more, hmore⟩ := ha.mail.out
  obtain ⟨rs', ss', o', l', n', k', d', e⟩ := ha.shape
  obtain ⟨m, hm⟩ := hm.out
  unfold State.loseL1 State.loseRails State.leaveDomain
  rw [e] at hs hmore ⊢
  refine ⟨?_, rfl, m ++ more, ?_⟩
  · exact {
      regions := rfl, cores := rfl, wells := rfl, pools := rfl, stackMem := rfl, prep := rfl, sessions := hs
      streams := rfl, allocs := rfl, staged := rfl, committed := rfl, fuses := ⟨rfl, rfl, rfl⟩, level := rfl
      domain := ⟨rfl, rfl⟩, signals := ⟨rfl, rfl⟩, power := ⟨rfl, rfl⟩, count := ⟨rfl, rfl⟩, running := ⟨q, rfl, hq⟩ }
  · show o' = _
    rw [show o' = o ++ more from hmore, show o = _ from hm, List.append_assoc]

/-- What L0 loses beyond L1. -/
theorem loseL0_spec (hv : Spoken s v) (keep : Bool) (q : ResetRun) (hq : q.level = .l0) :
    WasReset .l0 s { v.loseL0 keep with pwr := { (v.loseL0 keep).pwr with reset := some q } } ∧
      (v.loseL0 keep).glb.backup = s.glb.backup ∧ ∃ more, (v.loseL0 keep).host.outbox = s.host.outbox ++ more := by
  obtain ⟨w, hb, ho⟩ := loseL1_spec hv { q with level := .l1 } rfl
  have hhost : (v.loseL0 keep).host.sessions = v.loseL1.host.sessions ∧ (v.loseL0 keep).host.streams = v.loseL1.host.streams ∧
      (v.loseL0 keep).host.allocs = v.loseL1.host.allocs ∧ (v.loseL0 keep).host.outbox = v.loseL1.host.outbox := by
    unfold State.loseL0
    cases keep <;> exact ⟨rfl, rfl, rfl, rfl⟩
  obtain ⟨h1, h2, h3, h4⟩ := hhost
  refine ⟨?_, hb, ?_⟩
  · exact {
      regions := w.regions, cores := w.cores, wells := w.wells, pools := w.pools, stackMem := w.stackMem, prep := w.prep
      sessions := h1.trans w.sessions, streams := h2.trans w.streams, allocs := h3.trans w.allocs, staged := w.staged
      committed := w.committed, fuses := w.fuses, level := w.level, domain := w.domain, signals := w.signals
      power := w.power, count := ⟨rfl, rfl⟩, running := ⟨q, rfl, hq⟩ }
  · rw [h4]
    exact ho

theorem sourceLevel_l0_or_l1 (r : RSource) : s.sourceLevel r = .l0 ∨ s.sourceLevel r = .l1 := by
  cases r with
  | powerOn => exact .inl rfl
  | pin => exact ite_eq_or_eq _ _ _
  | mailbox => exact ite_eq_or_eq _ _ _
  | watchdog => exact ite_eq_or_eq _ _ _
  | thermal => exact ite_eq_or_eq _ _ _
  | domain => exact ite_eq_or_eq _ _ _
  | security c => exact (ite_eq_or_eq _ _ _).symm

/-- A source of reset where no reset runs (R350, R351). -/
theorem beginReset_spec (hr : s.pwr.reset = none) (src : RSource) (session seq : Nat) (lost : Bool) :
    WasReset (s.sourceLevel src) s (s.beginReset src session seq lost) ∧
      (s.beginReset src session seq lost).glb.backup = s.glb.backup ∧
      ∃ more, (s.beginReset src session seq lost).host.outbox = s.host.outbox ++ more := by
  have hv := spoken_endRuns s .host
  unfold State.beginReset
  simp only [hr, Bool.false_eq_true, if_false]
  rcases sourceLevel_l0_or_l1 (s := s) src with hl | hl
  · simp only [hl, beq_self_eq_true, if_true]
    exact loseL0_spec hv _ _ rfl
  · have hne : (RLevel.l1 == RLevel.l0) = false := rfl
    simp only [hl, hne, Bool.false_eq_true, if_false]
    exact loseL1_spec hv _ rfl

/-- Pins, holds and records that L1 leaves. -/
theorem loseL1_pins (hv : Spoken s v) :
    (v.loseL1.pwr.pwrEn = s.pwr.pwrEn ∧ v.loseL1.pwr.thermalHold = s.pwr.thermalHold ∧
      v.loseL1.pwr.thermTrip = s.pwr.thermTrip ∧ v.loseL1.pwr.stTemp = s.pwr.stTemp) ∧
    v.loseL1.sec.violation = s.sec.violation ∧ v.loseL1.glb.faults = s.glb.faults := by
  obtain ⟨⟨rs, ss, o, l, n, k, d, rfl⟩, -⟩ := hv
  obtain ⟨rs', ss', o', l', n', k', d', e⟩ := (spoken_abandon (s.saying rs ss o l n k d).loseManagement).shape
  unfold State.loseL1 State.loseRails State.leaveDomain
  rw [e]
  exact ⟨⟨rfl, rfl, rfl, rfl⟩, rfl, rfl⟩

/-- The pins and holds that a source of reset leaves; at L1 the fault records and the temperature bit too. -/
theorem beginReset_pins (hr : s.pwr.reset = none) (src : RSource) (session seq : Nat) (lost : Bool) :
    ((s.beginReset src session seq lost).pwr.pwrEn = s.pwr.pwrEn ∧
      (s.beginReset src session seq lost).pwr.thermalHold = s.pwr.thermalHold ∧
      (s.beginReset src session seq lost).pwr.thermTrip = s.pwr.thermTrip) ∧
    (s.beginReset src session seq lost).sec.violation = s.sec.violation ∧
    (s.sourceLevel src = .l1 → (s.beginReset src session seq lost).glb.faults = s.glb.faults ∧
      (s.beginReset src session seq lost).pwr.stTemp = s.pwr.stTemp) := by
  obtain ⟨⟨h1, h2, h3, h4⟩, h5, h6⟩ := loseL1_pins (spoken_endRuns s .host)
  unfold State.beginReset
  simp only [hr, Bool.false_eq_true, if_false]
  rcases sourceLevel_l0_or_l1 (s := s) src with hl | hl
  · simp only [hl, beq_self_eq_true, if_true]
    exact ⟨⟨h1, h2, h3⟩, h5, fun h => nomatch h⟩
  · have hne : (RLevel.l1 == RLevel.l0) = false := rfl
    simp only [hl, hne, Bool.false_eq_true, if_false]
    exact ⟨⟨h1, h2, h3⟩, h5, fun _ => ⟨h6, h4⟩⟩

/-! ### The same reset seen from states that differ in what a reset loses -/

/-- Two states that a reset cannot tell apart by what it keeps. -/
theorem WasReset.of_kept (w : WasReset lv u t) (hset : u.set.committed = s.set.committed)
    (hsec : u.sec.lifecycle = s.sec.lifecycle ∧ u.sec.rollback = s.sec.rollback ∧ u.sec.resetMap = s.sec.resetMap)
    (hcount : u.time.cycle = s.time.cycle ∧ u.fw.loadSeq = s.fw.loadSeq) : WasReset lv s t := by
  obtain ⟨h1, h2, h3⟩ := hsec
  refine { w with committed := w.committed.trans hset, fuses := ?_, count := ?_ }
  · obtain ⟨w1, w2, w3⟩ := w.fuses
    exact ⟨w1.trans h1, w2.trans h2, w3.trans h3⟩
  · have := w.count
    rwa [hcount.1, hcount.2] at this

theorem WasReset.afterReply (w : WasReset lv s t) (out : List Out) (st : Status) (items : List Item) :
    WasReset lv s (t.afterReply out h st items) := by
  refine { w with sessions := ?_ }
  show t.host.sessions.map _ = []
  rw [w.sessions]
  rfl

/-! ### RESET and DOMAIN_RESET -/

/-- Nobody is asked for a command held by a session that is gone. -/
theorem held_of_none {n q : Nat} (hs : t.host.sessions = []) :
    ∀ y, t.session? n = some y → ∀ e ∈ y.held, e.hdr.seq ≠ q := by
  intro y hy
  have hmem := List.mem_of_find?_eq_some hy
  rw [hs] at hmem
  exact absurd hmem List.not_mem_nil

theorem grows_sendFlit (s : State) (p vl kind : Nat) (hdr : FlitHdr) (data : List Byte) :
    Mail s (s.sendFlit p vl kind hdr data) := by
  unfold State.sendFlit
  dsimp only
  split
  · exact ⟨⟨_, rfl⟩, rfl⟩
  · exact .of_host rfl

theorem mail_flood (s : State) (kind : Nat) (hdr : FlitHdr) (data : List Byte) : Mail s (s.flood kind hdr data) :=
  mail_foldl (fun s p => grows_sendFlit s p _ _ _ _) _ s

theorem reset_answers (hr : s.pwr.reset = none) (hin : InTurn s h x) (hp : x.priv = true) :
    Answers (.reset h .l1) s h .accepted [] fun t => WasReset (mapped s 1) s t ∧ t.glb.backup = s.glb.backup := by
  obtain ⟨w, hb, ho⟩ := beginReset_spec (s := s.noted h) hr .mailbox h.session h.seq false
  refine answers_of_run hin (c := .reset .l1) rfl (fun _ => hp) rfl (by decide) ho (held_of_none w.sessions) fun out => ?_
  exact ⟨(w.afterReply out _ _).of_kept rfl ⟨rfl, rfl, rfl⟩ ⟨rfl, rfl⟩, hb⟩

theorem domainReset_answers (hr : s.pwr.reset = none) (hin : InTurn s h x) (hp : x.priv = true) :
    Answers (.domainReset h) s h .accepted [] fun t => WasReset (mapped s 4) s t ∧ t.glb.backup = s.glb.backup := by
  have hf := mail_flood (s.noted h) 0x09 { dst := 0, src := 0, body := some .domainReset } []
  obtain ⟨ps, o, e⟩ := net_flood (s.noted h) 0x09 { dst := 0, src := 0, body := some .domainReset } []
  have hrun : (s.noted h).runCmd { session := h.session, seq := h.seq, priv := x.priv } (h.source, h.udp) .domainReset =
      (((s.noted h).net ps o).beginReset .domain h.session h.seq, .accepted, []) := by
    rw [← e]
    rfl
  rw [e] at hf
  obtain ⟨w, hb, more, ho⟩ := beginReset_spec (s := (s.noted h).net ps o) hr .domain h.session h.seq false
  obtain ⟨m, hm⟩ := hf.out
  refine answers_of_run hin (c := .domainReset) rfl (fun _ => hp) hrun (by decide) ⟨m ++ more, ?_⟩
    (held_of_none w.sessions) fun out => ?_
  · rw [ho, hm, List.append_assoc]
    rfl
  · exact ⟨(w.afterReply out _ _).of_kept rfl ⟨rfl, rfl, rfl⟩ ⟨rfl, rfl⟩, hb⟩

/-! ### A region's reset and a core's reset -/

/-- A core that has been cleared. -/
structure CoreSt.Cleared (c : CoreSt) : Prop where
  run : c.run = .stopped
  presented : c.presented = none
  passes : c.passes = []
  vjobs : c.vjobs = []
  conds : c.conds = []
  combiner : c.combiner = []
  landing : c.landing = []
  cfg : c.cfg = []

theorem resetClears_cleared (c : CoreSt) : c.resetClears.Cleared := ⟨rfl, rfl, rfl, rfl, rfl, rfl, rfl, rfl⟩

theorem Mem.get_of_absent {m : Mem} {a : Nat} (h : ∀ c ∈ m, c.1 ≠ a) : m.get a = 0 := by
  induction m with
  | nil => rfl
  | cons c r ih =>
    rw [Mem.get, if_neg (h c List.mem_cons_self)]
    split
    · rfl
    · exact ih fun d hd => h d (List.mem_cons_of_mem _ hd)

/-- Ranges zeroed one after the other: no cell is left in any of them. -/
theorem zeroFold_absent (ds : List Nat) (m : Mem) {k a : Nat} (hk : k ∈ ds) (h1 : 4 * k * 2 ^ 21 ≤ a)
    (h2 : a < 4 * (k + 1) * 2 ^ 21) :
    ∀ c ∈ ds.foldl (fun m d => Mem.zero m (4 * d * 2 ^ 21) (4 * 2 ^ 21)) m, c.1 ≠ a := by
  have keep (es : List Nat) (m : Mem) (hm : ∀ c ∈ m, c.1 ≠ a) :
      ∀ c ∈ es.foldl (fun m d => Mem.zero m (4 * d * 2 ^ 21) (4 * 2 ^ 21)) m, c.1 ≠ a := by
    induction es generalizing m with
    | nil => exact hm
    | cons e es ih => exact ih _ fun c hc => hm c (List.mem_of_mem_filter hc)
  induction ds generalizing m with
  | nil => exact absurd hk List.not_mem_nil
  | cons d ds ih =>
    rcases List.mem_cons.mp hk with rfl | hk
    · refine keep ds _ fun c hc => ?_
      have hout := (List.mem_filter.mp hc).2
      simp only [Bool.or_eq_true, decide_eq_true_eq] at hout
      omega
    · exact ih _ hk

/-- What a region's reset does (R26, R352). -/
structure RegionCleared (r : Nat) (y : Region) (s t : State) : Prop where
  memory : t.mem.wells = s.mem.wells ∧ t.mem.pools = s.mem.pools ∧ t.mem.stackMem = s.mem.stackMem
  rest : t.glb = s.glb ∧ t.pwr = s.pwr
  region : ∃ z, t.region? r = some z ∧ z.spoiled = true ∧ z.phase = y.phase ∧ z.paceP = 0 ∧ z.paceI = 0
  cores : ∀ d ∈ t.cores, d.region = r → d.Cleared
  prep : ∀ k a, k < 48 → y.hasDie k = true → 4 * k * 2 ^ 21 ≤ a → a < 4 * (k + 1) * 2 ^ 21 → t.mem.prep.get a = 0
  mail : Mail s t

theorem told_ledger (s : State) (kind : Nat) (items : List Item) : Told s (s.ledger kind items) := by
  unfold State.ledger
  exact ⟨_, s.fw, rfl⟩

/-- The cores of a region cleared, with what is read by them. -/
def State.clearCores (s : State) (r : Nat) : State :=
  (s.loseReads fun c => c.region == r).updCoresOf r CoreSt.resetClears

theorem resetRegion_spec {r : Nat} {y : Region} (hy : s.region? r = some y) : RegionCleared r y s (s.resetRegion r) := by
  have hm1 := (spoken_dropWrites (s.coresOf r) s).mail
  obtain ⟨h, f, e⟩ := told_dropWrites (s.coresOf r) s
  have hm2 := mail_ledger (State.clearCores { s with host := h, fw := f } r) 1 [.num 2, .num 0, .level (.l2 r)]
  obtain ⟨h', f', e'⟩ := told_ledger (State.clearCores { s with host := h, fw := f } r) 1 [.num 2, .num 0, .level (.l2 r)]
  have hcores : ∀ d ∈ (State.clearCores { s with host := h, fw := f } r).cores, d.region = r → d.Cleared :=
    forall_updCoresOf_all resetClears_cleared
  rw [e] at hm1
  have hmail : Mail s (State.clearCores { s with host := h, fw := f } r) := hm1.trans (.of_host rfl)
  have hreset : s.resetRegion r = (State.resetPrep { State.clearCores { s with host := h, fw := f } r with
      host := h', fw := f' } y).updRegion r fun x =>
        { x with resetting := false, spoiled := true, paceP := 0, paceI := 0, hostPace := none } := by
    have hreg : ((State.clearCores { s with host := h, fw := f } r).ledger 1
        [.num 2, .num 0, .level (.l2 r)]).region? r = some y := by
      rw [e']
      exact hy
    unfold State.resetRegion
    dsimp only
    rw [e]
    change State.updRegion (match ((State.clearCores { s with host := h, fw := f } r).ledger 1
        [.num 2, .num 0, .level (.l2 r)]).region? r with
      | some x => ((State.clearCores { s with host := h, fw := f } r).ledger 1 [.num 2, .num 0, .level (.l2 r)]).resetPrep x
      | none => (State.clearCores { s with host := h, fw := f } r).ledger 1 [.num 2, .num 0, .level (.l2 r)]) _ _ = _
    rw [hreg, e']
  rw [hreset]
  rw [e'] at hm2
  refine ⟨⟨rfl, rfl, rfl⟩, ⟨rfl, rfl⟩, ⟨_, region?_updRegion_of (x := y) hy ?_, rfl, rfl, rfl, rfl⟩, hcores,
    fun k a hk hd h1 h2 => ?_, (hmail.trans hm2).trans (.of_host rfl)⟩
  · exact fun _ => rfl
  · refine Mem.get_of_absent (zeroFold_absent _ _ (k := k) ?_ h1 h2)
    exact List.mem_filter.mpr ⟨List.mem_range.mpr hk, hd⟩

theorem report_pwr (s : State) (p : Session → Bool) (code : EvCode) (items : List Item) (core : Option Nat) :
    (s.report p code items core).pwr = s.pwr := by
  obtain ⟨h, f, e⟩ := s.report_shape p code items core
  rw [e]

theorem endRun_kept (s : State) (r : Nat) (why : EndReason) :
    (s.endRun r why).mem = s.mem ∧ (s.endRun r why).glb = s.glb ∧ (s.endRun r why).pwr = s.pwr ∧
      (s.endRun r why).cores = s.cores := by
  obtain ⟨_, _, _, _, _, _, _, e⟩ := (spoken_endRun s r why).shape
  rw [e]
  exact ⟨rfl, rfl, rfl, rfl⟩

/-- The parts of `cleared` and `kept` in the statement about RESET. -/
theorem resetL2_answers {r : Nat} {y : Region} (hin : InTurn s h x) (hp : x.priv = true) (hr : r < 8)
    (hy : s.region? r = some y) (hb : y.busy = false) (hph : y.phase = .idle) :
    Answers (.reset h (.l2 r)) s h .accepted [] fun t =>
      (t.mem.wells = s.mem.wells ∧ t.mem.pools = s.mem.pools ∧ t.mem.stackMem = s.mem.stackMem ∧ t.glb = s.glb ∧
        t.pwr = s.pwr) ∧
      (∃ z, t.region? r = some z ∧ z.spoiled = true ∧ z.phase = .idle ∧ z.paceP = 0 ∧ z.paceI = 0) ∧
      (∀ d ∈ t.cores, d.region = r → d.Cleared) ∧
      ∀ k a, k < 48 → y.hasDie k = true → 4 * k * 2 ^ 21 ≤ a → a < 4 * (k + 1) * 2 ^ 21 → t.mem.prep.get a = 0 := by
  have hy' : (s.noted h).region? r = some y := hy
  obtain ⟨q, hq⟩ := region?_endRun hy' .host
  have sp := (spoken_endRun (s.noted h) r .host).mail
  obtain ⟨k1, k2, k3, -⟩ := endRun_kept (s.noted h) r .host
  generalize hv : (s.noted h).endRun r .host = v at hq sp k1 k2 k3
  obtain ⟨hmem, hrest, hreg, hcores, hprep, hmail⟩ := resetRegion_spec hq
  have hrun : (s.noted h).runCmd { session := h.session, seq := h.seq, priv := x.priv } (h.source, h.udp) (.reset (.l2 r)) =
      ((v.resetRegion r).done h.session h.seq 0x0603 .ok [], .accepted, []) := by
    show State.onRegion _ _ _ = _
    rw [State.onRegion, if_neg (Nat.not_le.mpr hr), hy']
    simp only [hb, Bool.false_eq_true, if_false, hph, hv]
  generalize v.resetRegion r = w at hmem hrest hreg hcores hprep hmail hrun
  refine answers_of_mail hin (c := .reset (.l2 r)) rfl (fun _ => hp) hrun (by decide)
    ((sp.trans hmail).trans (mail_done _ _ _ _ _ _)) fun out => ?_
  obtain ⟨h', f', e⟩ := told_done w h.session h.seq 0x0603 .ok []
  rw [e]
  rw [k1] at hmem
  rw [k2, k3] at hrest
  exact ⟨⟨hmem.1, hmem.2.1, hmem.2.2, hrest.1, hrest.2⟩, hph ▸ hreg, hcores, hprep⟩

theorem resetL3_answers {l : Nat} {y : Region} {c : CoreSt} (hin : InTurn s h x) (hp : x.priv = true)
    (hc : s.core? l = some c) (hy : s.region? c.region = some y) (hb : y.busy = false) (hph : y.phase = .idle) :
    Answers (.reset h (.l3 l)) s h .accepted [] fun t =>
      (t.mem.wells = s.mem.wells ∧ t.mem.pools = s.mem.pools ∧ t.mem.stackMem = s.mem.stackMem ∧ t.glb = s.glb ∧
        t.pwr = s.pwr) ∧ t.mem = s.mem ∧
      (∃ z, t.region? c.region = some z ∧ z.spoiled = true ∧ z.phase = .idle) ∧
      ∀ d ∈ t.cores, d.lcore = l → d.Cleared := by
  have hc' : (s.noted h).core? l = some c := hc
  have hy' : (s.noted h).region? c.region = some y := hy
  have hnum := State.region?_num hy
  have hof : (s.noted h).regionOf l = some y := by rw [State.regionOf, hc', Option.bind_some, hy']
  obtain ⟨q, hq⟩ := region?_endRun hy' .host
  have sp := (spoken_endRun (s.noted h) c.region .host).mail
  obtain ⟨k1, k2, k3, k4⟩ := endRun_kept (s.noted h) c.region .host
  generalize hv : (s.noted h).endRun c.region .host = v at hq sp k1 k2 k3 k4
  have mt := (spoken_dropWrites [c] v).mail
  obtain ⟨h1, f1, e1⟩ := told_dropWrites [c] v
  have hlc : c.lcore = l := State.core?_lcore hc
  rw [e1] at mt
  let w : State := ((State.loseReads { v with host := h1, fw := f1 } fun c => c.lcore == l).updCore l
    CoreSt.resetClears).updRegion c.region fun x => { x with spoiled := true }
  have hrun : (s.noted h).runCmd { session := h.session, seq := h.seq, priv := x.priv } (h.source, h.udp) (.reset (.l3 l)) =
      ((w.ledger 1 [.num 2, .num 0, .level (.l3 l)]).done h.session h.seq 0x0603 .ok [], .accepted, []) := by
    show State.resetL3 _ _ _ = _
    rw [State.resetL3, hc', hof]
    simp only [hph, hb, bne_self_eq_false, Bool.or_self, Bool.false_eq_true, if_false, hnum, hv]
    simp only [List.foldl_cons, List.foldl_nil, hlc] at e1
    rw [e1]
  have mw : Mail v w := mt.trans (.of_host rfl)
  have ml := mail_ledger w 1 [.num 2, .num 0, .level (.l3 l)]
  obtain ⟨h2, f2, e2⟩ := told_ledger w 1 [.num 2, .num 0, .level (.l3 l)]
  have md := mail_done (w.ledger 1 [.num 2, .num 0, .level (.l3 l)]) h.session h.seq 0x0603 .ok []
  obtain ⟨h3, f3, e3⟩ := told_done (w.ledger 1 [.num 2, .num 0, .level (.l3 l)]) h.session h.seq 0x0603 .ok []
  refine answers_of_mail hin (c := .reset (.l3 l)) rfl (fun _ => hp) hrun (by decide)
    (((sp.trans mw).trans ml).trans md) fun out => ?_
  rw [e3, e2]
  have hmem : w.mem = s.mem := k1
  refine ⟨⟨congrArg MemSt.wells hmem, congrArg MemSt.pools hmem, congrArg MemSt.stackMem hmem, k2, k3⟩, hmem,
    ⟨_, region?_updRegion_of hq ?_, rfl, hph⟩, fun d hd hl => ?_⟩
  · exact fun _ => rfl
  · obtain ⟨d', _, rfl⟩ := List.mem_map.mp hd
    by_cases hd' : (d'.lcore == l) = true
    · rw [if_pos hd']
      exact resetClears_cleared d'
    · rw [if_neg hd'] at hl
      exact absurd (by simpa using hl) hd'

/-! ### The pins and the end of a reset -/

theorem toStopping_phase {r : Nat} (hnd : (s.regions.map fun x => x.num).Nodup) (k : EndReason) (g : StopGoal) (cause : Nat) :
    ∀ z ∈ (s.toStopping r k g cause).regions, z.phase = .running →
      z.num ≠ r ∧ ∃ z' ∈ s.regions, z'.num = z.num ∧ z'.phase = .running := by
  intro z hz hrun
  unfold State.toStopping at hz
  cases hx : s.region? r with
  | none =>
    rw [hx] at hz
    exact ⟨by simpa using List.find?_eq_none.mp hx z hz, z, hz, rfl, hrun⟩
  | some y =>
    rw [hx] at hz
    dsimp only at hz
    split at hz
    · unfold State.setPhase at hz
      rw [region?_updRegion_of hx (by exact fun _ => rfl)] at hz
      dsimp only at hz
      rw [State.notify_regions] at hz
      obtain ⟨z1, hz1, rfl⟩ := List.mem_map.mp hz
      obtain ⟨z0, hz0, rfl⟩ := List.mem_map.mp hz1
      by_cases he : (z0.num == r) = true
      · simp only [he, if_true] at hrun
        cases hrun
      · simp only [he, Bool.false_eq_true, if_false] at hrun ⊢
        exact ⟨by simpa using he, z0, hz0, rfl, hrun⟩
    · rename_i hstop
      obtain ⟨z0, hz0, rfl⟩ := List.mem_map.mp hz
      by_cases he : (z0.num == r) = true
      · simp only [he, if_true] at hrun
        have hy : z0 = y := List.inj_on_of_nodup_map hnd hz0 (List.mem_of_find?_eq_some hx)
          ((by simpa using he : z0.num = r).trans (State.region?_num hx).symm)
        subst hy
        exact absurd hrun (by simpa using hstop)
      · simp only [he, Bool.false_eq_true, if_false] at hrun ⊢
        exact ⟨by simpa using he, z0, hz0, rfl, hrun⟩

theorem nums_of_steady (h : Steady s t) : (t.regions.map fun x => x.num) = s.regions.map fun x => x.num := by
  have := congrArg (List.map Prod.fst) h.marks
  rwa [State.commitments, State.commitments, List.map_map, List.map_map] at this

/-- STOP of the whole module leaves no region RUNNING. -/
theorem moduleStop_stop_phase (hnd : (s.regions.map fun x => x.num).Nodup) (cause : Nat) :
    ∀ z ∈ (s.moduleStop .stop cause).regions, z.phase ≠ .running := by
  have go (xs : List Region) (t : State) (hnd : (t.regions.map fun x => x.num).Nodup)
      (hin : ∀ z ∈ t.regions, z.phase = .running → ∃ y ∈ xs, y.num = z.num ∧ y.phase = .running) :
      ∀ z ∈ (xs.foldl (fun s x => if x.phase != .running then s
        else s.stopRegionNow x.num (fun _ => false) s.time.cycle (s.time.cycle + 40) .stop .fault cause) t).regions,
        z.phase ≠ .running := by
    induction xs generalizing t with
    | nil =>
      intro z hz hrun
      obtain ⟨y, hy, _⟩ := hin z hz hrun
      exact absurd hy List.not_mem_nil
    | cons x xs ih =>
      rw [List.foldl_cons]
      by_cases hx : x.phase = .running
      · rw [if_neg (by simp [hx])]
        have hst : Steady t (t.stopRegionNow x.num (fun _ => false) t.time.cycle (t.time.cycle + 40) .stop .fault cause) :=
          (steady_updCoresOf t _ _).trans (steady_toStopping _ _ _ _ _)
        refine ih _ (by rw [nums_of_steady hst]; exact hnd) fun z hz hrun => ?_
        obtain ⟨hne, z', hz', hnum, hrun'⟩ := toStopping_phase (s := t.updCoresOf x.num _) hnd _ _ _ z hz hrun
        obtain ⟨y, hy, hyn, hyr⟩ := hin z' hz' hrun'
        rcases List.mem_cons.mp hy with rfl | hy
        · exact absurd (hyn.trans hnum).symm hne
        · exact ⟨y, hy, hyn.trans hnum, hyr⟩
      · rw [if_pos (by simpa using hx)]
        refine ih _ hnd fun z hz hrun => ?_
        obtain ⟨y, hy, hyn, hyr⟩ := hin z hz hrun
        rcases List.mem_cons.mp hy with rfl | hy
        · exact absurd hyr hx
        · exact ⟨y, hy, hyn, hyr⟩
  exact go s.regions s hnd fun z hz hrun => ⟨z, hz, rfl, hrun⟩

/-- A part of the state that no step of a fold moves. -/
theorem foldl_keeps {α β : Type} (g : State → β) {f : State → α → State} (hf : ∀ s x, g (f s x) = g s) (l : List α)
    (s : State) : g (l.foldl f s) = g s := by
  induction l generalizing s with
  | nil => rfl
  | cons x r ih => exact (ih _).trans (hf s x)

theorem toStopping_pwr (s : State) (r : Nat) (k : EndReason) (g : StopGoal) (cause : Nat) :
    (s.toStopping r k g cause).pwr = s.pwr := by
  obtain ⟨_, _, _, _, _, _, _, e⟩ := (spoken_toStopping s r k g cause).shape
  rw [e]
  rfl

theorem moduleStop_pwr (s : State) (p : Policy) (cause : Nat) : (s.moduleStop p cause).pwr = s.pwr := by
  unfold State.moduleStop
  refine foldl_keeps State.pwr (fun s x => ?_) s.regions s
  split
  · rfl
  · cases p with
    | log => rfl
    | stopStep => exact toStopping_pwr _ _ _ _ _
    | stop => exact toStopping_pwr _ _ _ _ _

/-- A transition that is dropped: the power state, the input pin and the regions stand. -/
theorem dropMoving_kept (s : State) : s.dropMoving.regions = s.regions ∧ s.dropMoving.pwr = { s.pwr with moving := none } := by
  unfold State.dropMoving
  cases hm : s.pwr.moving with
  | none =>
    have hp : s.pwr = { s.pwr with moving := none } := by rw [← hm]
    exact ⟨rfl, hp⟩
  | some m =>
    dsimp only
    split
    · exact ⟨rfl, rfl⟩
    · obtain ⟨_, _, e⟩ := told_done { s with pwr := { s.pwr with moving := none } } m.session m.seq 0x0600 .state []
      rw [e]
      exact ⟨rfl, rfl⟩

/-! ### The end of a reset (R353, R357) -/

theorem burnRollback_kept (s : State) : s.burnRollback.pwr = s.pwr ∧ s.burnRollback.fw = s.fw ∧ s.burnRollback.set = s.set ∧
    s.burnRollback.keyless = s.keyless ∧
    s.burnRollback.sec.rollback = if s.keyless then s.sec.rollback else max s.sec.rollback s.running.security := by
  unfold State.burnRollback
  split
  · rename_i hk
    exact ⟨rfl, rfl, rfl, rfl, rfl⟩
  · exact ⟨rfl, rfl, rfl, rfl, rfl⟩

theorem bootSettings_kept (s : State) : s.bootSettings.pwr = s.pwr ∧ s.bootSettings.fw.runningB = s.fw.runningB ∧
    s.bootSettings.sec = s.sec ∧ s.bootSettings.set.active =
      if !s.keyless && (s.set.valid0 || s.set.valid1) then s.set.committed else defaultSettings := by
  unfold State.bootSettings
  split
  · exact ⟨rfl, rfl, rfl, rfl⟩
  · unfold State.firmwareEvent
    obtain ⟨_, _, _, _, _, _, _, e⟩ := (spoken_notify { s with set := { s.set with active := defaultSettings } } .firmware
      [.flag s.fw.runningB, .num s.running.version, .flag true] none).shape
    exact ⟨(congrArg State.pwr e).trans rfl, (congrArg (fun t => t.fw.runningB) e).trans rfl, (congrArg State.sec e).trans rfl,
      (congrArg (fun t => t.set.active) e).trans rfl⟩

/-- The state as its reset ends, before the image is chosen. -/
def State.resetOver (s : State) : State := { s with pwr := { s.pwr with reset := none, watchdogArmed := true } }

theorem bootImage_none (hA : s.imageOk s.fw.imageA = false) (hB : s.imageOk s.fw.imageB = false) : s.bootImage = none := by
  rw [State.bootImage, hA, hB]

theorem bootImage_some (h : s.imageOk s.fw.imageA = true ∨ s.imageOk s.fw.imageB = true) :
    s.bootImage = some (s.imageOk s.fw.imageB &&
      (!s.imageOk s.fw.imageA || decide (s.fw.imageA.version < s.fw.imageB.version))) := by
  unfold State.bootImage
  cases hA : s.imageOk s.fw.imageA <;> cases hB : s.imageOk s.fw.imageB <;> simp_all

/-- RESET_COMPLETE of a reset that no session has asked for. -/
theorem resetComplete_run {r : ResetRun} (hses : r.session = 0) :
    execResetComplete { s with pwr := { s.pwr with reset := some r } } = .next ((match s.bootImage with
      | none => { s.resetOver with pwr := { s.resetOver.pwr with state := .boot } }
      | some b => State.bootSettings (State.burnRollback { s.resetOver with
          pwr := { s.resetOver.pwr with state := .standby }
          fw := { s.resetOver.fw with runningB := b, fallback := false } }) : State).ledger 1
        [.num r.source.num.1, .num r.source.num.2, .level r.level]) := by
  show Host.Outcome.next (if r.session = 0 then _ else _) = _
  rw [if_pos hses]
  rfl

/-- Settles O52: the sources by `beginReset_spec`; RESET at L2 and L3 by `resetRegion_spec` and the core's clearing; PWR_EN by
`moduleStop_stop_phase`; the end by `burnRollback_kept` and `bootSettings_kept`. -/
theorem resetsLoseTheState : Obligations.ResetsLoseTheState := by
  intro s micros ms cause kept hr
  refine ⟨fun h x r l y c hin hp => ⟨reset_answers hr hin hp, domainReset_answers hr hin hp, fun h8 hy hb hph => ?_,
      fun hc hy hb hph => ?_⟩, fun hoff hen => ?_, fun hoff => ?_, fun hon hnd => ?_, fun hm => ?_, fun hon hm => ?_,
    fun hon ha hms => ?_, fun hon => ?_, fun r hses u hu => ⟨fun hA hB => ?_, fun hAB => ?_⟩⟩
  · obtain ⟨t, he, hrep, hnext, hk, hreg, hcl, hprep⟩ := resetL2_answers hin hp h8 hy hb hph
    exact ⟨t, he, hrep, hnext, hk, hreg, fun d hd hd' => by
      obtain ⟨a1, a2, a3, a4, a5, a6, a7, a8⟩ := hcl d hd hd'
      exact ⟨a1, a2, a3, a4, a5, a6, a7, a8⟩, hprep⟩
  · obtain ⟨t, he, hrep, hnext, hk, hmem, hreg, hcl⟩ := resetL3_answers hin hp hc hy hb hph
    exact ⟨t, he, hrep, hnext, hk, hmem, hreg, fun d hd hd' => by
      obtain ⟨a1, a2, a3, a4, a5, a6, a7, a8⟩ := hcl d hd hd'
      exact ⟨a1, a2, a3, a4, a5, a6, a7, a8⟩⟩
  · have hrun (v : State) (hv : v.pwr.reset = none) (hb : v.glb.backup = if kept then s.glb.backup else List.replicate 16 0)
        (hs : WasReset .l0 v (v.beginReset .powerOn 0 0 !kept) → WasReset .l0 s (v.beginReset .powerOn 0 0 !kept))
        (he : (if kept then s else { s with glb := { s.glb with backup := List.replicate 16 0 } }) = v) :
        Ends (.powerOn kept) s fun t => WasReset .l0 s t ∧
          t.glb.backup = if kept then s.glb.backup else List.replicate 16 0 := by
      obtain ⟨w, hb', -⟩ := beginReset_spec hv .powerOn 0 0 !kept
      refine ⟨_, ?_, hs w, hb'.trans hb⟩
      show execPowerOn kept s = _
      unfold execPowerOn
      simp only [hoff, hen, bne_self_eq_false, Bool.not_true, Bool.or_self, Bool.false_eq_true, if_false, he]
    cases kept with
    | true => exact hrun s hr rfl id (if_pos rfl)
    | false =>
      exact hrun { s with glb := { s.glb with backup := List.replicate 16 0 } } hr rfl (fun w => w.of_kept rfl ⟨rfl, rfl, rfl⟩ ⟨rfl, rfl⟩) (if_neg Bool.false_ne_true)
  · obtain ⟨w, hb, -⟩ := beginReset_spec (s := { s with pwr := { s.pwr with pwrEn := true } }) hr .powerOn 0 0 false
    refine ⟨_, ?_, w.of_kept rfl ⟨rfl, rfl, rfl⟩ ⟨rfl, rfl⟩, ?_, hb⟩
    · show execPwrEn true s = _
      unfold execPwrEn
      simp only [hoff, beq_self_eq_true, if_true]
    · exact (beginReset_pins (s := { s with pwr := { s.pwr with pwrEn := true } }) hr .powerOn 0 0 false).1.1
  · obtain ⟨hregs, hpwr⟩ := dropMoving_kept { s with pwr := { s.pwr with pwrEn := false } }
    refine ⟨?_, ?_, ?_, ?_, ?_⟩
    · exact { State.moduleStop (State.dropMoving { s with pwr := { s.pwr with pwrEn := false } }) .stop 0 with
        pwr := { (State.moduleStop (State.dropMoving { s with pwr := { s.pwr with pwrEn := false } }) .stop 0).pwr with
          moving := some { target := .off, session := 0, seq := 0 }, reset := none } }
    · show execPwrEn false s = _
      have hne : (s.pwr.state == PState.off) = false := by simpa using hon
      unfold execPwrEn
      simp only [hne, Bool.false_eq_true, if_false]
    · show (State.moduleStop _ _ _).pwr.pwrEn = false
      rw [moduleStop_pwr, hpwr]
    · rfl
    · exact moduleStop_stop_phase (by rw [hregs]; exact hnd) 0
  · show execRstIn micros s = _
    rw [execRstIn, if_pos hm]
  · obtain ⟨w, hb, -⟩ := beginReset_spec hr .pin 0 0 false
    refine ⟨_, ?_, w, hb⟩
    show execRstIn micros s = _
    rw [execRstIn, if_neg (Nat.not_lt.mpr hm), if_neg (by simpa using hon)]
  · obtain ⟨w, hb, -⟩ := beginReset_spec hr .watchdog 0 0 false
    refine ⟨_, ?_, w⟩
    show execManagementWatchdog ms s = _
    rw [execManagementWatchdog, if_neg]
    simpa [ha, hon] using hms
  · obtain ⟨w, hb, -⟩ := beginReset_spec (s := { s with sec := { s.sec with violation := some cause } }) hr (.security cause)
      0 0 false
    refine ⟨_, ?_, ?_, w.of_kept rfl ⟨rfl, rfl, rfl⟩ ⟨rfl, rfl⟩⟩
    · show execSecurityViolation cause s = _
      rw [execSecurityViolation, if_neg (by simpa using hon)]
    · exact (beginReset_pins (s := { s with sec := { s.sec with violation := some cause } }) hr _ 0 0 false).2.1
  · subst hu
    refine ⟨_, resetComplete_run hses, ?_⟩
    rw [bootImage_none hA hB]
    obtain ⟨_, _, e⟩ := told_ledger { s.resetOver with pwr := { s.resetOver.pwr with state := .boot } } 1
      [.num r.source.num.1, .num r.source.num.2, .level r.level]
    exact ⟨(congrArg (fun t => t.pwr.state) e).trans rfl, (congrArg (fun t => t.pwr.reset) e).trans rfl⟩
  · subst hu
    refine ⟨_, resetComplete_run hses, ?_⟩
    rw [bootImage_some hAB]
    dsimp only
    generalize (s.imageOk s.fw.imageB && _) = b
    generalize hw : ({ s.resetOver with pwr := { s.resetOver.pwr with state := .standby }
                                        fw := { s.resetOver.fw with runningB := b, fallback := false } } : State) = w
    obtain ⟨b1, b2, b3, b4, b5⟩ := burnRollback_kept w
    obtain ⟨c1, c2, c3, c4⟩ := bootSettings_kept w.burnRollback
    obtain ⟨_, _, _, _, _, _, _, e⟩ := (spoken_ledger w.burnRollback.bootSettings 1
      [.num r.source.num.1, .num r.source.num.2, .level r.level]).shape
    rw [e]
    have hpwr : w.burnRollback.bootSettings.pwr = w.pwr := c1.trans b1
    have hrun : w.burnRollback.bootSettings.fw.runningB = b := by rw [c2, b2, ← hw]
    have hkey : w.keyless = s.keyless := by rw [← hw]; rfl
    have hroll : w.burnRollback.bootSettings.sec.rollback =
        if s.keyless then s.sec.rollback else max s.sec.rollback (if b then s.fw.imageB else s.fw.imageA).security := by
      rw [c3, b5, hkey, ← hw]
      rfl
    have hact : w.burnRollback.bootSettings.set.active =
        if !s.keyless && (s.set.valid0 || s.set.valid1) then s.set.committed else defaultSettings := by
      rw [c4, b4, b3, hkey, ← hw]
      rfl
    generalize w.burnRollback.bootSettings = z at hpwr hrun hroll hact
    refine ⟨?_, ?_, ?_, hrun, fun hk hv => ⟨?_, ?_⟩, fun hk => ⟨?_, ?_⟩⟩
    · exact (congrArg Pwr.state hpwr).trans (by rw [← hw])
    · exact (congrArg Pwr.reset hpwr).trans (by rw [← hw]; rfl)
    · exact (congrArg Pwr.watchdogArmed hpwr).trans (by rw [← hw]; rfl)
    · exact hact.trans (by rw [hk, hv]; rfl)
    · show z.sec.rollback = max s.sec.rollback (if z.fw.runningB then _ else _ : Image).security
      rw [hroll, hk, hrun]
      rfl
    · exact hact.trans (by rw [hk]; rfl)
    · exact hroll.trans (by rw [hk]; rfl)

end Sys2Proof.Machine
end

section
/-! PROOFS. Power states, the cap, the governor, Constantan, the reference clock and SYNC_IN (spec chapter 15). -/

namespace Sys2Proof.Machine

variable {s t u v : State} {h : Hdr} {x : Session} {w : Who}

/-! ### What a pace moves -/

/-- Only regions and cores have moved. -/
def Stirred (s t : State) : Prop := ∃ rs cs, t = { s with regions := rs, cores := cs }

theorem Stirred.refl (s : State) : Stirred s s := ⟨_, _, rfl⟩

theorem Stirred.trans (h : Stirred s t) (g : Stirred t u) : Stirred s u := by
  obtain ⟨_, _, rfl⟩ := h
  obtain ⟨_, _, rfl⟩ := g
  exact ⟨_, _, rfl⟩

theorem stirred_updRegion (s : State) (r : Nat) (f : Region → Region) : Stirred s (s.updRegion r f) := ⟨_, s.cores, rfl⟩

theorem stirred_updCoresOf (s : State) (r : Nat) (f : CoreSt → CoreSt) : Stirred s (s.updCoresOf r f) := ⟨s.regions, _, rfl⟩

theorem stirred_armPause (s : State) (r : Nat) : Stirred s (s.armPause r) := by
  unfold State.armPause
  split
  · exact Stirred.refl s
  · dsimp only
    split
    · exact stirred_updRegion s r _
    · exact (stirred_updRegion s r _).trans (stirred_updCoresOf _ r _)

theorem stirred_armReplay (s : State) (r : Nat) : Stirred s (s.armReplay r) := by
  unfold State.armReplay
  split
  · split
    · exact stirred_updCoresOf s r _
    · exact Stirred.refl s
  · exact Stirred.refl s

theorem stirred_rearm (s : State) (r : Nat) : Stirred s (s.rearm r) := by
  unfold State.rearm
  split
  · split
    · exact ((stirred_updCoresOf s r _).trans (stirred_armPause _ r)).trans (stirred_armReplay _ r)
    · exact Stirred.refl s
  · exact Stirred.refl s

theorem stirred_putPace (s : State) (r p i : Nat) : Stirred s (s.putPace r p i) := by
  unfold State.putPace
  dsimp only
  split
  · exact stirred_updRegion s r _
  · exact ((stirred_updRegion s r _).trans (stirred_updRegion _ r _)).trans (stirred_rearm _ r)

theorem stirred_foldl {α : Type} {f : State → α → State} (h : ∀ s x, Stirred s (f s x)) (l : List α) (s : State) :
    Stirred s (l.foldl f s) := by
  induction l generalizing s with
  | nil => exact Stirred.refl s
  | cons x r ih => exact (h s x).trans (ih _)

/-- The governor off: regions and cores aside, its own fields. -/
theorem governorOff_shape (s : State) :
    ∃ v, Stirred s v ∧ s.governorOff = { v with pwr := { v.pwr with gov := { samples := v.pwr.gov.samples } } } := by
  unfold State.governorOff
  refine ⟨_, stirred_foldl (fun s (x : Region) => ?_) s.regions s, rfl⟩
  split
  · exact (stirred_updRegion s x.num _).trans (stirred_putPace _ _ _ _)
  · exact Stirred.refl s

theorem govern_shape (s : State) (i : Nat) :
    ∃ v, Stirred s v ∧ s.govern i =
      { v with pwr := { v.pwr with gov := { v.pwr.gov with acting := true, interval := i, below := 0 } } } := by
  unfold State.govern
  refine ⟨_, stirred_foldl (fun s (x : Region) => ?_) s.regions s, rfl⟩
  split
  · exact Stirred.refl s
  · exact (stirred_updRegion s x.num _).trans (stirred_putPace _ _ _ _)

/-! ### POWER_CAP and POWER_STATE -/

theorem powerCap_answers {watts : Nat} (hin : InTurn s h x) (hp : x.priv = true) (h1 : 2000 ≤ watts) (h2 : watts ≤ 16000) :
    Answers (.powerCap h watts) s h .ok [] fun t => t = { s with host := t.host, pwr := { s.pwr with cap := watts } } := by
  have hrun : (s.noted h).cmdPowerCap watts =
      ({ s.noted h with pwr := { (s.noted h).pwr with cap := watts } }, .ok, []) := by
    rw [State.cmdPowerCap, if_neg]
    simp
    omega
  exact answers_of_mail hin (c := .powerCap watts) rfl (fun _ => hp) hrun (by decide) (.of_host rfl) fun out => rfl

/-- A power state on the way. -/
def State.asked (s : State) (w : Who) (p : PState) : State :=
  { s with pwr := { s.pwr with moving := some { target := p, session := w.session, seq := w.seq } } }

/-- The edges of the power states (R359). -/
inductive Edge (s : State) : PowerName → PState → Prop where
  | off (h : s.pwr.state = .standby) : Edge s .off .off
  | active (h : s.pwr.state = .ready) : Edge s .active .active
  | ready (h : s.pwr.state = .active) (q : s.allQuiet = true) : Edge s .ready .ready
  | standby (h : s.pwr.state = .ready ∨ s.pwr.state = .active) (q : s.allQuiet = true) : Edge s .standby .standby

theorem cmdPowerState_edge {target : PowerName} {p : PState} (hm : s.pwr.moving = none) (he : Edge s target p) :
    s.cmdPowerState w target = (s.asked w p, .accepted, []) := by
  unfold State.cmdPowerState State.asked
  cases he with
  | off hs => simp only [hm, hs, Option.isSome_none, Bool.false_eq_true, if_false]
  | active hs => simp only [hm, hs, Option.isSome_none, Bool.false_eq_true, if_false]
  | ready hs hq => simp only [hm, hs, hq, Option.isSome_none, Bool.false_eq_true, if_false, if_true]
  | standby hs hq =>
    rcases hs with hs | hs
    · simp only [hm, hs, hq, Option.isSome_none, Bool.false_eq_true, if_false, if_true]
    · simp only [hm, hs, hq, Option.isSome_none, Bool.false_eq_true, if_false, if_true]

/-- A power state in which the module stands. -/
inductive Stands (s : State) : PowerName → Prop where
  | standby (h : s.pwr.state = .standby) : Stands s .standby
  | ready (h : s.pwr.state = .ready) : Stands s .ready
  | active (h : s.pwr.state = .active) : Stands s .active

theorem cmdPowerState_stands {target : PowerName} (hm : s.pwr.moving = none) (he : Stands s target) :
    s.cmdPowerState w target = (s, .ok, []) := by
  unfold State.cmdPowerState
  cases he with
  | standby hs => simp only [hm, hs, Option.isSome_none, Bool.false_eq_true, if_false]
  | ready hs => simp only [hm, hs, Option.isSome_none, Bool.false_eq_true, if_false]
  | active hs => simp only [hm, hs, Option.isSome_none, Bool.false_eq_true, if_false]

theorem powerState_goes {target : PowerName} {p : PState} (hin : InTurn s h x) (hp : x.priv = true) (hm : s.pwr.moving = none)
    (he : Edge s target p) :
    Answers (.powerState h target) s h .accepted [] fun t => t = { s with host := t.host, pwr := { s.pwr with
      moving := some { target := p, session := h.session, seq := h.seq } } } := by
  have he' : Edge (s.noted h) target p := by
    cases he with
    | off hs => exact .off hs
    | active hs => exact .active hs
    | ready hs hq => exact .ready hs hq
    | standby hs hq => exact .standby hs hq
  exact answers_of_mail hin (c := .powerState target) rfl (fun _ => hp) (cmdPowerState_edge (s := s.noted h) hm he') (by decide)
    (.of_host rfl) fun out => rfl

theorem powerState_stays {target : PowerName} (hin : InTurn s h x) (hp : x.priv = true) (hm : s.pwr.moving = none)
    (he : Stands s target) : Answers (.powerState h target) s h .ok [] (HostOnly s) := by
  have he' : Stands (s.noted h) target := by
    cases he with
    | standby hs => exact .standby hs
    | ready hs => exact .ready hs
    | active hs => exact .active hs
  exact answers_of_mail hin (c := .powerState target) rfl (fun _ => hp) (cmdPowerState_stands (s := s.noted h) hm he')
    (by decide) (.of_host rfl) fun out => rfl

theorem cmdPowerState_ready (hm : s.pwr.moving = none) (hs : s.pwr.state = .standby) (ha : s.readyAdmitted = true) :
    s.cmdPowerState w .ready = (s.beginReady.asked w .ready, .accepted, []) := by
  unfold State.cmdPowerState State.asked
  simp only [hm, hs, ha, Option.isSome_none, Bool.false_eq_true, if_false, if_true]

theorem powerReady_answers (hin : InTurn s h x) (hp : x.priv = true) (hm : s.pwr.moving = none)
    (hs : s.pwr.state = .standby) (ha : s.readyAdmitted = true) :
    Answers (.powerState h .ready) s h .accepted [] fun t =>
      t.pwr.moving = some { target := .ready, session := h.session, seq := h.seq } ∧ t.pwr.state = .standby ∧
        t.pwr.refLocked = s.pwr.refIn ∧
        t.kol.discovering.isSome = (s.sec.cert && !s.keyless && s.pwr.refIn) ∧ t.mem = s.mem := by
  refine answers_of_mail hin (c := .powerState .ready) rfl (fun _ => hp) (cmdPowerState_ready (s := s.noted h) hm hs ha)
    (by decide) (.of_host rfl) fun out => ⟨rfl, hs, rfl, ?_, rfl⟩
  show (if s.sec.cert && !s.keyless && s.pwr.refIn then some _ else none : Option Discovery).isSome = _
  cases s.sec.cert && !s.keyless && s.pwr.refIn <;> rfl

/-! ### The ends of transitions -/

theorem railsLost_loseRails (s : State) : RailsLost s.loseRails ∧ s.loseRails.pwr.state = s.pwr.state ∧
    s.loseRails.time = s.time ∧ s.loseRails.glb.backup = s.glb.backup ∧ s.loseRails.glb.faults = s.glb.faults := by
  obtain ⟨_, _, _, _, _, _, _, e⟩ := (spoken_abandon s).shape
  unfold State.loseRails State.leaveDomain
  rw [e]
  exact ⟨⟨rfl, rfl, rfl, rfl, rfl, rfl, ⟨rfl, rfl⟩, rfl⟩, rfl, rfl, rfl, rfl⟩

/-- The end of the debug level moves the level and the ledger alone. -/
theorem debugEnd_shape (s : State) : ∃ c l n, s.debugEnd =
    { s with sec := c, host := { s.host with ledger := l, ledgerSeq := n } } := by
  unfold State.debugEnd State.setLevel
  split
  · split
    · exact ⟨s.sec, s.host.ledger, s.host.ledgerSeq, rfl⟩
    · unfold State.ledger
      exact ⟨_, _, _, rfl⟩
  · exact ⟨s.sec, s.host.ledger, s.host.ledgerSeq, rfl⟩

theorem RailsLost.of_eq (w : RailsLost s) (h1 : t.regions = s.regions) (h2 : t.cores = s.cores) (h3 : t.mem = s.mem)
    (h4 : t.host.allocs = s.host.allocs) (h5 : t.kol = s.kol) (h6 : t.fab = s.fab) : RailsLost t := by
  obtain ⟨a1, a2, a3, a4, a5, a6, a7, a8⟩ := w
  exact ⟨h1.trans a1, h2.trans a2, by rw [h3, a3], by rw [h3, a4], by rw [h3, a5], h4.trans a6, by rw [h5]; exact a7,
    by rw [h6, a8]⟩

/-- STANDBY entered: the rails have fallen, time and backup registers stand. -/
theorem enterStandby_spec (s : State) : RailsLost s.enterStandby ∧ s.enterStandby.pwr.state = .standby ∧
    s.enterStandby.pwr.moving = none ∧ s.enterStandby.time = s.time ∧ s.enterStandby.glb.backup = s.glb.backup ∧
    s.enterStandby.glb.faults = s.glb.faults := by
  obtain ⟨w, -, h2, h3, h4⟩ := railsLost_loseRails s
  obtain ⟨c, l, n, e⟩ := debugEnd_shape { s.loseRails with pwr := { s.loseRails.pwr with state := .standby, moving := none } }
  unfold State.enterStandby
  rw [e]
  exact ⟨w.of_eq rfl rfl rfl rfl rfl rfl, rfl, rfl, h2, h3, h4⟩

theorem told_kept (h : Told s t) : t.pwr = s.pwr ∧ t.mem = s.mem ∧ t.cores = s.cores ∧ t.kol = s.kol ∧ t.glb = s.glb ∧
    t.time = s.time ∧ t.fab = s.fab ∧ t.regions = s.regions ∧ t.sec = s.sec := by
  obtain ⟨_, _, rfl⟩ := h
  exact ⟨rfl, rfl, rfl, rfl, rfl, rfl, rfl, rfl, rfl⟩

/-- The completion that a transition owes, to a session or to none. -/
def State.finished (s : State) (m : Moving) : State := if m.session = 0 then s else s.done m.session m.seq 0x0600 .ok []

theorem finished_spoken (s : State) (m : Moving) : Spoken s (s.finished m) := by
  unfold State.finished
  split
  · exact Spoken.refl s
  · exact spoken_done _ _ _ _ _ _

theorem finished_told (s : State) (m : Moving) : Told s (s.finished m) := by
  unfold State.finished
  split
  · exact Told.refl s
  · exact told_done _ _ _ _ _ _

theorem finished_railsLost (w : RailsLost s) (m : Moving) : RailsLost (s.finished m) := by
  obtain ⟨_, h2, h3, h4, _, _, h7, h8, _⟩ := told_kept (finished_told s m)
  obtain ⟨_, _, _, _, _, _, _, e⟩ := (finished_spoken s m).shape
  exact w.of_eq h8 h3 h2 (congrArg (fun t => t.host.allocs) e) h4 h7

theorem endRuns_kept (s : State) (why : EndReason) : (s.endRuns why).time = s.time ∧ (s.endRuns why).glb = s.glb ∧
    (s.endRuns why).pwr = s.pwr := by
  obtain ⟨_, _, _, _, _, _, _, e⟩ := (spoken_endRuns s why).shape
  rw [e]
  exact ⟨rfl, rfl, rfl⟩

/-- OFF entered: what the rails hold is lost, the backup registers stand. -/
theorem enterOff_spec (s : State) : RailsLost s.enterOff ∧ s.enterOff.pwr.state = .off ∧ s.enterOff.host.sessions = [] ∧
    s.enterOff.glb.backup = s.glb.backup ∧ s.enterOff.glb.faults = s.glb.faults := by
  have hs : Spoken s.loseManagement s.loseManagement := Spoken.refl _
  obtain ⟨w, hb, -⟩ := loseL1_spec hs { source := .powerOn, level := .l1, session := 0, seq := 0, since := 0 } rfl
  obtain ⟨-, -, hf⟩ := loseL1_pins hs
  exact ⟨⟨w.regions, w.cores, w.wells, w.pools, w.stackMem, w.allocs, w.domain, w.signals.2⟩, rfl, w.sessions, hb, hf⟩

/-! ### The power that a module fault leaves -/

/-- The power fields that no fault drives. -/
def Pwr.calm (p : Pwr) : Pwr := { p with alertFault := false, stOther := false }

theorem raiseModule_calm (s : State) (code : FCode) (detail cause : Nat) :
    (s.raiseModule code detail cause).pwr.calm = s.pwr.calm := by
  unfold State.raiseModule
  dsimp only
  rw [moduleStop_pwr]
  refine Eq.trans (congrArg Pwr.calm (report_pwr _ _ _ _ _)) ?_
  rfl

theorem failBarrier_calm (s : State) (b : Barrier) (missing : List Nat) (phase : Nat) :
    (s.failBarrier b missing phase).pwr.calm = s.pwr.calm := by
  have close (v : State) (ks : List Nat) : (v.closeRuns ks).pwr = v.pwr := by
    refine foldl_keeps State.pwr (fun s r => ?_) ks v
    split
    · split
      · exact (endRun_kept s r .stopStep).2.2.1
      · rfl
    · rfl
  have back (v : State) (ks : List Nat) : (v.takeBack b.seq ks).pwr = v.pwr := by
    refine foldl_keeps State.pwr (fun s r => ?_) ks v
    rfl
  have hr : (((s.dropBarrier b.seq).takeBack b.seq b.regions).closeRuns b.regions).pwr = s.pwr :=
    (close _ _).trans (back _ _)
  rw [failBarrier_eq]
  split
  · rw [raiseModule_calm, hr]
  · refine (congrArg Pwr.calm (foldl_keeps State.pwr (fun s c => ?_) b.clients _)).trans ?_
    · exact report_pwr s _ _ _ _
    · rw [raiseModule_calm, hr]

theorem losePartner_calm (s : State) (m : Nat) : (s.losePartner m).pwr.calm = s.pwr.calm := by
  unfold State.losePartner
  split
  · rfl
  · refine (congrArg Pwr.calm (report_pwr _ _ _ _ _)).trans ((raiseModule_calm _ _ _ _).trans ?_)
    refine (foldl_keeps (fun t => t.pwr.calm) (fun s b => ?_) _ _).trans ?_
    · split
      · exact failBarrier_calm _ _ _ _
      · rfl
      · exact failBarrier_calm _ _ _ _
    · refine congrArg Pwr.calm (foldl_keeps State.pwr (fun s r => ?_) _ s.noteRoutes)
      unfold State.answerLost
      split <;> rfl

/-! ### The governor -/

/-- The samples of the last ten ticks. -/
def State.samples (s : State) (watts : Nat) : List Nat := (watts :: s.pwr.gov.samples).take 10

/-- The state with the sample taken. -/
def State.sampled (s : State) (watts : Nat) : State :=
  { s with pwr := { s.pwr with pin := watts, gov := { s.pwr.gov with samples := s.samples watts } } }

theorem powerEvent_told (s : State) : Told s s.powerEvent := told_notify _ _ _ _

theorem capGovernor_run {now watts : Nat} (hn : now ≤ s.time.tick) : execCapGovernor now watts s =
    if s.pwr.state != .active then .next (s.sampled watts)
    else if s.pwr.cap * (s.samples watts).length < (s.samples watts).foldl (· + ·) 0 then
      if s.pwr.gov.acting then .next ((s.sampled watts).govern (min (2 * s.pwr.gov.interval) 16777216))
      else .next ((s.sampled watts).govern 65536).powerEvent
    else if (s.samples watts).foldl (· + ·) 0 * 100 < s.pwr.cap * (s.samples watts).length * 95 && s.pwr.gov.acting then
      if s.pwr.gov.below + 1 < 100 then .next { s.sampled watts with
        pwr := { (s.sampled watts).pwr with gov := { (s.sampled watts).pwr.gov with below := s.pwr.gov.below + 1 } } }
      else if s.pwr.gov.interval / 2 < 65536 then .next (s.sampled watts).governorOff.powerEvent
      else .next ((s.sampled watts).govern (s.pwr.gov.interval / 2))
    else .next { s.sampled watts with
      pwr := { (s.sampled watts).pwr with gov := { (s.sampled watts).pwr.gov with below := 0 } } } := by
  rw [execCapGovernor, atTick_past hn]
  rfl

/-- The governor's pace in force. -/
theorem govern_power (s : State) (i : Nat) : (s.govern i).pwr.pin = s.pwr.pin ∧ (s.govern i).pwr.gov.acting = true ∧
    (s.govern i).pwr.gov.below = 0 ∧ (s.govern i).pwr.gov.interval = i := by
  obtain ⟨v, ⟨_, _, rfl⟩, e⟩ := govern_shape s i
  rw [e]
  exact ⟨rfl, rfl, rfl, rfl⟩

theorem governorOff_power (s : State) : s.governorOff.pwr.pin = s.pwr.pin ∧ s.governorOff.pwr.gov.acting = false ∧
    s.governorOff.pwr.moving = s.pwr.moving ∧ s.governorOff.mem = s.mem := by
  obtain ⟨v, ⟨_, _, rfl⟩, e⟩ := governorOff_shape s
  rw [e]
  exact ⟨rfl, rfl, rfl, rfl⟩

theorem powerEvent_pwr (s : State) : s.powerEvent.pwr = s.pwr := (told_kept (powerEvent_told s)).1

/-- The loss of the reference on a module of a domain. -/
theorem refclkLoss_run {micros : Nat} (hm : 10 ≤ micros) (hup : s.pwr.state = .ready ∨ s.pwr.state = .active)
    (hl : s.pwr.refLocked = true) : execRefclkLoss micros s =
      if !s.kol.inDomain then
        .next (State.powerEvent { s with pwr := { s.pwr with refIn := false, mayRejoin := false, refLocked := false } })
      else
        let u := ((s.kol.members.map fun m => m.num).filter fun m => m != s.kol.module).foldl State.losePartner
          { s with pwr := { s.pwr with refIn := false, mayRejoin := false, refLocked := false } }
        .next (State.powerEvent { u with kol := { u.kol with
          ports := u.kol.ports.map fun (p : KPort) => { p with up := false, inRoutes := false } } }) := by
  have hu : (s.pwr.state == .ready || s.pwr.state == .active) = true := by
    rcases hup with h | h <;> rw [h] <;> rfl
  unfold execRefclkLoss
  rw [if_neg (Nat.not_lt.mpr hm)]
  simp only [hu, hl, Bool.not_true, Bool.or_self, Bool.false_eq_true, if_false]

/-! ### POWER_TRANSITION_COMPLETE -/

section Transition

variable {m : Moving} {cs : List Nat} {links : List (Nat × Nat)}

theorem transition_active (hm : s.pwr.moving = some m) (ht : m.target = .active) :
    execPowerTransitionComplete cs links s =
      .next (State.finished { s with pwr := { s.pwr with moving := none, state := .active } } m) := by
  unfold execPowerTransitionComplete
  simp only [hm, ht]
  rfl

theorem transition_ready (hm : s.pwr.moving = some m) (ht : m.target = .ready) (hs : s.pwr.state = .standby) :
    execPowerTransitionComplete cs links s =
      .next (State.finished (State.enterReady { s with pwr := { s.pwr with moving := none } } cs links) m) := by
  unfold execPowerTransitionComplete
  simp only [hm, ht]
  rw [if_neg (by rw [hs]; decide)]
  rfl

theorem transition_back (hm : s.pwr.moving = some m) (ht : m.target = .ready) (hs : s.pwr.state = .active) :
    execPowerTransitionComplete cs links s = .next (State.finished
      { State.governorOff { s with pwr := { s.pwr with moving := none } } with
        pwr := { (State.governorOff { s with pwr := { s.pwr with moving := none } }).pwr with
          state := .ready, volts := [] } } m) := by
  unfold execPowerTransitionComplete
  simp only [hm, ht]
  rw [if_pos (by rw [hs]; rfl)]
  rfl

theorem transition_standby (hm : s.pwr.moving = some m) (ht : m.target = .standby) :
    execPowerTransitionComplete cs links s =
      .next (State.finished (State.enterStandby (State.endRuns { s with pwr := { s.pwr with moving := none } } .stop)) m) := by
  unfold execPowerTransitionComplete
  simp only [hm, ht]
  rfl

theorem transition_off (hm : s.pwr.moving = some m) (ht : m.target = .off) :
    execPowerTransitionComplete cs links s = .next (State.enterOff
      (State.finished (State.enterStandby (State.endRuns { s with pwr := { s.pwr with moving := none } } .stop)) m)) := by
  unfold execPowerTransitionComplete
  simp only [hm, ht]
  rfl

end Transition

/-- An edge of SYNC_IN that is taken. -/
theorem syncIn_taken (hon : s.pwr.state ≠ .off)
    (hf : ∀ c, s.pwr.lastSync = some c → c + s.tickLength ≤ s.time.cycle) :
    execSyncIn s = .next (State.ledger { s with
      pwr := { s.pwr with lastSync := some s.time.cycle }
      time := { s.time with draws := s.time.draws + 1 } } 2
        [.num (s.time.cycle + Config.freeSkew s.time.draws % 5 - 2)]) := by
  unfold execSyncIn
  dsimp only
  rw [if_neg]
  have hoff : (s.pwr.state == PState.off) = false := by simpa using hon
  cases hl : s.pwr.lastSync with
  | none => simp [hoff]
  | some c => simp [hoff, hf c hl]

theorem syncIn_ignored {c : Nat} (hl : s.pwr.lastSync = some c) (ht : s.time.cycle < c + s.tickLength) :
    execSyncIn s = .next s := by
  unfold execSyncIn
  dsimp only
  rw [if_pos]
  have hd : decide (c + s.tickLength ≤ s.time.cycle) = false := decide_eq_false (Nat.not_le.mpr ht)
  simp [hl, hd]

/-- Settles O53: POWER_CAP and POWER_STATE by their rows; the transitions by the rails that fall; the governor by
`capGovernor_run`; the reference by `refclkLoss_run`. -/
theorem powerMovesAsCommanded : Obligations.PowerMovesAsCommanded := by
  intro s m cs links phys micros now watts up
  refine ⟨fun h x hin hp => ⟨powerCap_answers hin hp, fun hm => ⟨fun hs => ⟨?_, ?_⟩, fun hs => ⟨?_, ?_⟩, fun hs => ?_,
    fun hs hq => ?_, fun hs hq => ?_, fun hs h1 h2 h3 hk => ?_⟩⟩, ?_⟩
  · exact powerState_stays hin hp hm (.standby hs)
  · exact powerState_goes hin hp hm (.off hs)
  · exact powerState_stays hin hp hm (.ready hs)
  · exact powerState_goes hin hp hm (.active hs)
  · exact powerState_stays hin hp hm (.active hs)
  · exact powerState_goes hin hp hm (.ready hs (List.all_eq_true.mpr fun z hz => by
      obtain ⟨q1, q2⟩ := hq z hz
      simp [q1, q2]))
  · exact powerState_goes hin hp hm (.standby hs (List.all_eq_true.mpr fun z hz => by
      obtain ⟨q1, q2⟩ := hq z hz
      simp [q1, q2]))
  · refine powerReady_answers hin hp hm hs ?_
    unfold State.readyAdmitted
    rw [h1, h2, h3]
    rcases hk with hk | hk
    · rw [hk]
      rfl
    · rw [hk]
      simp
  intro told total n
  have hn : (s.samples watts).length = n := rfl
  have htot : (s.samples watts).foldl (· + ·) 0 = total := rfl
  refine ⟨fun hm ht => transition_active hm ht, fun hm ht hs hd => ?_, fun hm ht hs => ?_, fun hm ht => ?_, fun hm ht => ?_,
    fun hph hs => ?_, fun hnow hs => ?_, fun hnow hs hlt => ?_, fun hnow hs hlt ha => ?_, fun hmi hup hl hd => ?_,
    fun hmi hup hl hd => ?_, fun hmi => ?_, rfl, fun hon hf => ?_, fun c hl ht => syncIn_ignored hl ht⟩
  · refine (transition_ready hm ht hs).trans (congrArg (fun t => Host.Outcome.next (State.finished t m)) ?_)
    unfold State.enterReady
    dsimp only
    rw [hd]
    rfl
  · refine ⟨_, transition_back hm ht hs, ?_⟩
    obtain ⟨h1, h2, h3, h4⟩ := governorOff_power { s with pwr := { s.pwr with moving := none } }
    generalize State.governorOff _ = v at h1 h2 h3 h4 ⊢
    obtain ⟨k1, k2, -⟩ := told_kept (finished_told { v with pwr := { v.pwr with state := .ready, volts := [] } } m)
    rw [k1, k2]
    exact ⟨rfl, h3, rfl, h2, h4⟩
  · refine ⟨_, transition_standby hm ht, ?_⟩
    obtain ⟨e1, e2, -⟩ := endRuns_kept { s with pwr := { s.pwr with moving := none } } .stop
    generalize State.endRuns _ _ = v at e1 e2 ⊢
    obtain ⟨w, h1, h2, h3, h4, -⟩ := enterStandby_spec v
    obtain ⟨k1, -, -, -, k5, k6, -⟩ := told_kept (finished_told v.enterStandby m)
    refine ⟨finished_railsLost w m, ?_, ?_, ?_, ?_⟩
    · rw [k1, h1]
    · rw [k1, h2]
    · rw [k6, h3, e1]
    · rw [k5, h4, e2]
  · refine ⟨_, transition_off hm ht, ?_⟩
    obtain ⟨-, e2, -⟩ := endRuns_kept { s with pwr := { s.pwr with moving := none } } .stop
    generalize State.endRuns _ _ = v at e2 ⊢
    obtain ⟨-, -, -, -, h4, -⟩ := enterStandby_spec v
    obtain ⟨-, -, -, -, k5, -⟩ := told_kept (finished_told v.enterStandby m)
    obtain ⟨w, h1, h2, h3, -⟩ := enterOff_spec (v.enterStandby.finished m)
    exact ⟨w, h1, h2, by rw [h3, k5, h4, e2]⟩
  · show execConstantanStep phys up s = _
    rw [execConstantanStep, if_neg (Nat.not_le.mpr hph), if_neg (by rw [hs]; decide)]
  · refine (capGovernor_run hnow).trans ?_
    rw [if_pos (by simpa using hs)]
    rfl
  · refine ⟨if s.pwr.gov.acting then (s.sampled watts).govern (min (2 * s.pwr.gov.interval) 16777216)
        else ((s.sampled watts).govern 65536).powerEvent, (capGovernor_run hnow).trans ?_, ?_⟩
    · rw [if_neg (by rw [hs]; decide), hn, htot, if_pos hlt]
      split <;> rfl
    · cases s.pwr.gov.acting with
      | true =>
        obtain ⟨g1, g2, g3, g4⟩ := govern_power (s.sampled watts) (min (2 * s.pwr.gov.interval) 16777216)
        exact ⟨g1, g2, g3, g4⟩
      | false =>
        obtain ⟨g1, g2, g3, g4⟩ := govern_power (s.sampled watts) 65536
        rw [if_neg Bool.false_ne_true, powerEvent_pwr]
        exact ⟨g1, g2, g3, g4⟩
  · have hle : ¬ s.pwr.cap * n < total := by
      have := Nat.mul_comm total 100
      omega
    have hboth : (decide (total * 100 < s.pwr.cap * n * 95) && s.pwr.gov.acting) = true := by simp [hlt, ha]
    have hrun := capGovernor_run (watts := watts) hnow
    rw [if_neg (by rw [hs]; decide), hn, htot, if_neg hle, if_pos hboth] at hrun
    by_cases hb : s.pwr.gov.below + 1 < 100
    · rw [if_pos hb] at hrun
      exact ⟨_, hrun, rfl, fun _ => ⟨rfl, ha, rfl, rfl⟩, fun h => absurd h (by omega), fun h => absurd h (by omega)⟩
    · rw [if_neg hb] at hrun
      by_cases hi : s.pwr.gov.interval / 2 < 65536
      · rw [if_pos hi] at hrun
        obtain ⟨g1, g2, -⟩ := governorOff_power (s.sampled watts)
        refine ⟨_, hrun, ?_, fun h => absurd h (by omega), fun _ _ => ?_, fun _ h => absurd h (by omega)⟩
        · rw [powerEvent_pwr, g1]
          rfl
        · rw [powerEvent_pwr, g2]
      · rw [if_neg hi] at hrun
        obtain ⟨g1, g2, g3, g4⟩ := govern_power (s.sampled watts) (s.pwr.gov.interval / 2)
        exact ⟨_, hrun, g1, fun h => absurd h (by omega), fun _ h => absurd h (by omega), fun _ _ => ⟨g2, g4⟩⟩
  · have hrun := refclkLoss_run hmi hup hl
    rw [hd] at hrun
    refine ⟨_, hrun, ?_⟩
    obtain ⟨k1, -, k3, k4, -⟩ := told_kept (powerEvent_told { s with pwr := { s.pwr with
      refIn := false, mayRejoin := false, refLocked := false } })
    exact ⟨k4, k3, k1⟩
  · have hrun := refclkLoss_run hmi hup hl
    rw [hd] at hrun
    refine ⟨_, hrun, ?_⟩
    dsimp only
    have hcalm := foldl_keeps (fun t => t.pwr.calm) losePartner_calm
      ((s.kol.members.map fun m => m.num).filter fun m => m != s.kol.module)
      { s with pwr := { s.pwr with refIn := false, mayRejoin := false, refLocked := false } }
    generalize List.foldl State.losePartner _ _ = v at hcalm ⊢
    obtain ⟨k1, -, -, k4, -⟩ := told_kept (powerEvent_told { v with kol := { v.kol with
      ports := v.kol.ports.map fun (p : KPort) => { p with up := false, inRoutes := false } } })
    refine ⟨?_, fun p hp => ?_⟩
    · rw [k1]
      exact congrArg Pwr.refLocked hcalm
    · rw [k4] at hp
      obtain ⟨p', -, rfl⟩ := List.mem_map.mp hp
      exact ⟨rfl, rfl⟩
  · show execRefclkLoss micros s = _
    rw [execRefclkLoss, if_pos hmi]
  · exact ⟨_, by omega, by omega, syncIn_taken hon hf⟩

end Sys2Proof.Machine
end

section
/-! PROOFS. Alarms, protective halts, Alnico's measurements and PMBus (spec chapters 12, 15 and 17). -/

namespace Sys2Proof.Machine

variable {s t u v : State}

/-! ### The record that an alarm or a halt leaves -/

theorem stepFor_idle (h : ∀ x ∈ s.regions, x.phase ≠ .running) : s.stepFor none = 2 ^ 64 - 1 := by
  have hf : (s.regions.filter fun x => x.phase == .running) = [] :=
    List.filter_eq_nil_iff.mpr fun x hx => by simpa using h x hx
  have hn : s.leadCore = none := by
    unfold State.leadCore
    rw [hf]
    rfl
  show (match s.leadCore with | some c => c.step | none => 2 ^ 64 - 1) = _
  rw [hn]

/-- One more record, of a code in the present cycle, that names no core. -/
def State.Logs (s t : State) (code : FCode) : Prop :=
  ∃ f, t.glb.faults = s.glb.faults ++ [f] ∧ f.code = code ∧ f.cycle = s.time.cycle ∧ f.lcore = none ∧
    ((∀ x ∈ s.regions, x.phase ≠ .running) → f.step = 2 ^ 64 - 1)

theorem raiseFree_logs (hg : v.glb.faults = s.glb.faults) (ht : v.time.cycle = s.time.cycle)
    (hr : (∀ x ∈ s.regions, x.phase ≠ .running) → ∀ x ∈ v.regions, x.phase ≠ .running) (code : FCode) (cause : Nat) :
    s.Logs (v.raiseFree code cause) code := by
  obtain ⟨⟨f, hf, h1, -, h3, h4, h5⟩, -⟩ := raiseModule_record
    { v with time := { v.time with draws := v.time.draws + 1 } } code (Config.freeDetail v.time.draws % 2 ^ 32) cause
  refine ⟨f, ?_, h1, h3.trans ht, h4, fun hi => h5.trans (stepFor_idle (hr hi))⟩
  rw [← hg]
  exact congrArg Globals.faults hf

theorem State.Logs.of_faults {code : FCode} (h : s.Logs t code) (he : u.glb.faults = t.glb.faults) : s.Logs u code := by
  obtain ⟨f, hf, h⟩ := h
  exact ⟨f, he.trans hf, h⟩

/-! ### What a free fault leaves -/

/-- The firmware without the events that wait for its restart. -/
def Firmware.calm (f : Firmware) : Firmware := { f with deferred := [] }

theorem moduleStop_fw (s : State) (p : Policy) (cause : Nat) : (s.moduleStop p cause).fw.calm = s.fw.calm := by
  have toStop (s : State) (r : Nat) (k : EndReason) (g : StopGoal) (cause : Nat) :
      (s.toStopping r k g cause).fw.calm = s.fw.calm := by
    obtain ⟨_, _, _, _, _, _, _, e⟩ := (spoken_toStopping s r k g cause).shape
    rw [e]
    rfl
  unfold State.moduleStop
  refine foldl_keeps (fun t => t.fw.calm) (fun s x => ?_) s.regions s
  split
  · rfl
  · cases p with
    | log => rfl
    | stopStep => exact toStop _ _ _ _ _
    | stop => exact toStop _ _ _ _ _

theorem raiseModule_fw (s : State) (code : FCode) (detail cause : Nat) :
    (s.raiseModule code detail cause).fw.calm = s.fw.calm := by
  unfold State.raiseModule
  dsimp only
  rw [moduleStop_fw]
  generalize hz : ({ s with glb := _, pwr := _ } : State) = z
  obtain ⟨_, _, _, _, _, _, _, e⟩ := (spoken_notify z .fault [.fault _, .num 255, .num (s.modulePolicy code).num, .num 0,
    .num (2 ^ 32 - 1)] none).shape
  refine (congrArg (fun t => t.fw.calm) e).trans ?_
  rw [← hz]
  rfl

theorem raiseModule_loadSeq (s : State) (code : FCode) (detail cause : Nat) :
    (s.raiseModule code detail cause).fw.loadSeq = s.fw.loadSeq :=
  (congrArg Firmware.loadSeq (raiseModule_fw s code detail cause) :)

/-- What a free fault leaves of the state (R81, R83). -/
theorem raiseFree_kept (s : State) (code : FCode) (cause : Nat) :
    (s.raiseFree code cause).pwr.calm = s.pwr.calm ∧ (s.raiseFree code cause).mem = s.mem ∧
      (s.raiseFree code cause).time.cycle = s.time.cycle ∧ (s.raiseFree code cause).set = s.set ∧
      (s.raiseFree code cause).sec = s.sec ∧ (s.raiseFree code cause).fw.loadSeq = s.fw.loadSeq ∧
      (s.raiseFree code cause).glb.backup = s.glb.backup := by
  have a := aside_raiseModule { s with time := { s.time with draws := s.time.draws + 1 } } code
    (Config.freeDetail s.time.draws % 2 ^ 32) cause
  obtain ⟨⟨f, hf, -⟩, -⟩ := raiseModule_record { s with time := { s.time with draws := s.time.draws + 1 } } code
    (Config.freeDetail s.time.draws % 2 ^ 32) cause
  exact ⟨raiseModule_calm _ _ _ _, a.mem, (congrArg Time.cycle a.time :), a.set, a.sec, raiseModule_loadSeq _ _ _ _,
    (congrArg Globals.backup hf :)⟩

/-! ### Temperatures -/

/-- A temperature noted: the sensors and the hot stacks alone. -/
theorem noteTemp_shape (s : State) (p : TempPlace) (temp : Int) : ∃ d n st i k hot, s.noteTemp p temp =
    { s with pwr := { s.pwr with dieTemps := d, ndieTemps := n, stackTemps := st, islandTemp := i, stackTemp := k }
             mem := { s.mem with hot := hot } } := by
  cases p with
  | island ph => exact ⟨_, s.pwr.ndieTemps, s.pwr.stackTemps, _, _, s.mem.hot, rfl⟩
  | ndie d => exact ⟨s.pwr.dieTemps, _, s.pwr.stackTemps, _, _, s.mem.hot, rfl⟩
  | stack st => exact ⟨s.pwr.dieTemps, s.pwr.ndieTemps, _, _, _, _, rfl⟩

/-- THERMAL_HALT raised where no reset runs. -/
theorem thermalHalt_spec (hr : s.pwr.reset = none) :
    WasReset (mapped s 3) s s.thermalHalt ∧ s.thermalHalt.pwr.thermalHold = true ∧
      s.thermalHalt.pwr.thermTrip = s.pwr.thermTrip ∧
      (mapped s 3 = .l1 → s.Logs s.thermalHalt .thermalHalt ∧ s.thermalHalt.pwr.stTemp = true) := by
  unfold State.thermalHalt
  have hl := raiseFree_logs (s := s) (v := { s with pwr := { s.pwr with thermalHold := true, stTemp := true } }) rfl rfl id
    .thermalHalt 3
  obtain ⟨k1, k2, k3, k4, k5, k6, -⟩ := raiseFree_kept { s with pwr := { s.pwr with thermalHold := true, stTemp := true } }
    .thermalHalt 3
  dsimp only at hl ⊢
  generalize State.raiseFree _ .thermalHalt 3 = z at hl k1 k2 k3 k4 k5 k6 ⊢
  obtain ⟨_, _, _, _, _, _, _, e⟩ := (spoken_endRuns z .stop).shape
  have hfree : (z.endRuns .stop).pwr.reset = none := by
    rw [e]
    exact (congrArg Pwr.reset k1 :).trans hr
  have hlv : (z.endRuns .stop).sourceLevel .thermal = mapped s 3 := by
    rw [e]
    show (if z.sec.resetMap.testBit 3 then RLevel.l0 else .l1) = _
    rw [k5]
    rfl
  obtain ⟨w, -, -⟩ := beginReset_spec hfree .thermal 0 0 false
  obtain ⟨⟨-, p2, p3⟩, -, p5⟩ := beginReset_pins hfree .thermal 0 0 false
  rw [hlv] at w p5
  refine ⟨w.of_kept ?_ ⟨?_, ?_, ?_⟩ ⟨?_, ?_⟩, p2.trans ?_, p3.trans ?_, fun h1 => ⟨hl.of_faults ((p5 h1).1.trans ?_),
    (p5 h1).2.trans ?_⟩⟩
  all_goals rw [e]
  · exact (congrArg Settings.committed k4 :)
  · exact (congrArg Security.lifecycle k5 :)
  · exact (congrArg Security.rollback k5 :)
  · exact (congrArg Security.resetMap k5 :)
  · exact k3
  · exact k6
  · exact (congrArg Pwr.thermalHold k1 :)
  · exact (congrArg Pwr.thermTrip k1 :)
  · rfl
  · exact (congrArg Pwr.stTemp k1 :)

/-! ### The input -/

/-- What the rails' fall and OFF leave of the pins that the input drives. -/
theorem enterStandby_pins (s : State) : s.enterStandby.pwr.inputHold = s.pwr.inputHold ∧
    s.enterStandby.pwr.vin = s.pwr.vin ∧ s.enterStandby.pwr.iin = s.pwr.iin := by
  obtain ⟨_, _, _, _, _, _, _, e⟩ := (spoken_abandon s).shape
  obtain ⟨c, l, n, e'⟩ := debugEnd_shape { s.loseRails with pwr := { s.loseRails.pwr with state := .standby, moving := none } }
  unfold State.enterStandby
  rw [e']
  unfold State.loseRails State.leaveDomain
  rw [e]
  exact ⟨rfl, rfl, rfl⟩

theorem enterOff_pins (s : State) : s.enterOff.pwr.inputHold = s.pwr.inputHold ∧
    s.enterOff.pwr.vin = s.pwr.vin ∧ s.enterOff.pwr.iin = s.pwr.iin := by
  obtain ⟨_, _, _, _, _, _, _, e⟩ := (spoken_abandon s.loseManagement.loseManagement).shape
  unfold State.enterOff State.loseL1 State.loseRails State.leaveDomain
  rw [e]
  exact ⟨rfl, rfl, rfl⟩

theorem dropMoving_rest (s : State) : s.dropMoving.glb = s.glb ∧ s.dropMoving.time = s.time := by
  unfold State.dropMoving
  split
  · exact ⟨rfl, rfl⟩
  · dsimp only
    split
    · exact ⟨rfl, rfl⟩
    · obtain ⟨-, -, -, -, h1, h2, -⟩ := told_kept (told_done { s with pwr := { s.pwr with moving := none } } _ _ 0x0600 .state [])
      exact ⟨h1, h2⟩

/-- What an input halt leaves (R367, R410). -/
structure InputHalted (s t : State) (mv vin iin : Nat) : Prop where
  rails : RailsLost t
  hold : t.pwr.inputHold = true
  vin : t.pwr.vin = vin
  iin : t.pwr.iin = iin
  logs : s.Logs t .inputPowerHalt
  standby : 40000 ≤ mv → t.pwr.state = .standby ∧ t.glb.backup = s.glb.backup
  off : mv < 40000 → t.pwr.state = .off ∧ t.glb.backup = List.replicate 16 0

theorem inputHalt_spec (hg : v.glb = s.glb) (ht : v.time = s.time)
    (hr : (∀ x ∈ s.regions, x.phase ≠ .running) → ∀ x ∈ v.regions, x.phase ≠ .running) (mv : Nat) :
    InputHalted s (v.inputHalt mv) mv v.pwr.vin v.pwr.iin := by
  obtain ⟨d1, d2⟩ := dropMoving_kept { v with pwr := { v.pwr with inputHold := true, stInput := true } }
  obtain ⟨d3, d4⟩ := dropMoving_rest { v with pwr := { v.pwr with inputHold := true, stInput := true } }
  unfold State.inputHalt
  dsimp only
  generalize State.dropMoving _ = w at d1 d2 d3 d4 ⊢
  have hl := raiseFree_logs (s := s) (v := w) (congrArg Globals.faults (d3.trans hg)) (congrArg Time.cycle (d4.trans ht))
    (fun h => by rw [d1]; exact hr h) .inputPowerHalt 3
  obtain ⟨k1, -, -, -, -, -, k7⟩ := raiseFree_kept w .inputPowerHalt 3
  rw [d2] at k1
  rw [d3] at k7
  generalize w.raiseFree .inputPowerHalt 3 = z at hl k1 k7 ⊢
  obtain ⟨-, e2, e3⟩ := endRuns_kept z .stop
  generalize z.endRuns .stop = y at e2 e3 ⊢
  obtain ⟨r1, r2, -, -, r5, r6⟩ := enterStandby_spec y
  obtain ⟨p1, p2, p3⟩ := enterStandby_pins y
  have h1 : y.enterStandby.pwr.inputHold = true := by
    rw [p1, e3]
    exact (congrArg Pwr.inputHold k1 :)
  have h2 : y.enterStandby.pwr.vin = v.pwr.vin := by
    rw [p2, e3]
    exact (congrArg Pwr.vin k1 :)
  have h3 : y.enterStandby.pwr.iin = v.pwr.iin := by
    rw [p3, e3]
    exact (congrArg Pwr.iin k1 :)
  have h4 : y.enterStandby.glb.faults = z.glb.faults := by rw [r6, e2]
  have h5 : y.enterStandby.glb.backup = s.glb.backup := by
    rw [r5, e2, k7]
    exact congrArg Globals.backup hg
  split
  · rename_i hlow
    obtain ⟨o1, o2, -, -, o5⟩ := enterOff_spec y.enterStandby
    obtain ⟨q1, q2, q3⟩ := enterOff_pins y.enterStandby
    generalize y.enterStandby.enterOff = p at o1 o2 o5 q1 q2 q3 ⊢
    exact ⟨o1.of_eq rfl rfl rfl rfl rfl rfl, q1.trans h1, q2.trans h2, q3.trans h3, hl.of_faults (o5.trans h4),
      fun h => absurd h (by omega), fun _ => ⟨o2, rfl⟩⟩
  · rename_i hlow
    exact ⟨r1, h1, h2, h3, hl.of_faults h4, fun _ => ⟨r2, h5⟩, fun h => absurd h hlow⟩

/-! ### Alnico -/

theorem tempOf_put (l : List (Nat × Int)) (k : Nat) (temp : Int) : tempOf ((l.filter fun x => x.1 != k) ++ [(k, temp)]) k = temp := by
  have hn : (l.filter fun x => x.1 != k).find? (fun x => x.1 == k) = none :=
    List.find?_eq_none.mpr fun x hx => by simpa using (List.mem_filter.mp hx).2
  simp [tempOf, List.find?_append, hn]

theorem le_foldl_maxInt (l : List Int) (a b : Int) (h : b = a ∨ b ∈ l) : b ≤ l.foldl max a := by
  induction l generalizing a b with
  | nil => exact le_of_eq (h.resolve_right List.not_mem_nil)
  | cons c r ih =>
    rcases h with rfl | h
    · exact le_trans (le_max_left b c) (ih (max b c) (max b c) (.inl rfl))
    · rcases List.mem_cons.mp h with rfl | h
      · exact le_trans (le_max_right a b) (ih (max a b) (max a b) (.inl rfl))
      · exact ih (max a c) b (.inr h)

/-- The hottest island is at least as hot as one just measured. -/
theorem noteTemp_island (s : State) (k : Nat) (temp : Int) :
    tempOf (s.noteTemp (.island k) temp).pwr.dieTemps k = temp ∧ temp ≤ (s.noteTemp (.island k) temp).pwr.islandTemp :=
  ⟨tempOf_put _ _ _, le_foldl_maxInt _ _ _ (.inr (by simp))⟩

theorem pmbus_answers {kind : Nat} {items : State → List Item} {f : State → State} (hr : s.pwr.reset = none)
    (h1 : s.pwr.state ≠ .off) (h2 : s.pwr.state ≠ .boot) : onPmbus kind items f s = .next ((f s).emit (.pmbus kind (items s))) := by
  rw [onPmbus, if_neg]
  simp [hr, h1, h2]

/-- Settles O54: the halts by `thermalHalt_spec` and `inputHalt_spec`, records by `raiseFree_logs`. -/
theorem haltsAndMeasures : Obligations.HaltsAndMeasures := by
  intro s place temp micros mv ma phys k v now hr logs sent
  refine ⟨fun hon ht => ?_, fun hon ht hm => ?_, fun hon hh ht => ?_, fun ht => ?_, fun hon hc => ?_, fun hon hm => ?_,
    fun hp hup => ?_, rfl, rfl, fun hn hk => ?_, fun hn hk => ⟨?_, ?_⟩, fun hn hk => ?_, fun h1 h2 => ?_⟩
  · have hoff : (s.pwr.state == PState.off) = false := by simpa using hon
    obtain ⟨d, n, st, i, q, hot, e⟩ := noteTemp_shape s place temp
    have hl := raiseFree_logs (s := s) (v := { s.noteTemp place temp with
      pwr := { (s.noteTemp place temp).pwr with stTemp := true } }) (by rw [e]) (by rw [e]) (by rw [e]; exact id) .thermalAlarm 1
    obtain ⟨k1, k2, -⟩ := raiseFree_kept { s.noteTemp place temp with
      pwr := { (s.noteTemp place temp).pwr with stTemp := true } } .thermalAlarm 1
    refine ⟨State.powerEvent (State.raiseFree { s.noteTemp place temp with
      pwr := { (s.noteTemp place temp).pwr with stTemp := true } } .thermalAlarm), ?_, ?_⟩
    · show execThermalAlarm place temp s = _
      rw [execThermalAlarm, if_neg]
      rw [e]
      simp only [hoff, Bool.or_false, decide_eq_true_eq]
      exact not_lt.mpr ht
    · generalize State.raiseFree _ _ = z at hl k1 k2 ⊢
      obtain ⟨q1, q2, -, -, q5, -⟩ := told_kept (powerEvent_told z)
      rw [e] at k1 k2
      refine ⟨hl.of_faults (congrArg Globals.faults q5), ?_, ?_, ?_, ?_⟩
      · rw [q1]
        exact (congrArg Pwr.stTemp k1 :)
      · rw [q1]
        exact (congrArg Pwr.state k1 :)
      · rw [q2, k2]
      · rw [q2, k2]
  · have hoff : (s.pwr.state == PState.off) = false := by simpa using hon
    obtain ⟨d, n, st, i, q, hot, e⟩ := noteTemp_shape s place temp
    obtain ⟨w, h1, -, h3⟩ := thermalHalt_spec (s := s.noteTemp place temp) (by rw [e]; exact hr)
    refine ⟨(s.noteTemp place temp).thermalHalt, ?_, ?_, h1, ?_⟩
    · show execThermalHalt place temp micros s = _
      rw [execThermalHalt, if_neg]
      rw [e]
      simp only [hoff, Bool.or_false, Bool.or_eq_true, decide_eq_true_eq]
      omega
    · rw [e] at w ⊢
      exact w.of_kept rfl ⟨rfl, rfl, rfl⟩ ⟨rfl, rfl⟩
    · rw [e] at h3 ⊢
      exact h3
  · have hoff : (s.pwr.state == PState.off) = false := by simpa using hon
    obtain ⟨w, h1, h2, -⟩ := thermalHalt_spec (s := { s with pwr := { s.pwr with thermTrip := true } }) hr
    refine ⟨_, ?_, w.of_kept rfl ⟨rfl, rfl, rfl⟩ ⟨rfl, rfl⟩, h2, h1⟩
    show execThermTrip temp s = _
    rw [execThermTrip, if_neg (by omega)]
    simp only [hoff, hh, Bool.false_eq_true, if_false]
  · show execThermTrip temp s = _
    rw [execThermTrip, if_pos (by omega)]
  · have hoff : (s.pwr.state == PState.off) = false := by simpa using hon
    obtain ⟨a1, a2, a3, a4, a5, a6, a7⟩ := inputHalt_spec (s := s) (v := { s with pwr := { s.pwr with vin := mv, iin := ma } })
      rfl rfl id mv
    refine ⟨_, ?_, a1, a2, a3, a4, a5, a6, a7⟩
    show execInputPowerHalt mv ma micros s = _
    unfold execInputPowerHalt
    dsimp only
    rw [if_neg]
    simp only [hoff, Bool.or_false, Bool.not_eq_true', Bool.or_eq_false_iff, Bool.and_eq_false_iff,
      decide_eq_false_iff_not]
    omega
  · have hoff : (s.pwr.state == PState.off) = false := by simpa using hon
    obtain ⟨d1, d2⟩ := dropMoving_kept { s with pwr := { s.pwr with vin := mv } }
    obtain ⟨d3, d4⟩ := dropMoving_rest { s with pwr := { s.pwr with vin := mv } }
    have hrun : execInputBelowMainRailLimit mv s = .next (State.inputHalt
        { (State.dropMoving { s with pwr := { s.pwr with vin := mv } }).endRuns .stop with
          regions := ((State.dropMoving { s with pwr := { s.pwr with vin := mv } }).endRuns .stop).regions.map
            fun (x : Region) => { x with phase := .idle } } mv) := by
      rw [execInputBelowMainRailLimit, if_neg (by omega)]
      simp only [hoff, Bool.false_eq_true, if_false]
    generalize State.dropMoving _ = w at d1 d2 d3 d4 hrun
    obtain ⟨e1, e2, e3⟩ := endRuns_kept w .stop
    generalize w.endRuns .stop = y at e1 e2 e3 hrun
    obtain ⟨a1, a2, a3, -, a5, a6, a7⟩ := inputHalt_spec (s := s)
      (v := { y with regions := y.regions.map fun (x : Region) => { x with phase := .idle } })
      (e2.trans d3) (e1.trans d4) (fun _ x hx => by
        obtain ⟨z, -, rfl⟩ := List.mem_map.mp hx
        exact fun h => nomatch h) mv
    refine ⟨_, hrun, a1, a2, a3.trans ?_, a5, a6, a7⟩
    show y.pwr.vin = mv
    rw [e3, d2]
  · have hl := raiseFree_logs (s := s) (v := s) rfl rfl id .islandLockLost 3
    obtain ⟨-, k2, -⟩ := raiseFree_kept s .islandLockLost 3
    have hst : (s.pwr.state == .ready || s.pwr.state == .active) = true := by
      rcases hup with h | h <;> rw [h] <;> rfl
    let u : State := { s.raiseFree .islandLockLost 3 with
      mem := { (s.raiseFree .islandLockLost 3).mem with
        lockLost := ((s.raiseFree .islandLockLost 3).mem.lockLost ++ [phys]).dedup }
      cores := (s.raiseFree .islandLockLost 3).cores.map fun (c : CoreSt) =>
        if c.phys == phys then { lcore := c.lcore, region := c.region, phys := c.phys } else c }
    refine ⟨u, ?_, hl, ?_, ?_⟩
    · show execIslandLockLost phys s = _
      rw [execIslandLockLost, if_neg (Nat.not_le.mpr hp)]
      simp only [hst, Bool.not_true, Bool.false_eq_true, if_false]
      rfl
    · show ((s.raiseFree .islandLockLost 3).mem.lockLost ++ [phys]).dedup = _
      rw [k2]
    · intro c hc hph
      obtain ⟨d, -, rfl⟩ := List.mem_map.mp hc
      by_cases hd : (d.phys == phys) = true
      · rw [if_pos hd]
        have : d.phys = phys := by simpa using hd
        rw [this]
      · rw [if_neg hd] at hph
        exact absurd (by simpa using hph) hd
  · show execAlnicoMeasureUpdate now [] { wells := [(k, v)] } s = _
    rw [execAlnicoMeasureUpdate, atTick_past hn]
    simp only [List.foldl_nil, List.foldl_cons, hk, if_true]
  · show execAlnicoMeasureUpdate now [] { wells := [(20000 + k, v)] } s = _
    rw [execAlnicoMeasureUpdate, atTick_past hn]
    simp only [List.foldl_nil, List.foldl_cons, if_neg (show ¬ 20000 + k < 19968 by omega),
      show 2 * (20000 + k - 20000) = 2 * k by omega]
  · show execAlnicoMeasureUpdate now [] { retries := [(k, v)] } s = _
    rw [execAlnicoMeasureUpdate, atTick_past hn]
    simp only [List.foldl_nil, List.foldl_cons]
  · obtain ⟨t1, t2⟩ := noteTemp_island s k temp
    refine ⟨{ s.noteTemp (.island k) temp with mem := { s.mem with eccWell := s.mem.eccWell } }, ?_, t1, t2, rfl, rfl⟩
    show execAlnicoMeasureUpdate now [(k, temp)] {} s = _
    rw [execAlnicoMeasureUpdate, atTick_past hn]
    simp only [List.foldl_nil, List.foldl_cons, hk, if_true]
    rfl
  · have run (kind : Nat) (items : State → List Item) (f : State → State) := pmbus_answers (kind := kind) (items := items)
      (f := f) hr h1 h2
    exact ⟨run 1 (fun s => [.num s.pwr.vin]) id, run 2 (fun s => [.num s.pwr.iin]) id, run 3 (fun s => [.num s.pwr.pin]) id,
      run 4 (fun s => [.int s.pwr.islandTemp]) id, run 5 (fun s => [.int s.pwr.stackTemp]) id,
      run 6 (fun s => [.flag s.pwr.stInput, .flag s.pwr.stTemp, .flag s.pwr.stOther]) id,
      run 7 (fun _ => []) fun s => { s with pwr := { s.pwr with stInput := false, stTemp := false, stOther := false } },
      run 8 (fun s => [.num s.sec.serial]) id⟩

end Sys2Proof.Machine
end

section
/-! PROOFS. What the management clock ends: sessions, events, commits, restarts, the debug level and the parity walk
(spec chapters 12 to 16). -/

namespace Sys2Proof.Machine

variable {s t u v : State} {x : Session}

/-! ### Events -/

/-- A session of a number after a change of it, where the number is held once. -/
theorem filter_updSession {n : Nat} {f : Session → Session} (hf : ∀ y, (f y).num = y.num)
    (h : (s.host.sessions.filter fun y => y.num == n) = [x]) :
    ((s.updSession n f).host.sessions.filter fun y => y.num == n) = [f x] := by
  have hx : x ∈ s.host.sessions.filter fun y => y.num == n := by rw [h]; exact List.mem_singleton.mpr rfl
  have hn : (x.num == n) = true := (List.mem_filter.mp hx).2
  show ((s.host.sessions.map _).filter _) = _
  rw [List.filter_map]
  have hp : ((fun y : Session => y.num == n) ∘ fun y : Session => if y.num == n then f y else y) = fun y => y.num == n := by
    funext y
    simp only [Function.comp]
    split
    · rw [hf y]
    · rfl
  rw [hp, h, List.map_cons, List.map_nil, if_pos hn]

theorem session?_of_filter {n : Nat} (h : (s.host.sessions.filter fun y => y.num == n) = [x]) : s.session? n = some x := by
  rw [State.session?, ← List.head?_filter, h]
  rfl

/-- The events up to a sequence number leave a session that has lost none. -/
theorem eventsRead_kept {n q : Nat} (hx : s.session? n = some x) (hl : x.evLost = 0) :
    s.eventsRead n q = s.updSession n fun y => { y with events := y.events.filter fun w => decide (q < w.seq) } := by
  unfold State.eventsRead
  dsimp only
  rw [State.session?_updSession, hx, Option.map_some]
  · simp only [hl, decide_true, Bool.true_or, if_true]
  · exact fun _ => rfl

/-- EVENTS_LOST follows where events were discarded and there is room again (R320). -/
theorem eventsRead_lost {n q : Nat} (hx : (s.host.sessions.filter fun y => y.num == n) = [x]) (hl : x.evLost ≠ 0)
    (hroom : (x.events.filter fun w => decide (q < w.seq)).length < 1024) :
    ∃ y m, (s.eventsRead n q).session? n = some y ∧ y.evLost = 0 ∧ y.evSeq = x.evSeq + 1 ∧
      (s.eventsRead n q).host.outbox = s.host.outbox ++ [.event n (x.evSeq + 1) .eventsLost [.num x.evLost] m] ∧
      m.kind = 3 ∧ m.code = 0x800D ∧ m.step = s.stepFor none := by
  have h1 := filter_updSession (f := fun y => { y with events := y.events.filter fun w => decide (q < w.seq) })
    (by exact fun _ => rfl) hx
  have hs1 := session?_of_filter h1
  have h2 := filter_updSession (f := fun y => { y with evLost := 0 }) (by exact fun _ => rfl) h1
  have hn : x.num = n := session?_num (session?_of_filter hx)
  have hrun : s.eventsRead n q = ((s.updSession n fun y => { y with
      events := y.events.filter fun w => decide (q < w.seq) }).updSession n fun y => { y with evLost := 0 }).sendTo
        (fun y => y.num == n) .eventsLost [.num x.evLost] (s.stepFor none) := by
    unfold State.eventsRead
    dsimp only
    rw [hs1]
    dsimp only
    rw [if_neg]
    · rfl
    · simp only [Bool.or_eq_true, decide_eq_true_eq, not_or, Nat.not_le]
      exact ⟨hl, hroom⟩
  rw [hrun]
  generalize hw : ((s.updSession n fun y => { y with events := y.events.filter fun w => decide (q < w.seq) }).updSession n
    fun y => { y with evLost := 0 }) = w at h2
  have hout : w.host.outbox = s.host.outbox := by rw [← hw]; rfl
  generalize hz : ({ x with events := x.events.filter fun w => decide (q < w.seq), evLost := 0 } : Session) = z
  have hz1 : z.events.length < 1024 := by rw [← hz]; exact hroom
  have h3 : (w.host.sessions.filter fun y => y.num == n) = [z] := by rw [h2, ← hz]
  refine ⟨z.push w.time.tick .eventsLost [.num x.evLost] (s.stepFor none),
    w.msgHdr 3 0x800D 0 z.priv (s.stepFor none) (w.destsOf z), ?_, ?_, ?_, ?_, rfl, rfl, rfl⟩
  · have hpush := filter_updSession (s := w) (f := fun y => y.push w.time.tick .eventsLost [.num x.evLost] (s.stepFor none))
      (fun y => by unfold Session.push; split <;> rfl) h3
    exact session?_of_filter hpush
  · unfold Session.push
    rw [if_pos hz1, ← hz]
  · unfold Session.push
    rw [if_pos hz1, ← hz]
  · show w.host.outbox ++ (w.host.sessions.filter _).flatMap _ = _
    rw [h3, hout, List.flatMap_cons, List.flatMap_nil, List.append_nil, State.pushOut, if_pos hz1, State.eventOut]
    have hzn : z.num = n := by rw [← hz]; exact hn
    have hze : z.evSeq = x.evSeq := by rw [← hz]
    rw [hzn, hze]
    rfl

/-! ### Commits and restarts -/

theorem otherCopy_kept (z : Settings) (ok : Bool) : (z.otherCopy ok).committed = z.committed ∧ (z.otherCopy ok).copyB = z.copyB ∧
    (z.otherCopy ok).active = z.active ∧ (z.otherCopy ok).counter = z.counter := by
  unfold Settings.otherCopy
  split <;> exact ⟨rfl, rfl, rfl, rfl⟩

theorem done_set (s : State) (n q code : Nat) (st : Status) (items : List Item) : (s.done n q code st items).set = s.set := by
  obtain ⟨_, _, e⟩ := told_done s n q code st items
  rw [e]

/-- A report while the management harts run leaves the firmware's state. -/
theorem report_fw (h : s.fw.mgmtDown = false) (p : Session → Bool) (code : EvCode) (items : List Item) (core : Option Nat) :
    (s.report p code items core).fw = s.fw := by
  have hl : (if code.inLedger || s.fw.mgmtDown then s.ledger code.num items else s).fw = s.fw := by
    unfold State.ledger
    split <;> rfl
  unfold State.report
  dsimp only
  generalize (if code.inLedger || s.fw.mgmtDown then s.ledger code.num items else s) = v at hl ⊢
  rw [if_neg]
  · exact hl
  · rw [hl, h]
    exact Bool.false_ne_true

/-- Deferred events sent: the list is empty, nothing else of the firmware moves. -/
theorem flushDeferred_kept (s : State) : s.flushDeferred.fw = { s.fw with deferred := [] } ∧ s.flushDeferred.pwr = s.pwr ∧
    s.flushDeferred.sec = s.sec := by
  unfold State.flushDeferred
  refine ⟨?_, ?_, ?_⟩
  · refine foldl_keeps State.fw (fun s e => ?_) s.fw.deferred { s with fw := { s.fw with deferred := [] } }
    rfl
  · refine foldl_keeps State.pwr (fun s e => ?_) s.fw.deferred { s with fw := { s.fw with deferred := [] } }
    rfl
  · refine foldl_keeps State.sec (fun s e => ?_) s.fw.deferred { s with fw := { s.fw with deferred := [] } }
    rfl

theorem sendMsg_net (s : State) (m kind src : Nat) (msg : MgmtMsg) : Net s (s.sendMsg m kind src msg) := by
  unfold State.sendMsg
  split
  · exact net_sendFlit s _ _ _ _ _
  · exact Net.refl s

/-- An arrival moves barriers and messages alone. -/
theorem arriveRegion_kept (s : State) (q : Nat) : (s.arriveRegion q).fw = s.fw ∧ (s.arriveRegion q).pwr = s.pwr ∧
    (s.arriveRegion q).sec = s.sec := by
  unfold State.arriveRegion
  dsimp only
  split
  · exact ⟨rfl, rfl, rfl⟩
  · split
    · exact ⟨rfl, rfl, rfl⟩
    · split
      · obtain ⟨ps, o, e⟩ := sendMsg_net { s with fab := { s.fab with barriers := _ } } s.kol.master 0x06 0 _
        rw [e]
        exact ⟨rfl, rfl, rfl⟩
      · exact ⟨rfl, rfl, rfl⟩

theorem resumeDeferred_kept (s : State) : s.resumeDeferred.fw = s.fw ∧ s.resumeDeferred.pwr = s.pwr ∧
    s.resumeDeferred.sec = s.sec := by
  unfold State.resumeDeferred
  dsimp only
  refine ⟨?_, ?_, ?_⟩
  · exact foldl_keeps State.fw (fun s (b : Barrier) => (arriveRegion_kept s b.seq).1) _ _
  · exact foldl_keeps State.pwr (fun s (b : Barrier) => (arriveRegion_kept s b.seq).2.1) _ _
  · exact foldl_keeps State.sec (fun s (b : Barrier) => (arriveRegion_kept s b.seq).2.2) _ _

/-- The end of a restart (R305, R374). -/
theorem restartComplete_spec {r : Restart} (hr : s.fw.restart = some r) :
    Ends .managementRestartComplete s fun t => t.fw.restart = none ∧ t.fw.mgmtDown = false ∧ t.fw.deferred = [] ∧
      t.pwr.watchdogArmed = true ∧ t.sec.rollback = if r.update && !s.fw.fallback && !s.keyless then
        max s.sec.rollback s.running.security else s.sec.rollback := by
  let w : State := { s with
    fw := { s.fw with restart := none, mgmtDown := false }
    pwr := { s.pwr with watchdogArmed := true } }
  obtain ⟨a1, a2, a3⟩ := flushDeferred_kept w
  obtain ⟨b1, b2, b3⟩ := resumeDeferred_kept w.flushDeferred
  have hfw : w.flushDeferred.resumeDeferred.fw = { s.fw with restart := none, mgmtDown := false, deferred := [] } :=
    b1.trans a1
  have hpwr : w.flushDeferred.resumeDeferred.pwr = { s.pwr with watchdogArmed := true } := b2.trans a2
  have hsec : w.flushDeferred.resumeDeferred.sec = s.sec := b3.trans a3
  have hrun : execManagementRestartComplete s = .next (if r.update then
      State.done (State.firmwareEvent (if w.flushDeferred.resumeDeferred.fw.fallback then w.flushDeferred.resumeDeferred
        else w.flushDeferred.resumeDeferred.burnRollback) (if w.flushDeferred.resumeDeferred.fw.fallback
          then w.flushDeferred.resumeDeferred else w.flushDeferred.resumeDeferred.burnRollback).fw.fallback) r.session r.seq 0x0803
        (if (if w.flushDeferred.resumeDeferred.fw.fallback then w.flushDeferred.resumeDeferred
          else w.flushDeferred.resumeDeferred.burnRollback).fw.fallback then .state else .ok) []
      else w.flushDeferred.resumeDeferred.done r.session r.seq 0x0901 .ok
        [.num w.flushDeferred.resumeDeferred.sec.serial, .flag w.flushDeferred.resumeDeferred.part.cores1104,
          .flag w.flushDeferred.resumeDeferred.part.grade300]) := by
    unfold execManagementRestartComplete
    rw [hr]
    dsimp only
    split <;> rfl
  refine ⟨_, hrun, ?_⟩
  generalize w.flushDeferred.resumeDeferred = z at hfw hpwr hsec ⊢
  have hdown : z.fw.mgmtDown = false := by rw [hfw]
  have out (y : State) (n q code : Nat) (st : Status) (items : List Item) (hy : y.fw = z.fw) (hp : y.pwr = z.pwr) :
      (y.done n q code st items).fw = z.fw ∧ (y.done n q code st items).pwr = z.pwr ∧
        (y.done n q code st items).sec = y.sec := by
    refine ⟨(report_fw (by rw [hy, hdown]) _ _ _ _).trans hy, ?_, ?_⟩
    · exact (told_kept (told_done y n q code st items)).1.trans hp
    · exact (told_kept (told_done y n q code st items)).2.2.2.2.2.2.2.2
  have hkey : z.keyless = s.keyless := by
    unfold State.keyless State.lifecycle
    rw [hsec]
  have hrunning : z.running = s.running := by
    unfold State.running
    rw [hfw]
  have hfall : z.fw.fallback = s.fw.fallback := by rw [hfw]
  cases hu : r.update with
  | false =>
    rw [if_neg Bool.false_ne_true]
    obtain ⟨o1, o2, o3⟩ := out z r.session r.seq 0x0901 .ok [.num z.sec.serial, .flag z.part.cores1104, .flag z.part.grade300]
      rfl rfl
    rw [o1, o2, o3, hfw, hpwr, hsec]
    exact ⟨rfl, rfl, rfl, rfl, rfl⟩
  | true =>
    rw [if_pos rfl]
    generalize hq : (if z.fw.fallback then z else z.burnRollback) = y
    have hy : y.fw = z.fw ∧ y.pwr = z.pwr ∧ y.sec.rollback = if !s.fw.fallback && !s.keyless then
        max s.sec.rollback s.running.security else s.sec.rollback := by
      subst hq
      rw [hfall]
      cases hf : s.fw.fallback with
      | true =>
        rw [if_pos rfl]
        exact ⟨rfl, rfl, by rw [hsec]; rfl⟩
      | false =>
        rw [if_neg Bool.false_ne_true]
        obtain ⟨k1, k2, -, -, k5⟩ := burnRollback_kept z
        refine ⟨k2, k1, ?_⟩
        rw [k5, hkey, hrunning, hsec]
        cases s.keyless <;> rfl
    obtain ⟨h1, h2, h3⟩ := hy
    have he : (y.firmwareEvent y.fw.fallback).fw = z.fw := (report_fw (by rw [h1, hdown]) _ _ _ _).trans h1
    obtain ⟨e1, -, -, -, -, -, -, -, e9⟩ := told_kept (told_notify y .firmware
      [.flag y.fw.runningB, .num y.running.version, .flag y.fw.fallback] none)
    obtain ⟨o1, o2, o3⟩ := out (y.firmwareEvent y.fw.fallback) r.session r.seq 0x0803 (if y.fw.fallback then .state else .ok) []
      he (e1.trans h2)
    rw [o1, o2, o3, hfw, hpwr]
    exact ⟨rfl, rfl, rfl, rfl, (congrArg Security.rollback e9).trans (h3.trans (by simp))⟩

/-! ### The parity walk -/

/-- The buffered writes of each core. -/
def State.buffered (s : State) : List (Nat × List CfgEntry) := s.cores.map fun c => (c.lcore, c.cfg)

theorem buffered_updCoresOf (r : Nat) {f : CoreSt → CoreSt} (hf : ∀ c, (f c).lcore = c.lcore ∧ (f c).cfg = c.cfg) :
    (s.updCoresOf r f).buffered = s.buffered := by
  show (s.cores.map _).map _ = _
  rw [List.map_map]
  refine List.map_congr_left fun c _ => ?_
  simp only [Function.comp]
  split
  · rw [(hf c).1, (hf c).2]
  · rfl

theorem buffered_toStopping (s : State) (r : Nat) (k : EndReason) (g : StopGoal) (cause : Nat) :
    (s.toStopping r k g cause).buffered = s.buffered := by
  obtain ⟨_, _, _, _, _, _, _, e⟩ := (spoken_toStopping s r k g cause).shape
  rw [e]
  rfl

theorem buffered_raiseModule (s : State) (code : FCode) (detail cause : Nat) :
    (s.raiseModule code detail cause).buffered = s.buffered := by
  unfold State.raiseModule State.moduleStop
  dsimp only
  refine (foldl_keeps State.buffered (fun s x => ?_) _ _).trans (congrArg (List.map _) (State.notify_cores _ _ _ _))
  split
  · rfl
  · split
    · rfl
    · refine (buffered_toStopping _ _ _ _ _).trans (buffered_updCoresOf _ ?_)
      exact fun _ => ⟨rfl, rfl⟩
    · refine (buffered_toStopping _ _ _ _ _).trans (buffered_updCoresOf _ ?_)
      exact fun _ => ⟨rfl, rfl⟩

theorem core?_of_buffered {l : Nat} {c : CoreSt} (h : t.buffered = s.buffered) (hc : s.core? l = some c) :
    ∃ d, t.core? l = some d ∧ d.cfg = c.cfg := by
  have find (cs : List CoreSt) : (cs.map fun c => (c.lcore, c.cfg)).find? (fun p => p.1 == l) =
      (cs.find? fun c => c.lcore == l).map fun c => (c.lcore, c.cfg) := List.find?_map ..
  have h1 := find t.cores
  have h2 := find s.cores
  rw [show t.cores.map (fun c => (c.lcore, c.cfg)) = s.cores.map (fun c => (c.lcore, c.cfg)) from h, h2] at h1
  rw [show s.cores.find? (fun c => c.lcore == l) = some c from hc, Option.map_some] at h1
  obtain ⟨d, hd, he⟩ := Option.map_eq_some_iff.mp h1.symm
  exact ⟨d, hd, congrArg Prod.snd he⟩

/-- A mismatch counted: one CONFIG_PARITY record. -/
theorem parityCount_spec (d : Nat) :
    ∃ f, (({ s with glb := { s.glb with parityCount := min (s.glb.parityCount + 1) (2 ^ 32 - 1), parityLast := d } } :
      State).raiseModule .configParity d).glb = { s.glb with
        parityCount := min (s.glb.parityCount + 1) (2 ^ 32 - 1), parityLast := d, faults := s.glb.faults ++ [f] } ∧
      f.code = .configParity ∧ f.detail = d := by
  obtain ⟨⟨f, hf, h1, h2, -⟩, -⟩ := raiseModule_record
    { s with glb := { s.glb with parityCount := min (s.glb.parityCount + 1) (2 ^ 32 - 1), parityLast := d } } .configParity d 1
  exact ⟨f, hf, h1, h2⟩

/-- An acknowledgement in form, from a session whose tag verifies. -/
theorem eventAck_run {k : Hdr} {n : Nat} (hl : s.listening = true) (hb : badHeader 4 k = false)
    (ht : x.priv = true → k.tag = .good) (hx : s.session? k.session = some x) :
    execEventAcknowledge k n s = .next ((s.heard k.port k.source).eventsRead k.session n) := by
  have hb' : badHeader 4 { k with seq := n } = false := hb
  have hx' : (s.heard k.port k.source).session? k.session = some x := hx
  have htag : (x.priv && k.tag != .good) = false := by
    cases hp : x.priv with
    | false => rfl
    | true => rw [ht hp]; rfl
  unfold execEventAcknowledge
  dsimp only
  rw [if_neg (by rw [hl, hb']; decide), hx']
  dsimp only
  rw [htag, if_neg Bool.false_ne_true]

/-- Settles O55: events by `eventsRead_kept` and `eventsRead_lost`, the restart by `restartComplete_spec`, the parity walk by
`parityCount_spec`. -/
theorem managementTimersAct : Obligations.ManagementTimersAct := by
  intro s now seq l p x e c r info h hnow
  have htick := atTick_past hnow
  refine ⟨?_, fun hx hd hle => ?_, fun hx hlt => ?_, fun hx he hd hle htr => ?_, fun k n hl hb => ?_, fun k n hl hb ht => ⟨?_, ?_⟩,
    fun hc => ?_, fun hc => ?_, fun hc => ?_, fun hr hu hf hle => ?_, fun hr => restartComplete_spec hr, fun hlv hu hk => ?_, ?_,
    fun hi hro hcls => ?_, fun d k ha hk => ?_⟩
  · show execHeldCommandExpiry now s = _
    rw [execHeldCommandExpiry, htick]
  · show execSessionIdleTimeout x.num now s = _
    rw [execSessionIdleTimeout, htick]
    simp only [hx, hd, hle, decide_true, Bool.not_false, Bool.and_self, if_true]
    rfl
  · show execSessionIdleTimeout x.num now s = _
    rw [execSessionIdleTimeout, htick]
    simp only [hx, decide_eq_false (Nat.not_le.mpr hlt), Bool.false_and, Bool.false_eq_true, if_false]
  · have hbind : ((s.session? x.num).bind fun x => x.events.find? fun e => e.seq == seq) = some e := by
      rw [hx, Option.bind_some, he]
    have hno : (s.fw.mgmtDown || decide (s.time.tick < e.sent + 100) || decide (30 < e.tries)) = false := by
      simp [hd, hle, htr]
    refine ⟨s.msgHdr 3 e.code.num 0 x.priv e.step (s.destsOf x), rfl, rfl, rfl, rfl, rfl, ?_⟩
    show execEventResend x.num seq now s = _
    rw [execEventResend, htick]
    simp only [hbind, hno, Bool.false_eq_true, if_false]
    rw [State.session?_updSession, hx]
    · rfl
    · exact fun _ => rfl
  · have hb' : badHeader 4 { k with seq := n } = true := hb
    show execEventAcknowledge k n s = _
    unfold execEventAcknowledge
    dsimp only
    rw [if_pos (by rw [hb', Bool.or_true])]
  · intro hx hlost
    show execEventAcknowledge k n s = _
    rw [eventAck_run hl hb ht hx]
    exact congrArg Host.Outcome.next (eventsRead_kept (s := s.heard k.port k.source) hx hlost)
  · intro hx hlost hroom
    obtain ⟨y, m, h1, h2, h3, h4, h5, h6, h7⟩ := eventsRead_lost (s := s.heard k.port k.source) hx hlost hroom
    exact ⟨_, eventAck_run hl hb ht (session?_of_filter hx), y, m, h1, h2, h3, h4, h5, h6, fun hi => h7.trans (stepFor_idle hi)⟩
  · obtain ⟨o1, o2, o3, o4⟩ := otherCopy_kept s.set true
    refine ⟨State.done { s with set := { s.set.otherCopy true with
      committed := c.table, copyB := !(s.set.otherCopy true).copyB
      counter := ((s.set.otherCopy true).counter + 1) % 2 ^ 32, committing := none
      active := overlay (s.set.otherCopy true).active (c.table.filter fun x => 0x09 ≤ x.1) } } c.session c.seq 0x0802 .ok [],
      ?_, ?_⟩
    · show execSettingsCommitComplete .ok s = _
      unfold execSettingsCommitComplete
      rw [hc]
    · dsimp only
      rw [done_set, ← o2, ← o3, ← o4]
      exact ⟨rfl, rfl, rfl, rfl, rfl⟩
  · obtain ⟨o1, o2, o3, o4⟩ := otherCopy_kept s.set false
    have ha := aside_raiseModule { s with set := { s.set.otherCopy false with committing := none } } .authFail
      (packFields [(0, 5), (8, bit false), (9, 0 % 4), (16, c.session % 65536)]) 1
    obtain ⟨⟨f, hf, hcode, -⟩, -⟩ := raiseModule_record { s with set := { s.set.otherCopy false with committing := none } }
      .authFail (packFields [(0, 5), (8, bit false), (9, 0 % 4), (16, c.session % 65536)]) 1
    refine ⟨State.done (State.authFail { s with set := { s.set.otherCopy false with committing := none } } 5 false 0 c.session)
      c.session c.seq 0x0802 .verify [], ?_, ?_⟩
    · show execSettingsCommitComplete .verify s = _
      unfold execSettingsCommitComplete
      rw [hc]
    · dsimp only
      rw [done_set]
      obtain ⟨-, -, -, -, hg, -⟩ := told_kept (told_done (State.authFail
        { s with set := { s.set.otherCopy false with committing := none } } 5 false 0 c.session) c.session c.seq 0x0802 .verify [])
      rw [hg]
      have hset : (State.authFail { s with set := { s.set.otherCopy false with committing := none } } 5 false 0
        c.session).set = { s.set.otherCopy false with committing := none } := ha.set
      rw [hset]
      exact ⟨o1, rfl, o2, o3, f, congrArg Globals.faults hf, hcode⟩
  · obtain ⟨o1, o2, o3, o4⟩ := otherCopy_kept s.set false
    refine ⟨State.done { s with set := { s.set.otherCopy false with committing := none } } c.session c.seq 0x0802 .flash [],
      ?_, ?_⟩
    · show execSettingsCommitComplete .flash s = _
      unfold execSettingsCommitComplete
      rw [hc]
    · dsimp only
      rw [done_set]
      obtain ⟨-, -, -, -, hg, -⟩ := told_kept (told_done { s with set := { s.set.otherCopy false with committing := none } }
        c.session c.seq 0x0802 .flash [])
      rw [hg]
      exact ⟨o1, rfl, o2, o3, rfl⟩
  · show execFirmwareFallback now s = _
    rw [execFirmwareFallback, htick]
    simp only [hr, hu, hf, hle, Bool.not_false, decide_true, Bool.and_self, if_true]
  · show execDebugExpiry now s = _
    have hkeep : (s.keyless && s.powered) = false := by
      rcases hk with hk | hk <;> rw [hk]
      · rfl
      · exact Bool.and_false _
    have hne : (s.sec.level == DbgLevel.closed) = false := by simpa using hlv
    rw [execDebugExpiry, htick, State.debugEnd, if_pos]
    · rw [State.setLevel, hne, Bool.false_and, if_neg Bool.false_ne_true]
      rfl
    · rw [hkeep, bne, hne]
      simp [hu]
  · show execParityWalk now [] s = _
    rw [execParityWalk, htick]
    rfl
  · have hi' : s.regInfo { cls := h.cls, inst := h.inst, off := h.off } = some info := hi
    obtain ⟨f, hf, h1, h2⟩ := parityCount_spec (s := s) (parityDetail h.off h.cls h.inst false)
    generalize hz : State.raiseModule _ .configParity (parityDetail h.off h.cls h.inst false) = z at hf
    have hrun : execParityWalk now [.register h.cls h.inst h.off] s =
        .next { z with glb := { z.glb with walks := (z.glb.walks + 1) % 2 ^ 32 } } := by
      have hcond : ((info.cls == .ro && !(h.cls == 3 && h.off == 0x10)) || decide (5 ≤ h.cls)) = false := by
        simp [hro, hcls]
      rw [execParityWalk, htick]
      simp only [List.foldl_cons, List.foldl_nil, State.parityHit, hi', hcond, Bool.false_eq_true, if_false, hz]
    refine ⟨_, hrun, ?_, ?_, ?_, f, ?_, h1, h2⟩
    all_goals rw [hf]
  · obtain ⟨hcore, halone⟩ := ha
    have hb : ((s.core? l).bind fun c => c.cfg[p]?) = some k := by rw [hcore, Option.bind_some, hk]
    obtain ⟨_, _, e1⟩ := told_ticketMark (s.updCore l fun c => { c with cfg := c.cfg.eraseIdx p }) k.ticket l none
    generalize hu : (s.updCore l fun c => { c with cfg := c.cfg.eraseIdx p }).ticketMark k.ticket l none = u at e1
    have hglb : u.glb = s.glb := by rw [e1]; rfl
    have hcu : u.core? l = some { d with cfg := d.cfg.eraseIdx p } := by
      rw [e1]
      show (s.updCore l fun c => { c with cfg := c.cfg.eraseIdx p }).core? l = _
      rw [State.core?_updCore, hcore]
      · rfl
      · exact fun _ => rfl
    obtain ⟨f, hf, h1, h2⟩ := parityCount_spec (s := u) (parityDetail k.off 0 l true)
    have hbuf := buffered_raiseModule { u with glb := { u.glb with
      parityCount := min (u.glb.parityCount + 1) (2 ^ 32 - 1), parityLast := parityDetail k.off 0 l true } } .configParity
        (parityDetail k.off 0 l true) 1
    obtain ⟨y, hy, hcfg⟩ := core?_of_buffered (l := l) hbuf hcu
    generalize hz : State.raiseModule _ .configParity (parityDetail k.off 0 l true) = z at hf hy
    have hrun : execParityWalk now [.entry l k.off p] s =
        .next { z with glb := { z.glb with walks := (z.glb.walks + 1) % 2 ^ 32 } } := by
      rw [execParityWalk, htick]
      simp only [List.foldl_cons, List.foldl_nil, State.parityHit, hb, bne_self_eq_false, Bool.false_eq_true, if_false, hu, hz]
    refine ⟨_, hrun, ?_, ⟨y, hy, hcfg⟩, f, ?_, h1, h2⟩
    all_goals rw [hf, hglb]

end Sys2Proof.Machine
end

section
/-! PROOFS. The registers (R333, R336, R337, R339, R341, R344, R349, R354): an access that passes its checks, by the
place it names. -/

namespace Sys2Proof.Machine

open Host

/-! ### An access that passes its checks -/

section
variable {s : State} {q : Requester} {g : GA} {loc : RegLoc} {info : RegInfo} {v d : Nat} {i : Indirect}

theorem registerWrite_run (h : s.regWriteCheck (s.viewOf q) g .next v = .ok (loc, info)) :
    execRegisterWrite q g v s = .next (s.regPut q loc info .next v 0) := by
  rw [execRegisterWrite, State.reqWrite, h]
  rfl

/-- A write to IND_DATA takes the path of any register write. -/
theorem indDataWrite_run (h : s.regWriteCheck (s.viewOf q) g .next v = .ok (loc, info)) :
    execIndDataWrite q g v s = .next (s.regPut q loc info .next v 0) := registerWrite_run h

theorem rcFieldRead_run (h : s.regReadCheck (s.viewOf q) g = .ok loc) :
    execRcFieldRead q g s = .next ((s.regReadAt loc (s.viewOf q != .pRead)).1.emit
      (.regRead (s.regReadAt loc (s.viewOf q != .pRead)).2 true)) := by
  rw [execRcFieldRead, State.reqRead, h]
  rfl

/-- A read of IND_DATA takes the path of any clearing read. -/
theorem indDataRead_run (h : s.regReadCheck (s.viewOf q) g = .ok loc) :
    execIndDataRead q g s = .next ((s.regReadAt loc (s.viewOf q != .pRead)).1.emit
      (.regRead (s.regReadAt loc (s.viewOf q != .pRead)).2 true)) := rcFieldRead_run h

/-- The host sees every register of the five addressed classes. -/
theorem readCheck_host (hl : s.regLoc g = some loc) (hi : s.regInfo loc = some info) (hc : loc.cls < 5) :
    s.regReadCheck (s.viewOf .host) g = .ok loc := by
  rw [State.regReadCheck, hl]
  simp only [hi, Nat.not_le.mpr hc, if_false]
  rfl

/-- The host may write every immediate register with a value that it takes. -/
theorem writeCheck_host (hl : s.regLoc g = some loc) (hi : s.regInfo loc = some info) (hcls : info.cls = .i)
    (hp : info.p = 2) (hv : s.regValueOk loc v = true) :
    s.regWriteCheck (s.viewOf .host) g .next v = .ok (loc, info) := by
  have hro : (info.cls == RClass.ro) = false := by rw [hcls]; rfl
  have hw : View.writes .p info = true := by rw [View.writes, hp]; rfl
  have hbad : s.regStateBad loc info .next = false := by rw [State.regStateBad, hcls]
  rw [State.regWriteCheck, hl]
  simp only [hi, hro, show s.viewOf .host = .p from rfl, hw, hv, hbad, Bool.not_true, Bool.false_eq_true, if_false]

/-! ### The backup registers (R354) -/

/-- The place of backup register k. -/
def backupLoc (k : Nat) : RegLoc := { cls := 4, inst := 0, off := 0x100 + 8 * k }

theorem regInfo_backup {k : Nat} (hk : k < 16) : s.regInfo (backupLoc k) = some iInfo := by
  show globalReg (0x100 + 8 * k) = _
  rw [globalReg, if_neg (by omega), if_neg (by omega), if_pos (by omega)]

theorem valueOk_backup {k : Nat} (hk : k < 16) (hv : v < 2 ^ 64) : s.regValueOk (backupLoc k) v = true := by
  show s.globalValueOk (0x100 + 8 * k) v = true
  rw [State.globalValueOk, if_neg (by omega), if_pos (by omega)]
  exact decide_eq_true hv

theorem regPut_backup {k : Nat} (hk : k < 16) (f : ApplyForm) (t : Nat) :
    s.regPut q (backupLoc k) info f v t = { s with glb := { s.glb with backup := s.glb.backup.set k v } } := by
  show s.globalRegPut (0x100 + 8 * k) v = _
  rw [State.globalRegPut, if_neg (by omega), if_pos (by omega), show (0x100 + 8 * k - 0x100) / 8 = k by omega]
  rfl

/-! ### The indirect pair of a die (R341) -/

/-- The place of a die's IND_DATA. -/
def indDataLoc (d : Nat) : RegLoc := { cls := 1, inst := d, off := 0x48 }

theorem regInfo_indData (hd : d < 48) : s.regInfo (indDataLoc d) = some iInfo := by
  show (if d < 48 then dieReg 0x48 else none) = _
  rw [if_pos hd]
  rfl

theorem indirect_of (hi : s.glb.indDie[d]? = some i) : s.indirect 1 d = i := by
  rw [State.indirect, if_pos rfl, hi]
  rfl

theorem updInd_indDie (s : State) (d : Nat) (f : Indirect → Indirect) :
    (s.updInd 1 d f).glb.indDie = s.glb.indDie.modify d f := rfl

theorem indirect_updInd (hi : s.glb.indDie[d]? = some i) (f : Indirect → Indirect) : (s.updInd 1 d f).indirect 1 d = f i := by
  refine indirect_of ?_
  rw [updInd_indDie, List.getElem?_modify, hi]
  simp

/-- Only the listed pair of a die counts where it is changed. -/
theorem updInd_congr (hi : s.glb.indDie[d]? = some i) {f f' : Indirect → Indirect} (h : f i = f' i) :
    s.updInd 1 d f = s.updInd 1 d f' := by
  have hm : s.glb.indDie.modify d f = s.glb.indDie.modify d f' := by
    refine List.ext_getElem? fun j => ?_
    rw [List.getElem?_modify, List.getElem?_modify]
    by_cases hj : d = j
    · subst hj
      simp [hi, h]
    · simp [hj]
  show ({ s with glb := { s.glb with indDie := s.glb.indDie.modify d f } } : State) = _
  rw [hm]
  rfl

/-- A word of an indirect target written: it stands last, and no other is listed under its address. -/
def State.withIndWord (s : State) (cls inst addr v : Nat) : State :=
  { s with glb := { s.glb with
    indWords := (s.glb.indWords.filter fun (w : Nat × Nat × Nat × Nat) => !(w.1 == cls && w.2.1 == inst && w.2.2.1 == addr))
      ++ [(cls, inst, addr, v % 2 ^ 32)] } }

theorem indWord_withIndWord (s : State) (cls inst addr v : Nat) :
    (s.withIndWord cls inst addr v).indWord cls inst addr = v % 2 ^ 32 := by
  have hnone : (s.glb.indWords.filter fun (w : Nat × Nat × Nat × Nat) => !(w.1 == cls && w.2.1 == inst && w.2.2.1 == addr)).find?
      (fun w => w.1 == cls && w.2.1 == inst && w.2.2.1 == addr) = none :=
    List.find?_eq_none.mpr fun w hw hp => by rw [List.mem_filter, hp] at hw; exact absurd hw.2 (by decide)
  rw [State.indWord, State.withIndWord]
  simp only [List.find?_append, hnone, Option.none_or, List.find?_cons, beq_self_eq_true, Bool.and_self]

theorem indWrite_of {n : Nat} (hi : s.indirect 1 d = i) (ht : indTarget 1 i = some n) (v : Nat) :
    s.indWrite 1 d v = (s.withIndWord 1 d i.addr v).updInd 1 d fun i => i.bump n := by
  rw [State.indWrite, hi]
  simp only [ht]
  rfl

theorem indRead_of {n : Nat} (hi : s.indirect 1 d = i) (ht : indTarget 1 i = some n) :
    s.indRead 1 d = (s.updInd 1 d fun i => i.bump n, s.indWord 1 d i.addr) := by
  rw [State.indRead, hi]
  simp only [ht]

theorem indRead_outside (hi : s.indirect 1 d = i) (ht : indTarget 1 i = none) : s.indRead 1 d = (s.indFail 1 d, 0) := by
  rw [State.indRead, hi]
  simp only [ht]

/-- An access outside its target marks the pair and records INDIRECT_RANGE. -/
theorem indFail_spec (hi : s.glb.indDie[d]? = some i) :
    (s.indFail 1 d).indirect 1 d = { i with fault := true } ∧
      (∃ f, (s.indFail 1 d).glb.faults = s.glb.faults ++ [f] ∧ f.code = .indirectRange) ∧ Mail s (s.indFail 1 d) := by
  have hmark := indirect_updInd (f := fun i => { i with fault := true }) hi
  unfold State.indFail State.raiseFree
  generalize hu : s.updInd 1 d (fun i => { i with fault := true }) = u at hmark
  have hhost : u.host = s.host := by rw [← hu]; rfl
  have hfaults : u.glb.faults = s.glb.faults := by rw [← hu]; rfl
  have hmail := mail_raiseModule { u with time := { u.time with draws := u.time.draws + 1 } } .indirectRange
    (Config.freeDetail u.time.draws % 2 ^ 32) 1
  obtain ⟨⟨f, hf, hcode, -⟩, -⟩ := raiseModule_record { u with time := { u.time with draws := u.time.draws + 1 } }
    .indirectRange (Config.freeDetail u.time.draws % 2 ^ 32) 1
  refine ⟨?_, ⟨f, ?_, hcode⟩, ?_⟩
  · rw [State.indirect, hf]
    exact hmark
  · rw [hf, ← hfaults]
  · exact Mail.trans (u := _) (.of_host (t := { u with time := { u.time with draws := u.time.draws + 1 } }) hhost) hmail

end

/-! ### FAULT_COUNT (R344) -/

theorem packFields_cons (a : Nat × Nat) (l : List (Nat × Nat)) : packFields (a :: l) = 2 ^ a.1 * a.2 + packFields l := by
  have hshift : ∀ (l : List (Nat × Nat)) (n : Nat), l.foldl (fun a f => a + 2 ^ f.1 * f.2) n = n + packFields l := by
    intro l
    induction l with
    | nil => exact fun n => rfl
    | cons b l ih =>
      intro n
      have hcons : packFields (b :: l) = 0 + 2 ^ b.1 * b.2 + packFields l := ih _
      rw [List.foldl_cons, ih, hcons]
      omega
  rw [packFields, List.foldl_cons, hshift, Nat.zero_add]

theorem coreRegValue_faultCount (s : State) (c : CoreSt) :
    s.coreRegValue c 0x140 = (if c.bankSel then c.bank1 else c.bank0).length + (if c.bankSel then 32 else 0) + 65536 * c.faultLost := by
  show packFields _ = _
  rw [packFields_cons, packFields_cons, packFields_cons]
  cases c.bankSel
  · simp [bit, packFields]
  · simp [bit, packFields]
    omega

theorem faultCountRead_run {s : State} {l : Nat} {c : CoreSt} (h : Alone s l c) :
    execFaultCountRead l s = .next ((s.updCore l fun _ => c.swapBank).emit
      (.regRead ((if c.bankSel then c.bank1 else c.bank0).length + (if c.bankSel then 32 else 0) + 65536 * c.faultLost) true)) := by
  have hval : s.regValue { cls := 0, inst := l, off := 0x140 } = s.coreRegValue c 0x140 := by
    show (match s.core? l with | some c => s.coreRegValue c 0x140 | none => 0) = _
    rw [h.1]
  have hclear : s.regClear { cls := 0, inst := l, off := 0x140 } = s.updCore l fun _ => c.swapBank := h.updCore_congr rfl
  rw [execFaultCountRead, onCore, h.1]
  dsimp only
  rw [hval, hclear, coreRegValue_faultCount]

theorem parityCount_value (s : State) :
    s.regValue { cls := 4, inst := 0, off := 0x10 } = s.glb.parityCount % 2 ^ 32 + 2 ^ 32 * (s.glb.parityLast % 2 ^ 32) := by
  show packFields _ = _
  rw [packFields_cons, packFields_cons]
  simp [packFields]

/-- Settles O60: checks by `readCheck_host` and `writeCheck_host`, the indirect pair by `indRead_of`, `indWrite_of` and
`indFail_spec`. -/
theorem registersReadAndWrite : Obligations.RegistersReadAndWrite := by
  intro s q g loc info v l d n k c i
  refine ⟨registerWrite_run, fun hl hk hv => ?_, fun ha => ?_, rcFieldRead_run, fun hl => ?_, fun hl hd hi => ?_⟩
  · have hcheck := writeCheck_host (v := v) (loc := backupLoc k) hl (regInfo_backup hk) rfl rfl (valueOk_backup hk hv)
    exact (registerWrite_run hcheck).trans (congrArg Outcome.next (regPut_backup hk .next 0))
  · refine (faultCountRead_run ha).trans ?_
    rfl
  · have hcheck := readCheck_host (info := roInfo) hl rfl (by decide)
    refine (rcFieldRead_run hcheck).trans ?_
    rw [State.regReadAt, if_neg (by decide), parityCount_value]
    rfl
  · have hread := indDataRead_run (readCheck_host (loc := indDataLoc d) hl (regInfo_indData hd) (Nat.lt_of_sub_eq_succ rfl))
    have hat : s.regReadAt (indDataLoc d) (s.viewOf .host != .pRead) = s.indRead 1 d := if_pos rfl
    rw [hat] at hread
    have hpair := indirect_of hi
    refine ⟨fun ht => ?_, fun ht => ?_, fun ht hv => ?_⟩
    · show execIndDataRead .host g s = _
      rw [hread, indRead_of hpair ht]
      exact congrArg (fun u : State => Outcome.next (u.emit (.regRead (s.indWord 1 d i.addr) true))) (updInd_congr hi rfl)
    · obtain ⟨hmark, hf, ⟨more, hout⟩, -⟩ := indFail_spec hi
      rw [indRead_outside hpair ht] at hread
      refine ⟨_, hread, hmark, hf, ?_⟩
      rw [State.emit_outbox, hout, List.append_assoc, List.drop_left]
      exact List.mem_append_right _ (List.mem_singleton_self _)
    · have hval : s.regValueOk (indDataLoc d) v = true := by
        simpa [State.regValueOk, indDataLoc, indValueOk] using hv
      have hwrite := indDataWrite_run (writeCheck_host (loc := indDataLoc d) hl (regInfo_indData hd) rfl rfl hval)
      have hput : s.regPut .host (indDataLoc d) iInfo .next v 0 = s.indWrite 1 d v := by
        show s.indPut 1 d 0x48 v = _
        rw [State.indPut]
        rfl
      rw [hput, indWrite_of hpair ht] at hwrite
      refine ⟨_, hwrite, indirect_updInd (s := s.withIndWord 1 d i.addr v) hi _, ?_, rfl, rfl⟩
      exact (indWord_withIndWord s 1 d i.addr v).trans (Nat.mod_eq_of_lt hv)

end Sys2Proof.Machine
end

section
/-! PROOFS. The memory transport (R325 to R330): the stream that a packet finds, what the turn of a packet leaves, and the
acknowledgements and timers of a stream. -/

namespace Sys2Proof.Machine

open Host

/-! ### The streams of the module -/

section
variable {s t u : State} {a b n : Nat} {y : Stream}

theorem stream_key (h : s.stream? a b = some y) : y.session = a ∧ y.num = b := by
  have hp := List.find?_some h
  rw [Bool.and_eq_true, beq_iff_eq, beq_iff_eq] at hp
  exact hp

theorem stream?_updStream (s : State) (a b : Nat) {f : Stream → Stream} (hf : ∀ z, (f z).session = z.session ∧ (f z).num = z.num)
    (c d : Nat) : (s.updStream a b f).stream? c d =
      (s.stream? c d).map fun z => if z.session == a && z.num == b then f z else z := by
  unfold State.stream? State.updStream
  rw [List.find?_map]
  refine congrArg (Option.map _) (congrFun (congrArg _ (funext fun z => ?_)) _)
  obtain ⟨h1, h2⟩ := hf z
  dsimp only [Function.comp_apply]
  split
  · rw [h1, h2]
  · rfl

theorem stream?_updStream_of (hs : s.stream? a b = some y) {f : Stream → Stream}
    (hf : ∀ z, (f z).session = z.session ∧ (f z).num = z.num) : (s.updStream a b f).stream? a b = some (f y) := by
  obtain ⟨h1, h2⟩ := stream_key hs
  rw [stream?_updStream s a b hf, hs, Option.map_some, h1, h2, beq_self_eq_true, beq_self_eq_true, Bool.and_self, if_pos rfl]

/-- Only the listed stream of a key counts where it is changed. -/
theorem updStream_congr (ha : ∀ z ∈ s.host.streams, z.session = a → z.num = b → z = y) {f g : Stream → Stream} (h : f y = g y) :
    s.updStream a b f = s.updStream a b g := by
  have hmap : (s.host.streams.map fun z => if z.session == a && z.num == b then f z else z) =
      s.host.streams.map fun z => if z.session == a && z.num == b then g z else z := by
    refine List.map_congr_left fun z hz => ?_
    by_cases hk : (z.session == a && z.num == b) = true
    · have hk' := hk
      rw [Bool.and_eq_true, beq_iff_eq, beq_iff_eq] at hk'
      rw [if_pos hk, if_pos hk, ha z hz hk'.1 hk'.2, h]
    · rw [if_neg hk, if_neg hk]
  unfold State.updStream
  rw [hmap]

/-- A stream that awaits a PSN and holds nothing beyond it. -/
def State.Awaits (s : State) (a b n : Nat) : Prop := ∃ z, s.stream? a b = some z ∧ z.next = n ∧ z.ahead = []

/-- The frame of what the end of a packet's access sends: bytes, cores and signals stand, streams await what they did, and
the outbox grows. -/
structure Turn (s t : State) : Prop where
  mem : t.mem = s.mem
  cores : t.cores = s.cores
  fab : t.fab = s.fab
  out : ∃ more, t.host.outbox = s.host.outbox ++ more
  awaits : ∀ a b n, s.Awaits a b n → t.Awaits a b n

theorem Turn.refl (s : State) : Turn s s := ⟨rfl, rfl, rfl, ⟨[], (List.append_nil _).symm⟩, fun _ _ _ h => h⟩

theorem Turn.trans (h : Turn s t) (g : Turn t u) : Turn s u := by
  obtain ⟨m, hm⟩ := h.out
  obtain ⟨k, hk⟩ := g.out
  exact ⟨g.mem.trans h.mem, g.cores.trans h.cores, g.fab.trans h.fab, ⟨m ++ k, by rw [hk, hm, List.append_assoc]⟩,
    fun a b n w => g.awaits a b n (h.awaits a b n w)⟩

theorem turn_updStream (s : State) (a b : Nat) {f : Stream → Stream}
    (hf : ∀ z, (f z).session = z.session ∧ (f z).num = z.num ∧ (f z).next = z.next ∧ (f z).ahead = z.ahead) :
    Turn s (s.updStream a b f) := by
  refine ⟨rfl, rfl, rfl, ⟨[], (List.append_nil _).symm⟩, fun c d n ⟨z, hz, h1, h2⟩ => ?_⟩
  obtain ⟨-, -, k1, k2⟩ := hf z
  refine ⟨_, by rw [stream?_updStream s a b fun z => ⟨(hf z).1, (hf z).2.1⟩, hz, Option.map_some], ?_, ?_⟩
  · split
    · exact k1.trans h1
    · exact h1
  · split
    · exact k2.trans h2
    · exact h2

theorem turn_emit (s : State) (o : Out) : Turn s (s.emit o) := ⟨rfl, rfl, rfl, ⟨_, rfl⟩, fun _ _ _ h => h⟩

theorem turn_sendAck (s : State) (x : Stream) : Turn s (s.sendAck x) := by
  unfold State.sendAck
  dsimp only
  split
  · exact turn_updStream s _ _ fun _ => ⟨rfl, rfl, rfl, rfl⟩
  · refine Turn.trans ?_ (turn_emit _ _)
    exact turn_updStream s _ _ fun _ => ⟨rfl, rfl, rfl, rfl⟩

theorem sendAck_outbox (s : State) {x : Stream} (hx : x.next ≠ 0) :
    (s.sendAck x).host.outbox = s.host.outbox ++ [s.cmtOut x (x.next - 1) 0x05 x.landed 0 []] := by
  rw [State.sendAck, if_neg hx]
  rfl

theorem turn_cmtSend (s : State) (a b kind : Nat) (g : GA) (word : Nat) (data : List Byte) :
    Turn s (s.cmtSend a b kind g word data) := by
  unfold State.cmtSend
  split
  · exact .refl s
  · rename_i x _
    have hupd := turn_updStream s a b (f := fun y => { y with
      ownPsn := y.ownPsn + 1
      own := y.own ++ [{ psn := x.ownPsn, kind := kind, ga := g, word := word, data := data }] }) fun _ => ⟨rfl, rfl, rfl, rfl⟩
    exact hupd.trans (turn_emit _ (s.cmtOut x x.ownPsn kind g word data))

theorem turn_sendData (s : State) (a b n : Nat) (g : GA) (bs : List Byte) : Turn s (s.sendData a b n g bs) := by
  induction n generalizing s g bs with
  | zero => exact .refl s
  | succ n ih =>
    rw [State.sendData]
    split
    · exact .refl s
    · exact (turn_cmtSend s a b _ _ _ _).trans (ih _ _ _)

theorem turn_cmtLanded (s : State) (a b p : Nat) : Turn s (s.cmtLanded a b p) :=
  turn_updStream s a b fun _ => ⟨rfl, rfl, rfl, rfl⟩

theorem turn_noteBytes (s : State) (g : GA) (bs : List Byte) : Turn s (s.noteBytes g bs) := by
  unfold State.noteBytes
  split
  · exact ⟨rfl, rfl, rfl, ⟨[], (List.append_nil _).symm⟩, fun _ _ _ h => h⟩
  · exact .refl s

/-- What a stream sends carries its kind, its address and its bytes. -/
theorem cmtSend_sends (hs : s.stream? a b = some y) (kind : Nat) (g : GA) (word : Nat) (data : List Byte) :
    ∃ psn acked tag, (s.cmtSend a b kind g word data).host.outbox =
      s.host.outbox ++ [.cmt a b psn kind g word data acked tag] := by
  obtain ⟨rfl, rfl⟩ := stream_key hs
  refine ⟨y.ownPsn, (y.next + (2 ^ 32 - 1)) % 2 ^ 32, s.host.sessions.any fun w => w.num == y.session && w.priv, ?_⟩
  have hfind : s.host.streams.find? (fun x => x.session == y.session && x.num == y.num) = some y := hs
  unfold State.cmtSend
  rw [hfind]
  rfl

/-- What has been sent stays sent. -/
theorem Sends.grows {h : CmtHdr} {kind : Nat} {g : GA} {data : List Byte} (hs : Sends s t h kind g data) (ht : Turn t u) :
    Sends s u h kind g data := by
  obtain ⟨psn, word, acked, tag, hmem⟩ := hs
  obtain ⟨more, hout⟩ := ht.out
  refine ⟨psn, word, acked, tag, ?_⟩
  rw [hout]
  by_cases hle : s.host.outbox.length ≤ t.host.outbox.length
  · rw [List.drop_append_of_le_length hle]
    exact List.mem_append_left _ hmem
  · rw [List.drop_eq_nil_of_le (by omega)] at hmem
    exact absurd hmem List.not_mem_nil

/-! ### The turn of a packet (R326) -/

/-- A stream whose awaited packet has been taken. -/
def State.taken (s : State) (x : Stream) : State :=
  s.updStream x.session x.num fun y => { y with
    next := x.next + 1, sinceAck := y.sinceAck + 1, missing := none, nakTries := 0
    ahead := y.ahead.filter fun p => p.1 != x.next }

theorem cmtAhead_awaits (h : s.Awaits a b n) (k port : Nat) : s.cmtAhead k a b port = s := by
  obtain ⟨z, hz, -, hz2⟩ := h
  cases k with
  | zero => rfl
  | succ k =>
    rw [State.cmtAhead, hz]
    simp only [hz2, List.find?_nil]

/-- The acknowledgement after a packet, with none held beyond it. -/
theorem cmtApply_turn (s : State) (x : Stream) (port : Nat) (k : CmtKind) :
    Turn ((s.taken x).cmtStart x port k) (s.cmtApply x port k) := by
  have hap : s.cmtApply x port k = (match ((s.taken x).cmtStart x port k).stream? x.session x.num with
      | some y => if 16 ≤ y.sinceAck then ((s.taken x).cmtStart x port k).sendAck y else (s.taken x).cmtStart x port k
      | none => (s.taken x).cmtStart x port k) := rfl
  rw [hap]
  split
  · split
    · exact turn_sendAck _ _
    · exact .refl _
  · exact .refl _

variable {h : CmtHdr} {x : Session}

theorem onStream_run (on : OnStream s h x y) (f : State → Stream → State) :
    s.onStream h f = f (s.heard h.port h.source) y := by
  have htag : (!s.listening || (x.priv && h.tag != .good)) = false := by
    rw [on.listening]
    cases hp : x.priv with
    | false => rfl
    | true => rw [on.tag hp]; rfl
  have hst : s.cmtStream h = some y := by
    rw [State.cmtStream, on.isOpen]
    simp only [htag, Bool.false_eq_true, if_false, on.stream]
  rw [State.onStream, hst]

/-- A packet in its turn on a stream that holds none beyond it. -/
theorem cmtPacket_inTurn (on : OnStream s h x y) (hc : y.closing = false) (hn : h.psn = y.next) {k : CmtKind}
    (hw : (((s.heard h.port h.source).taken y).cmtStart y h.port k).Awaits h.session h.stream (h.psn + 1)) :
    Turn (((s.heard h.port h.source).taken y).cmtStart y h.port k) (s.cmtPacket h k) ∧ Moved (s.cmtPacket h k) h := by
  have hap := cmtApply_turn (s.heard h.port h.source) y h.port k
  have hrun : s.cmtPacket h k = (s.heard h.port h.source).cmtApply y h.port k := by
    unfold State.cmtPacket
    rw [onStream_run on]
    simp only [hc, Bool.false_eq_true, if_false]
    rw [if_neg (by omega), if_pos hn, cmtAhead_awaits (hap.awaits _ _ _ hw)]
  rw [hrun]
  obtain ⟨z, hz, hz1, -⟩ := hap.awaits _ _ _ hw
  exact ⟨hap, z, hz, hz1⟩

/-- The awaited packet taken, the next one is awaited. -/
theorem taken_stream (on : OnStream s h x y) (ha : y.ahead = []) :
    ((s.heard h.port h.source).taken y).stream? h.session h.stream = some { y with
      next := y.next + 1, sinceAck := y.sinceAck + 1, missing := none, nakTries := 0, ahead := [] } := by
  obtain ⟨h1, h2⟩ := stream_key on.stream
  unfold State.taken
  rw [h1, h2]
  have hupd := stream?_updStream_of (s := s.heard h.port h.source) on.stream (f := fun z => { z with
    next := y.next + 1, sinceAck := z.sinceAck + 1, missing := none, nakTries := 0
    ahead := z.ahead.filter fun p => p.1 != y.next }) fun _ => ⟨rfl, rfl⟩
  rw [hupd, ha, ← h1, ← h2]
  rfl

theorem taken_awaits (on : OnStream s h x y) (ha : y.ahead = []) (hn : h.psn = y.next) :
    ((s.heard h.port h.source).taken y).Awaits h.session h.stream (h.psn + 1) :=
  ⟨_, taken_stream on ha, by rw [hn], rfl⟩

theorem taken_isPriv (on : OnStream s h x y) : ((s.heard h.port h.source).taken y).isPriv h.session = x.priv := by
  have hses : ((s.heard h.port h.source).taken y).session? h.session = some x := on.isOpen
  rw [State.isPriv, hses]

theorem taken_waits (hw : NoneWaits s) : NoneWaits ((s.heard h.port h.source).taken y) := ⟨hw.jobs, hw.cores⟩

/-- An access of no bytes to a stack that serves, at any place. -/
theorem inStack_none (s : State) (g : GA) : InStack s g 0 0 0 := fun i hi => absurd hi (Nat.not_lt_zero i)

end

section
variable {s t : State} {h : CmtHdr} {x : Session} {y : Stream} {g : GA} {bs : List Byte} {n st o : Nat}

/-- The bytes of a packet that land in a stack change its bytes alone. -/
theorem taken_withBytes (hin : InStack s g bs.length st o) :
    (((s.heard h.port h.source).taken y).nextStamp.withBytes g bs) =
      ((s.heard h.port h.source).taken y).nextStamp.withStack (stackPut s.mem.stackMem st o bs) :=
  withBytes_stack (s := ((s.heard h.port h.source).taken y).nextStamp) fun i hi => (hin i hi).1

/-- A write of a privileged session lands its bytes (R327). -/
theorem write_lands (on : OnStream s h x y) (hp : x.priv = true) (ha : y.ahead = []) (hn : h.psn = y.next) (hw : NoneWaits s)
    (hin : InStack s g bs.length st o)
    (ht : ((s.heard h.port h.source).taken y).cmtStart y h.port (.write g bs) = t) :
    t.mem = (s.withBytes g bs).mem ∧ t.cores = s.cores ∧ t.Awaits h.session h.stream (h.psn + 1) := by
  obtain ⟨h1, h2⟩ := stream_key on.stream
  have hacc := access_write (taken_waits hw) (some (.cmt h.session h.stream)) .clean (.cmtWrite h.session h.stream y.next)
    (s := (s.heard h.port h.source).taken y) hin (by simp)
  have hmem := congrArg State.mem (withBytes_stack fun i hi => (hin i hi).1)
  rw [taken_withBytes hin] at hacc
  have hend := (turn_noteBytes (((s.heard h.port h.source).taken y).nextStamp.withStack (stackPut s.mem.stackMem st o bs)) g
    bs).trans (turn_cmtLanded _ h.session h.stream y.next)
  rw [State.cmtStart] at ht
  simp only [h1, h2, taken_isPriv on, hp, if_true] at ht
  rw [hacc] at ht
  subst ht
  exact ⟨hend.mem.trans (hmem.symm), hend.cores, hend.awaits _ _ _ (taken_awaits on ha hn)⟩

/-- A write with an announce puts the announce in flight once its bytes have landed (R252, R328). -/
theorem announce_lands (on : OnStream s h x y) (hp : x.priv = true) (ha : y.ahead = []) (hn : h.psn = y.next) (hw : NoneWaits s)
    (hin : InStack s g bs.length st o) (w : AnnWord)
    (ht : ((s.heard h.port h.source).taken y).cmtStart y h.port (.announce g bs w) = t) :
    t.mem = (s.withBytes g bs).mem ∧ t.cores = s.cores ∧ t.Awaits h.session h.stream (h.psn + 1) ∧
      ∃ k ∈ t.fab.signals, k.lcore = w.lcore ∧ k.tally = w.tally ∧ k.count = w.count ∧ k.issued = s.time.cycle ∧
        k.origin = .host h.session h.stream h.psn := by
  obtain ⟨h1, h2⟩ := stream_key on.stream
  have hacc := access_write (taken_waits hw) (some (.cmt h.session h.stream)) .clean
    (.cmtAnnounce h.session h.stream y.next h.port bs.length w) (s := (s.heard h.port h.source).taken y) hin (by simp)
  have hmem := congrArg State.mem (withBytes_stack fun i hi => (hin i hi).1)
  rw [taken_withBytes hin] at hacc
  have hend := (turn_noteBytes (((s.heard h.port h.source).taken y).nextStamp.withStack (stackPut s.mem.stackMem st o bs)) g
    bs).trans (turn_cmtLanded _ h.session h.stream y.next)
  have htime : ∀ v : State, v.time = s.time → ((v.noteBytes g bs).cmtLanded h.session h.stream y.next).time = s.time := by
    intro v hv
    unfold State.noteBytes
    split
    · exact hv
    · exact hv
  rw [State.cmtStart] at ht
  simp only [h1, h2, taken_isPriv on, hp, if_true] at ht
  rw [hacc] at ht
  subst ht
  refine ⟨hend.mem.trans (hmem.symm), hend.cores, hend.awaits _ _ _ (taken_awaits on ha hn), _,
    List.mem_append_right _ (List.mem_singleton_self _), rfl, rfl, rfl, ?_, ?_⟩
  · exact congrArg Time.cycle (htime _ rfl)
  · rw [hn]

/-- A write of a session that is not privileged lands nothing, and an ERROR packet goes back (R327). -/
theorem write_refused (on : OnStream s h x y) (hp : x.priv = false) (ha : y.ahead = []) (hn : h.psn = y.next)
    (hw : NoneWaits s)
    (ht : ((s.heard h.port h.source).taken y).cmtStart y h.port (.write g bs) = t) :
    t.mem = s.mem ∧ t.cores = s.cores ∧
      t.Awaits h.session h.stream (h.psn + 1) ∧ Sends s t h 0x08 0 [] := by
  obtain ⟨h1, h2⟩ := stream_key on.stream
  have herr := turn_cmtSend ((s.heard h.port h.source).taken y) h.session h.stream 0x08 0
    (FCode.privilege.num + 2 ^ 32 * y.next) []
  obtain ⟨psn, acked, tag, hout⟩ := cmtSend_sends (taken_stream on ha) 0x08 0 (FCode.privilege.num + 2 ^ 32 * y.next) []
  have hcmt : ((s.heard h.port h.source).taken y).cmtError h.session h.stream y.next .privilege =
    ((s.heard h.port h.source).taken y).cmtSend h.session h.stream 0x08 0 (FCode.privilege.num + 2 ^ 32 * y.next) [] := rfl
  rw [State.cmtStart] at ht
  simp only [h1, h2, taken_isPriv on, hp, Bool.false_eq_true, if_false] at ht
  rw [hcmt] at ht
  generalize State.cmtSend _ _ _ _ _ _ _ = v at herr hout ht
  have hv : NoneWaits v := ⟨(congrArg Fabric.jobs herr.fab).trans hw.jobs, by rw [herr.cores, herr.fab]; exact hw.cores⟩
  rw [access_read hv.jobs (some (.cmt h.session h.stream)) .clean (.cmtRead h.session h.stream y.next) (inStack_none v 0) (by simp)] at ht
  subst ht
  have hlast := turn_cmtLanded v.nextStamp h.session h.stream y.next
  refine ⟨hlast.mem.trans herr.mem, hlast.cores.trans herr.cores,
    hlast.awaits _ _ _ (herr.awaits _ _ _ (taken_awaits on ha hn)), psn, FCode.privilege.num + 2 ^ 32 * y.next, acked, tag, ?_⟩
  show _ ∈ List.drop s.host.outbox.length v.host.outbox
  rw [hout]
  show _ ∈ List.drop s.host.outbox.length (s.host.outbox ++ _)
  rw [List.drop_left]
  exact List.mem_singleton_self _

/-- A READ sends the bytes of its address (R329). -/
theorem read_sends (on : OnStream s h x y) (ha : y.ahead = []) (hn : h.psn = y.next) (hw : NoneWaits s) (h0 : 0 < n)
    (hle : n ≤ 8192) (hin : InStack s g n st o)
    (ht : ((s.heard h.port h.source).taken y).cmtStart y h.port (.read g n .clean) = t) :
    t.mem = s.mem ∧ t.cores = s.cores ∧
      t.Awaits h.session h.stream (h.psn + 1) ∧ Sends s t h 0x04 g (s.stackBytes st o n) := by
  obtain ⟨h1, h2⟩ := stream_key on.stream
  have hacc := access_read (taken_waits hw).jobs (some (.cmt h.session h.stream)) .clean (.cmtRead h.session h.stream y.next)
    (s := (s.heard h.port h.source).taken y) hin (by simp)
  generalize hj : ((s.heard h.port h.source).taken y).jobOf (some (.cmt h.session h.stream)) g n none .clean
    (.cmtRead h.session h.stream y.next) = j at hacc
  have hbytes : (j.withGot ((s.heard h.port h.source).taken y) st o n).placed.bytes = s.stackBytes st o n := by
    rw [← hj]
    exact bytes_withGot (s := (s.heard h.port h.source).taken y) (j := ((s.heard h.port h.source).taken y).jobOf
      (some (.cmt h.session h.stream)) g n none .clean (.cmtRead h.session h.stream y.next))
  have hlen : (s.stackBytes st o n).length = n := by rw [State.stackBytes, List.length_map, List.length_range]
  have hne : (s.stackBytes st o n).isEmpty = false := by
    rw [List.isEmpty_eq_false_iff, ← List.length_pos_iff, hlen]
    exact h0
  have htake : (s.stackBytes st o n).take 8192 = s.stackBytes st o n := List.take_of_length_le (by omega)
  have hfin : ((s.heard h.port h.source).taken y).nextStamp.finishJob
      (j.withGot ((s.heard h.port h.source).taken y) st o n).placed =
      (((s.heard h.port h.source).taken y).nextStamp.sendData h.session h.stream (n / 8192 + 1) g
        (s.stackBytes st o n)).cmtLanded h.session h.stream y.next := by
    rw [← hbytes, ← hj]
    rfl
  obtain ⟨psn, acked, tag, hout⟩ := cmtSend_sends (s := ((s.heard h.port h.source).taken y).nextStamp) (taken_stream on ha) 0x04 g
    0 (s.stackBytes st o n)
  have hsend := turn_cmtSend ((s.heard h.port h.source).taken y).nextStamp h.session h.stream 0x04 g 0 (s.stackBytes st o n)
  rw [State.cmtStart] at ht
  simp only [h1, h2] at ht
  rw [hacc, hfin, State.sendData, hne, if_neg Bool.false_ne_true, htake] at ht
  generalize State.cmtSend _ _ _ _ _ _ _ = v at hout hsend ht
  subst ht
  have hrest := (turn_sendData v h.session h.stream (n / 8192) (g + 8192) ((s.stackBytes st o n).drop 8192)).trans
    (turn_cmtLanded _ h.session h.stream y.next)
  obtain ⟨more, hmore⟩ := hrest.out
  refine ⟨hrest.mem.trans hsend.mem, hrest.cores.trans hsend.cores,
    hrest.awaits _ _ _ (hsend.awaits _ _ _ (taken_awaits on ha hn)), psn, 0, acked, tag, ?_⟩
  rw [hmore, hout, List.append_assoc]
  show _ ∈ List.drop s.host.outbox.length (s.host.outbox ++ _)
  rw [List.drop_left]
  exact List.mem_append_left _ (List.mem_singleton_self _)

/-- A FENCE is acknowledged with its own PSN as the landed one (R329). -/
theorem fence_acks (on : OnStream s h x y) (ha : y.ahead = []) (hn : h.psn = y.next) (hw : NoneWaits s)
    (ht : ((s.heard h.port h.source).taken y).cmtStart y h.port .fence = t) :
    t.mem = s.mem ∧ t.cores = s.cores ∧
      t.Awaits h.session h.stream (h.psn + 1) ∧ Sends s t h 0x05 h.psn [] := by
  obtain ⟨h1, h2⟩ := stream_key on.stream
  have hacc := access_read (taken_waits hw).jobs (some (.cmt h.session h.stream)) .clean (.cmtFence h.session h.stream y.next)
    (s := (s.heard h.port h.source).taken y) (inStack_none _ 0) (by simp)
  have hland := stream?_updStream_of (s := ((s.heard h.port h.source).taken y).nextStamp) (taken_stream on ha)
    (f := fun z => { z with landed := if y.next < z.next then y.next else z.landed }) fun _ => ⟨rfl, rfl⟩
  have hlanded := turn_cmtLanded ((s.heard h.port h.source).taken y).nextStamp h.session h.stream y.next
  generalize hv : ((s.heard h.port h.source).taken y).nextStamp.cmtLanded h.session h.stream y.next = v at hlanded
  generalize hz : ({ y with
    next := y.next + 1, sinceAck := y.sinceAck + 1, missing := none, nakTries := 0, ahead := [], landed := y.next } : Stream) = z
  have hst : v.stream? h.session h.stream = some z := by
    rw [← hv, ← hz]
    refine hland.trans ?_
    simp only [Nat.lt_succ_self, if_true]
  rw [State.cmtStart] at ht
  simp only [h1, h2] at ht
  have hfin : ∀ j : Job, j.fin = .cmtFence h.session h.stream y.next →
      ((s.heard h.port h.source).taken y).nextStamp.finishJob j = v.sendAck z := by
    intro j hj
    unfold State.finishJob
    rw [hj]
    dsimp only
    rw [hv, hst]
  rw [hacc, hfin _ rfl] at ht
  have hack := turn_sendAck v z
  subst ht
  refine ⟨hack.mem.trans hlanded.mem, hack.cores.trans hlanded.cores,
    hack.awaits _ _ _ (hlanded.awaits _ _ _ (taken_awaits on ha hn)), y.next, 0, (z.next + (2 ^ 32 - 1)) % 2 ^ 32,
    v.host.sessions.any fun w => w.num == z.session && w.priv, ?_⟩
  have hkey := stream_key hst
  have hnext : z.next = y.next + 1 := by rw [← hz]
  have hland : z.landed = h.psn := by rw [← hz, hn]
  have hout := sendAck_outbox v (x := z) (by omega)
  have hpre : v.host.outbox = s.host.outbox := by rw [← hv]; rfl
  rw [State.cmtOut, hkey.1, hkey.2, hland, hnext, Nat.add_sub_cancel, hpre] at hout
  rw [hout, List.drop_left, hkey.1, hnext]
  exact List.mem_singleton_self _

end

/-! ### The order of packets, acknowledgements and timers -/

section
variable {s : State} {h : CmtHdr} {x : Session} {y : Stream}

/-- A packet of a stream as the module sends it: the tag is that of its session. -/
theorem cmtOut_of (on : OnStream s h x y) (psn kind : Nat) (g : GA) (word : Nat) (data : List Byte) :
    s.cmtOut y psn kind g word data =
      .cmt h.session h.stream psn kind g word data ((y.next + (2 ^ 32 - 1)) % 2 ^ 32) x.priv := by
  obtain ⟨h1, h2⟩ := stream_key on.stream
  have hany : (s.host.sessions.any fun w => w.num == h.session && w.priv) = x.priv := by
    obtain ⟨hmem, hnum⟩ : x ∈ s.host.sessions ∧ x.num = h.session :=
      ⟨List.mem_of_find?_eq_some on.isOpen, by simpa using List.find?_some on.isOpen⟩
    cases hp : x.priv with
    | true => exact List.any_eq_true.mpr ⟨x, hmem, by rw [hnum, hp, beq_self_eq_true, Bool.and_self]⟩
    | false =>
      refine List.any_eq_false.mpr fun w hw hk => ?_
      rw [Bool.and_eq_true, beq_iff_eq] at hk
      rw [on.sole w hw hk.1, hp] at hk
      exact Bool.false_ne_true hk.2
  rw [State.cmtOut, h1, h2, hany]

/-- A stream is open after any other datagram from the same address. -/
theorem OnStream.heard (on : OnStream s h x y) : OnStream (s.heard h.port h.source) h x y :=
  ⟨on.listening, on.isOpen, on.sole, on.tag, on.stream, on.alone⟩

theorem sendAck_of (on : OnStream s h x y) (hy : y.next ≠ 0) : s.sendAck y =
    (s.updStream h.session h.stream fun z => { z with sinceAck := 0 }).emit
      (.cmt h.session h.stream (y.next - 1) 0x05 y.landed 0 [] ((y.next + (2 ^ 32 - 1)) % 2 ^ 32) x.priv) := by
  obtain ⟨h1, h2⟩ := stream_key on.stream
  rw [State.sendAck, if_neg hy, ← cmtOut_of on, h1, h2]
  rfl

/-- The NAK names the first missing PSN, whatever else of the stream has changed. -/
theorem sendNak_of (on : OnStream s h x y) (f : Stream → Stream) :
    (s.updStream h.session h.stream f).sendNak y = (s.updStream h.session h.stream f).emit
      (.cmt h.session h.stream (y.next - 1) 0x06 y.next 0 [] ((y.next + (2 ^ 32 - 1)) % 2 ^ 32) x.priv) := by
  rw [← cmtOut_of on]
  rfl

theorem cmtPacket_run (on : OnStream s h x y) (hc : y.closing = false) (k : CmtKind) : s.cmtPacket h k =
    if h.psn < y.next then (s.heard h.port h.source).sendAck y
    else if h.psn = y.next then ((s.heard h.port h.source).cmtApply y h.port k).cmtAhead 256 h.session h.stream h.port
    else if y.next + 255 < h.psn then s.heard h.port h.source
    else ((s.heard h.port h.source).updStream h.session h.stream fun z => { z with
      ahead := (z.ahead.filter fun p => p.1 != h.psn) ++ [(h.psn, k)], missing := some z.next }).sendNak y := by
  unfold State.cmtPacket
  rw [onStream_run on]
  simp only [hc, Bool.false_eq_true, if_false]

/-- The only packet that the module keeps is sent again (R326). -/
theorem cmtResend_one (on : OnStream s h x y) {p : OwnPkt} (ho : y.own = [p]) {k : Nat} (hk : p.psn = k) (ht : p.tries ≤ 16) :
    s.cmtResend y (fun w => w.psn == k) =
      (s.updStream h.session h.stream fun z => { z with own := [{ p with tries := p.tries + 1 }] }).emit
        (.cmt h.session h.stream k p.kind p.ga p.word p.data ((y.next + (2 ^ 32 - 1)) % 2 ^ 32) x.priv) := by
  obtain ⟨h1, h2⟩ := stream_key on.stream
  have hlimit : (y.own.any fun w => w.psn == k && decide (16 < w.tries)) = false := by
    rw [ho]
    simp [ht]
  have hkept : (y.own.filter fun w => w.psn == k) = [p] := by
    rw [ho]
    simp [hk]
  have hupd : s.updStream y.session y.num (fun z => { z with
      own := z.own.map fun w => if (w.psn == k) = true then { w with tries := w.tries + 1 } else w }) =
      s.updStream h.session h.stream fun z => { z with own := [{ p with tries := p.tries + 1 }] } := by
    rw [h1, h2]
    refine updStream_congr on.alone ?_
    simp [ho, hk]
  unfold State.cmtResend
  rw [hlimit]
  dsimp only
  rw [if_neg Bool.false_ne_true, hkept, hupd, ← cmtOut_of on, List.foldl_cons, List.foldl_nil, hk]
  rfl

/-- A stream that fails begins anew (R329). -/
theorem failStream_spec (on : OnStream s h x y) : (s.failStream y).mem = s.mem ∧ (s.failStream y).cores = s.cores ∧
    (s.failStream y).stream? h.session h.stream = some { session := h.session, num := h.stream } := by
  obtain ⟨h1, h2⟩ := stream_key on.stream
  have hupd := stream?_updStream_of on.stream (f := fun z => { session := z.session, num := z.num }) fun _ => ⟨rfl, rfl⟩
  unfold State.failStream State.tell
  obtain ⟨⟨_, _, _, _, _, _, _, hshape⟩, -⟩ := spoken_report
    (s.updStream y.session y.num fun y => { session := y.session, num := y.num }) (fun x => x.num == y.session) .streamFailed
    (.num y.session :: [.num y.num, .num y.next]) none
  rw [hshape]
  refine ⟨rfl, rfl, ?_⟩
  rw [h1, h2] at hupd ⊢
  exact hupd

end

/-- Settles O59: packets in their turn by `cmtPacket_inTurn`, the others by `cmtPacket_run`, the module's own packets by
`cmtResend_one` and `failStream_spec`. -/
theorem streamPacketsTakeTheirTurn : Obligations.StreamPacketsTakeTheirTurn := by
  intro s h x y g bs n st o k a p on
  have hdown : s.fw.mgmtDown = false := by
    have hl := on.listening
    simp only [State.listening, Bool.and_eq_true, Bool.not_eq_true'] at hl
    exact hl.1.1.1.2
  obtain ⟨h1, h2⟩ := stream_key on.stream
  refine ⟨fun hc => ?_, fun hc => ⟨fun hn ha hw => ⟨fun hp hl hin => ?_, fun hp hl hin => ?_, fun hp hl => ?_,
    fun h0 hle hin => ?_, ?_⟩, fun hlt => ?_, fun hgt hle => ?_, fun hgt => ?_⟩, ?_, fun ho hk ht => ?_, fun hs hn => ?_,
    fun ht hm ho => ?_, fun ht => ?_⟩
  · show Outcome.next (s.cmtPacket h .fence) = _
    unfold State.cmtPacket
    rw [onStream_run on, hc]
    rfl
  · obtain ⟨hmem, hcores, haw⟩ := write_lands on hp ha hn hw hin rfl
    obtain ⟨hturn, hmoved⟩ := cmtPacket_inTurn on hc hn haw
    refine ⟨s.cmtPacket h (.write g bs), ?_, hturn.mem.trans hmem, hturn.cores.trans hcores, hmoved⟩
    exact congrArg Outcome.next (if_neg (Nat.not_lt.mpr hl))
  · obtain ⟨hmem, hcores, haw, hsig⟩ := announce_lands on hp ha hn hw hin a rfl
    obtain ⟨hturn, hmoved⟩ := cmtPacket_inTurn on hc hn haw
    refine ⟨s.cmtPacket h (.announce g bs a), ?_, hturn.mem.trans hmem, hturn.cores.trans hcores, hmoved, ?_⟩
    · exact congrArg Outcome.next (if_neg (Nat.not_lt.mpr hl))
    · rw [hturn.fab]
      exact hsig
  · obtain ⟨hmem, hcores, haw, hsend⟩ := write_refused (g := g) (bs := bs) on hp ha hn hw rfl
    obtain ⟨hturn, hmoved⟩ := cmtPacket_inTurn on hc hn haw
    refine ⟨s.cmtPacket h (.write g bs), ?_, hturn.mem.trans hmem, hturn.cores.trans hcores, hmoved, hsend.grows hturn⟩
    exact congrArg Outcome.next (if_neg (Nat.not_lt.mpr hl))
  · obtain ⟨hmem, hcores, haw, hsend⟩ := read_sends on ha hn hw h0 hle hin rfl
    obtain ⟨hturn, hmoved⟩ := cmtPacket_inTurn on hc hn haw
    exact ⟨s.cmtPacket h (.read g n .clean), rfl, hturn.mem.trans hmem, hturn.cores.trans hcores, hmoved, hsend.grows hturn⟩
  · obtain ⟨hmem, hcores, haw, hsend⟩ := fence_acks on ha hn hw rfl
    obtain ⟨hturn, hmoved⟩ := cmtPacket_inTurn on hc hn haw
    exact ⟨s.cmtPacket h .fence, rfl, hturn.mem.trans hmem, hturn.cores.trans hcores, hmoved, hsend.grows hturn⟩
  · show Outcome.next (s.cmtPacket h .fence) = _
    rw [cmtPacket_run on hc, if_pos hlt, sendAck_of on.heard (by omega)]
  · show Outcome.next (s.cmtPacket h .fence) = _
    rw [cmtPacket_run on hc, if_neg (by omega), if_neg (by omega), if_neg (by omega), sendNak_of on.heard]
  · show Outcome.next (s.cmtPacket h .fence) = _
    rw [cmtPacket_run on hc, if_neg (by omega), if_neg (by omega), if_pos hgt]
  · show Outcome.next (s.onStream h _) = _
    rw [onStream_run on, h1, h2]
  · show Outcome.next (s.onStream h _) = _
    rw [onStream_run on, cmtResend_one on.heard ho hk ht]
  · show execCmtAckTimer h.session h.stream s = _
    have hno : (decide (y.sinceAck = 0) || s.fw.mgmtDown) = false := by rw [hdown, decide_eq_false hs, Bool.or_false]
    rw [execCmtAckTimer, on.stream]
    simp only [hno, Bool.false_eq_true, if_false]
    rw [sendAck_of on hn]
  · show execCmtRetransmitTimer h.session h.stream s = _
    rw [execCmtRetransmitTimer, on.stream]
    simp only [hdown, Bool.false_eq_true, if_false, Nat.not_le.mpr ht, hm, if_true, ho, List.isEmpty_nil]
    rw [sendNak_of on]
  · obtain ⟨hmem, hcores, hst⟩ := failStream_spec on
    refine ⟨s.failStream y, ?_, hmem, hcores, hst⟩
    show execCmtRetransmitTimer h.session h.stream s = _
    rw [execCmtRetransmitTimer, on.stream]
    simp only [hdown, Bool.false_eq_true, if_false, ht, if_true]

end Sys2Proof.Machine
end

section
/-! PROOFS. The order and the privilege of datagrams (R308, R311 to R313), and the commands on firmware, lifecycle, debug level
and domain (R305, R306, R361, R373 to R377, R382 to R384). -/

namespace Sys2Proof.Machine

open Host

variable {s t u : State} {h : Hdr} {x : Session} {c : MbxCmd} {st : Status} {items : List Item} {w : Who}

/-! ### Datagrams out of their turn (R312, R313) -/

/-- Only the listed session of a number counts where the command's session is changed. -/
theorem updSession_noted_congr (ha : ∀ y ∈ s.host.sessions, y.num = h.session → y = x) {f g : Session → Session}
    (hfg : f (x.notedAt s.time.tick h) = g (x.notedAt s.time.tick h)) :
    (s.noted h).updSession h.session f = (s.noted h).updSession h.session g := by
  have hmerge (f : Session → Session) : (s.noted h).updSession h.session f =
      (s.heard h.port h.source).updSession h.session fun y => f (y.notedAt s.time.tick h) := by
    refine updSession_updSession h.session _ f ?_
    exact fun _ => rfl
  have hmap : (s.host.sessions.map fun y => if y.num == h.session then f (y.notedAt s.time.tick h) else y) =
      s.host.sessions.map fun y => if y.num == h.session then g (y.notedAt s.time.tick h) else y := by
    refine List.map_congr_left fun y hy => ?_
    by_cases hn : (y.num == h.session) = true
    · rw [if_pos hn, if_pos hn, ha y hy (beq_iff_eq.mp hn), hfg]
    · rw [if_neg hn, if_neg hn]
  rw [hmerge, hmerge]
  exact congrArg (fun l => ({ s.heard h.port h.source with host := { (s.heard h.port h.source).host with sessions := l } } : State))
    hmap

/-- A datagram of an open session goes to its sequence. -/
theorem deliver_open (hh : Heard s h) (hx : s.session? h.session = some x) (h0 : h.session ≠ 0)
    (ht : x.priv = true → h.tag = .good) (c : MbxCmd) : s.deliver h c =
      if h.seq = x.next then ((s.noted h).perform h c []).performHeld 7 h.session
      else if x.next < h.seq then
        if x.next + 7 < h.seq then (s.noted h).reply h (codeFor h c) .sequence []
        else (s.noted h).updSession h.session fun y => y.hold h c s.time.tick
      else match x.cache.find? fun r => r.seq == h.seq with
        | some r => (s.noted h).reply h (codeFor h c) r.status r.items
        | none => (s.noted h).reply h (codeFor h c) .sequence [] := by
  have htag : (x.priv && h.tag != .good) = false := by
    cases hb : x.priv with
    | false => rfl
    | true => rw [ht hb]; rfl
  have hfind : (s.heard h.port h.source).session? h.session = some x := hx
  unfold State.deliver
  simp only [hh.listening, hh.good, Bool.not_true, Bool.or_self, Bool.false_eq_true, if_false, h0, hfind, htag]
  unfold State.sequenced
  rw [session?_num hx]
  rfl

/-- A command ahead of its turn that is not held yet. -/
theorem hold_new (hn : ∀ e ∈ x.held, e.hdr.seq ≠ h.seq) (c : MbxCmd) (tick : Nat) :
    x.hold h c tick = { x with held := x.held ++ [{ hdr := h, cmd := c, arrived := tick }] } := by
  have hany : (x.held.any fun e => e.hdr.seq == h.seq) = false :=
    List.any_eq_false.mpr fun e he hk => hn e he (beq_iff_eq.mp hk)
  rw [Session.hold, hany, if_neg Bool.false_ne_true]

/-- A further copy of a held command. -/
theorem hold_copy (hn : ∃ e ∈ x.held, e.hdr.seq = h.seq) (c : MbxCmd) (tick : Nat) :
    x.hold h c tick = { x with held := x.held.map fun e =>
      if e.hdr.seq = h.seq then { e with copies := e.copies ++ [copyFrom h] } else e } := by
  obtain ⟨e, he, hs⟩ := hn
  have hany : (x.held.any fun e => e.hdr.seq == h.seq) = true := List.any_eq_true.mpr ⟨e, he, beq_iff_eq.mpr hs⟩
  rw [Session.hold, hany, if_pos rfl]
  simp only [beq_iff_eq]

/-! ### Privilege (R311) -/

/-- What a refusal for want of privilege records (R309). -/
theorem raiseFree_record (s : State) (code : FCode) (cause : Nat) :
    ∃ f, (s.raiseFree code cause).glb.faults = s.glb.faults ++ [f] ∧ f.code = code := by
  obtain ⟨⟨f, hf, hcode, -⟩, -⟩ := raiseModule_record { s with time := { s.time with draws := s.time.draws + 1 } } code
    (Config.freeDetail s.time.draws % 2 ^ 32) cause
  exact ⟨f, congrArg Globals.faults hf, hcode⟩

theorem mail_raiseFree (s : State) (code : FCode) (cause : Nat) : Mail s (s.raiseFree code cause) :=
  Mail.trans (t := { s with time := { s.time with draws := s.time.draws + 1 } }) (.of_host rfl) (mail_raiseModule _ _ _ _)

/-- A command that needs a privileged session is refused in another (R311). -/
theorem answers_privilege {i : Instr} (hin : InTurn s h x) (hi : exec i s = .next (s.deliver h c))
    (hk : privCodes.contains (codeOf c) = true) (hx : x.priv = false) {P : State → Prop}
    (hP : ∀ out, P (((s.noted h).raiseFree .privilege).afterReply out h .privilege [])) : Answers i s h .privilege [] P := by
  have hcode : codeFor h c = codeOf c := by rw [codeFor, hin.heard.code]; rfl
  have hans : (s.noted h).answer { session := h.session, seq := h.seq, priv := x.priv } h c =
      ((s.noted h).raiseFree .privilege, .privilege, []) := by
    unfold State.answer
    simp only [hcode, hk, hx, Bool.or_true, Bool.not_true, Bool.false_eq_true, if_false, Bool.not_false, Bool.and_self, if_true]
  have hm := mail_raiseFree (s.noted h) .privilege 1
  exact answers_of_answer hin hi hans (by decide) hm.out (held_of_mail hin hm) hP

/-! ### Firmware (R305, R306, R374) -/

/-- The image that an allocation holds, as its bytes show it. -/
def State.imageAt (s : State) (g : GA) (n : Nat) (ok : Bool) : ImageView :=
  imageView ((List.range n).map fun k => s.placeByte (s.place (g + k))) ok

/-- The image in flash as an update leaves it. -/
def ImageView.image (v : ImageView) (ok : Bool) : Image :=
  { version := v.version, security := v.security, headerDigest := v.headerDigest, ok := ok }

/-- The state with another inactive image. -/
def State.withImage (s : State) (i : Image) : State := { s with fw := s.fw.putInactive i }

/-- The state that restarts on the image that was inactive. -/
def State.restarting (s : State) (w : Who) : State :=
  { s with
    fw := { s.fw with
      runningB := !s.fw.runningB, fallback := false, mgmtDown := true
      restart := some { since := s.time.tick, update := true, session := w.session, seq := w.seq } }
    set := { s.set with staged := [] }
    pwr := { s.pwr with watchdogArmed := false } }

theorem cmdFirmwareUpdate_eq {g : GA} {n : Nat} (hb : s.updateBusy = false) (ha : s.inAlloc g n = true) (w : Who) (im : ImageArg) :
    s.cmdFirmwareUpdate w g n im =
      if !im.flashOk then (s.withImage ((s.imageAt g n im.sigOk).image (s.imageGood (s.imageAt g n im.sigOk) n && im.flashOk)),
        .flash, [])
      else if !s.imageGood (s.imageAt g n im.sigOk) n then
        ((s.withImage ((s.imageAt g n im.sigOk).image (s.imageGood (s.imageAt g n im.sigOk) n && im.flashOk))).authFail 4
          (s.imageAt g n im.sigOk).trailer.owner (s.imageAt g n im.sigOk).trailer.slot w.session, .verify, [])
      else ((s.withImage ((s.imageAt g n im.sigOk).image (s.imageGood (s.imageAt g n im.sigOk) n && im.flashOk))).restarting w,
        .accepted, []) := by
  unfold State.cmdFirmwareUpdate
  rw [hb, ha]
  rfl

theorem running_of_fw (h : t.fw.calm = s.fw.calm) : t.running = s.running := by
  have hb : t.fw.runningB = s.fw.runningB := (congrArg Firmware.runningB h :)
  have h1 : t.fw.imageA = s.fw.imageA := (congrArg Firmware.imageA h :)
  have h2 : t.fw.imageB = s.fw.imageB := (congrArg Firmware.imageB h :)
  rw [State.running, State.running, hb, h1, h2]

/-- The running image does not change when the other is written. -/
theorem running_withImage (s : State) (i : Image) : (s.withImage i).running = s.running ∧
    (s.withImage i).fw.runningB = s.fw.runningB ∧ (s.withImage i).fw.restart = s.fw.restart := by
  unfold State.withImage Firmware.putInactive State.running
  cases s.fw.runningB with
  | true => simp
  | false => simp

theorem running_restarting (s : State) (i : Image) (w : Who) : ((s.withImage i).restarting w).running = i ∧
    ((s.withImage i).restarting w).fw.runningB = !s.fw.runningB := by
  unfold State.restarting State.withImage Firmware.putInactive State.running
  cases s.fw.runningB with
  | true => simp
  | false => simp

theorem restart_of_idle (hb : s.updateBusy = false) : s.fw.restart = none := by
  simp only [State.updateBusy, Bool.or_eq_false_iff, Option.isSome_eq_false_iff, Option.isNone_iff_eq_none] at hb
  exact hb.2

section
variable {g : GA} {n : Nat} {im : ImageArg} (hin : InTurn s h x) (hp : x.priv = true) (hb : s.updateBusy = false)
  (ha : s.inAlloc g n = true)
include hin hp hb ha

/-- An image that verifies: the management harts restart on it (R305). -/
theorem firmwareUpdate_accepted (hf : im.flashOk = true) (hg : s.imageGood (s.imageAt g n im.sigOk) n = true) :
    Answers (.firmwareUpdate h g n im) s h .accepted [] fun t => t.fw.mgmtDown = true ∧ t.fw.runningB = !s.fw.runningB ∧
      t.set.staged = [] ∧ t.pwr.watchdogArmed = false ∧
      t.fw.restart = some { since := s.time.tick, update := true, session := h.session, seq := h.seq } ∧
      t.running = (s.imageAt g n im.sigOk).image true ∧ t.regions = s.regions ∧ t.cores = s.cores ∧ t.mem = s.mem := by
  have hrun := cmdFirmwareUpdate_eq (s := s.noted h) (g := g) (n := n) hb ha
    { session := h.session, seq := h.seq, priv := x.priv } im
  have hgood : (s.noted h).imageGood ((s.noted h).imageAt g n im.sigOk) n = true := hg
  rw [hf, hgood] at hrun
  obtain ⟨h1, h2⟩ := running_restarting (s.noted h) (((s.noted h).imageAt g n im.sigOk).image true)
    { session := h.session, seq := h.seq, priv := x.priv }
  exact answers_of_mail hin (c := .firmwareUpdate g n im) rfl (fun _ => hp) hrun (by decide) (.of_host rfl)
    fun out => ⟨rfl, h2, rfl, rfl, rfl, h1, rfl, rfl, rfl⟩

/-- An image that does not verify is not run (R374). -/
theorem firmwareUpdate_verify (hf : im.flashOk = true) (hg : s.imageGood (s.imageAt g n im.sigOk) n = false) :
    Answers (.firmwareUpdate h g n im) s h .verify [] fun t => t.fw.runningB = s.fw.runningB ∧ t.fw.restart = none ∧
      t.running = s.running ∧ ∃ f, t.glb.faults = s.glb.faults ++ [f] ∧ f.code = .authFail := by
  have hrun := cmdFirmwareUpdate_eq (s := s.noted h) (g := g) (n := n) hb ha
    { session := h.session, seq := h.seq, priv := x.priv } im
  have hgood : (s.noted h).imageGood ((s.noted h).imageAt g n im.sigOk) n = false := hg
  rw [hf, hgood] at hrun
  obtain ⟨k1, k2, k3⟩ := running_withImage (s.noted h) (((s.noted h).imageAt g n im.sigOk).image (false && true))
  generalize hv : (s.noted h).withImage (((s.noted h).imageAt g n im.sigOk).image (false && true)) = v at hrun k1 k2 k3
  have hmail : Mail (s.noted h) v := .of_host (by rw [← hv]; rfl)
  have hglb : v.glb = s.glb := by rw [← hv]; rfl
  have hfw := raiseModule_fw v .authFail (packFields [(0, 4), (8, bit ((s.noted h).imageAt g n im.sigOk).trailer.owner),
    (9, ((s.noted h).imageAt g n im.sigOk).trailer.slot % 4), (16, h.session % 65536)]) 1
  obtain ⟨⟨f, hfault, hcode, -⟩, -⟩ := raiseModule_record v .authFail
    (packFields [(0, 4), (8, bit ((s.noted h).imageAt g n im.sigOk).trailer.owner),
      (9, ((s.noted h).imageAt g n im.sigOk).trailer.slot % 4), (16, h.session % 65536)]) 1
  refine answers_of_mail hin (c := .firmwareUpdate g n im) rfl (fun _ => hp) hrun (by decide)
    (hmail.trans (mail_raiseModule _ _ _ _)) fun out => ⟨?_, ?_, ?_, f, ?_, hcode⟩
  · exact (congrArg Firmware.runningB hfw :).trans k2
  · exact ((congrArg Firmware.restart hfw :).trans k3).trans (restart_of_idle hb)
  · exact (running_of_fw hfw).trans k1
  · exact (congrArg Globals.faults hfault).trans (by rw [hglb])

/-- A write of the flash that fails (R309). -/
theorem firmwareUpdate_flash (hf : im.flashOk = false) :
    Answers (.firmwareUpdate h g n im) s h .flash [] fun t => t.fw.runningB = s.fw.runningB ∧ t.fw.restart = none ∧
      t.running = s.running ∧ t.glb = s.glb := by
  have hrun := cmdFirmwareUpdate_eq (s := s.noted h) (g := g) (n := n) hb ha
    { session := h.session, seq := h.seq, priv := x.priv } im
  rw [hf] at hrun
  obtain ⟨k1, k2, k3⟩ := running_withImage (s.noted h) (((s.noted h).imageAt g n im.sigOk).image
    ((s.noted h).imageGood ((s.noted h).imageAt g n im.sigOk) n && false))
  exact answers_of_mail hin (c := .firmwareUpdate g n im) rfl (fun _ => hp) hrun (by decide) (.of_host rfl)
    fun out => ⟨k2, k3.trans (restart_of_idle hb), k1, rfl⟩

end

/-- An image that passes every check of Mumetal (R374). -/
theorem imageGood_of {v : ImageView} {n : Nat} (hl : n = 96 + v.bodyLength + 3074) (ho : v.trailer.owner = false)
    (ht : s.trailerCause v.trailer = none) (hb : v.bodyOk = true) (hr : v.reservedOk = true) (h64 : v.security ≤ 64)
    (hs : s.sec.rollback ≤ v.security) : s.imageGood v n = true := by
  rw [State.imageGood, ho, ht, hb, hr, decide_eq_true hl, decide_eq_true h64, decide_eq_true hs]
  rfl

theorem imageGood_old {v : ImageView} {n : Nat} (hs : v.security < s.sec.rollback) : s.imageGood v n = false := by
  rw [State.imageGood, decide_eq_false (p := s.sec.rollback ≤ v.security) (by omega), Bool.and_false]

/-! ### Lifecycle (R376, R377) -/

/-- The state whose lifecycle nonce has been used. -/
def State.nonceUsed (s : State) : State := { s with sec := { s.sec with lcNonce := none } }

theorem nonceLive_of {o : Option (Nat × Nat)} {nonce at_ tick : Nat} (ho : o = some (nonce, at_)) (ht : tick ≤ at_ + 10000) :
    nonceLive o nonce tick = true := by
  rw [ho, nonceLive, beq_self_eq_true, decide_eq_true ht]
  rfl

/-- A LIFECYCLE command whose state admits it. -/
def State.lcMeaning (s : State) (w : Who) (a : LifecycleArg) : Answer :=
  match a with
  | .nonce =>
    ({ s.draw.1 with sec := { s.draw.1.sec with lcNonce := some (s.draw.2, s.draw.1.time.tick) } }, .ok, [.num s.draw.2])
  | .advance target serial nonce o0 o1 map t => s.lcBody w serial nonce fun s => s.lcAdvance w target o0 o1 map t
  | .install serial nonce keyOk t => s.lcBody w serial nonce fun s => s.lcInstall w keyOk t
  | .revoke serial nonce owner slot t => s.lcBody w serial nonce fun s => s.lcRevoke w owner slot t

theorem cmdLifecycle_admitted (hs : s.pwr.state = .standby) (hm : s.pwr.moving = none) (hr : s.fw.restart = none)
    (a : LifecycleArg) : s.cmdLifecycle w a = s.lcMeaning w a := by
  unfold State.cmdLifecycle
  rw [hs, hm, hr]
  rfl

theorem lcBody_live {nonce : Nat} (hl : nonceLive s.sec.lcNonce nonce s.time.tick = true) (f : State → Answer) :
    s.lcBody w s.sec.serial nonce f = f s.nonceUsed := by
  unfold State.lcBody
  simp only [hl, Bool.not_true, Bool.false_eq_true, if_false, bne_self_eq_false]
  rfl

theorem lifecycle_le (s : State) : s.lifecycle = 0 ∨ s.lifecycle = 1 ∨ s.lifecycle = 2 ∨ s.lifecycle = 3 := by
  unfold State.lifecycle
  split
  · exact .inr (.inr (.inr rfl))
  · split
    · exact .inr (.inr (.inl rfl))
    · split
      · exact .inr (.inl rfl)
      · exact .inl rfl

theorem lcAdvance_provisioned {o0 o1 map : Nat} {tr : Option Trailer} (hl : s.lifecycle = 0) (ho : o0 ≠ 0) (hm : map < 256)
    (ht : s.vendorOk tr = true) : s.lcAdvance w 1 o0 o1 map tr = (s.toProvisioned o0 o1 map).advanced w := by
  unfold State.lcAdvance
  have hbad : (decide (o0 = 0) || decide (256 ≤ map)) = false := by simp [ho, hm]
  simp only [hl, hbad, ht, Bool.not_true, Bool.false_eq_true, if_false]

theorem lcAdvance_production {o0 o1 map : Nat} {tr : Option Trailer} (hl : s.lifecycle = 1) (hc : s.sec.cert = true)
    (ho : s.ownerSession w.session = true) : s.lcAdvance w 2 o0 o1 map tr =
      State.advanced { s with sec := { s.sec with lifecycle := s.sec.lifecycle ||| 2 } } w := by
  unfold State.lcAdvance
  simp only [hl, hc, ho, Bool.not_true, Bool.false_eq_true, if_false]

theorem lcAdvance_returned {o0 o1 map : Nat} {tr : Option Trailer} (hl : s.lifecycle ≠ 3)
    (ho : (s.ownerSession w.session || s.vendorOk tr) = true) : s.lcAdvance w 3 o0 o1 map tr = s.toReturned.advanced w := by
  unfold State.lcAdvance
  rcases lifecycle_le s with h | h | h | h
  · simp only [h, ho, Bool.not_true, Bool.false_eq_true, if_false]
  · simp only [h, ho, Bool.not_true, Bool.false_eq_true, if_false]
  · simp only [h, ho, Bool.not_true, Bool.false_eq_true, if_false]
  · exact absurd h hl

/-- A session elevated with an owner key. -/
theorem ownerSession_of {slot : Nat} {v : State} (hv : v.session? h.session = some x) (hx : x.signer = some (true, slot)) :
    v.ownerSession h.session = true := by
  rw [State.ownerSession, hv, Option.bind_some, hx]

section
variable {nonce at_ : Nat} (hin : InTurn s h x) (hp : x.priv = true) (hs : s.pwr.state = .standby) (hm : s.pwr.moving = none)
  (hr : s.fw.restart = none) (hn : s.sec.lcNonce = some (nonce, at_)) (ht : s.time.tick ≤ at_ + 10000)
include hin hp hs hm hr hn ht

/-- An advance that is admitted closes every session and restarts the management harts (R376). -/
theorem advance_answers {v : State} {target o0 o1 map : Nat} {tr : Option Trailer}
    (hadv : (s.noted h).nonceUsed.lcAdvance { session := h.session, seq := h.seq, priv := x.priv } target o0 o1 map tr =
      v.advanced { session := h.session, seq := h.seq, priv := x.priv })
    (hout : v.host.outbox = s.host.outbox) (htick : v.time.tick = s.time.tick) (hserial : v.sec.serial = s.sec.serial)
    (hpart : v.part = s.part) {P : State → Prop} (hP : ∀ t : State, t.sec = v.loseManagement.sec → t.glb = v.glb →
      t.set = v.loseManagement.set → P t) :
    Answers (.lifecycle h (.advance target s.sec.serial nonce o0 o1 map tr)) s h .accepted
      [.num s.sec.serial, .flag s.part.cores1104, .flag s.part.grade300] fun t =>
        (t.host.sessions = [] ∧ t.sec.level = .closed ∧ t.fw.mgmtDown = true ∧
          t.fw.restart = some { since := s.time.tick, update := false, session := h.session, seq := h.seq }) ∧ P t := by
  have hlive : nonceLive (s.noted h).sec.lcNonce nonce (s.noted h).time.tick = true := nonceLive_of hn ht
  have hrun : (s.noted h).cmdLifecycle { session := h.session, seq := h.seq, priv := x.priv }
      (.advance target s.sec.serial nonce o0 o1 map tr) =
      ((v.advanced { session := h.session, seq := h.seq, priv := x.priv }).1, .accepted,
        [.num s.sec.serial, .flag s.part.cores1104, .flag s.part.grade300]) := by
    have hbody := lcBody_live (w := { session := h.session, seq := h.seq, priv := x.priv }) hlive
      fun s => s.lcAdvance { session := h.session, seq := h.seq, priv := x.priv } target o0 o1 map tr
    refine (cmdLifecycle_admitted (s := s.noted h) hs hm hr _).trans (hbody.trans (hadv.trans ?_))
    rw [← hserial, ← hpart]
    rfl
  refine answers_of_run hin (c := .lifecycle (.advance target s.sec.serial nonce o0 o1 map tr)) rfl (fun _ => hp) hrun (by decide) ⟨[], ?_⟩ (held_of_none rfl)
    fun out => ⟨⟨rfl, rfl, rfl, ?_⟩, hP _ rfl rfl rfl⟩
  · rw [List.append_nil, ← hout]
    rfl
  · rw [← htick]
    rfl

/-- A signed body that changes the fuses alone (R376, R377). -/
theorem body_answers {a : LifecycleArg} {f : State → Answer} {v : State}
    (ha : (s.noted h).lcMeaning { session := h.session, seq := h.seq, priv := x.priv } a =
      (s.noted h).lcBody { session := h.session, seq := h.seq, priv := x.priv } s.sec.serial nonce f)
    (hf : f (s.noted h).nonceUsed = (v.done h.session h.seq 0x0901 .ok [], .accepted, [])) (hv : v.host = (s.noted h).host) :
    Answers (.lifecycle h a) s h .accepted [] fun t => t.sec = v.sec := by
  have hlive : nonceLive (s.noted h).sec.lcNonce nonce (s.noted h).time.tick = true := nonceLive_of hn ht
  obtain ⟨-, -, -, -, -, -, -, -, hsec⟩ := told_kept (told_done v h.session h.seq 0x0901 .ok [])
  have hrun := (cmdLifecycle_admitted (s := s.noted h) hs hm hr a).trans (ha.trans ((lcBody_live hlive _).trans hf))
  exact answers_of_mail hin (c := .lifecycle a) rfl (fun _ => hp) hrun (by decide)
    (Mail.trans (t := v) (.of_host hv) (mail_done _ _ _ _ _ _)) fun out => hsec

end

theorem lcInstall_of {tr : Trailer} (hi : s.sec.identity = true) (ho : s.vendorOk (some tr) = true) :
    s.lcInstall w true tr =
      (State.done { s with sec := { s.sec with cert := true } } w.session w.seq 0x0901 .ok [], .accepted, []) := by
  unfold State.lcInstall
  rw [hi, ho]
  rfl

theorem lcRevoke_owner {slot : Nat} {tr : Option Trailer} (h2 : slot < 2)
    (hl : slotsLeft s.sec.owner s.sec.ownerRevoke slot = true)
    (hx : ((s.session? w.session).bind fun x => x.signer) = some (true, 1 - slot)) : s.lcRevoke w true slot tr =
      (State.done { s with sec := { s.sec with ownerRevoke := s.sec.ownerRevoke ||| 2 ^ slot } } w.session w.seq 0x0901 .ok [],
        .accepted, []) := by
  unfold State.lcRevoke
  rw [hl, hx, decide_eq_false (Nat.not_le.mpr h2)]
  simp only [if_true, Bool.not_true, Bool.or_self, Bool.false_eq_true, if_false, bne_self_eq_false]

theorem lcRevoke_vendor {slot : Nat} {tr : Trailer} (h4 : slot < 4)
    (hl : slotsLeft s.sec.vendor s.sec.vendorRevoke slot = true) (ho : s.vendorOk (some tr) = true) (hne : tr.slot ≠ slot) :
    s.lcRevoke w false slot (some tr) =
      (State.done { s with sec := { s.sec with vendorRevoke := s.sec.vendorRevoke ||| 2 ^ slot } } w.session w.seq 0x0901 .ok [],
        .accepted, []) := by
  unfold State.lcRevoke
  rw [hl, ho, decide_eq_false (Nat.not_le.mpr h4)]
  simp only [Bool.false_eq_true, if_false, Bool.not_true, Bool.or_self, Bool.true_and, bne_iff_ne.mpr hne]

/-! ### The debug level (R382 to R384) -/

theorem cmdDebugToken_lower (hk : s.keyless = false ∨ s.pwr.state = .standby) :
    s.cmdDebugToken w .lower = (s.setLevel .closed [], .ok, []) := by
  have hno : (s.keyless && (s.pwr.state == .ready || s.pwr.state == .active)) = false := by
    rcases hk with hk | hk
    · rw [hk, Bool.false_and]
    · rw [hk]
      exact Bool.and_false _
  unfold State.cmdDebugToken
  rw [hno, if_neg Bool.false_ne_true]

theorem setLevel_spec (s : State) (l : DbgLevel) (items : List Item) :
    (s.setLevel l items).sec = { s.sec with level := l } ∧ (s.setLevel l items).time = s.time ∧ Mail s (s.setLevel l items) := by
  unfold State.setLevel
  by_cases hl : (s.sec.level == l && items.isEmpty) = true
  · rw [if_pos hl]
    rw [Bool.and_eq_true, beq_iff_eq] at hl
    refine ⟨?_, rfl, .refl s⟩
    rw [← hl.1]
  · rw [if_neg hl]
    obtain ⟨-, -, -, -, -, ht, -, -, hs⟩ := told_kept (told_ledger { s with sec := { s.sec with level := l } } 3
      (.num l.num :: items))
    exact ⟨hs, ht, Mail.trans (t := { s with sec := { s.sec with level := l } }) (.of_host rfl) (mail_ledger _ _ _)⟩

theorem cmdDebugToken_token {k n nonce : Nat} {ts : List Trailer} (hl : nonceLive s.sec.dbgNonce nonce s.time.tick = true)
    (hs : signersOk s.lifecycle k ts = true) (ht : ∀ t ∈ ts, s.trailerCause t = none) (h0 : 0 < n) (hn : n ≤ 86400000)
    (hk : k = 1 ∨ k = 2) : ∃ items v, s.cmdDebugToken w (.token k n s.sec.serial nonce ts) =
      ({ v with sec := { v.sec with dbgUntil := v.time.tick + n } }, .ok, []) ∧
      v = State.setLevel { s with sec := { s.sec with dbgNonce := none } } (if k = 1 then .observe else .full) items := by
  have hcause : (ts.any fun t => (State.trailerCause { s with sec := { s.sec with dbgNonce := none } } t).isSome) = false := by
    refine List.any_eq_false.mpr fun t hmem => ?_
    have hnone : State.trailerCause { s with sec := { s.sec with dbgNonce := none } } t = none := ht t hmem
    rw [hnone]
    exact Bool.false_ne_true
  have hlife : signersOk (State.lifecycle { s with sec := { s.sec with dbgNonce := none } }) k ts = true := hs
  have hdur : (decide (n = 0) || decide (86400000 < n)) = false := by simp; omega
  have hlev : (decide (k = 0) || decide (3 ≤ k)) = false := by simp; omega
  refine ⟨[.num n] ++ ts.flatMap fun t => [.flag t.owner, .num t.slot], _, ?_, rfl⟩
  unfold State.cmdDebugToken
  simp only [hl, Bool.not_true, Bool.false_eq_true, if_false, bne_self_eq_false, hlife, hcause, hdur, hlev]

/-! ### Discovery anew (R361) -/

theorem cmdRediscover_of (hp : s.powered = true) (hrun : ∀ z ∈ s.regions, z.phase ≠ .running) (hc : s.sec.cert = true)
    (hk : s.keyless = false) (hr : s.pwr.refLocked = true ∨ s.pwr.mayRejoin = true) (hd : s.kol.discovering = none) :
    s.cmdRediscover w = ({ s.leaveDomain with
      pwr := { s.leaveDomain.pwr with refLocked := true, mayRejoin := false }
      kol := { s.leaveDomain.kol with
        discovering := some { since := s.time.tick, verified := [], client := some (w.session, w.seq) } } }, .accepted, []) := by
  have hany : (s.regions.any fun x => x.phase == .running) = false :=
    List.any_eq_false.mpr fun z hz hk => hrun z hz (beq_iff_eq.mp hk)
  have hlock : (s.pwr.refLocked || s.pwr.mayRejoin) = true := by rw [Bool.or_eq_true]; exact hr
  unfold State.cmdRediscover
  rw [hp, hany, hc, hk, hlock, hd]
  rfl

/-- Settles O58: the order of datagrams by `deliver_open`, privilege by `answers_privilege`, firmware by the `firmwareUpdate`
lemmas, lifecycle by `advance_answers` and `body_answers`. -/
theorem moduleCommandsAnswer : Obligations.ModuleCommandsAnswer := by
  intro s h x n k v r im g nonce at_ tr ts e
  refine ⟨fun hb => ?_, fun hh hx h0 ht ha => ?_, fun hin hx => ?_, fun hin hp => ⟨fun hb hal => ?_, fun hst => ?_, fun hst hf => ?_,
    ?_, fun hk => ?_, fun hf hs hc h0 hn hk => ?_, fun hpw hrun hc hkl hr hd => ?_⟩⟩
  · show Outcome.next (s.deliver h .keepalive) = _
    unfold State.deliver
    rw [hb, Bool.or_true, if_pos rfl]
  · have hrun : exec (.keepalive h) s = .next (s.deliver h .keepalive) := rfl
    have hcode : codeFor h .keepalive = 0x0004 := by rw [codeFor, hh.code]; rfl
    rw [hrun, deliver_open hh hx h0 ht, hcode]
    refine ⟨fun hlt hle hn => ?_, fun hlt hle hn => ?_, fun hlt => ?_, fun hlt hfind => ?_⟩
    · rw [if_neg (by omega), if_pos hlt, if_neg (by omega)]
      exact congrArg Outcome.next (updSession_noted_congr ha (hold_new (x := x.notedAt s.time.tick h) hn _ _))
    · rw [if_neg (by omega), if_pos hlt, if_neg (by omega)]
      exact congrArg Outcome.next (updSession_noted_congr ha (hold_copy (x := x.notedAt s.time.tick h) hn _ _))
    · rw [if_neg (by omega), if_pos (by omega), if_pos hlt]
    · rw [if_neg (by omega), if_neg (by omega), hfind]
  · obtain ⟨hcalm, hmem, -⟩ := raiseFree_kept (s.noted h) .privilege 1
    exact answers_privilege hin (c := .powerCap n) rfl rfl hx fun out =>
      ⟨(congrArg Pwr.cap hcalm :), hmem, raiseFree_record (s.noted h) .privilege 1⟩
  · refine ⟨fun hf hl ho ht hbo hre h64 hrb => ?_, fun hf hold => ?_, fun hf => firmwareUpdate_flash hin hp hb hal hf⟩
    · exact firmwareUpdate_accepted hin hp hb hal hf (imageGood_of hl ho ht hbo hre h64 hrb)
    · exact firmwareUpdate_verify hin hp hb hal hf (imageGood_old hold)
  · obtain ⟨hs, hm, hr⟩ := hst
    have hrun := cmdLifecycle_admitted (s := s.noted h) (w := { session := h.session, seq := h.seq, priv := x.priv }) hs hm hr .nonce
    exact answers_of_mail hin (c := .lifecycle .nonce) rfl (fun _ => hp) hrun (by decide) (.of_host rfl) fun out => ⟨rfl, rfl⟩
  · obtain ⟨hs, hm, hr⟩ := hst
    obtain ⟨hn, ht⟩ := hf
    have hsession (hx : x.signer = some (true, r)) : (s.noted h).nonceUsed.ownerSession h.session = true :=
      ownerSession_of (x := x.notedAt s.time.tick h) (noted_session hin.isOpen) hx
    refine ⟨fun hl h0 hv ho => ?_, fun hl hc hx => ?_, fun hl ho => ?_, fun hi ho => ?_, fun hr2 hsl hx => ?_,
      fun hr4 hsl ho hne => ?_⟩
    · exact advance_answers hin hp hs hm hr hn ht (lcAdvance_provisioned (tr := some tr) hl h0 hv ho) rfl rfl rfl rfl
        fun t hsec _ _ => by rw [hsec]; exact ⟨rfl, rfl, rfl, rfl⟩
    · exact advance_answers hin hp hs hm hr hn ht (lcAdvance_production hl hc (hsession hx)) rfl rfl rfl rfl
        fun t hsec _ _ => by rw [hsec]; rfl
    · have hsigned : ((s.noted h).nonceUsed.ownerSession h.session || (s.noted h).nonceUsed.vendorOk (some tr)) = true := by
        rw [Bool.or_eq_true]
        exact ho.symm.imp hsession id
      exact advance_answers hin hp hs hm hr hn ht (lcAdvance_returned hl hsigned) rfl rfl rfl rfl
        fun t hsec hglb hset => by rw [hsec, hglb, hset]; exact ⟨rfl, rfl, rfl, rfl, rfl⟩
    · refine body_answers hin hp hs hm hr hn ht (a := .install s.sec.serial nonce true tr)
        (f := fun s => s.lcInstall { session := h.session, seq := h.seq, priv := x.priv } true tr)
        (v := { (s.noted h).nonceUsed with sec := { (s.noted h).nonceUsed.sec with cert := true } }) rfl ?_ rfl
      exact lcInstall_of hi ho
    · refine body_answers hin hp hs hm hr hn ht (a := .revoke s.sec.serial nonce true r none)
        (f := fun s => s.lcRevoke { session := h.session, seq := h.seq, priv := x.priv } true r none)
        (v := { (s.noted h).nonceUsed with sec := { (s.noted h).nonceUsed.sec with
          ownerRevoke := s.sec.ownerRevoke ||| 2 ^ r } }) rfl ?_ rfl
      refine lcRevoke_owner hr2 hsl ?_
      show ((s.noted h).session? h.session).bind _ = _
      rw [noted_session hin.isOpen]
      exact hx
    · refine body_answers hin hp hs hm hr hn ht (a := .revoke s.sec.serial nonce false r (some tr))
        (f := fun s => s.lcRevoke { session := h.session, seq := h.seq, priv := x.priv } false r (some tr))
        (v := { (s.noted h).nonceUsed with sec := { (s.noted h).nonceUsed.sec with
          vendorRevoke := s.sec.vendorRevoke ||| 2 ^ r } }) rfl ?_ rfl
      exact lcRevoke_vendor hr4 hsl ho hne
  · exact answers_of_mail hin (c := .debugToken .nonce) rfl (fun _ => hp) rfl (by decide) (.of_host rfl) fun out => rfl
  · obtain ⟨hsec, -, hmail⟩ := setLevel_spec (s.noted h) .closed []
    have hrun := cmdDebugToken_lower (s := s.noted h) (w := { session := h.session, seq := h.seq, priv := x.priv }) hk
    exact answers_of_mail hin (c := .debugToken .lower) rfl (fun _ => hp) hrun (by decide) hmail fun out => hsec
  · obtain ⟨hn', ht⟩ := hf
    have hlive : nonceLive (s.noted h).sec.dbgNonce nonce (s.noted h).time.tick = true := nonceLive_of hn' ht
    obtain ⟨its, v, hrun, hv⟩ := cmdDebugToken_token (s := s.noted h)
      (w := { session := h.session, seq := h.seq, priv := x.priv }) hlive hs hc h0 hn hk
    obtain ⟨hsec, htime, hmail⟩ := setLevel_spec { s.noted h with sec := { (s.noted h).sec with dbgNonce := none } }
      (if k = 1 then .observe else .full) its
    rw [← hv] at hsec htime hmail
    refine answers_of_mail hin (c := .debugToken (.token k n s.sec.serial nonce ts)) rfl (fun _ => hp) hrun (by decide)
      (Mail.trans (t := v) (Mail.trans (t := { s.noted h with sec := { (s.noted h).sec with dbgNonce := none } })
        (.of_host rfl) hmail) (.of_host rfl)) fun out => ?_
    show ({ v.sec with dbgUntil := v.time.tick + n } : Security) = _
    rw [hsec, htime]
    rfl
  · have hrun' := cmdRediscover_of (s := s.noted h) (w := { session := h.session, seq := h.seq, priv := x.priv }) hpw hrun hc hkl hr hd
    exact answers_of_mail hin (c := .rediscover) rfl (fun _ => hp) hrun' (by decide) (.of_host rfl)
      fun out => ⟨rfl, rfl, rfl, rfl, rfl, rfl⟩

end Sys2Proof.Machine
end

section
/-! PROOFS. The commands on sessions, streams, allocations and records (R310, R311, R315, R316, R318, R322 to R324, R330, R344,
R354, R378, R380, R390). -/

namespace Sys2Proof.Machine

open Host

variable {s t u : State} {h : Hdr} {x : Session} {c : MbxCmd} {st : Status} {items : List Item} {w : Who}

/-! ### Answers that change nothing, and answers outside a session -/

/-- A command that only reads answers with its items (R315). -/
theorem answers_read {i : Instr} (hin : InTurn s h x) (hi : exec i s = .next (s.deliver h c))
    (hp : privCodes.contains (codeOf c) = true → x.priv = true)
    (hrun : (s.noted h).runCmd { session := h.session, seq := h.seq, priv := x.priv } (h.source, h.udp) c =
      (s.noted h, .ok, items)) : Answers i s h .ok items (HostOnly s) :=
  answers_of_mail hin hi hp hrun (by decide) (.refl _) fun _ => rfl

/-- A command whose code any session may use (R315). -/
theorem priv_of_open (hc : privCodes.contains (codeOf c) = false) : privCodes.contains (codeOf c) = true → x.priv = true :=
  fun h => absurd (hc.symm.trans h) Bool.false_ne_true

theorem open_of_sessionless (hc : sessionless c = true) : privCodes.contains (codeOf c) = false := by
  cases c with
  | sessionOpen | discover => rfl
  | _ => exact absurd hc Bool.false_ne_true

/-- A command that needs no session, outside a session (R307, R315). -/
theorem answers_outside {i : Instr} (hh : Heard s h) (h0 : h.session = 0) (hi : exec i s = .next (s.deliver h c))
    (hc : sessionless c = true)
    (hrun : (s.heard h.port h.source).runCmd { session := 0, seq := h.seq, priv := false } (h.source, h.udp) c = (t, st, items))
    (hout : t.host.outbox = s.host.outbox) {P : State → Prop}
    (hP : ∀ out, P { t with host := { t.host with outbox := out } }) : Answers i s h st items P := by
  have hcode : codeFor h c = codeOf c := by rw [codeFor, hh.code]; rfl
  have hans : (s.heard h.port h.source).answer { session := 0, seq := h.seq, priv := false } h c = (t, st, items) := by
    rw [answer_own hh.code hh.length fun hk => absurd ((open_of_sessionless hc).symm.trans hk) Bool.false_ne_true, hrun]
  have hown : (codeFor h c != codeOf c || !sessionless c) = false := by rw [hcode, bne_self_eq_false, hc]; rfl
  have hknown := codeOf_known c
  rw [← hcode] at hknown
  have hdel : s.deliver h c = t.replyAt s.host.outbox.length
      (t.replyOut 0 h.seq (codeFor h c) false [copyFrom h] st items) := by
    unfold State.deliver
    simp only [hh.listening, hh.good, Bool.not_true, Bool.or_self, Bool.false_eq_true, if_false, h0, if_true]
    unfold State.outside
    simp only [hknown, hown, hans, Bool.not_true, Bool.false_eq_true, if_false]
    rfl
  refine ⟨_, hi.trans (congrArg Outcome.next hdel),
    ⟨t.msgHdr 2 (codeFor h c) st.num false (t.stepFor none) [copyFrom h], [], ?_, ⟨rfl, rfl, rfl⟩⟩, fun hne => absurd h0 hne, hP _⟩
  show t.host.outbox.take _ ++ _ ++ t.host.outbox.drop _ = _
  rw [hout, List.take_length, List.drop_length, List.append_nil, h0]
  rfl

/-! ### Sessions (R310, R311) -/

theorem cmdSessionOpen_free (hl : s.host.sessions.length < 32) (source : Nat × Nat) : s.cmdSessionOpen source =
    ({ s with host := { s.host with
      sessions := s.host.sessions ++
        [{ num := s.host.nextSession, lastTick := s.time.tick, idle := s.setting 0x09, source := source }]
      nextSession := s.host.nextSession + 1 } }, .ok, [.num s.host.nextSession]) :=
  if_neg (Nat.not_le.mpr hl)

theorem cmdSessionOpen_full (hl : 32 ≤ s.host.sessions.length) (source : Nat × Nat) :
    s.cmdSessionOpen source = (s, .sessionLimit, []) := if_pos hl

theorem noted_privCount (s : State) (h : Hdr) : (s.noted h).privCount = s.privCount := by
  unfold State.privCount
  show ((s.host.sessions.map _).filter _).length = _
  rw [List.filter_map, List.length_map]
  refine congrArg (fun p => (List.filter p s.host.sessions).length) (funext fun y => ?_)
  dsimp only [Function.comp_apply]
  split
  · rfl
  · rfl

theorem cmdSessionElevate_nonce (hl : s.privCount < 16) : s.cmdSessionElevate w .nonce =
    (s.draw.1.updSession w.session fun y => { y with nonce := some s.draw.2, nonceAt := s.time.tick }, .ok,
      [.num s.draw.2, .num w.session, .num s.sec.serial]) := by
  rw [State.cmdSessionElevate, if_neg (Nat.not_le.mpr hl)]
  rfl

/-- A trailer that Mumetal accepts (R373). -/
theorem trailerCause_none {tr : Trailer} {digests : List Nat} {revoked : Nat}
    (hsel : (if tr.owner then (s.sec.owner, s.sec.ownerRevoke) else (s.sec.vendor, s.sec.vendorRevoke)) = (digests, revoked))
    (hd : digests[tr.slot]? = some tr.keyDigest) (h0 : tr.owner = true → tr.keyDigest ≠ 0)
    (hr : revoked.testBit tr.slot = false) (hs : tr.sigOk = true) : s.trailerCause tr = none := by
  have hzero : (tr.owner && tr.keyDigest == 0) = false := by
    cases ho : tr.owner with
    | false => rfl
    | true => simpa using h0 ho
  unfold State.trailerCause
  rw [hsel]
  simp only [hd, hzero, hr, hs, bne_self_eq_false, Bool.or_self, Bool.false_eq_true, if_false, Bool.not_true]

/-- An elevation whose nonce and trailer are accepted (R310, R378). -/
theorem cmdSessionElevate_auth {n : Nat} {tr : Trailer} (hx : s.session? w.session = some x) (hn : x.nonce = some n)
    (ht : s.time.tick ≤ x.nonceAt + 10000) (hl : s.privCount < 16) (hk : (tr.owner == s.keyless) = false)
    (hc : s.trailerCause tr = none) : s.cmdSessionElevate w (.auth n tr) =
      ((s.updSession w.session fun y => { y with nonce := none }).updSession w.session fun y =>
        { y with priv := true, signer := some (tr.owner, tr.slot), authFails := 0 }, .ok, []) := by
  have hlimit : (!x.priv && decide (16 ≤ s.privCount)) = false := by
    rw [decide_eq_false (Nat.not_le.mpr hl), Bool.and_false]
  rw [State.cmdSessionElevate]
  simp only [hx, Option.getD_some, hn, Option.isSome_some, ht, decide_true, Bool.and_self, Bool.not_true, Bool.false_eq_true,
    if_false, bne_self_eq_false, hk, hc, hlimit]

/-- A session that has been closed is not found. -/
theorem closeSession_none (s : State) (n : Nat) : (s.closeSession n).session? n = none :=
  List.find?_eq_none.mpr fun y hy hk => by
    have hne := (List.mem_filter.mp hy).2
    rw [bne, hk] at hne
    exact Bool.false_ne_true hne

theorem cmdEventSubscribe_ok {n : Nat} {dests : List EventDest} (hn : n < 2 ^ 32)
    (hd : ∀ d ∈ dests, d.network < 2 ∧ d.port < 65536) (hnd : (dests.map fun d => d.network).Nodup) :
    s.cmdEventSubscribe w n dests = (s.updSession w.session fun x => { x with mask := n, dests := dests }, .ok, []) := by
  have hany : (dests.any fun d => decide (2 ≤ d.network) || decide (65536 ≤ d.port)) = false := by
    refine List.any_eq_false.mpr fun d hmem => ?_
    obtain ⟨h1, h2⟩ := hd d hmem
    rw [decide_eq_false (Nat.not_le.mpr h1), decide_eq_false (Nat.not_le.mpr h2)]
    exact Bool.false_ne_true
  rw [State.cmdEventSubscribe, if_neg]
  rw [hany, decide_eq_false (Nat.not_le.mpr hn), decide_eq_false (not_not.mpr hnd)]
  exact Bool.false_ne_true

/-! ### Streams (R325, R330) -/

theorem cmdStreamOpen_free {n : Nat} (hn : n < 64) (hz : s.stream? w.session n = none) : s.cmdStreamOpen w n =
    ({ s with host := { s.host with streams := s.host.streams ++ [{ session := w.session, num := n }] } }, .ok, []) := by
  rw [State.cmdStreamOpen, if_neg (Nat.not_le.mpr hn), hz]
  rfl

/-- The streams but those of one key. -/
def State.withoutStream (s : State) (a b : Nat) : State :=
  { s with host := { s.host with streams := s.host.streams.filter fun z => !(z.session == a && z.num == b) } }

/-- Streams of a key marked as closing leave; no other does. -/
theorem filter_closed (l : List Stream) (a b : Nat) {f : Stream → Stream}
    (hf : ∀ z, (f z).session = z.session ∧ (f z).num = z.num ∧ (f z).closing = true) :
    ((l.map fun z => if z.session == a && z.num == b then f z else z).filter fun z => !(z.session == a && z.num == b && z.closing)) =
      l.filter fun z => !(z.session == a && z.num == b) := by
  induction l with
  | nil => rfl
  | cons z l ih =>
    obtain ⟨h1, h2, h3⟩ := hf z
    rw [List.map_cons, List.filter_cons, List.filter_cons, ih]
    cases hk : z.session == a && z.num == b with
    | true => simp only [if_true, h1, h2, h3, hk, Bool.and_self, Bool.not_true, Bool.false_eq_true, if_false]
    | false => simp only [Bool.false_eq_true, if_false, hk, Bool.false_and, Bool.not_false, if_true]

/-- A stream on which nothing is on its way closes at once (R330). -/
theorem cmdStreamClose_idle {n : Nat} {z : Stream} (hn : n < 64) (hz : s.stream? w.session n = some z) (hj : s.fab.jobs = []) :
    s.cmdStreamClose w n = ((s.nextStamp.withoutStream w.session n).done w.session w.seq 0x0401 .ok [], .accepted, []) := by
  have hacc := access_read (s := s.updStream w.session n fun x => { x with closing := true, ahead := [], missing := none })
    (g := 0) (st := 0) (o := 0) (n := 0) hj (some (.cmt w.session n)) .clean (.cmtClose w.session n w.seq) (inStack_none _ 0) (by simp)
  have hstreams := filter_closed s.host.streams w.session n (f := fun x => { x with closing := true, ahead := [], missing := none })
    fun _ => ⟨rfl, rfl, rfl⟩
  rw [State.cmdStreamClose, if_neg (Nat.not_le.mpr hn), hz, Option.isNone_some, if_neg Bool.false_ne_true]
  dsimp only
  rw [hacc]
  refine congrArg (fun u : State => (u.done w.session w.seq 0x0401 .ok [], Status.accepted, ([] : List Item))) ?_
  exact congrArg (fun l => ({ s.nextStamp with host := { s.nextStamp.host with streams := l } } : State)) hstreams

/-! ### Allocations (R316) -/

/-- The place that STACK_ALLOC chooses. -/
def State.allocPlace (s : State) (n : Nat) (fixed : Option GA) : Option GA :=
  match fixed with
  | some g => if s.stackRange g n && !(s.occupied none).any (gaMeet (g, n)) then some g else none
  | none => s.freePlace n (s.occupied none)

theorem cmdStackAlloc_eq (n : Nat) (fixed : Option GA) : s.cmdStackAlloc n fixed =
    if n = 0 || n % 8192 != 0 then s.refuse .badArgument
    else if !s.powered then s.refuse .state
    else match s.allocPlace n fixed with
      | none => s.refuse .badArgument
      | some g => ({ s.zeroStack g n with host := { (s.zeroStack g n).host with
          allocs := (s.zeroStack g n).host.allocs ++ [{ ga := g, size := n }] } }, .ok, [.num g]) := rfl

theorem cmdStackAlloc_at {n g : Nat} {fixed : Option GA} (h0 : n ≠ 0) (hm : n % 8192 = 0) (hp : s.powered = true)
    (hg : s.allocPlace n fixed = some g) : s.cmdStackAlloc n fixed =
    ({ s.zeroStack g n with host := { (s.zeroStack g n).host with
      allocs := (s.zeroStack g n).host.allocs ++ [{ ga := g, size := n }] } }, .ok, [.num g]) := by
  have hbad : (decide (n = 0) || n % 8192 != 0) = false := by
    rw [decide_eq_false h0, hm]
    rfl
  rw [cmdStackAlloc_eq, hbad, hp, hg, if_neg Bool.false_ne_true, if_neg (by decide)]

theorem allocPlace_of {n g : Nat} {fixed : Option GA}
    (hg : fixed = some g ∧ s.stackRange g n = true ∧ (s.occupied none).any (gaMeet (g, n)) = false ∨
      fixed = none ∧ s.freePlace n (s.occupied none) = some g) : s.allocPlace n fixed = some g := by
  rcases hg with ⟨rfl, hr, ho⟩ | ⟨rfl, hf⟩
  · rw [State.allocPlace, hr, ho]
    rfl
  · exact hf

theorem cmdStackFree_of {g : Nat} (ha : ∃ a ∈ s.host.allocs, a.ga = g) : s.cmdStackFree g =
    ({ s with host := { s.host with allocs := s.host.allocs.filter fun a => a.ga != g } }, .ok, []) := by
  obtain ⟨a, hmem, he⟩ := ha
  have hany : (s.host.allocs.any fun a => a.ga == g) = true := List.any_eq_true.mpr ⟨a, hmem, beq_iff_eq.mpr he⟩
  rw [State.cmdStackFree, hany]
  rfl

/-! ### Faults and records (R278, R281, R344) -/

/-- The bank of a core that records, with its lost count (R344). -/
def CoreSt.recorded (d : CoreSt) : List Item := (if d.bankSel then d.bank1 else d.bank0).map .fault ++ [.num d.faultLost]

/-- A core's banks swapped where its records are drained. -/
def State.drained (s : State) (drain : Bool) (l : Nat) : State := if drain then s.updCore l CoreSt.swapBank else s

theorem readFaults_of {l : Nat} {d : CoreSt} (hd : s.core? l = some d) (drain : Bool) :
    s.readFaults l drain = (s.drained drain l, d.recorded) := by
  rw [State.readFaults, hd]
  rfl

theorem swapBank_lcore (d : CoreSt) : d.swapBank.lcore = d.lcore := by
  unfold CoreSt.swapBank
  split
  · rfl
  · rfl

/-- The records of distinct cores, read one after another. -/
theorem readFaults_foldl (drain : Bool) (l : List CoreSt) (a : State × List Item) (hn : (l.map fun d => d.lcore).Nodup)
    (hl : ∀ d ∈ l, a.1.core? d.lcore = some d) :
    l.foldl (fun a d => ((a.1.readFaults d.lcore drain).1, a.2 ++ (a.1.readFaults d.lcore drain).2)) a =
      (l.foldl (fun s d => s.drained drain d.lcore) a.1, a.2 ++ l.flatMap CoreSt.recorded) := by
  induction l generalizing a with
  | nil => rw [List.foldl_nil, List.foldl_nil, List.flatMap_nil, List.append_nil]
  | cons d l ih =>
    rw [List.map_cons, List.nodup_cons] at hn
    have hrest : ∀ e ∈ l, (a.1.drained drain d.lcore).core? e.lcore = some e := by
      intro e he
      have hne : d.lcore ≠ e.lcore := fun hk => hn.1 (List.mem_map.mpr ⟨e, he, hk.symm⟩)
      unfold State.drained
      split
      · rw [State.core?_updCore_other a.1 _ swapBank_lcore hne.symm]
        exact hl e (List.mem_cons_of_mem _ he)
      · exact hl e (List.mem_cons_of_mem _ he)
    rw [List.foldl_cons, List.foldl_cons, readFaults_of (hl d List.mem_cons_self) drain, ih _ hn.2 hrest, List.flatMap_cons,
      List.append_assoc]

/-- The state after the records of distinct cores have been read. -/
theorem drained_foldl (l : List CoreSt) (s : State) (hn : (l.map fun d => d.lcore).Nodup) :
    l.foldl (fun s d => s.drained true d.lcore) s =
      { s with cores := s.cores.map fun e => if e.lcore ∈ l.map fun d => d.lcore then e.swapBank else e } := by
  induction l generalizing s with
  | nil =>
    have hid : (s.cores.map fun e => if e.lcore ∈ ([] : List CoreSt).map fun d => d.lcore then e.swapBank else e) = s.cores := by
      simp
    rw [List.foldl_nil, hid]
  | cons d l ih =>
    rw [List.map_cons, List.nodup_cons] at hn
    rw [List.foldl_cons, ih _ hn.2]
    refine congrArg (fun cs => ({ s with cores := cs } : State)) ?_
    show (s.cores.map _).map _ = _
    rw [List.map_map]
    refine List.map_congr_left fun e _ => ?_
    simp only [Function.comp_apply, List.map_cons, List.mem_cons]
    by_cases he : e.lcore = d.lcore
    · have hout : ¬ (CoreSt.swapBank e).lcore ∈ l.map fun d => d.lcore := by rw [swapBank_lcore, he]; exact hn.1
      rw [if_pos (beq_iff_eq.mpr he), if_neg hout, if_pos (.inl he)]
    · have hb : (e.lcore == d.lcore) = false := by simpa using he
      simp only [hb, Bool.false_eq_true, if_false, he, false_or]

theorem core?_of_nodup {d : CoreSt} (hn : (s.cores.map fun d => d.lcore).Nodup) (hd : d ∈ s.cores) :
    s.core? d.lcore = some d := by
  cases hc : s.core? d.lcore with
  | none => exact absurd (beq_self_eq_true d.lcore) (List.find?_eq_none.mp hc d hd)
  | some e => rw [List.inj_on_of_nodup_map hn (List.mem_of_find?_eq_some hc) hd (State.core?_lcore hc)]

/-- FAULT_READ of a region reads every core of it, and swaps the banks of these alone (R344). -/
theorem cmdFaultRead_region {n : Nat} {y : Region} (hy : s.region? n = some y) (hn : (s.cores.map fun d => d.lcore).Nodup)
    (drain : Bool) : s.cmdFaultRead (.region n) drain =
      (if drain then s.updCoresOf n CoreSt.swapBank else s, .ok, (s.coresOf n).flatMap CoreSt.recorded) := by
  have hsub : ((s.coresOf n).map fun d => d.lcore).Nodup := hn.sublist (List.filter_sublist.map _)
  have hfind : ∀ d ∈ s.coresOf n, s.core? d.lcore = some d := fun d hd => core?_of_nodup hn (List.mem_of_mem_filter hd)
  have hread : s.cmdFaultRead (.region n) drain =
      (((s.coresOf n).foldl (fun s d => s.drained drain d.lcore) s), .ok, (s.coresOf n).flatMap CoreSt.recorded) := by
    have hfold := readFaults_foldl drain (s.coresOf n) (s, []) hsub hfind
    rw [List.nil_append] at hfold
    rw [State.cmdFaultRead, hy, Option.isNone_some, if_neg Bool.false_ne_true]
    exact congrArg (fun a : State × List Item => (a.1, Status.ok, a.2)) hfold
  rw [hread]
  cases drain with
  | false =>
    refine congrArg (fun u : State => (u, Status.ok, _)) ?_
    refine foldl_keeps (fun u => u) (fun u d => ?_) (s.coresOf n) s
    rfl
  | true =>
    rw [drained_foldl _ _ hsub, if_pos rfl]
    have hmap : (s.cores.map fun e => if e.lcore ∈ (s.coresOf n).map fun d => d.lcore then e.swapBank else e) =
        s.cores.map fun e => if e.region == n then e.swapBank else e := by
      refine List.map_congr_left fun e he => ?_
      have hiff : e.lcore ∈ ((s.coresOf n).map fun d => d.lcore) ↔ (e.region == n) = true := by
        constructor
        · intro hmem
          obtain ⟨d, hd, hk⟩ := List.mem_map.mp hmem
          obtain ⟨hdm, hdr⟩ := List.mem_filter.mp hd
          rwa [← List.inj_on_of_nodup_map hn hdm he hk]
        · exact fun hr => List.mem_map.mpr ⟨e, List.mem_filter.mpr ⟨he, hr⟩, rfl⟩
      exact if_congr hiff rfl rfl
    exact congrArg (fun cs => (({ s with cores := cs } : State), Status.ok, _)) hmap

/-- A run record of a loaded region that is asked for by its load sequence number (R280, R281). -/
theorem cmdRunRecord_live {n k : Nat} {y : Region} {q : RunRec} (hn : n < 8) (hy : s.region? n = some y) (hr : y.ran = true)
    (hq : y.runRec = some q) (h1 : q.region = n) (h2 : q.loadSeq = k) : s.cmdRunRecord n k = (s, .ok, [.run q]) := by
  unfold State.cmdRunRecord
  rw [if_neg (Nat.not_le.mpr hn), hy]
  simp only [Option.bind_some, hr, if_true, hq, Option.toList_some, List.singleton_append, List.find?_cons, h1, h2,
    beq_self_eq_true, Bool.and_self]

theorem cmdRunRecord_ledger {n k : Nat} {q : RunRec} (hn : n < 8) (hy : s.region? n = none)
    (hq : (s.ledgerRuns.find? fun w => w.region == n && w.loadSeq == k) = some q) : s.cmdRunRecord n k = (s, .ok, [.run q]) := by
  unfold State.cmdRunRecord
  rw [if_neg (Nat.not_le.mpr hn), hy]
  simp only [Option.bind_none, Option.toList_none, List.nil_append, hq]

theorem cmdChoiceLog_of {n l : Nat} {d : CoreSt} (hc : s.core? l = some d) (hr : d.region = n) : s.cmdChoiceLog n l =
    (s.updCore l fun c => { c with choiceLog := [] }, .ok, d.choiceLog.map .entry) := by
  unfold State.cmdChoiceLog
  rw [hc]
  dsimp only
  rw [hr, bne_self_eq_false, if_neg Bool.false_ne_true]

theorem cmdLedgerRead_of {len : Nat} (hl : len ≤ 8192) (off : Nat) : s.cmdLedgerRead off len =
    (s, .ok, ((s.host.ledger.drop off).take len).flatMap fun e => [.num e.seq, .num e.kind, .num e.cycle] ++ e.items) := by
  rw [State.cmdLedgerRead, if_neg (Nat.not_lt.mpr hl)]
  rfl

theorem cmdBackupReg_read {n : Nat} (hn : n < 16) : s.cmdBackupReg n none = (s, .ok, [.num (s.glb.backup.getD n 0)]) := by
  rw [State.cmdBackupReg, if_neg (Nat.not_le.mpr hn)]

theorem cmdBackupReg_write {n v : Nat} (hn : n < 16) (hv : v < 2 ^ 64) : s.cmdBackupReg n (some v) =
    ({ s with glb := { s.glb with backup := s.glb.backup.set n v } }, .ok, []) := by
  rw [State.cmdBackupReg, if_neg (Nat.not_le.mpr hn)]
  dsimp only
  rw [if_neg (Nat.not_le.mpr hv)]
  rfl

/-! ### Settings, and what the module says of itself (R322 to R324, R380) -/

theorem cmdSettingsStage_ok {k v : Nat} (h1 : 1 ≤ k) (h14 : k ≤ 14)
    (hv : settingOk k v (fun j => (keyOf (overlay s.set.committed s.set.staged) j).getD 0) = true) :
    s.cmdSettingsStage k v = ({ s with set := { s.set with staged := setKey s.set.staged k v } }, .ok, []) := by
  have hk : keyOk k = true := by simp [keyOk, h1, h14]
  rw [State.cmdSettingsStage, hk, hv]
  rfl

theorem cmdSettingsCommit_free (hc : s.set.committing = none) (hk : s.keyless = false) : s.cmdSettingsCommit w =
    ({ s with set := { s.set with
      staged := []
      committing := some { session := w.session, seq := w.seq, table := overlay s.set.committed s.set.staged } } },
      .accepted, []) := by
  rw [State.cmdSettingsCommit, hc, hk]
  rfl

/-- ATTEST where the lifecycle admits it: the nonce and the cycle are among its items (R380). -/
theorem cmdAttest_ok {n : Nat} (hn : n < 2 ^ 256) (hl : s.lifecycle = 2 ∨ s.lifecycle = 1 ∧ s.sec.cert = true) :
    ∃ items, s.cmdAttest n = (s, .ok, items) ∧ items.take 4 = [.num 1, .num 2000, .num s.sec.serial, .num s.lifecycle] ∧
      items[7]? = some (.num n) ∧ items[8]? = some (.num s.time.cycle) := by
  have hcond : (s.lifecycle == 2 || (s.lifecycle == 1 && s.sec.cert)) = true := by
    rcases hl with hl | ⟨hl, hc⟩
    · rw [hl]; rfl
    · rw [hl, hc]; rfl
  unfold State.cmdAttest
  rw [if_neg (Nat.not_le.mpr hn), hcond]
  exact ⟨_, rfl, rfl, rfl, rfl⟩

/-! ### The answers in their turn -/

section
variable (hin : InTurn s h x)
include hin

theorem answers_elevateNonce (hl : s.privCount < 16) : Answers (.sessionElevate h .nonce) s h .ok
    [.num (Config.freeNonce s.time.draws), .num h.session, .num s.sec.serial] fun t =>
      ∃ w, t.session? h.session = some w ∧ w.nonce = some (Config.freeNonce s.time.draws) ∧ w.nonceAt = s.time.tick := by
  have hrun := cmdSessionElevate_nonce (s := s.noted h) (w := { session := h.session, seq := h.seq, priv := x.priv })
    (by rw [noted_privCount]; exact hl)
  refine answers_of_mail hin (c := .sessionElevate .nonce) rfl (priv_of_open rfl) hrun (by decide)
    (Mail.trans (t := (s.noted h).draw.1) (.of_host rfl) (mail_updSession h.session ?_)) fun out => ?_
  · exact fun _ => ⟨rfl, rfl⟩
  · rw [afterReply_session, State.session?_updSession]
    · exact ⟨_, congrArg (Option.map _) (congrArg (Option.map _) (noted_session hin.isOpen)), rfl, rfl⟩
    · exact fun _ => rfl

theorem answers_elevate {n : Nat} {tr : Trailer} (hn : x.nonce = some n) (ht : s.time.tick ≤ x.nonceAt + 10000)
    (hl : s.privCount < 16) (hs : tr.sigOk = true)
    (hk : tr.owner = true ∧ tr.keyDigest ≠ 0 ∧ s.keyless = false ∧ s.sec.owner[tr.slot]? = some tr.keyDigest ∧
        s.sec.ownerRevoke.testBit tr.slot = false ∨
      tr.owner = false ∧ s.keyless = true ∧ s.sec.vendor[tr.slot]? = some tr.keyDigest ∧
        s.sec.vendorRevoke.testBit tr.slot = false) :
    Answers (.sessionElevate h (.auth n tr)) s h .ok [] fun t => HostOnly s t ∧
      ∃ w, t.session? h.session = some w ∧ w.priv = true ∧ w.nonce = none ∧ w.signer = some (tr.owner, tr.slot) := by
  have hses := noted_session hin.isOpen
  have hkey : (tr.owner == s.keyless) = false ∧ s.trailerCause tr = none := by
    rcases hk with ⟨ho, h0, hkl, hd, hr⟩ | ⟨ho, hkl, hd, hr⟩
    · exact ⟨by rw [ho, hkl]; rfl, trailerCause_none (by rw [ho]; rfl) hd (fun _ => h0) hr hs⟩
    · exact ⟨by rw [ho, hkl]; rfl, trailerCause_none (by rw [ho]; rfl) hd (fun hw => by rw [ho] at hw; cases hw) hr hs⟩
  have hrun := cmdSessionElevate_auth (s := s.noted h) (w := { session := h.session, seq := h.seq, priv := x.priv }) hses hn ht
    (by rw [noted_privCount]; exact hl) hkey.1 hkey.2
  refine answers_of_mail hin (c := .sessionElevate (.auth n tr)) rfl (priv_of_open rfl) hrun (by decide)
    ((mail_updSession h.session ?_).trans (mail_updSession h.session ?_)) fun out => ⟨rfl, ?_⟩
  · exact fun _ => ⟨rfl, rfl⟩
  · exact fun _ => ⟨rfl, rfl⟩
  · rw [afterReply_session, State.session?_updSession, State.session?_updSession, hses]
    · exact ⟨_, rfl, rfl, rfl, rfl⟩
    · exact fun _ => rfl
    · exact fun _ => rfl

theorem answers_sessionClose : Answers (.sessionClose h) s h .ok [] fun t => HostOnly s t ∧ t.session? h.session = none ∧
    t.host.streams = s.host.streams.filter fun w => w.session != h.session := by
  refine answers_of_run hin (c := .sessionClose) rfl (priv_of_open rfl) (t := (s.noted h).closeSession h.session) rfl (by decide)
    ⟨[], (List.append_nil _).symm⟩ (fun y hy => ?_) fun out => ⟨rfl, ?_, rfl⟩
  · rw [closeSession_none] at hy
    cases hy
  · rw [afterReply_session, closeSession_none]
    rfl

theorem answers_eventSubscribe {n : Nat} {dests : List EventDest} (hn : n < 2 ^ 32)
    (hd : ∀ d ∈ dests, d.network < 2 ∧ d.port < 65536) (hnd : (dests.map fun d => d.network).Nodup) :
    Answers (.eventSubscribe h n dests) s h .ok [] fun t => HostOnly s t ∧
      ∃ w, t.session? h.session = some w ∧ w.mask = n ∧ w.dests = dests := by
  have hrun := cmdEventSubscribe_ok (s := s.noted h) (w := { session := h.session, seq := h.seq, priv := x.priv }) hn hd hnd
  refine answers_of_mail hin (c := .eventSubscribe n dests) rfl (priv_of_open rfl) hrun (by decide)
    (mail_updSession h.session ?_) fun out => ⟨rfl, ?_⟩
  · exact fun _ => ⟨rfl, rfl⟩
  · rw [afterReply_session, State.session?_updSession, noted_session hin.isOpen]
    · exact ⟨_, rfl, rfl, rfl⟩
    · exact fun _ => rfl

theorem answers_streamOpen {n : Nat} (hn : n < 64) (hz : s.stream? h.session n = none) :
    Answers (.streamOpen h n) s h .ok [] fun t => HostOnly s t ∧
      t.host.streams = s.host.streams ++ [{ session := h.session, num := n }] := by
  have hrun := cmdStreamOpen_free (s := s.noted h) (w := { session := h.session, seq := h.seq, priv := x.priv }) hn hz
  exact answers_of_mail hin (c := .streamOpen n) rfl (priv_of_open rfl) hrun (by decide)
    ⟨⟨[], (List.append_nil _).symm⟩, rfl⟩ fun out => ⟨rfl, rfl⟩

theorem answers_streamClose {n : Nat} {z : Stream} (hn : n < 64) (hz : s.stream? h.session n = some z) (hj : s.fab.jobs = []) :
    Answers (.streamClose h n) s h .accepted [] fun t =>
      t.host.streams = (s.host.streams.filter fun w => !(w.session == h.session && w.num == n)) ∧ t.mem = s.mem ∧
      t.kol = s.kol ∧ t.pwr = s.pwr ∧ t.cores = s.cores := by
  have hrun := cmdStreamClose_idle (s := s.noted h) (w := { session := h.session, seq := h.seq, priv := x.priv }) hn hz hj
  obtain ⟨⟨_, _, _, _, _, _, _, hshape⟩, hmail⟩ := spoken_done ((s.noted h).nextStamp.withoutStream h.session n) h.session h.seq
    0x0401 .ok []
  refine answers_of_mail hin (c := .streamClose n) rfl (priv_of_open rfl) hrun (by decide)
    (Mail.trans (t := (s.noted h).nextStamp.withoutStream h.session n) ⟨⟨[], (List.append_nil _).symm⟩, rfl⟩ hmail) fun out => ?_
  rw [hshape]
  exact ⟨rfl, rfl, rfl, rfl, rfl⟩

theorem answers_stackAlloc (hp : x.priv = true) {n g : Nat} {fixed : Option GA} (h0 : n ≠ 0) (hm : n % 8192 = 0)
    (hpw : s.powered = true) (hg : s.allocPlace n fixed = some g) : Answers (.stackAlloc h n fixed) s h .ok [.num g] fun t =>
      t = { s.zeroStack g n with host := t.host } ∧ t.host.allocs = s.host.allocs ++ [{ ga := g, size := n }] := by
  have hplace : (s.noted h).allocPlace n fixed = some g := hg
  have hrun := cmdStackAlloc_at (s := s.noted h) h0 hm hpw hplace
  exact answers_of_mail hin (c := .stackAlloc n fixed) rfl (fun _ => hp) hrun (by decide)
    ⟨⟨[], (List.append_nil _).symm⟩, rfl⟩ fun out => ⟨rfl, rfl⟩

theorem answers_stackFree {g : Nat} (hp : x.priv = true) (ha : ∃ a ∈ s.host.allocs, a.ga = g) :
    Answers (.stackFree h g) s h .ok [] fun t => HostOnly s t ∧ t.host.allocs = s.host.allocs.filter fun a => a.ga != g :=
  answers_of_mail hin (c := .stackFree g) rfl (fun _ => hp) (cmdStackFree_of (s := s.noted h) ha) (by decide)
    ⟨⟨[], (List.append_nil _).symm⟩, rfl⟩ fun out => ⟨rfl, rfl⟩

theorem answers_faultRead_core {l : Nat} {d : CoreSt} (hc : s.core? l = some d) (drain : Bool) :
    Answers (.faultRead h (.core l) drain) s h .ok d.recorded fun t =>
      t = { (if drain then s.updCore l CoreSt.swapBank else s) with host := t.host } := by
  have hrun : (s.noted h).cmdFaultRead (.core l) drain = ((s.noted h).drained drain l, .ok, d.recorded) := by
    have hread := readFaults_of (s := s.noted h) hc drain
    have hcore : (s.noted h).core? l = some d := hc
    unfold State.cmdFaultRead
    dsimp only
    rw [hcore, Option.isNone_some, if_neg Bool.false_ne_true, hread]
  refine answers_of_mail hin (c := .faultRead (.core l) drain) rfl (priv_of_open rfl) hrun (by decide) (.of_host ?_)
    fun out => ?_
  · cases drain
    · rfl
    · rfl
  · cases drain
    · rfl
    · rfl

theorem answers_faultRead_module : Answers (.faultRead h .module true) s h .ok ((s.glb.faults.drop s.glb.faultsRead).map .fault)
    fun t => t = { s with host := t.host, glb := { s.glb with faultsRead := s.glb.faults.length }
                          pwr := { s.pwr with alertFault := false } } := by
  have hrun : (s.noted h).cmdFaultRead .module true = ({ s.noted h with
      glb := { s.glb with faultsRead := s.glb.faults.length }, pwr := { s.pwr with alertFault := false } }, .ok,
      (s.glb.faults.drop s.glb.faultsRead).map .fault) := rfl
  exact answers_of_mail hin (c := .faultRead .module true) rfl (priv_of_open rfl) hrun (by decide) (.of_host rfl) fun out => rfl

theorem answers_faultRead_region {n : Nat} {y : Region} (hy : s.region? n = some y)
    (hn : (s.cores.map fun d => d.lcore).Nodup) (drain : Bool) :
    Answers (.faultRead h (.region n) drain) s h .ok ((s.coresOf n).flatMap CoreSt.recorded) fun t =>
      t = { (if drain then s.updCoresOf n CoreSt.swapBank else s) with host := t.host } := by
  have hrun : (s.noted h).runCmd { session := h.session, seq := h.seq, priv := x.priv } (h.source, h.udp)
      (.faultRead (.region n) drain) = (if drain then (s.noted h).updCoresOf n CoreSt.swapBank else s.noted h, .ok,
        (s.coresOf n).flatMap CoreSt.recorded) := cmdFaultRead_region (s := s.noted h) hy hn drain
  refine answers_of_mail hin (c := .faultRead (.region n) drain) rfl (priv_of_open rfl) hrun (by decide) (.of_host ?_)
    fun out => ?_
  · cases drain
    · rfl
    · rfl
  · cases drain
    · rfl
    · rfl

theorem answers_backupWrite {n v : Nat} (hp : x.priv = true) (hn : n < 16) (hv : v < 2 ^ 64) :
    Answers (.backupReg h n (some v)) s h .ok [] fun t =>
      t = { s with host := t.host, glb := { s.glb with backup := s.glb.backup.set n v } } :=
  answers_of_mail hin (c := .backupReg n (some v)) rfl (fun _ => hp) (cmdBackupReg_write (s := s.noted h) hn hv) (by decide)
    (.of_host rfl) fun out => rfl

theorem answers_settingsStage {k v : Nat} (hp : x.priv = true) (h1 : 1 ≤ k) (h14 : k ≤ 14)
    (hv : settingOk k v (fun j => (keyOf (overlay s.set.committed s.set.staged) j).getD 0) = true) :
    Answers (.settingsStage h k v) s h .ok [] fun t =>
      t = { s with host := t.host, set := { s.set with staged := setKey s.set.staged k v } } :=
  answers_of_mail hin (c := .settingsStage k v) rfl (fun _ => hp) (cmdSettingsStage_ok (s := s.noted h) h1 h14 hv) (by decide)
    (.of_host rfl) fun out => rfl

theorem answers_settingsCommit (hp : x.priv = true) (hc : s.set.committing = none) (hk : s.keyless = false) :
    Answers (.settingsCommit h) s h .accepted [] fun t => t = { s with host := t.host, set := { s.set with
      staged := [], committing := some { session := h.session, seq := h.seq
                                         table := overlay s.set.committed s.set.staged } } } :=
  answers_of_mail hin (c := .settingsCommit) rfl (fun _ => hp) (cmdSettingsCommit_free (s := s.noted h) hc hk) (by decide)
    (.of_host rfl) fun out => rfl

theorem answers_choiceLog {n l : Nat} {d : CoreSt} (hc : s.core? l = some d) (hr : d.region = n) :
    Answers (.choiceLog h n l) s h .ok (d.choiceLog.map .entry) fun t =>
      t = { s.updCore l (fun d => { d with choiceLog := [] }) with host := t.host } :=
  answers_of_mail hin (c := .choiceLog n l) rfl (priv_of_open rfl) (cmdChoiceLog_of (s := s.noted h) hc hr) (by decide)
    (.of_host rfl) fun out => rfl

theorem answers_settingsRead {k : Nat} (h1 : 1 ≤ k) (h14 : k ≤ 14) : Answers (.settingsRead h (some k)) s h .ok
    [match keyOf s.set.committed k with | some v => .num v | none => .flag false,
     match keyOf s.set.staged k with | some v => .num v | none => .flag false] (HostOnly s) := by
  refine answers_read hin (c := .settingsRead (some k)) rfl (priv_of_open rfl) ?_
  have hk : keyOk k = true := by simp [keyOk, h1, h14]
  show (s.noted h).cmdSettingsRead (some k) = _
  unfold State.cmdSettingsRead
  dsimp only
  rw [hk]
  rfl

end

/-- Settles O56: outside a session by `answers_outside`, a command that reads by `answers_read`, each other by its lemma. -/
theorem sessionCommandsAnswer : Obligations.SessionCommandsAnswer := by
  intro s h x n l k v g off len tr dests part c y q z drain
  refine ⟨fun hh h0 => ⟨fun hl => ?_, fun hl => ?_, ?_⟩, fun hin => ?_⟩
  · exact answers_outside hh h0 (c := .sessionOpen) rfl rfl (cmdSessionOpen_free (s := s.heard h.port h.source) hl _) rfl
      fun out => ⟨rfl, rfl, rfl⟩
  · exact answers_outside hh h0 (c := .sessionOpen) rfl rfl (cmdSessionOpen_full (s := s.heard h.port h.source) hl _) rfl
      fun out => ⟨rfl, rfl⟩
  · exact answers_outside hh h0 (c := .discover) rfl rfl rfl rfl fun out => rfl
  refine ⟨answers_read hin (c := .keepalive) rfl (priv_of_open rfl) rfl, answers_elevateNonce hin,
    fun hn ht hl hs => answers_elevate hin hn ht hl hs, answers_sessionClose hin, answers_eventSubscribe hin,
    answers_read hin (c := .discover) rfl (priv_of_open rfl) rfl, answers_read hin (c := .inventory part off) rfl (priv_of_open rfl) ?_,
    ⟨_, answers_read hin (c := .partners) rfl (priv_of_open rfl) rfl⟩, answers_streamOpen hin, answers_streamClose hin,
    fun hp h0 hm hpw fixed hg => answers_stackAlloc hin hp h0 hm hpw (allocPlace_of hg), answers_stackFree hin,
    fun hc => answers_faultRead_core hin hc drain, answers_faultRead_module hin,
    answers_read hin (c := .faultRead .module false) rfl (priv_of_open rfl) rfl,
    fun hy hn => answers_faultRead_region hin hy hn drain, fun hl => ?_, fun hn hy hr hq h1 h2 => ?_, fun hn hy hq => ?_,
    fun hp hn => ?_, answers_backupWrite hin, answers_settingsStage hin, answers_settingsCommit hin, answers_choiceLog hin,
    answers_read hin (c := .domainMap) rfl (priv_of_open rfl) rfl, answers_settingsRead hin,
    answers_read hin (c := .settingsRead none) rfl (priv_of_open rfl) rfl,
    ⟨_, answers_read hin (c := .securityStatus) rfl (priv_of_open rfl) rfl⟩, fun hn hl => ?_⟩
  · cases part
    · rfl
    · rfl
    · rfl
    · rfl
  · exact answers_read hin (c := .ledgerRead off len) rfl (priv_of_open rfl) (cmdLedgerRead_of (s := s.noted h) hl off)
  · exact answers_read hin (c := .runRecord n k) rfl (priv_of_open rfl) (cmdRunRecord_live (s := s.noted h) hn hy hr hq h1 h2)
  · exact answers_read hin (c := .runRecord n k) rfl (priv_of_open rfl) (cmdRunRecord_ledger (s := s.noted h) hn hy hq)
  · exact answers_read hin (c := .backupReg n none) rfl (fun _ => hp) (cmdBackupReg_read (s := s.noted h) hn)
  · obtain ⟨items, hrun, hitems⟩ := cmdAttest_ok (s := s.noted h) hn hl
    exact ⟨items, answers_read hin (c := .attest n) rfl (priv_of_open rfl) hrun, hitems⟩

end Sys2Proof.Machine
end

section
/-! PROOFS. What the commands on regions share: the regions of a list command, the barrier that a command opens, and the
stops that it sets (R261, R263, R276, R299). -/

namespace Sys2Proof.Machine

variable {s t u : State} {r k j : Nat} {x y : Region} {rs : List Nat} {b : Barrier}

/-! ### Regions through an update of one -/

theorem region?_updRegion_any (s : State) (r : Nat) {f : Region → Region} (hf : ∀ z, (f z).num = z.num) (k : Nat) :
    (s.updRegion r f).region? k = (s.region? k).map fun z => if z.num == r then f z else z := by
  show (s.regions.map _).find? _ = _
  rw [List.find?_map]
  refine congrArg (Option.map _) (congrArg (List.find? · s.regions) (funext fun z => ?_))
  dsimp only [Function.comp_apply]
  split
  · rw [hf]
  · rfl

/-- Only the number of a region counts where it is replaced. -/
theorem region?_replace (h : s.region? r = some x) (hy : y.num = r) : (s.updRegion r fun _ => y).region? r = some y := by
  have hmap : (s.regions.map fun z => if z.num == r then y else z) =
      s.regions.map fun z => if z.num == r then { y with num := z.num } else z := by
    refine List.map_congr_left fun z _ => ?_
    by_cases hz : (z.num == r) = true
    · rw [if_pos hz, if_pos hz, beq_iff_eq.mp hz, ← hy]
    · rw [if_neg hz, if_neg hz]
  have hupd : (s.updRegion r fun _ => y) = s.updRegion r fun z => { y with num := z.num } :=
    congrArg (fun l => ({ s with regions := l } : State)) hmap
  rw [hupd, region?_updRegion_of h]
  · rw [State.region?_num h, ← hy]
  · exact fun _ => rfl

theorem Stirred.mail (h : Stirred s t) : Mail s t := by
  obtain ⟨rs, cs, rfl⟩ := h
  exact .of_host rfl

theorem Told.mem (h : Told s t) : t.mem = s.mem := (told_kept h).2.1

/-! ### Lists of regions (R261) -/

/-- The regions of a list command, all of which stand. -/
structure Listed (s : State) (rs : List Nat) (P : Region → Prop) : Prop where
  ne : rs ≠ []
  nodup : rs.Nodup
  low : ∀ j ∈ rs, j < 8
  stand : ∀ j ∈ rs, ∃ z, s.region? j = some z ∧ P z

variable {P : Region → Prop}

theorem Listed.filterMap_length (h : Listed s rs P) : (rs.filterMap s.region?).length = rs.length := by
  have hall := h.stand
  clear h
  induction rs with
  | nil => rfl
  | cons j rs ih =>
    obtain ⟨z, hz, -⟩ := hall j List.mem_cons_self
    rw [List.filterMap_cons_some hz, List.length_cons, List.length_cons, ih fun i hi => hall i (List.mem_cons_of_mem _ hi)]

theorem Listed.regionList (h : Listed s rs P) : s.regionList rs = .ok (rs.filterMap s.region?) := by
  have hbad : (rs.isEmpty || decide (¬ rs.Nodup) || rs.any fun r => decide (8 ≤ r)) = false := by
    have hany : (rs.any fun r => decide (8 ≤ r)) = false :=
      List.any_eq_false.mpr fun j hj => by simpa using h.low j hj
    rw [hany, decide_eq_false (not_not.mpr h.nodup), List.isEmpty_eq_false_iff.mpr h.ne]
    rfl
  unfold State.regionList
  rw [hbad]
  simp only [Bool.false_eq_true, if_false, h.filterMap_length, lt_irrefl]

theorem Listed.mem {h : Listed s rs P} (hx : x ∈ rs.filterMap s.region?) : P x ∧ x.num ∈ rs := by
  obtain ⟨j, hj, hz⟩ := List.mem_filterMap.mp hx
  obtain ⟨z, hz', hp⟩ := h.stand j hj
  obtain rfl : x = z := Option.some.inj (hz.symm.trans hz')
  exact ⟨hp, by rw [State.region?_num hz]; exact hj⟩

/-- A condition that no region of the list meets. -/
theorem Listed.any_false (h : Listed s rs P) {p : Region → Bool} (hp : ∀ z, P z → p z = false) :
    (rs.filterMap s.region?).any p = false :=
  List.any_eq_false.mpr fun _ hx => by rw [hp _ (h.mem hx).1]; exact Bool.false_ne_true

theorem Listed.head (h : Listed s rs P) : ∃ z, (rs.filterMap s.region?).head? = some z ∧ P z := by
  cases hl : rs.filterMap s.region? with
  | nil =>
    have hlen := h.filterMap_length
    rw [hl] at hlen
    exact absurd (List.eq_nil_of_length_eq_zero hlen.symm) h.ne
  | cons z l => exact ⟨z, rfl, (h.mem (hl ▸ List.mem_cons_self)).1⟩

/-! ### The barrier of a command (R261) -/

/-- A region committed to a barrier. -/
def Region.commit (x : Region) : Region := { x with committed := true }

/-- The regions of a command committed to its barrier. -/
def State.committing (s : State) (rs : List Nat) : State := rs.foldl (fun s r => s.updRegion r Region.commit) s

theorem committing_region (rs : List Nat) (s : State) (j : Nat) : (s.committing rs).region? j =
    (s.region? j).map fun z => if j ∈ rs then z.commit else z := by
  induction rs generalizing s with
  | nil =>
    simp only [List.not_mem_nil, if_false, Option.map_id_fun', id]
    rfl
  | cons r rs ih =>
    show ((s.updRegion r Region.commit).committing rs).region? j = _
    rw [ih, region?_updRegion_any]
    · cases hz : s.region? j with
      | none => rfl
      | some z =>
        simp only [Option.map_some, List.mem_cons, State.region?_num hz, beq_iff_eq]
        by_cases hr : j = r
        · simp only [hr, if_true, true_or]
          split
          · rfl
          · rfl
        · simp only [hr, if_false, false_or]
    · exact fun _ => rfl

theorem committing_shape (rs : List Nat) (s : State) : ∃ l, s.committing rs = { s with regions := l } := by
  induction rs generalizing s with
  | nil => exact ⟨s.regions, rfl⟩
  | cons r rs ih =>
    obtain ⟨l, hl⟩ := ih (s.updRegion r Region.commit)
    exact ⟨l, hl⟩

theorem committing_idle {n : Nat} (h : ∀ z ∈ s.regions, z.idleAt ≤ n) : ∀ z ∈ (s.committing rs).regions, z.idleAt ≤ n := by
  induction rs generalizing s with
  | nil => exact h
  | cons r rs ih =>
    refine ih (s := s.updRegion r Region.commit) fun z hz => ?_
    obtain ⟨w, hw, rfl⟩ := List.mem_map.mp hz
    split
    · exact h w hw
    · exact h w hw

/-- A barrier as its command opens it. -/
structure Fresh (s : State) (b : Barrier) (rs : List Nat) (step : Nat) (resume : Bool) (asked : Nat)
    (clients : List (Nat × Nat × Nat)) : Prop where
  regions : b.regions = rs
  step : b.step = step
  phase : b.phase = .arrival
  resume : b.resume = resume
  clients : b.clients = clients
  opened : b.opened = s.time.tick
  arrivals : b.arrivals = []
  want : b.want = []
  pace : b.pace = 0
  asked : b.asked = asked
  number : (∀ c ∈ s.fab.barriers, c.seq ≤ s.fab.barrierSeq) → ∀ c ∈ s.fab.barriers, c.seq ≠ b.seq
  alone : s.kol.inDomain = false → b.seq = 1 + s.fab.barrierSeq

/-- The state with one more barrier. -/
def State.opening (s : State) (b : Barrier) (n : Nat) : State :=
  { s with fab := { s.fab with barriers := s.fab.barriers ++ [b], barrierSeq := n } }

theorem le_foldl_seq (l : List Barrier) (a : Nat) : a ≤ l.foldl (fun m b => max m b.seq) a ∧
    ∀ b ∈ l, b.seq ≤ l.foldl (fun m b => max m b.seq) a := by
  induction l generalizing a with
  | nil => exact ⟨le_refl a, fun _ hb => absurd hb List.not_mem_nil⟩
  | cons c l ih =>
    obtain ⟨h1, h2⟩ := ih (max a c.seq)
    rw [List.foldl_cons]
    refine ⟨(le_max_left _ _).trans h1, fun b hb => ?_⟩
    rcases List.mem_cons.mp hb with rfl | hb
    · exact (le_max_right _ _).trans h1
    · exact h2 b hb

/-- The number of a new barrier is above every other (R261). -/
theorem seq_fresh (hs : ∀ c ∈ s.fab.barriers, c.seq ≤ s.fab.barrierSeq) (lead : Bool) : ∀ c ∈ s.fab.barriers, c.seq ≠
    1 + if lead then s.fab.barrierSeq else s.fab.barriers.foldl (fun m b => max m b.seq) ownSeq := by
  intro c hc
  have hmax := (le_foldl_seq s.fab.barriers ownSeq).2 c hc
  have hlow := hs c hc
  cases lead
  · rw [if_neg Bool.false_ne_true]
    omega
  · rw [if_pos rfl]
    omega

theorem leads_alone (hd : s.kol.inDomain = false) (xs : List Region) :
    s.leads (s.kol.module :: xs.flatMap s.solderSet).dedup = true := by
  have hset : ∀ x, s.solderSet x = [s.kol.module] := fun x => by rw [State.solderSet, hd]; rfl
  have hall : ∀ m ∈ (s.kol.module :: xs.flatMap s.solderSet).dedup, m = s.kol.module := by
    intro m hm
    rcases List.mem_cons.mp (List.mem_dedup.mp hm) with hm | hm
    · exact hm
    · obtain ⟨x, -, hx⟩ := List.mem_flatMap.mp hm
      rw [hset x] at hx
      exact List.mem_singleton.mp hx
  have hlen : (s.kol.module :: xs.flatMap s.solderSet).dedup.length ≤ 1 := by
    have hnd := List.nodup_dedup (s.kol.module :: xs.flatMap s.solderSet)
    generalize (s.kol.module :: xs.flatMap s.solderSet).dedup = l at hall hnd
    match l with
    | [] => exact Nat.zero_le 1
    | [_] => exact le_refl 1
    | a :: c :: l =>
      have ha := hall a List.mem_cons_self
      have hc := hall c (List.mem_cons_of_mem _ List.mem_cons_self)
      exact absurd (ha.trans hc.symm ▸ List.mem_cons_self) (List.nodup_cons.mp hnd).1
  rw [State.leads, decide_eq_true hlen, Bool.true_or]

/-- A command's barrier stands last, under a number that no other has (R261). -/
theorem openBarrier_shape (s : State) (rs : List Nat) (step : Nat) (resume replace : Bool) (asked : Nat)
    (clients : List (Nat × Nat × Nat)) : ∃ (b : Barrier) (n : Nat) (c : Bool) (hdr : FlitHdr),
      s.openBarrier rs step resume replace 0 asked clients =
        (if c = true then (s.opening b n).flood 0x06 hdr [] else s.opening b n, b.seq) ∧
      Fresh s b rs step resume asked clients := by
  refine ⟨_, _, _, _, rfl, rfl, rfl, rfl, rfl, rfl, rfl, rfl, rfl, rfl, rfl, fun hs => seq_fresh hs _, fun hd => ?_⟩
  dsimp only
  rw [leads_alone hd, if_pos rfl]

/-- What opening a barrier leaves: the regions, the cores and the clock; the barrier stands last. -/
theorem opening_kept (s : State) (b : Barrier) (n : Nat) (c : Bool) (hdr : FlitHdr) {v : State}
    (hv : (if c = true then (s.opening b n).flood 0x06 hdr [] else s.opening b n) = v) :
    v.fab.barriers = s.fab.barriers ++ [b] ∧ v.regions = s.regions ∧ v.cores = s.cores ∧ v.time = s.time ∧ v.fw = s.fw ∧
      v.kol.module = s.kol.module ∧ v.kol.inDomain = s.kol.inDomain ∧ Mail s v := by
  subst hv
  cases c with
  | false => exact ⟨rfl, rfl, rfl, rfl, rfl, rfl, rfl, .of_host rfl⟩
  | true =>
    obtain ⟨_, _, he⟩ := net_flood (s.opening b n) 0x06 hdr []
    have hm := Mail.trans (s := s) (t := s.opening b n) (.of_host rfl) (mail_flood (s.opening b n) 0x06 hdr [])
    rw [he] at hm
    rw [if_pos rfl, he]
    exact ⟨rfl, rfl, rfl, rfl, rfl, rfl, rfl, hm⟩

theorem net_kept (h : Net s t) : t.regions = s.regions ∧ t.fab = s.fab ∧ t.time = s.time ∧ t.fw = s.fw ∧ t.cores = s.cores := by
  obtain ⟨_, _, rfl⟩ := h
  exact ⟨rfl, rfl, rfl, rfl, rfl⟩

/-- The barrier of a number that no other has is found last. -/
theorem find_last {l : List Barrier} (hl : ∀ c ∈ l, c.seq ≠ b.seq) : (l ++ [b]).find? (fun c => c.seq == b.seq) = some b := by
  have hnone : l.find? (fun c => c.seq == b.seq) = none :=
    List.find?_eq_none.mpr fun c hc hk => hl c hc (beq_iff_eq.mp hk)
  rw [List.find?_append, hnone, Option.none_or, List.find?_cons, beq_self_eq_true]

/-- An arrival at the barrier that stands last: its regions and every other barrier stand. -/
theorem arriveRegion_last {l : List Barrier} (hb : s.fab.barriers = l ++ [b]) (hl : ∀ c ∈ l, c.seq ≠ b.seq) :
    (∃ as, (s.arriveRegion b.seq).fab.barriers = l ++ [{ b with arrivals := as }]) ∧
      (s.arriveRegion b.seq).regions = s.regions ∧ (s.arriveRegion b.seq).cores = s.cores ∧ Mail s (s.arriveRegion b.seq) := by
  have hfind : s.fab.barriers.find? (fun c => c.seq == b.seq) = some b := by rw [hb]; exact find_last hl
  have hupd (ok : Bool) (a : Nat × Nat) : ∃ as, (s.fab.barriers.map fun c =>
      if (c.seq == b.seq && ok) = true then { c with arrivals := c.arrivals ++ [a] } else c) = l ++ [{ b with arrivals := as }] := by
    rw [hb, List.map_append, List.map_cons, List.map_nil, beq_self_eq_true, Bool.true_and]
    have hrest : (l.map fun c => if (c.seq == b.seq && ok) = true then { c with arrivals := c.arrivals ++ [a] } else c) = l := by
      refine (List.map_congr_left fun c hc => ?_).trans (List.map_id l)
      have hne : (c.seq == b.seq) = false := beq_eq_false_iff_ne.mpr (hl c hc)
      rw [hne, Bool.false_and, if_neg Bool.false_ne_true]
      rfl
    rw [hrest]
    cases ok with
    | false => exact ⟨b.arrivals, rfl⟩
    | true => exact ⟨b.arrivals ++ [a], rfl⟩
  have hsend (w : State) (m src : Nat) (msg : MgmtMsg) : (w.sendMsg m 0x06 src msg).fab = w.fab ∧
      (w.sendMsg m 0x06 src msg).regions = w.regions ∧ (w.sendMsg m 0x06 src msg).cores = w.cores ∧
      Mail w (w.sendMsg m 0x06 src msg) := by
    obtain ⟨h1, h2, -, -, h5⟩ := net_kept (sendMsg_net w m 0x06 src msg)
    refine ⟨h2, h1, h5, ?_⟩
    unfold State.sendMsg
    split
    · exact grows_sendFlit _ _ _ _ _ _
    · exact .refl w
  unfold State.arriveRegion
  rw [hfind]
  dsimp only
  split
  · exact ⟨⟨b.arrivals, hb⟩, rfl, rfl, .refl s⟩
  · split
    · generalize hw : ({ s with fab := _ } : State) = w
      obtain ⟨h1, h2, h3, h4⟩ := hsend w s.kol.master 0 (.solderArrival b.seq (s.matchesMaster b) (s.readyCycle b))
      have hmail : Mail s w := by rw [← hw]; exact .of_host rfl
      have hkept : w.regions = s.regions ∧ w.cores = s.cores := by rw [← hw]; exact ⟨rfl, rfl⟩
      refine ⟨?_, h2.trans hkept.1, h3.trans hkept.2, hmail.trans h4⟩
      rw [h1, ← hw]
      exact hupd _ _
    · exact ⟨hupd _ _, rfl, rfl, .of_host rfl⟩

theorem foldl_max_eq {α : Type} (l : List α) (f : α → Nat) (a : Nat) (h : ∀ x ∈ l, f x ≤ a) : l.foldl (fun m x => max m (f x)) a = a := by
  induction l with
  | nil => rfl
  | cons x l ih =>
    rw [List.foldl_cons, Nat.max_eq_left (h x List.mem_cons_self)]
    exact ih fun y hy => h y (List.mem_cons_of_mem _ hy)

/-- A module alone whose regions stand ready arrives at its barrier in the cycle of the command (R261). -/
theorem arriveRegion_alone {l : List Barrier} (hb : s.fab.barriers = l ++ [b]) (hl : ∀ c ∈ l, c.seq ≠ b.seq)
    (hp : b.phase = .arrival) (hq : b.seq < ownSeq) (hm : s.fw.mgmtDown = false) (ha : b.arrivals = [])
    (hr : ∀ r ∈ b.regions, ∃ x, s.region? r = some x ∧ s.arrived b x = true) (hw : b.want = []) (hpace : b.pace = 0)
    (hidle : ∀ z ∈ s.regions, z.idleAt ≤ b.asked) (hd : s.kol.inDomain = false) :
    (s.arriveRegion b.seq).fab.barriers = l ++ [{ b with arrivals := [(s.kol.module, b.asked)] }] := by
  have hfind : s.fab.barriers.find? (fun c => c.seq == b.seq) = some b := by rw [hb]; exact find_last hl
  have hall : (b.regions.all fun r => match s.region? r with | some x => s.arrived b x | none => false) = true :=
    List.all_eq_true.mpr fun r hrm => by
      obtain ⟨x, hx, hok⟩ := hr r hrm
      rw [hx]
      exact hok
  have hhere : (b.phase == .arrival && decide (b.seq < ownSeq) && !s.fw.mgmtDown && !(b.arrivals.any fun a => a.1 == s.kol.module) &&
      b.regions.all fun r => match s.region? r with | some x => s.arrived b x | none => false) = true := by
    rw [hall, hp, decide_eq_true hq, hm, ha]
    rfl
  have hok : s.matchesMaster b = true := by rw [State.matchesMaster, hw]; rfl
  have hcycle : s.readyCycle b = b.asked := by
    unfold State.readyCycle
    rw [hpace]
    refine foldl_max_eq _ _ _ fun z hz => ?_
    obtain ⟨r, -, hzr⟩ := List.mem_filterMap.mp hz
    exact hidle z (List.mem_of_find?_eq_some hzr)
  have hrest : (l.map fun c => if (c.seq == b.seq && true) = true then
      { c with arrivals := c.arrivals ++ [(s.kol.module, b.asked)] } else c) = l := by
    refine (List.map_congr_left fun c hc => ?_).trans (List.map_id l)
    rw [beq_eq_false_iff_ne.mpr (hl c hc), Bool.false_and, if_neg Bool.false_ne_true]
    rfl
  unfold State.arriveRegion
  rw [hfind]
  dsimp only
  refine Eq.trans (congrArg (fun u : State => u.fab.barriers) (if_neg ?_)) ?_
  · exact fun hc => Bool.false_ne_true ((congrArg not hhere).symm.trans hc)
  rw [hd, hok, hcycle]
  show (s.fab.barriers.map fun c => if (c.seq == b.seq && true) = true then
    { c with arrivals := c.arrivals ++ [(s.kol.module, b.asked)] } else c) = _
  rw [hb, List.map_append, hrest, List.map_cons, List.map_nil, beq_self_eq_true, Bool.true_and, if_pos rfl, ha]
  rfl

/-! ### Regions taken to a marker (R263) -/

theorem commitments_commit (s : State) (r : Nat) :
    (s.updRegion r Region.commit).commitments = s.commitments.map fun p => if p.1 == r then (p.1, true) else p := by
  simp only [State.commitments, State.updRegion, List.map_map]
  refine List.map_congr_left fun z _ => ?_
  dsimp only [Function.comp_apply]
  split
  · rfl
  · rfl

theorem steady_storeSlips (s : State) (r : Nat) : Steady s (s.storeSlips r) :=
  steady_updRegion s r fun _ => ⟨rfl, rfl⟩

theorem toMarker_commitments (s : State) (x : Region) (k q : Nat) :
    (s.toMarker x k q).commitments = s.commitments.map fun p => if p.1 == x.num then (p.1, true) else p := by
  unfold State.toMarker
  dsimp only
  refine (commitments_commit _ x.num).trans ?_
  split
  · rw [(steady_toStopping _ _ _ _ _).marks, (steady_updCoresOf _ _ _).marks]
  · rw [(steady_storeSlips _ _).marks]

theorem toMarker_kept (s : State) (x : Region) (k q : Nat) : (s.toMarker x k q).fab = s.fab ∧ Mail s (s.toMarker x k q) := by
  unfold State.toMarker
  dsimp only
  split
  · exact ⟨((aside_updCoresOf s x.num _).trans (aside_toStopping _ _ _ _ _)).fab,
      (mail_updCoresOf s x.num _).trans ((mail_toStopping _ _ _ _ _).trans (mail_updRegion _ _ _))⟩
  · exact ⟨rfl, .of_host rfl⟩

theorem toMarkers_kept (xs : List Region) (s : State) (k q : Nat) :
    (xs.foldl (fun s x => s.toMarker x k q) s).fab = s.fab ∧ Mail s (xs.foldl (fun s x => s.toMarker x k q) s) :=
  ⟨foldl_keeps State.fab (fun s x => (toMarker_kept s x k q).1) xs s, mail_foldl (fun s x => (toMarker_kept s x k q).2) xs s⟩

theorem toMarkers_commitments (xs : List Region) (s : State) (k q : Nat) :
    (xs.foldl (fun s x => s.toMarker x k q) s).commitments =
      s.commitments.map fun p => if p.1 ∈ xs.map Region.num then (p.1, true) else p := by
  induction xs generalizing s with
  | nil =>
    simp only [List.foldl_nil, List.map_nil, List.not_mem_nil, if_false, List.map_id']
  | cons x xs ih =>
    rw [List.foldl_cons, ih, toMarker_commitments, List.map_map]
    refine List.map_congr_left fun p _ => ?_
    simp only [Function.comp_apply, List.map_cons, List.mem_cons, beq_iff_eq]
    by_cases hp : p.1 = x.num
    · simp only [hp, if_true, true_or]
      split
      · rfl
      · rfl
    · simp only [hp, if_false, false_or]

/-- The regions of a list are committed where their commitments say so. -/
theorem committed_of_marks {ks : List Nat} (hm : t.commitments = s.commitments.map fun p => if p.1 ∈ ks then (p.1, true) else p)
    (hj : j ∈ ks) (hx : s.region? j = some x) : ∃ z, t.region? j = some z ∧ z.committed = true := by
  have hin : (j, true) ∈ t.commitments := by
    rw [hm]
    refine List.mem_map.mpr ⟨(x.num, x.committed), List.mem_map.mpr ⟨x, List.mem_of_find?_eq_some hx, rfl⟩, ?_⟩
    rw [State.region?_num hx, if_pos hj]
  obtain ⟨w, hw, he⟩ := List.mem_map.mp hin
  cases hz : t.region? j with
  | none =>
    have hne := List.find?_eq_none.mp hz w hw
    exact absurd (beq_iff_eq.mpr (congrArg Prod.fst he)) hne
  | some z =>
    refine ⟨z, rfl, ?_⟩
    have hmem : (z.num, z.committed) ∈ t.commitments := List.mem_map.mpr ⟨z, List.mem_of_find?_eq_some hz, rfl⟩
    rw [hm] at hmem
    obtain ⟨p, -, hp⟩ := List.mem_map.mp hmem
    rw [State.region?_num hz] at hp
    by_cases hk : p.1 ∈ ks
    · rw [if_pos hk] at hp
      exact (congrArg Prod.snd hp).symm
    · rw [if_neg hk] at hp
      exact absurd (by rw [hp]; exact hj) hk

/-- A RUNNING region that drains. -/
theorem region?_toStopping (h : s.region? r = some x) (hp : x.phase = .running) (kind : EndReason) (goal : StopGoal)
    (cause : Nat) : ∃ z, (s.toStopping r kind goal cause).region? r = some z ∧ z.phase = .stopping := by
  rw [State.toStopping, h]
  dsimp only
  rw [if_pos (by rw [hp]; rfl)]
  refine ⟨_, region?_setPhase (region?_updRegion_of h ?_) .stopping cause, rfl⟩
  exact fun _ => rfl

theorem toMarker_stopping (h : s.region? r = some x) (hp : x.phase = .running) (k q : Nat) :
    ∃ z, (s.toMarker x k q).region? r = some z ∧ z.phase = .stopping := by
  have hnum := State.region?_num h
  obtain ⟨z, hz, hph⟩ := region?_toStopping (s := s.updCoresOf r fun c => { c with stopBefore := optMin c.stopBefore (x.base + k) })
    h hp .stopStep (.solder q) 0
  unfold State.toMarker
  dsimp only
  rw [if_pos (by rw [hp]; rfl), hnum]
  refine ⟨_, region?_updRegion_of hz ?_, hph⟩
  exact fun _ => rfl

end Sys2Proof.Machine
end

section
/-! PROOFS. The region commands that are admitted (R242, R261, R263, R276, R283, R292, R299, R302, R303, R346). -/

namespace Sys2Proof.Machine

open Host

variable {s t u : State} {h : Hdr} {x : Session} {y z : Region} {w : Who} {r k : Nat} {rs : List Nat}

/-! ### START, RESUME, SOLDER_STEP (R261, R263) -/

/-- The regions of a command are committed to a barrier of it, which stands last. -/
def Opens (s t : State) (rs : List Nat) (step : Nat) (resume : Bool) (client : Nat × Nat × Nat) : Prop :=
  (∀ j ∈ rs, ∃ z, t.region? j = some z ∧ z.committed = true) ∧
  ∃ b, t.fab.barriers = s.fab.barriers ++ [b] ∧ b.regions = rs ∧ b.step = step ∧ b.phase = .arrival ∧
    b.resume = resume ∧ b.clients = [client] ∧ b.opened = s.time.tick

/-- The state in which a command's barrier has been opened and its regions arrive. -/
structure Opened (s v : State) (b : Barrier) (rs : List Nat) : Prop where
  barriers : v.fab.barriers = s.fab.barriers ++ [b]
  number : ∀ c ∈ s.fab.barriers, c.seq ≠ b.seq
  regions : v.regions = (s.committing rs).regions
  time : v.time = s.time
  fw : v.fw = s.fw
  module : v.kol.module = s.kol.module
  inDomain : v.kol.inDomain = s.kol.inDomain
  mail : Mail s v

theorem commitTo_shape (hs : ∀ c ∈ s.fab.barriers, c.seq ≤ s.fab.barrierSeq) (rs : List Nat) (step : Nat) (resume replace : Bool)
    (w : Who) (code : Nat) : ∃ v b, s.commitTo rs step resume replace w code = v.arriveRegion b.seq ∧ Opened s v b rs ∧
      Fresh (s.committing rs) b rs step resume s.time.cycle [(w.session, w.seq, code)] := by
  obtain ⟨l, hcom⟩ := committing_shape rs s
  obtain ⟨b, n, c, hdr, hopen, hf⟩ := openBarrier_shape (s.committing rs) rs step resume replace s.time.cycle [(w.session, w.seq, code)]
  have htime : (s.committing rs).time.cycle = s.time.cycle := by rw [hcom]
  have hrun : s.commitTo rs step resume replace w code = State.arriveRegion
      (if c = true then ((s.committing rs).opening b n).flood 0x06 hdr [] else (s.committing rs).opening b n) b.seq := by
    unfold State.commitTo
    show (match (s.committing rs).openBarrier rs step resume replace 0 (s.committing rs).time.cycle [(w.session, w.seq, code)] with
      | (s, seq) => s.arriveRegion seq) = _
    rw [htime, hopen]
  generalize hv : (if c = true then _ else _ : State) = v at hrun
  obtain ⟨hbar, hreg, -, ht, hfw, hmod, hdom, hmail⟩ := opening_kept _ b n c hdr hv
  have hmail0 : Mail s (s.committing rs) := by rw [hcom]; exact .of_host rfl
  have hbars : (s.committing rs).fab.barriers = s.fab.barriers := by rw [hcom]
  refine ⟨v, b, hrun, ⟨?_, ?_, hreg, ?_, ?_, ?_, ?_, hmail0.trans hmail⟩, hf⟩
  · rw [hbar, hbars]
  · rw [← hbars]
    exact hf.number (by rw [hcom]; exact hs)
  · rw [ht, hcom]
  · rw [hfw, hcom]
  · rw [hmod, hcom]
  · rw [hdom, hcom]

/-- A region of the list in the state in which it arrives. -/
theorem Opened.region {v : State} {b : Barrier} (ho : Opened s v b rs) {j : Nat} (hj : j ∈ rs) (hz : s.region? j = some z) :
    v.region? j = some z.commit := by
  have hcz := committing_region rs s j
  rw [hz, Option.map_some, if_pos hj] at hcz
  unfold State.region?
  rw [ho.regions]
  exact hcz

theorem commitTo_opens {P : Region → Prop} (hl : Listed s rs P) (hs : ∀ c ∈ s.fab.barriers, c.seq ≤ s.fab.barrierSeq)
    (step : Nat) (resume replace : Bool) (w : Who) (code : Nat) :
    Opens s (s.commitTo rs step resume replace w code) rs step resume (w.session, w.seq, code) ∧
      Mail s (s.commitTo rs step resume replace w code) := by
  obtain ⟨v, b, hrun, ho, hf⟩ := commitTo_shape hs rs step resume replace w code
  obtain ⟨⟨as, hbars⟩, hregs, -, hmail⟩ := arriveRegion_last ho.barriers ho.number
  obtain ⟨l, hcom⟩ := committing_shape rs s
  rw [hrun]
  refine ⟨⟨fun j hj => ?_, { b with arrivals := as }, hbars, hf.regions, hf.step, hf.phase, hf.resume, hf.clients, ?_⟩,
    ho.mail.trans hmail⟩
  · obtain ⟨z, hz, -⟩ := hl.stand j hj
    refine ⟨z.commit, ?_, rfl⟩
    unfold State.region?
    rw [hregs]
    exact ho.region hj hz
  · rw [hf.opened, hcom]

/-- A module alone whose regions stand ready arrives at once (R261). -/
theorem commitTo_arrives {P : Region → Prop} (hl : Listed s rs P) (hs : ∀ c ∈ s.fab.barriers, c.seq ≤ s.fab.barrierSeq)
    (hready : ∀ z, P z → z.phase = .idle ∧ z.loaded = true ∧ z.ran = false ∧ z.spoiled = false)
    (hd : s.kol.inDomain = false) (hq : s.fab.barrierSeq + 1 < 2 ^ 32) (hm : s.fw.mgmtDown = false)
    (hidle : ∀ z ∈ s.regions, z.idleAt ≤ s.time.cycle) (w : Who) (code : Nat) :
    ∃ b ∈ (s.commitTo rs 0 false false w code).fab.barriers, b.regions = rs ∧ (s.kol.module, s.time.cycle) ∈ b.arrivals := by
  obtain ⟨v, b, hrun, ho, hf⟩ := commitTo_shape hs rs 0 false false w code
  obtain ⟨l, hcom⟩ := committing_shape rs s
  have hseq : b.seq = 1 + s.fab.barrierSeq := by
    have ha := hf.alone (by rw [hcom]; exact hd)
    rwa [hcom] at ha
  have hlow : b.seq < ownSeq := by rw [hseq, ownSeq]; omega
  have hstand : ∀ r ∈ b.regions, ∃ z, v.region? r = some z ∧ v.arrived b z = true := by
    intro j hj
    rw [hf.regions] at hj
    obtain ⟨z, hz, hp⟩ := hl.stand j hj
    obtain ⟨h1, h2, h3, h4⟩ := hready z hp
    refine ⟨z.commit, ho.region hj hz, ?_⟩
    have hph : z.commit.phase = .idle := h1
    have hld : z.commit.loaded = true := h2
    have hrn : z.commit.ran = false := h3
    have hsp : z.commit.spoiled = false := h4
    rw [State.arrived, hph, hld, hrn, hsp, hf.resume]
    rfl
  have hidle' : ∀ z ∈ v.regions, z.idleAt ≤ b.asked := by
    intro z hz
    rw [ho.regions] at hz
    rw [hf.asked]
    exact committing_idle hidle z hz
  have harr := arriveRegion_alone ho.barriers ho.number hf.phase hlow (by rw [ho.fw]; exact hm) hf.arrivals hstand hf.want hf.pace
    hidle' (by rw [ho.inDomain]; exact hd)
  rw [hrun, harr]
  refine ⟨_, List.mem_append_right _ (List.mem_singleton_self _), hf.regions, ?_⟩
  rw [ho.module, hf.asked]
  exact List.mem_singleton_self _

/-! ### The conditions of the three commands -/

theorem cmdStart_admitted {P : Region → Prop} (hl : Listed s rs P)
    (hp : ∀ z, P z → z.busy = false ∧ z.phase = .idle ∧ z.loaded = true ∧ z.ran = false ∧ z.spoiled = false)
    (ha : s.pwr.state = .active) (hm : s.pwr.moving = none) :
    s.cmdStart w rs = (s.commitTo rs 0 false false w 0x0201, .accepted, []) := by
  have hbusy := hl.any_false (p := Region.busy) fun z hz => (hp z hz).1
  have hbad := hl.any_false (p := fun z => z.phase != .idle || !z.loaded || z.ran || z.spoiled) fun z hz => by
    obtain ⟨-, h1, h2, h3, h4⟩ := hp z hz
    rw [h1, h2, h3, h4]
    rfl
  unfold State.cmdStart
  rw [hl.regionList]
  dsimp only
  rw [hbusy, hbad, ha, hm]
  rfl

theorem cmdResume_admitted {P : Region → Prop} (hl : Listed s rs P)
    (hp : ∀ z, P z → z.busy = false ∧ z.phase = .idle ∧ s.resumable z = true ∧ s.resumeStep z = k)
    (ha : s.pwr.state = .active) (hm : s.pwr.moving = none) :
    s.cmdResume w rs = (s.commitTo rs k true false w 0x0202, .accepted, []) := by
  obtain ⟨z, hz, hpz⟩ := hl.head
  have hbusy := hl.any_false (p := Region.busy) fun z hz => (hp z hz).1
  have hbad := hl.any_false (p := fun z => z.phase != .idle || !s.resumable z || s.resumeStep z != k) fun z hz => by
    obtain ⟨-, h1, h2, h3⟩ := hp z hz
    have hstep : (s.resumeStep z != k) = false := by rw [h3, bne_self_eq_false]
    rw [h1, h2, hstep]
    rfl
  unfold State.cmdResume
  rw [hl.regionList]
  dsimp only
  rw [hz]
  simp only [(hp z hpz).2.2.2, hbusy, hbad, ha, hm]
  rfl

theorem cmdSolderStep_admitted {P : Region → Prop} (hl : Listed s rs P) (hk : 0 < k)
    (hp : ∀ z, P z → z.busy = false ∧ (z.phase = .running ∨ z.phase = .idle) ∧ z.loaded = true ∧ s.passed z k = false)
    (replace : Bool) {v : State} {q : Nat}
    (ho : s.openBarrier rs k true replace 0 s.time.cycle [(w.session, w.seq, 0x0204)] = (v, q)) :
    s.cmdSolderStep w rs k replace =
      (((rs.filterMap s.region?).foldl (fun s x => s.toMarker x k q) v).arriveRegion q, .accepted, []) := by
  have hbusy := hl.any_false (p := Region.busy) fun z hz => (hp z hz).1
  have hbad := hl.any_false (p := fun z => !((z.phase == .running || z.phase == .idle) && z.loaded) || s.passed z k) fun z hz => by
    obtain ⟨-, h1, h2, h3⟩ := hp z hz
    rw [h2, h3]
    rcases h1 with h1 | h1
    · rw [h1]; rfl
    · rw [h1]; rfl
  unfold State.cmdSolderStep
  rw [hl.regionList]
  dsimp only
  rw [if_neg (by omega), hbusy, hbad, ho]
  rfl

/-- The numbers of the regions of a list command are those that it names. -/
theorem Listed.nums {P : Region → Prop} (hl : Listed s rs P) {j : Nat} (hj : j ∈ rs) :
    j ∈ (rs.filterMap s.region?).map Region.num := by
  obtain ⟨z, hz, -⟩ := hl.stand j hj
  exact List.mem_map.mpr ⟨z, List.mem_filterMap.mpr ⟨j, hj, hz⟩, State.region?_num hz⟩

/-- SOLDER_STEP opens its barrier, commits its regions and takes the running ones to the marker (R263). -/
theorem cmdSolderStep_opens {P : Region → Prop} (hl : Listed s rs P) (hs : ∀ c ∈ s.fab.barriers, c.seq ≤ s.fab.barrierSeq)
    (hk : 0 < k)
    (hp : ∀ z, P z → z.busy = false ∧ (z.phase = .running ∨ z.phase = .idle) ∧ z.loaded = true ∧ s.passed z k = false)
    (replace : Bool) : ∃ t, s.cmdSolderStep w rs k replace = (t, .accepted, []) ∧
      Opens s t rs k true (w.session, w.seq, 0x0204) ∧ Mail s t ∧
      ∀ r y, rs = [r] → s.region? r = some y → y.phase = .running → ∃ z, t.region? r = some z ∧ z.phase = .stopping := by
  obtain ⟨b, n, c, hdr, hopen, hf⟩ := openBarrier_shape s rs k true replace s.time.cycle [(w.session, w.seq, 0x0204)]
  generalize hv : (if c = true then _ else _ : State) = v at hopen
  obtain ⟨hbar, hreg, -, -, -, -, -, hmail⟩ := opening_kept _ b n c hdr hv
  obtain ⟨hfab, hmail2⟩ := toMarkers_kept (rs.filterMap s.region?) v k b.seq
  have hmarks := toMarkers_commitments (rs.filterMap s.region?) v k b.seq
  have hregion (j : Nat) : v.region? j = s.region? j := by rw [State.region?, hreg, State.region?]
  have hrun := cmdSolderStep_admitted hl hk hp replace hopen
  generalize hu : (rs.filterMap s.region?).foldl (fun s x => s.toMarker x k b.seq) v = m at hfab hmail2 hmarks hrun
  obtain ⟨⟨as, hbars⟩, hregs, -, hmail3⟩ := arriveRegion_last (s := m) (by rw [hfab, hbar]) (hf.number hs)
  refine ⟨m.arriveRegion b.seq, hrun, ⟨fun j hj => ?_, { b with arrivals := as }, hbars, hf.regions, hf.step, hf.phase, hf.resume,
    hf.clients, hf.opened⟩, hmail.trans (hmail2.trans hmail3), fun r y hr hy hph => ?_⟩
  · obtain ⟨z, hz, -⟩ := hl.stand j hj
    obtain ⟨z', hz', hc'⟩ := committed_of_marks hmarks (hl.nums hj) ((hregion j).trans hz)
    refine ⟨z', ?_, hc'⟩
    unfold State.region?
    rw [hregs]
    exact hz'
  · subst hr
    have hone : [r].filterMap s.region? = [y] := by rw [List.filterMap_cons_some hy, List.filterMap_nil]
    rw [hone, List.foldl_cons, List.foldl_nil] at hu
    obtain ⟨z, hz, hzp⟩ := toMarker_stopping ((hregion r).trans hy) hph k b.seq
    refine ⟨z, ?_, hzp⟩
    unfold State.region?
    rw [hregs, ← hu]
    exact hz

end Sys2Proof.Machine
end

section
/-! PROOFS. LOAD, STOP, REPLAY_STOP, DEFINE, UNDEFINE, PARK, REPAIR, PARK_UNIT, PACE and FAULT_POLICY on a region that takes
them (R242, R276, R283, R292, R299 to R303, R346). -/

namespace Sys2Proof.Machine

variable {s t : State} {x y z : Region} {w : Who} {r p i : Nat}

/-- A command on one region that stands outside a transition. -/
theorem onRegion_of (hr : r < 8) (hy : s.region? r = some y) (hb : y.busy = false) (f : Region → Answer) : s.onRegion r f = f y := by
  unfold State.onRegion
  rw [if_neg (by omega), hy]
  dsimp only
  rw [hb, if_neg Bool.false_ne_true]

/-- A region's next phase, with the completion that it owes. -/
theorem awaiting_setPhase (hy : s.region? r = some y) (w : Who) (code : Nat) (p : Phase) (cause : Nat) :
    ((s.awaiting r w code).setPhase r p cause).region? r = some { y with waiter := some (w.session, w.seq, code), phase := p } ∧
      Told (s.awaiting r w code |>.updRegion r fun x => { x with phase := p }) ((s.awaiting r w code).setPhase r p cause) ∧
      Mail s ((s.awaiting r w code).setPhase r p cause) := by
  have ha : (s.awaiting r w code).region? r = some { y with waiter := some (w.session, w.seq, code) } := by
    refine region?_updRegion_of hy ?_
    exact fun _ => rfl
  refine ⟨region?_setPhase ha p cause, ?_, (mail_updRegion s r _).trans (mail_setPhase _ _ _ _)⟩
  rw [setPhase_of ha]
  exact told_notify _ _ _ _

/-! ### LOAD (R292, R301) -/

/-- Only memory and cores have moved, and regions and the host side stand. -/
def Placed (s t : State) : Prop := ∃ m cs, t = { s with mem := m, cores := cs }

theorem placed_settleNear (s : State) (x : Region) (keep : Bool) (p : Placement) : Placed s (s.settleNear x keep p) := by
  unfold State.settleNear
  split
  · exact ⟨_, s.cores, rfl⟩
  · exact ⟨_, s.cores, rfl⟩

theorem placed_settleTensors (s : State) (x : Region) (keep : Bool) (ts : List (GA × Nat)) : Placed s (s.settleTensors x keep ts) := by
  unfold State.settleTensors
  induction ts generalizing s with
  | nil => exact ⟨s.mem, s.cores, rfl⟩
  | cons e ts ih =>
    rw [List.foldl_cons]
    split
    · exact ih s
    · obtain ⟨m, cs, he⟩ := ih (s.zeroStack e.1 e.2)
      exact ⟨m, cs, he⟩

/-- What a load leaves of its region (R280, R301). -/
theorem applyLoad_spec (hy : s.region? r = some y) (a : LoadArgs) (plan : LoadPlan) :
    (∃ place q, (s.applyLoad y a plan).region? r = some { loadedRegion y a (s.fw.loadSeq + 1) plan place with runRec := q }) ∧
      Mail s (s.applyLoad y a plan) := by
  have hnum := State.region?_num hy
  have htold := told_dropBuffered s y.num
  have hspoken := (spoken_dropWrites (s.coresOf y.num) s).trans (spoken_endRun (s.dropBuffered y.num) y.num .host)
  obtain ⟨q, hq⟩ := region?_endRun (s := s.dropBuffered y.num) ((htold.region r).trans hy) .host
  have hq' : ((s.dropBuffered y.num).endRun y.num .host).region? r = some { y with runRec := q } := by rw [hnum] at hq ⊢; exact hq
  have hseq : ((s.dropBuffered y.num).endRun y.num .host).fw.loadSeq = s.fw.loadSeq := by
    obtain ⟨_, _, _, _, _, _, _, he⟩ := hspoken.shape
    rw [he]
    rfl
  have hmail : Mail s ((s.dropBuffered y.num).endRun y.num .host) := hspoken.mail
  unfold State.applyLoad
  dsimp only
  generalize (s.dropBuffered y.num).endRun y.num .host = v at hq' hseq hmail ⊢
  rw [hseq]
  generalize State.planPlacement _ y a.object a.n plan = place
  obtain ⟨m, cs, he⟩ := placed_settleNear { v with fw := { v.fw with loadSeq := s.fw.loadSeq + 1 } } y a.keepNear place
  rw [he]
  obtain ⟨m', cs', he'⟩ := placed_settleTensors { v with fw := { v.fw with loadSeq := s.fw.loadSeq + 1 }, mem := m, cores := cs } y
    a.keepNear (loadedRegion y a (s.fw.loadSeq + 1) plan place).tensors
  rw [he']
  refine ⟨⟨place, ?_⟩, hmail.trans (.of_host rfl)⟩
  rw [hnum]
  exact ⟨_, region?_replace (x := { y with runRec := q }) hq' hnum⟩

/-- A load that is accepted (R292, R299). -/
theorem cmdLoad_spec {a : LoadArgs} {plan : LoadPlan} (hr : r < 8) (ha : a.region = r) (hy : s.region? r = some y)
    (hp : y.phase ≠ .running) (hb : y.busy = false) (hal : s.inAlloc a.ga a.length = true) (hc : s.checkLoad y a = .ok plan) :
    ∃ t, s.cmdLoad w a = (t, .accepted, []) ∧ Mail s t ∧
      ∃ z, t.region? r = some z ∧ z.phase = .loading ∧ z.loaded = true ∧ z.ran = false ∧ z.obj = some a.object ∧
        z.n = a.n ∧ z.base = (s.fw.loadSeq + 1) * 2 ^ 32 ∧ z.waiter = some (w.session, w.seq, 0x0200) := by
  have hnum := State.region?_num hy
  obtain ⟨⟨place, q, hreg⟩, hmail⟩ := applyLoad_spec hy a plan
  have hwait : ((s.applyLoad y a plan).awaiting r w 0x0200).region? r = _ := region?_updRegion_of hreg fun _ => rfl
  have hpend := region?_updRegion_of (f := fun x => { x with pendingLoad := some a }) hwait fun _ => rfl
  refine ⟨_, ?_, ?_, ⟨_, region?_setPhase hpend .loading 0, rfl, rfl, rfl, rfl, rfl, rfl, rfl⟩⟩
  · unfold State.cmdLoad
    subst ha
    have hrun : (y.phase == .running) = false := by simpa using hp
    rw [if_neg (by omega), hy]
    dsimp only
    rw [hrun, hb, hal, hc, hnum]
    rfl
  · exact hmail.trans ((mail_updRegion _ _ _).trans ((mail_updRegion _ _ _).trans (mail_setPhase _ _ _ _)))

/-! ### STOP and REPLAY_STOP (R283, R299) -/

theorem optMin_le (o : Option Nat) (n : Nat) : ∃ m, optMin o n = some m ∧ m ≤ n := by
  cases o with
  | none => exact ⟨n, rfl, le_refl n⟩
  | some m => exact ⟨min m n, rfl, min_le_right m n⟩

theorem toStopping_cores (s : State) (r : Nat) (kind : EndReason) (goal : StopGoal) (cause : Nat) :
    (s.toStopping r kind goal cause).cores = s.cores := by
  unfold State.toStopping
  split
  · rfl
  · dsimp only
    split
    · rw [setPhase_cores]
      rfl
    · rfl

/-- A stop of a running region, its cores stopped by an operation that gives each of them a bound (R83, R299). -/
theorem stopping_spec {P : CoreSt → Prop} {f : CoreSt → CoreSt} (hf : ∀ c, P (f c)) (hy : s.region? r = some y)
    (hp : y.phase = .running) (w : Who) (kind : EndReason) :
    ((∃ z, (((s.awaiting r w 0x0203).updCoresOf r f).toStopping r kind .command 0).region? r = some z ∧ z.num = r ∧
      z.phase = .stopping) ∧
      ∀ c ∈ (((s.awaiting r w 0x0203).updCoresOf r f).toStopping r kind .command 0).cores, c.region = r → P c) ∧
      Mail s (((s.awaiting r w 0x0203).updCoresOf r f).toStopping r kind .command 0) := by
  have hw : (s.awaiting r w 0x0203).region? r = _ := region?_updRegion_of hy fun _ => rfl
  obtain ⟨z, hz, hzp⟩ := region?_toStopping (s := (s.awaiting r w 0x0203).updCoresOf r f) hw hp kind .command 0
  refine ⟨⟨⟨z, hz, State.region?_num hz, hzp⟩, ?_⟩, ?_⟩
  · rw [toStopping_cores]
    exact forall_updCoresOf_all hf
  · exact (mail_updRegion s r _).trans ((mail_updCoresOf _ _ _).trans (mail_toStopping _ _ _ _ _))

theorem cmdStop_running (hr : r < 8) (hy : s.region? r = some y) (hb : y.busy = false) (hp : y.phase = .running) (w : Who) :
    s.cmdStop w r .step = ((s.awaiting r w 0x0203).stopRegionStep r (s.topStep y) .stopStep .command 0, .accepted, []) ∧
    s.cmdStop w r .now =
      ((s.awaiting r w 0x0203).stopRegionNow r (fun _ => true) s.time.cycle s.time.cycle .stop .command 0, .accepted, []) := by
  constructor
  · unfold State.cmdStop
    rw [onRegion_of hr hy hb, hp]
    rfl
  · unfold State.cmdStop
    rw [onRegion_of hr hy hb, hp]
    rfl

theorem region?_rearm (hy : s.region? r = some y) : ∃ k, (s.rearm r).region? r = some { y with pauseFor := k } := by
  rw [State.rearm, hy]
  dsimp only
  split
  · exact ⟨_, region?_armReplay (region?_armPause hy)⟩
  · exact ⟨y.pauseFor, hy⟩

/-- Whether a replay stop names a bundle that no core has. -/
def State.replayBad (s : State) (f : ReplayForm) : Bool :=
  match f with
  | .step _ => false
  | .bundle _ c i o => (s.core? c).isNone || 16384 ≤ i || o = 0

theorem cmdReplayStop_spec {f : ReplayForm} (hr : r < 8) (hy : s.region? r = some y) (hb : y.busy = false) (hl : y.loaded = true)
    (hf : ∀ a c j o, f = .bundle a c j o → (s.core? c).isSome = true ∧ j < 16384 ∧ o ≠ 0) :
    ∃ t, s.cmdReplayStop r f = (t, .ok, []) ∧ Mail s t ∧ ∃ z, t.region? r = some z ∧ z.replayStop = some f := by
  have hgood : s.replayBad f = false := by
    cases f with
    | step k => rfl
    | bundle a c j o =>
      obtain ⟨h1, h2, h3⟩ := hf a c j o rfl
      rw [State.replayBad, Option.isNone_eq_false_iff.mpr h1, decide_eq_false (by omega), decide_eq_false h3]
      rfl
  have hset := region?_updRegion_of (f := fun x => { x with replayStop := some f }) hy fun _ => rfl
  obtain ⟨k, hk⟩ := region?_rearm hset
  refine ⟨(s.updRegion r fun x => { x with replayStop := some f }).rearm r, ?_, ?_, ⟨_, hk, rfl⟩⟩
  · have hrun : s.cmdReplayStop r f = if s.replayBad f = true then s.refuse .badArgument else
        ((s.updRegion r fun x => { x with replayStop := some f }).rearm r, .ok, []) := by
      unfold State.cmdReplayStop
      rw [onRegion_of hr hy hb, hl]
      rfl
    rw [hrun, if_neg (by rw [hgood]; exact Bool.false_ne_true)]
  · exact (mail_updRegion s r _).trans (stirred_rearm _ _).mail

/-! ### DEFINE, UNDEFINE, PARK, REPAIR (R299, R302, R303) -/

/-- A region as DEFINE sets it up. -/
def newRegion (r x0 y0 x1 y1 : Nat) : Region := { num := r, x0 := x0, y0 := y0, x1 := x1, y1 := y1, phase := .parked }

theorem region?_appended (h : s.region? r = none) (hz : z.num = r) (hs : t.regions = s.regions ++ [z]) : t.region? r = some z := by
  unfold State.region? at h ⊢
  rw [hs, List.find?_append, h, Option.none_or, List.find?_cons, hz, beq_self_eq_true]

theorem updRegion_appended (h : s.region? r = none) (hz : z.num = r) (hs : t.regions = s.regions ++ [z]) (f : Region → Region) :
    (t.updRegion r f).regions = s.regions ++ [f z] := by
  show t.regions.map _ = _
  have hne : ∀ e ∈ s.regions, ¬ (e.num == r) = true := List.find?_eq_none.mp h
  have hrest : (s.regions.map fun e => if e.num == r then f e else e) = s.regions :=
    (List.map_congr_left fun e he => if_neg (hne e he)).trans (List.map_id' _)
  rw [hs, List.map_append, hrest, List.map_cons, List.map_nil, hz, beq_self_eq_true, if_pos rfl]

theorem cmdDefine_spec {x0 y0 x1 y1 : Nat} (hr : r < 8) (hp : s.powered = true) (hn : s.region? r = none) (hx : x0 ≤ x1) (hx8 : x1 < 8)
    (hy : y0 ≤ y1) (hy6 : y1 < 6) (hm : ∀ z ∈ s.regions, z.x1 < x0 ∨ x1 < z.x0 ∨ z.y1 < y0 ∨ y1 < z.y0) :
    ∃ t, s.cmdDefine w r x0 y0 x1 y1 = (t, .accepted, []) ∧ Mail s t ∧ ∃ z, t.regions = s.regions ++ [z] ∧ z.num = r ∧
      z.phase = .defining ∧ z.x0 = x0 ∧ z.y0 = y0 ∧ z.x1 = x1 ∧ z.y1 = y1 ∧ z.waiter = some (w.session, w.seq, 0x0300) ∧
      t.cores = s.cores := by
  have hmeet : s.regions.any (rectsMeet (newRegion r x0 y0 x1 y1)) = false := by
    refine List.any_eq_false.mpr fun z hz => ?_
    have hz' := hm z hz
    simp only [rectsMeet, Bool.and_eq_true, decide_eq_true_eq]
    dsimp only [newRegion]
    omega
  have hbad : (decide (x1 < x0) || decide (y1 < y0) || decide (8 ≤ x1) || decide (6 ≤ y1)) = false := by
    simp only [Bool.or_eq_false_iff, decide_eq_false_iff_not]
    omega
  generalize hu : ({ s with regions := s.regions ++ [newRegion r x0 y0 x1 y1] } : State) = u
  have hregs : u.regions = s.regions ++ [newRegion r x0 y0 x1 y1] := by rw [← hu]
  obtain ⟨-, htold, hmail⟩ := awaiting_setPhase (region?_appended hn rfl hregs) w 0x0300 .defining 0
  have hw := updRegion_appended hn rfl hregs fun x => { x with waiter := some (w.session, w.seq, 0x0300) }
  have hw' := updRegion_appended (t := u.awaiting r w 0x0300) hn rfl hw fun x => { x with phase := .defining }
  refine ⟨(u.awaiting r w 0x0300).setPhase r .defining 0, ?_, ?_,
    ⟨{ newRegion r x0 y0 x1 y1 with waiter := some (w.session, w.seq, 0x0300), phase := .defining }, ?_, rfl, rfl, rfl, rfl, rfl, rfl, rfl, ?_⟩⟩
  · unfold State.cmdDefine
    rw [if_neg (by omega), hp, hn]
    rw [Bool.not_true, if_neg Bool.false_ne_true]
    dsimp only
    rw [hbad, if_neg Bool.false_ne_true]
    refine Eq.trans (congrArg (fun b : Bool => if b = true then _ else _) hmeet) ?_
    rw [if_neg Bool.false_ne_true, ← hu]
    rfl
  · exact Mail.trans (t := u) (.of_host (by rw [← hu])) hmail
  · rw [(told_kept htold).2.2.2.2.2.2.2.1]
    exact hw'
  · rw [htold.coresEq, ← hu]
    rfl

theorem cmdUndefine_spec (hr : r < 8) (hy : s.region? r = some y) (hb : y.busy = false) (hp : y.phase = .parked) :
    ∃ t, s.cmdUndefine w r = (t, .accepted, []) ∧ Mail s t ∧
      (∃ z, t.region? r = some z ∧ z.num = r ∧ z.phase = .defining) ∧ t.cores = s.cores ∧ t.mem = s.mem := by
  have hset := region?_updRegion_of (f := fun x => { x with undefining := true }) hy fun _ => rfl
  obtain ⟨hz, htold, hmail⟩ := awaiting_setPhase hset w 0x0301 .defining 0
  refine ⟨_, ?_, (mail_updRegion s r _).trans hmail, ⟨_, hz, (State.region?_num hy :), rfl⟩, htold.coresEq, htold.mem⟩
  unfold State.cmdUndefine
  rw [onRegion_of hr hy hb, hp]
  rfl

theorem cmdPark_spec {release : Bool} (hr : r < 8) (hy : s.region? r = some y) (hb : y.busy = false) (hp : y.phase = .idle) :
    ∃ t, s.cmdPark w r release = (t, .accepted, []) ∧ Mail s t ∧
      (∃ z, t.region? r = some z ∧ z.num = r ∧ z.phase = .parking) ∧ t.mem = s.mem := by
  obtain ⟨q, hq⟩ := region?_endRun (s := s.updCoresOf r fun c => c.flushIf fun _ => true) hy .host
  have hrel := region?_updRegion_of (f := fun x => { x with release := release }) hq fun _ => rfl
  obtain ⟨hz, htold, hmail⟩ := awaiting_setPhase hrel w 0x0302 .parking 0
  refine ⟨_, ?_, ?_, ⟨_, hz, (State.region?_num hy :), rfl⟩, htold.mem.trans ?_⟩
  · unfold State.cmdPark
    rw [onRegion_of hr hy hb, hp]
    rfl
  · exact (mail_updCoresOf s r _).trans ((mail_endRun _ _ _).trans ((mail_updRegion _ r _).trans hmail))
  · exact ((aside_updCoresOf s r _).trans (aside_endRun _ r .host)).mem

/-- The state with the channel of a channel repair parking. -/
def State.parkedFor (s : State) (act : RepairAct) : State :=
  match act with
  | .stackChannel st ch => { s with mem := { s.mem with parked := s.mem.parked ++
      [{ place := .channel st ch, unit := .channel st ch, phase := .pending (some (nextTurn s.time.cycle)) }] } }
  | _ => s

theorem parkedFor_kept (s : State) (act : RepairAct) :
    (s.parkedFor act).regions = s.regions ∧ (s.parkedFor act).cores = s.cores ∧ (s.parkedFor act).host = s.host := by
  cases act with
  | coreSwap l => exact ⟨rfl, rfl, rfl⟩
  | wellRow l k => exact ⟨rfl, rfl, rfl⟩
  | poolRow p k => exact ⟨rfl, rfl, rfl⟩
  | stackChannel st ch => exact ⟨rfl, rfl, rfl⟩

theorem cmdRepair_spec {act : RepairAct} {force : Bool} (hr : r < 8) (hy : s.region? r = some y) (hb : y.busy = false)
    (hp : y.phase = .parked) (ha : s.repairBad y act force = none) :
    ∃ t, s.cmdRepair w r act force = (t, .accepted, []) ∧ Mail s t ∧
      (∃ z, t.region? r = some z ∧ z.num = r ∧ z.phase = .repairing) ∧ t.cores = s.cores ∧
      ∃ z, t.region? r = some z ∧ z.repairing = some act := by
  obtain ⟨hregs, hcores, hhost⟩ := parkedFor_kept s act
  have hp' : (s.parkedFor act).region? r = some y := by rw [State.region?, hregs]; exact hy
  have hset := region?_updRegion_of (f := fun x => { x with repairing := some act }) hp' fun _ => rfl
  obtain ⟨hz, htold, hmail⟩ := awaiting_setPhase hset w 0x0303 .repairing 0
  refine ⟨_, ?_, ?_, ⟨_, hz, (State.region?_num hy :), rfl⟩, htold.coresEq.trans hcores, ⟨_, hz, rfl⟩⟩
  · have hrun : s.cmdRepair w r act force = match s.repairBad y act force with
        | some e => s.refuse e
        | none => ((((s.parkedFor act).updRegion r fun x => { x with repairing := some act }).awaiting r w 0x0303).setPhase r
            .repairing 0, .accepted, []) := by
      unfold State.cmdRepair
      rw [onRegion_of hr hy hb, hp]
      rfl
    rw [hrun, ha]
  · exact (Mail.of_host hhost).trans ((mail_updRegion _ r _).trans hmail)

/-! ### PARK_UNIT (R242) -/

theorem cmdParkUnit_spec {unit : ParkUnit} {pl : ParkPlace} {watch : Option Nat} (hp : s.powered = true)
    (hu : s.unitPlace unit = .ok (pl, watch)) (hn : ∀ e ∈ s.mem.parked, e.place ≠ pl) :
    ∃ t, s.cmdParkUnit w unit true = (t, .accepted, []) ∧ Mail s t ∧ ∃ e n, t.mem.parked = s.mem.parked ++ [e] ∧
      e.place = pl ∧ e.unit = unit ∧ e.phase = .pending n ∧ e.session = w.session ∧ e.seq = w.seq := by
  have hnone : s.mem.parked.find? (fun e => e.place == pl) = none :=
    List.find?_eq_none.mpr fun e he => by simpa using hn e he
  have hrun : s.cmdParkUnit w unit true = ({ s with mem := { s.mem with parked := s.mem.parked ++
      [{ place := pl, unit := unit, phase := .pending (if s.stepsOn unit watch then none else some (nextTurn s.time.cycle))
         watch := watch, since := s.time.cycle, session := w.session, seq := w.seq }] } }, .accepted, []) := by
    unfold State.cmdParkUnit
    rw [hp, hu]
    dsimp only
    rw [hnone]
    rfl
  exact ⟨_, hrun, .of_host rfl, _, _, rfl, rfl, rfl, rfl, rfl, rfl⟩

/-! ### PACE and FAULT_POLICY (R276, R346) -/

theorem putPace_spec (hy : s.region? r = some y) (p i : Nat) :
    ∃ z, (s.putPace r p i).region? r = some z ∧ z.paceP = p ∧ z.paceI = i ∧ z.phase = y.phase := by
  have hset := region?_updRegion_of (f := fun x => { x with paceP := p, paceI := i }) hy fun _ => rfl
  unfold State.putPace
  dsimp only
  rw [hset]
  dsimp only
  generalize Option.getD _ _ = n
  have hrec := region?_updRegion_of (f := fun x => { x with
    runRec := x.runRec.map fun q => { q with paces := q.paces ++ [(n, p, i)] } }) hset fun _ => rfl
  obtain ⟨k, hk⟩ := region?_rearm hrec
  exact ⟨_, hk, rfl, rfl, rfl⟩

theorem cmdPace_spec (hr : r < 8) (hy : s.region? r = some y) (hh : y.hostPace = none)
    (hpi : p = 0 ∧ i = 0 ∨ p ≤ 65535 ∧ 65536 ≤ i ∧ i ≤ 16777216) :
    ∃ t, s.cmdPace r p i = (t, .ok, []) ∧ Mail s t ∧
      ∃ z, t.region? r = some z ∧ z.paceP = p ∧ z.paceI = i ∧ z.phase = y.phase ∧ t.mem = s.mem := by
  have hok : paceOk p i = true := by
    simp only [paceOk, Bool.and_eq_true, Bool.or_eq_true, decide_eq_true_eq, beq_iff_eq]
    omega
  obtain ⟨z, hz, h1, h2, h3⟩ := putPace_spec hy p i
  have hstir := stirred_putPace s r p i
  have hmem : (s.putPace r p i).mem = s.mem := by obtain ⟨_, _, he⟩ := hstir; rw [he]
  refine ⟨_, ?_, hstir.mail, z, hz, h1, h2, h3, hmem⟩
  unfold State.cmdPace State.setPace
  rw [hok, decide_eq_false (by omega), hy]
  dsimp only
  rw [hh]
  rfl

theorem cmdFaultPolicy_spec {k : Nat} {c : FCode} (hr : r < 8) (hy : s.region? r = some y) (hc : fcodeOf k = some c) (hk : k / 16 < 5)
    (hp : p < 3) (hok : policyRegOk (k / 16) (setPolicyField (y.policies.getD (k / 16 - 1) 0) c p) = true)
    (hph : y.phase = .idle ∨ y.phase = .loading) :
    s.cmdFaultPolicy r k p = (s.updRegion r fun x => { x with
      policies := setAt x.policies (k / 16 - 1) (setPolicyField (y.policies.getD (k / 16 - 1) 0) c p) }, .ok, []) := by
  have hbusy : (y.phase != .idle && y.phase != .loading) = false := by
    rcases hph with hph | hph
    · rw [hph]; rfl
    · rw [hph]; rfl
  have hbad : (decide (8 ≤ r) || decide (5 ≤ k / 16) || decide (3 ≤ p)) = false := by
    simp only [Bool.or_eq_false_iff, decide_eq_false_iff_not]
    omega
  unfold State.cmdFaultPolicy
  rw [hc]
  dsimp only
  rw [if_neg (by omega), hbad, if_neg Bool.false_ne_true, hy]
  dsimp only
  rw [hok, hbusy]
  rfl

end Sys2Proof.Machine
end

section
/-! PROOFS. REG_READ, REG_WRITE and DEBUG_ACCESS that are admitted (R317, R333, R337, R338, R385). -/

namespace Sys2Proof.Machine

variable {s t u : State} {w : Who} {g : GA} {loc : RegLoc} {info : RegInfo} {f : ApplyForm} {v l n : Nat}

/-! ### What register writes leave of the host side -/

/-- What is sent is added, the held commands stand, and so does the management harts' restart. -/
structure Awake (s t : State) : Prop where
  mail : Mail s t
  down : t.fw.mgmtDown = s.fw.mgmtDown

theorem Awake.refl (s : State) : Awake s s := ⟨.refl s, rfl⟩

theorem Awake.trans (h : Awake s t) (k : Awake t u) : Awake s u := ⟨h.mail.trans k.mail, k.down.trans h.down⟩

theorem Awake.of_kept (hh : t.host = s.host) (hf : t.fw = s.fw) : Awake s t := ⟨.of_host hh, by rw [hf]⟩

theorem awake_foldl {α : Type} {f : State → α → State} (h : ∀ s x, Awake s (f s x)) (l : List α) (s : State) :
    Awake s (l.foldl f s) := by
  induction l generalizing s with
  | nil => exact Awake.refl s
  | cons x l ih => exact (h s x).trans (ih _)

theorem Spoken.awake (h : Spoken s t) : Awake s t := by
  obtain ⟨_, _, _, _, _, _, _, he⟩ := h.shape
  exact ⟨h.mail, by rw [he]; rfl⟩

theorem Stirred.awake (h : Stirred s t) : Awake s t := by
  obtain ⟨_, _, rfl⟩ := h
  exact .of_kept rfl rfl

theorem awake_raiseFree (s : State) (code : FCode) (cause : Nat) : Awake s (s.raiseFree code cause) := by
  refine ⟨mail_raiseFree s code cause, ?_⟩
  have hcalm := raiseModule_fw { s with time := { s.time with draws := s.time.draws + 1 } } code
    (Config.freeDetail s.time.draws % 2 ^ 32) cause
  exact (congrArg Firmware.mgmtDown hcalm :)

theorem awake_updInd (s : State) (cls inst : Nat) (k : Indirect → Indirect) : Awake s (s.updInd cls inst k) := by
  unfold State.updInd
  split
  · exact .of_kept rfl rfl
  · exact .of_kept rfl rfl

theorem awake_indFail (s : State) (cls inst : Nat) : Awake s (s.indFail cls inst) :=
  (awake_updInd s cls inst _).trans (awake_raiseFree _ _ _)

theorem awake_indRead (s : State) (cls inst : Nat) : Awake s (s.indRead cls inst).1 := by
  unfold State.indRead
  dsimp only
  split
  · exact awake_indFail s cls inst
  · exact awake_updInd s cls inst _

theorem awake_indPut (s : State) (cls inst o v : Nat) : Awake s (s.indPut cls inst o v) := by
  unfold State.indPut
  split
  · exact awake_updInd s cls inst _
  · unfold State.indWrite
    dsimp only
    split
    · exact awake_indFail s cls inst
    · generalize hu : ({ s with glb := _ } : State) = u
      exact Awake.trans (t := u) (.of_kept (by rw [← hu]) (by rw [← hu])) (awake_updInd u cls inst _)
  · exact awake_updInd s cls inst _

theorem awake_regClear (s : State) (loc : RegLoc) : Awake s (s.regClear loc) := by
  have core (k : CoreSt → CoreSt) : Awake s (s.updCore loc.inst k) := .of_kept rfl rfl
  unfold State.regClear
  split
  · exact core _
  · split
    · exact .of_kept rfl rfl
    · exact .of_kept rfl rfl
    · exact .of_kept rfl rfl
    · exact .refl s
  · split
    · exact .of_kept rfl rfl
    · split
      · exact .of_kept rfl rfl
      · split
        · exact .of_kept rfl rfl
        · exact .refl s
  · split
    · exact .of_kept rfl rfl
    · exact .refl s
  · exact .refl s

theorem awake_regReadAt (s : State) (loc : RegLoc) : Awake s (s.regReadAt loc true).1 := by
  unfold State.regReadAt
  split
  · exact awake_indRead s _ _
  · exact awake_regClear s loc

theorem awake_setPace (s : State) (r p i : Nat) : Awake s (s.setPace r p i) := by
  unfold State.setPace
  split
  · split
    · exact (stirred_updRegion s r _).awake
    · exact (stirred_putPace s r p i).awake
  · exact .refl s

theorem awake_regionRegPut (s : State) (r o v : Nat) : Awake s (s.regionRegPut r o v) := by
  unfold State.regionRegPut
  split
  · exact (stirred_updRegion s r _).awake
  · exact (stirred_updRegion s r _).awake
  · exact (stirred_updRegion s r _).awake
  · exact (stirred_updRegion s r _).awake
  · exact awake_setPace s r _ _
  · exact (stirred_updRegion s r _).awake

theorem awake_globalRegPut (s : State) (o v : Nat) : Awake s (s.globalRegPut o v) := by
  unfold State.globalRegPut
  split
  · exact .of_kept rfl rfl
  · split
    · exact .of_kept rfl rfl
    · exact .of_kept rfl rfl

theorem awake_bufferWrite (s : State) (l off v t : Nat) (f : ApplyForm) : Awake s (s.bufferWrite l off v t f) := by
  unfold State.bufferWrite
  split
  · exact .refl s
  · dsimp only
    split
    · split
      · exact .of_kept rfl rfl
      · exact Awake.trans (t := s.updCore l _) (.of_kept rfl rfl) (spoken_ticketMark _ _ _ _).awake
    · exact .of_kept rfl rfl

theorem awake_tallySignal (s : State) (q : Requester) (l v : Nat) : Awake s (s.tallySignal q l v) := by
  unfold State.tallySignal State.applySigs
  dsimp only
  split
  · exact .of_kept rfl rfl
  · generalize hu : State.updCore _ l _ = u
    have hh : u.host = s.host ∧ u.fw = s.fw := by rw [← hu]; exact ⟨rfl, rfl⟩
    refine Awake.trans (t := u) (.of_kept hh.1 hh.2) (awake_foldl (fun v g => ?_) _ u)
    exact .of_kept rfl rfl

theorem awake_coreRegPut (s : State) (q : Requester) (l o v : Nat) : Awake s (s.coreRegPut q l o v) := by
  unfold State.coreRegPut
  split
  · exact awake_tallySignal s q l v
  · split
    · exact .of_kept rfl rfl
    · exact .of_kept rfl rfl

theorem awake_regPut (s : State) (q : Requester) (loc : RegLoc) (info : RegInfo) (f : ApplyForm) (v t : Nat) :
    Awake s (s.regPut q loc info f v t) := by
  unfold State.regPut
  split
  · exact awake_indPut s _ _ _ _
  · exact awake_indPut s _ _ _ _
  · exact awake_regionRegPut s _ _ _
  · exact awake_globalRegPut s _ _
  · refine awake_foldl (fun s l => ?_) _ s
    split
    · exact awake_bufferWrite s l _ _ _ _
    · exact awake_coreRegPut s q l _ _

theorem awake_noteWrite (s : State) (loc : RegLoc) (info : RegInfo) (g v : Nat) : Awake s (s.noteWrite loc info g v) := by
  unfold State.noteWrite
  split
  · exact .refl s
  · exact awake_foldl (fun s (x : Region) => (stirred_updRegion s x.num _).awake) _ s

/-! ### REG_READ and REG_WRITE of one word (R317, R333) -/

theorem cmdRegRead_one {priv : Bool} (h : s.regReadCheck (viewFor priv) g = .ok loc) :
    s.cmdRegRead priv g 1 = ((s.regReadAt loc true).1, .ok, [.num (s.regReadAt loc true).2]) := by
  have hone : (List.range 1).map (fun i => s.regReadCheck (viewFor priv) (g + 8 * i)) = [.ok loc] := congrArg (fun e => [e]) h
  unfold State.cmdRegRead
  dsimp only
  rw [if_neg (by decide), hone]
  rfl

/-- The places at which the entries of a write wait (R317). -/
def State.waitsAt (s : State) (loc : RegLoc) (info : RegInfo) : List Nat :=
  (if info.cls == .b then s.regTargets loc else []).dedup

/-- A write of one word, carried out under a ticket, and reported at once where it waits nowhere (R317). -/
def State.wroteWord (s : State) (w : Who) (loc : RegLoc) (info : RegInfo) (g v : Nat) (f : ApplyForm) : State :=
  let a : State × Nat := if (f != .start) && !(s.waitsAt loc info).isEmpty then s.newTicket w.session w.seq (s.waitsAt loc info) else (s, 0)
  let t := (a.1.noteWrite loc info g v).regPut .host loc info f v a.2
  if (f != .start) && (s.waitsAt loc info).isEmpty then t.appliedNow w (t.regTargets loc).dedup else t

theorem cmdRegWrite_one (h : s.regWriteCheck (viewFor w.priv) g f v = .ok (loc, info)) :
    s.cmdRegWrite w g [v] none f = (s.wroteWord w loc info g v f, .ok, []) := by
  have hone : ((List.range 1).map fun i => (s.bcastGA none (g + 8 * i), [v].getD i 0)) = [(g, v)] := rfl
  have hcheck : ([(g, v)].map fun p => s.regWriteCheck (viewFor w.priv) p.1 f p.2) = [.ok (loc, info)] := congrArg (fun e => [e]) h
  unfold State.cmdRegWrite
  dsimp only [List.length_singleton]
  rw [if_neg (by simp), hone, hcheck]
  dsimp only [firstErr, okList, List.findSome?, List.filterMap, List.zip_cons_cons, List.zip_nil_left]
  simp only [List.flatMap_cons, List.flatMap_nil, List.append_nil]
  rfl


theorem waitsAt_unbuffered (h : info.cls ≠ .b) : s.waitsAt loc info = [] := by
  unfold State.waitsAt
  rw [if_neg (by simpa using h)]
  rfl

/-- A report moves the host side alone where the management harts are up. -/
theorem report_host (h : s.fw.mgmtDown = false) (p : Session → Bool) (code : EvCode) (items : List Item) (core : Option Nat) :
    s.report p code items core = { s with host := (s.report p code items core).host } := by
  obtain ⟨k, m, he⟩ := s.report_shape p code items core
  have hfw := report_fw h p code items core
  rw [he] at hfw ⊢
  exact congrArg (fun m => ({ s with host := k, fw := m } : State)) hfw

/-- A write that waits nowhere acts at once (R317, R337). -/
theorem wroteWord_now (hf : f = .start ∨ info.cls ≠ .b) (hm : s.fw.mgmtDown = false) :
    s.wroteWord w loc info g v f =
      { (s.noteWrite loc info g v).regPut .host loc info f v 0 with host := (s.wroteWord w loc info g v f).host } ∧
    Mail s (s.wroteWord w loc info g v f) := by
  have hput := (awake_noteWrite s loc info g v).trans (awake_regPut _ .host loc info f v 0)
  have hdown := hput.down.trans hm
  have hnone : ((f != .start) && !(s.waitsAt loc info).isEmpty) = false := by
    rcases hf with rfl | hb
    · rfl
    · rw [waitsAt_unbuffered hb, List.isEmpty_nil, Bool.not_true, Bool.and_false]
  unfold State.wroteWord
  rw [hnone, if_neg Bool.false_ne_true]
  dsimp only
  split
  · exact ⟨report_host hdown _ _ _ _, hput.mail.trans (mail_report _ _ _ _ _)⟩
  · exact ⟨rfl, hput.mail⟩

/-! ### Buffered writes (R338) -/

/-- A core holds an entry of a buffered write. -/
def CoreSt.Buffers (c : CoreSt) (off v : Nat) (f : ApplyForm) : Prop := ∃ e ∈ c.cfg, e.off = off ∧ e.value = v ∧ e.target = f

/-- Only the number of a core counts where it is replaced. -/
theorem updCore_const {d : CoreSt} (hd : d.lcore = l) : (s.updCore l fun _ => d) = s.updCore l fun z => { d with lcore := z.lcore } := by
  refine congrArg (fun k => ({ s with cores := k } : State)) (List.map_congr_left fun z _ => ?_)
  by_cases hz : (z.lcore == l) = true
  · dsimp only
    rw [if_pos hz, if_pos hz, beq_iff_eq.mp hz, ← hd]
  · dsimp only
    rw [if_neg hz, if_neg hz]

theorem core?_replace {c d : CoreSt} (h : s.core? l = some c) (hd : d.lcore = l) : (s.updCore l fun _ => d).core? l = some d := by
  rw [updCore_const hd, State.core?_updCore s l (fun z => { d with lcore := z.lcore }) fun _ => rfl, h, Option.map_some,
    State.core?_lcore h, ← hd]

/-- The core of a buffered write, once it is buffered. -/
theorem bufferWrite_core {c : CoreSt} (h : s.core? l = some c) (off v t : Nat) (f : ApplyForm) :
    (s.bufferWrite l off v t f).core? l =
      some (c.buffer { off := off, value := v, target := f, cycle := s.time.cycle, ticket := t } (s.stepsNow l)).1 := by
  have hrep := core?_replace (d := (c.buffer { off := off, value := v, target := f, cycle := s.time.cycle, ticket := t }
    (s.stepsNow l)).1) h (State.core?_lcore h :)
  have hmark (k : Nat) (u : State) : (u.ticketMark k l none).core? l = u.core? l := by
    rw [State.core?, (told_ticketMark u k l none).coresEq, State.core?]
  unfold State.bufferWrite
  rw [h]
  dsimp only
  split
  · split
    · exact hrep
    · exact (hmark _ _).trans hrep
  · exact hrep

/-- A buffered write on another core leaves the core. -/
theorem bufferWrite_other {k : Nat} (hk : k ≠ l) (off v t : Nat) (f : ApplyForm) :
    (s.bufferWrite k off v t f).core? l = s.core? l := by
  have hmark (i : Nat) (u : State) : (u.ticketMark i k none).core? l = u.core? l := by
    rw [State.core?, (told_ticketMark u i k none).coresEq, State.core?]
  unfold State.bufferWrite
  cases hc : s.core? k with
  | none => rfl
  | some c =>
    have hrep : (s.updCore k fun _ => (c.buffer { off := off, value := v, target := f, cycle := s.time.cycle, ticket := t }
        (s.stepsNow k)).1).core? l = s.core? l := by
      have hlc : (c.buffer { off := off, value := v, target := f, cycle := s.time.cycle, ticket := t } (s.stepsNow k)).1.lcore = k :=
        (State.core?_lcore hc :)
      rw [updCore_const hlc]
      exact State.core?_updCore_other s _ (fun _ => rfl) hk.symm
    dsimp only
    split
    · split
      · exact hrep
      · exact (hmark _ _).trans hrep
    · exact hrep

/-- After a buffered write on each of some cores, one of them holds its entry. -/
theorem bufferWrites_buffers {ls : List Nat} {c : CoreSt} (hl : l ∈ ls ∨ c.Buffers n v f) (hc : s.core? l = some c) (t : Nat) :
    ∃ d, (ls.foldl (fun s k => s.bufferWrite k n v t f) s).core? l = some d ∧ d.Buffers n v f := by
  induction ls generalizing s c with
  | nil => exact ⟨c, hc, hl.resolve_left List.not_mem_nil⟩
  | cons k ls ih =>
    rw [List.foldl_cons]
    by_cases hk : k = l
    · subst hk
      refine ih (.inr ?_) (bufferWrite_core hc n v t f)
      exact ⟨_, List.mem_append_right _ (List.mem_singleton_self _), rfl, rfl, rfl⟩
    · refine ih ?_ ((bufferWrite_other hk n v t f).trans hc)
      rcases hl with hl | hl
      · exact .inl ((List.mem_cons.mp hl).resolve_left fun he => hk he.symm)
      · exact .inr hl

/-- A buffered write lands in the buffer of each of its targets (R338). -/
theorem wroteWord_buffers {c : CoreSt} (hb : info.cls = .b) (hl : l ∈ s.regTargets loc) (hc : s.core? l = some c) :
    (∃ d, (s.wroteWord w loc info g v f).core? l = some d ∧ d.Buffers loc.off v f) ∧ Mail s (s.wroteWord w loc info g v f) := by
  have hwait : (s.waitsAt loc info).isEmpty = false := by
    unfold State.waitsAt
    rw [if_pos (by rw [hb]; rfl)]
    exact List.isEmpty_eq_false_iff.mpr (List.ne_nil_of_mem (List.mem_dedup.mpr hl))
  have hnote (u : State) : u.noteWrite loc info g v = u := by
    unfold State.noteWrite
    rw [if_pos (by rw [hb]; rfl)]
  have hput (u : State) (t : Nat) : u.regPut .host loc info f v t =
      (u.regTargets loc).foldl (fun s k => s.bufferWrite k loc.off v t f) u := by
    have hcls : loc.cls ≠ 1 ∧ loc.cls ≠ 2 ∧ loc.cls ≠ 3 ∧ loc.cls ≠ 4 := by
      refine ⟨fun he => ?_, fun he => ?_, fun he => ?_, fun he => ?_⟩
      all_goals
        unfold State.regTargets at hl
        rw [he] at hl
        exact absurd hl List.not_mem_nil
    obtain ⟨h1, h2, h3, h4⟩ := hcls
    unfold State.regPut
    rw [hb]
    split
    · exact absurd ‹_› h1
    · exact absurd ‹_› h2
    · exact absurd ‹_› h3
    · exact absurd ‹_› h4
    · rfl
  unfold State.wroteWord
  rw [hwait, Bool.and_false, if_neg Bool.false_ne_true, hnote, hput]
  split
  · refine ⟨bufferWrites_buffers (c := c) (.inl hl) ?_ _, ?_⟩
    · exact hc
    · rw [← hput]
      exact Mail.trans (t := (s.newTicket w.session w.seq (s.waitsAt loc info)).1) ⟨⟨[], (List.append_nil _).symm⟩, rfl⟩
        (awake_regPut _ .host loc info f v _).mail
  · refine ⟨bufferWrites_buffers (.inl hl) hc _, ?_⟩
    rw [← hput]
    exact (awake_regPut s .host loc info f v 0).mail


/-! ### DEBUG_ACCESS of one word (R385) -/

/-- Where an address names a stack, that follows from the map alone. -/
theorem place_stack_congr {st o : Nat} (h : s.place g = .stack st o) (hk : t.kol = s.kol) : t.place g = .stack st o := by
  have hsp := space_of_stack h
  unfold State.place at h ⊢
  rw [hsp] at h ⊢
  rw [hk]
  split at h
  · split at h
    · cases h
    · cases h
  · rw [if_neg ‹_›]
    exact h

theorem inStack_congr {st o : Nat} (h : InStack s g n st o) (hk : t.kol = s.kol) (hm : t.mem = s.mem) (ht : t.time = s.time) :
    InStack t g n st o := by
  intro i hi
  obtain ⟨hp, hpk, hr⟩ := h i hi
  refine ⟨place_stack_congr hp hk, ?_, ?_⟩
  · unfold State.placeParked State.isParked at hpk ⊢
    rw [hm, ht]
    exact hpk
  · unfold State.refreshing at hr ⊢
    rw [hm, ht]
    exact hr

theorem withBytes_inStack {st o : Nat} {bs : List Byte} (h : InStack s g n st o) (hb : bs.length = n) :
    s.withBytes g bs = s.withStack (stackPut s.mem.stackMem st o bs) :=
  withBytes_stack fun i hi => (h i (by rw [hb] at hi; exact hi)).1

theorem controlAt_stack {st o : Nat} (h : s.place g = .stack st o) : s.controlAt g = false := by
  unfold State.controlAt
  rw [h]

/-- The clock does not run for an access that is done. -/
theorem await_done {j : Job} (hn : 0 < n) {k : Nat} (hj : s.job? k = some j) (hd : s.jobDone j = true) : State.await n k s = s := by
  obtain ⟨m, rfl⟩ := Nat.exists_eq_succ_of_ne_zero (by omega : n ≠ 0)
  unfold State.await
  rw [hj]
  dsimp only
  rw [if_pos hd]

/-- An access of debug, alone on its way, stays in the queue for debug to take. -/
theorem endJob_debug {j : Job} (h : j.fin = .debug) : s.endJob j = s := by
  have hk : (s.jobDone j && j.fin != .debug) = false := by rw [h, bne_self_eq_false, Bool.and_false]
  unfold State.endJob
  rw [hk, if_neg Bool.false_ne_true]

theorem job?_one {j : Job} : (s.withJobs [j]).job? j.stamp = some j := by
  show [j].find? (fun i => i.stamp == j.stamp) = some j
  rw [List.find?_cons, beq_self_eq_true]

theorem filter_one {j : Job} : (s.withJobs [j]).fab.jobs.filter (fun i => i.stamp != j.stamp) = [] := by
  show [j].filter (fun i => i.stamp != j.stamp) = []
  rw [List.filter_cons, bne_self_eq_false, if_neg Bool.false_ne_true, List.filter_nil]

/-- One word of debug whose access is done in its cycle. -/
theorem debugWord_of {j : Job} {data : Option (List Byte)} (ha : s.access (some .debug) g 8 data .clean .debug = u.withJobs [j])
    (hk : j.stamp = s.fab.nextStamp) (hd : (u.withJobs [j]).jobDone j = true) (hf : j.fault = none) :
    s.debugWord g data .clean = (u.withJobs [], if data.isSome then [] else j.bytes, none) := by
  have hwait := await_done (n := debugWait) (Nat.succ_pos _) (job?_one (s := u) (j := j)) hd
  have hfilter : ({ u.withJobs [j] with fab := { (u.withJobs [j]).fab with
      jobs := (u.withJobs [j]).fab.jobs.filter fun i => i.stamp != j.stamp } } : State) = u.withJobs [] :=
    congrArg u.withJobs filter_one
  have hclean (v : State) (bs : List Byte) : v.eccReq g bs .clean = (v, bs, none) := rfl
  unfold State.debugWord
  dsimp only
  rw [ha, ← hk, hwait, job?_one]
  dsimp only
  rw [hfilter, hclean, hf]
  cases data with
  | none => rfl
  | some bs => rfl

theorem debugWord_read {st o : Nat} (hj : s.fab.jobs = []) (h : InStack s g 8 st o) :
    s.debugWord g none .clean = (s.nextStamp.withJobs [], s.stackBytes st o 8, none) := by
  have hacc : s.access (some .debug) g 8 none .clean .debug =
      s.nextStamp.withJobs [((s.jobOf (some .debug) g 8 none .clean .debug).withGot s st o 8).placed] := by
    rw [State.access, placed_read hj (some .debug) .clean .debug h, eachJob_one rfl, endJob_debug rfl]
  have hdone : (s.nextStamp.withJobs [((s.jobOf (some .debug) g 8 none .clean .debug).withGot s st o 8).placed]).jobDone
      ((s.jobOf (some .debug) g 8 none .clean .debug).withGot s st o 8).placed = true := by
    refine decide_eq_true (?_ : 8 ≤ ((List.range 8).map fun i => (i, s.placeByte (.stack st (o + i)))).length)
    rw [List.length_map, List.length_range]
  rw [debugWord_of hacc rfl hdone rfl]
  exact congrArg (fun bs => (s.nextStamp.withJobs [], bs, none)) (bytes_withGot (j := s.jobOf (some .debug) g 8 none .clean .debug))

theorem debugWord_write {st o : Nat} {bs : List Byte} (hw : NoneWaits s) (hb : bs.length = 8) (h : InStack s g 8 st o) :
    s.debugWord g (some bs) .clean = ((s.nextStamp.withBytes g bs).withJobs [], [], none) := by
  rw [← hb] at h
  have hput := withBytes_stack (s := s.nextStamp) fun i hi => (h i hi).1
  have hacc : s.access (some .debug) g 8 (some bs) .clean .debug =
      (s.nextStamp.withBytes g bs).withJobs [(s.jobOf (some .debug) g bs.length (some bs) .clean .debug).placed] := by
    rw [← hb, State.access, placed_write hw (some .debug) .clean .debug h, eachJob_one rfl, endJob_debug rfl]
  refine debugWord_of hacc rfl ?_ rfl
  refine jobDone_write hw (some .debug) .clean .debug ?_
  rw [hput]
  rfl

/-- The level at which an access of debug is admitted (R385). -/
def State.debugAdmits (s : State) (op : DebugOp) : Bool :=
  match s.sec.level, op with
  | .closed, _ => false
  | .observe, .read _ => true
  | .observe, .write _ => false
  | .full, _ => true

theorem cmdDebugAccess_read (ha : s.debugAdmits (.read .clean) = true) :
    s.cmdDebugAccess g 1 (.read .clean) = ((State.debugRead .clean (s, [], none) g).1,
      faultStatus (State.debugRead .clean (s, [], none) g).2.2,
      (State.debugRead .clean (s, [], none) g).2.1 ++ faultItems (State.debugRead .clean (s, [], none) g).2.2) := by
  have hone : (List.range 1).map (fun i => g + 8 * i) = [g] := rfl
  unfold State.cmdDebugAccess
  rw [if_neg (by decide), hone]
  refine Eq.trans (if_neg ?_) rfl
  exact fun hc => Bool.false_ne_true ((congrArg not ha).symm.trans hc)

theorem cmdDebugAccess_write (ha : s.debugAdmits (.write [v]) = true) :
    s.cmdDebugAccess g 1 (.write [v]) = ((State.debugWrite (s, none) (g, v % 2 ^ 64)).1,
      faultStatus (State.debugWrite (s, none) (g, v % 2 ^ 64)).2, faultItems (State.debugWrite (s, none) (g, v % 2 ^ 64)).2) := by
  have hone : (List.range 1).map (fun i => (g + 8 * i, [v].getD i 0 % 2 ^ 64)) = [(g, v % 2 ^ 64)] := rfl
  unfold State.cmdDebugAccess
  rw [if_neg (by simp)]
  refine Eq.trans (if_neg ?_) ?_
  · exact fun hc => Bool.false_ne_true ((congrArg not ha).symm.trans hc)
  · dsimp only
    rw [hone]
    rfl

/-- A word of a stack read from OBSERVE on (R385). -/
theorem debugAccess_read {st o : Nat} (hj : s.fab.jobs = []) (h : InStack s g 8 st o) (hl : s.sec.level ≠ .closed) :
    s.cmdDebugAccess g 1 (.read .clean) = (s.nextStamp.withJobs [], .ok, [.num (leVal (s.stackBytes st o 8))]) := by
  have ha : s.debugAdmits (.read .clean) = true := by
    unfold State.debugAdmits
    cases hk : s.sec.level with
    | closed => exact absurd hk hl
    | observe => rfl
    | full => rfl
  have hrun : State.debugRead .clean (s, [], none) g = (s.nextStamp.withJobs [], [.num (leVal (s.stackBytes st o 8))], none) := by
    unfold State.debugRead
    dsimp only
    rw [controlAt_stack (g := g) ((h 0 (by decide)).1), if_neg Bool.false_ne_true, debugWord_read hj h]
    rfl
  rw [cmdDebugAccess_read ha, hrun]
  rfl

/-- A word of control space read at FULL (R339, R385). -/
theorem debugAccess_control (hl : s.sec.level = .full) (hc : s.controlAt g = true) (hr : s.regReadCheck .p g = .ok loc) :
    s.cmdDebugAccess g 1 (.read .clean) = ((s.regReadAt loc true).1, .ok, [.num (s.regReadAt loc true).2]) := by
  have ha : s.debugAdmits (.read .clean) = true := by
    unfold State.debugAdmits
    rw [hl]
  have hview : s.viewOf .debug = .p := by
    unfold State.viewOf
    rw [hl]
  have hreq : s.reqRead .debug g = ((s.regReadAt loc true).1, (s.regReadAt loc true).2, true) := by
    unfold State.reqRead
    rw [hview, hr]
    rfl
  have hrun : State.debugRead .clean (s, [], none) g = ((s.regReadAt loc true).1, [.num (s.regReadAt loc true).2], none) := by
    unfold State.debugRead
    dsimp only
    rw [hc, if_pos rfl, hreq]
    rfl
  rw [cmdDebugAccess_read ha, hrun]
  rfl

/-- What a write of debug into a running region is noted as. -/
def State.debugNoted (s : State) (g : GA) (v : Nat) : State :=
  match s.runningAt g with
  | some x => (s.ledger 4 [.num g]).noteInput x.num [g, v] (s.inputStep x g)
  | none => s

theorem debugNoted_kept (s : State) (g : GA) (v : Nat) : (s.debugNoted g v).kol = s.kol ∧ (s.debugNoted g v).mem = s.mem ∧
    (s.debugNoted g v).time = s.time ∧ (s.debugNoted g v).fab = s.fab ∧ (s.debugNoted g v).cores = s.cores ∧
    Mail s (s.debugNoted g v) := by
  unfold State.debugNoted
  cases s.runningAt g with
  | none => exact ⟨rfl, rfl, rfl, rfl, rfl, .refl s⟩
  | some x =>
    obtain ⟨-, h2, h3, h4, -, h6, h7, -⟩ := told_kept (told_ledger s 4 [.num g])
    have hmail := mail_ledger s 4 [.num g]
    dsimp only
    generalize s.ledger 4 [.num g] = u at h2 h3 h4 h6 h7 hmail ⊢
    exact ⟨h4, h2, h6, h7, h3, hmail.trans (mail_updRegion u x.num _)⟩

theorem debugWrite_word (hc : s.controlAt g = false) (v : Nat) : State.debugWrite (s, none) (g, v) =
    (((s.debugNoted g v).debugWord g (some (leBytes 8 v)) .clean).1,
      firstFault none ((s.debugNoted g v).debugWord g (some (leBytes 8 v)) .clean).2.2) := by
  unfold State.debugWrite State.debugNoted
  dsimp only
  rw [hc, if_neg Bool.false_ne_true] <;> rfl

/-- A word of a stack that serves, written by debug. -/
theorem debugWrite_stack {st o : Nat} (hw : NoneWaits s) (h : InStack s g 8 st o) (v : Nat) {bs : List Byte}
    (hbs : leBytes 8 v = bs) (hlen : bs.length = 8) : ∃ t, State.debugWrite (s, none) (g, v) = (t, none) ∧ Mail s t ∧
      t.mem = (s.withBytes g bs).mem ∧ t.cores = s.cores := by
  obtain ⟨hkol, hmem, htime, hfab, hcores, hmail⟩ := debugNoted_kept s g v
  have hrun := debugWrite_word (controlAt_stack (g := g) ((h 0 (by decide)).1)) v
  rw [hbs] at hrun
  generalize s.debugNoted g v = u at hkol hmem htime hfab hcores hmail hrun
  have hw' : NoneWaits u := ⟨by rw [hfab]; exact hw.jobs, by rw [hcores, hfab]; exact hw.cores⟩
  have h' : InStack u.nextStamp g 8 st o := inStack_congr h hkol hmem htime
  rw [debugWord_write hw' hlen h', withBytes_inStack h' hlen] at hrun
  refine ⟨_, hrun, hmail.trans (.of_host rfl), ?_, hcores⟩
  rw [withBytes_inStack h hlen]
  show (u.withStack (stackPut u.mem.stackMem st o bs)).mem = _
  rw [State.withStack, State.withStack, hmem]

/-- A word of a stack written at FULL (R385). -/
theorem debugAccess_write {st o : Nat} (hw : NoneWaits s) (h : InStack s g 8 st o) (hl : s.sec.level = .full) (v : Nat) :
    ∃ t, s.cmdDebugAccess g 1 (.write [v]) = (t, .ok, []) ∧ Mail s t ∧
      t.mem = (s.withBytes g (leBytes 8 (v % 2 ^ 64))).mem ∧ t.cores = s.cores := by
  have ha : s.debugAdmits (.write [v]) = true := by
    unfold State.debugAdmits
    rw [hl]
  have hlen (n : Nat) : (leBytes 8 n).length = 8 := rfl
  obtain ⟨t, hrun, hkept⟩ := debugWrite_stack hw h (v % 2 ^ 64) rfl (hlen _)
  rw [cmdDebugAccess_write ha, hrun]
  exact ⟨t, rfl, hkept⟩

end Sys2Proof.Machine
end

section
/-! PROOFS. The region and register commands in their turn: each by what its meaning does (R261, R276, R283, R292, R299 to
R303, R317, R346, R385). -/

namespace Sys2Proof.Machine

section
variable {s : State} {h : Hdr} {x : Session} {y : Region} {rs : List Nat} {r k p i v : Nat} {c : MbxCmd} {row : Instr}
  {st : Status} {items : List Item}

/-- A command in its turn answers as the rule of its meaning says. -/
theorem answers_of_spec {P : State → Prop} (hin : InTurn s h x) (hi : exec row s = .next (s.deliver h c))
    (hp : privCodes.contains (codeOf c) = true → x.priv = true)
    (hspec : ∃ t, (s.noted h).runCmd { session := h.session, seq := h.seq, priv := x.priv } (h.source, h.udp) c = (t, st, items) ∧
      Mail (s.noted h) t ∧ P t) (hst : st ≠ .auth) (hP : ∀ t out, P t → P (t.afterReply out h st items)) :
    Answers row s h st items P := by
  obtain ⟨t, hrun, hmail, hq⟩ := hspec
  exact answers_of_mail hin hi hp hrun hst hmail fun out => hP t out hq

/-- The regions of a list command as the command finds them. -/
theorem listed_noted {P : Region → Prop} (hne : rs ≠ []) (hnd : rs.Nodup) (hlow : ∀ j ∈ rs, j < 8)
    (hstand : ∀ j ∈ rs, ∃ z, s.region? j = some z ∧ P z) : Listed (s.noted h) rs P := ⟨hne, hnd, hlow, hstand⟩

variable (hin : InTurn s h x)
include hin

/-! ### Commands of a privileged session -/

section
variable (hp : x.priv = true)
include hp

theorem load_answers {a : LoadArgs} {plan : LoadPlan} (hr : r < 8) (ha : a.region = r) (hy : s.region? r = some y)
    (hph : y.phase ≠ .running) (hb : y.busy = false) (hal : (s.noted h).inAlloc a.ga a.length = true)
    (hc : (s.noted h).checkLoad y a = .ok plan) : Answers (.load h a) s h .accepted [] fun t =>
      ∃ z, t.region? r = some z ∧ z.phase = .loading ∧ z.loaded = true ∧ z.ran = false ∧ z.obj = some a.object ∧
        z.n = a.n ∧ z.base = (s.fw.loadSeq + 1) * 2 ^ 32 ∧ z.waiter = some (h.session, h.seq, 0x0200) :=
  answers_of_spec hin (c := .load a) rfl (fun _ => hp) (cmdLoad_spec hr ha hy hph hb hal hc) (by decide) fun _ _ q => q

theorem start_answers (hl : Listed (s.noted h) rs fun z => (z.busy = false ∧ z.phase = .idle ∧ z.loaded = true) ∧ z.ran = false ∧
      z.spoiled = false) (hs : ∀ b ∈ s.fab.barriers, b.seq ≤ s.fab.barrierSeq) (ha : s.pwr.state = .active)
    (hm : s.pwr.moving = none) : Answers (.start h rs) s h .accepted [] fun t =>
      Opens s t rs 0 false (h.session, h.seq, 0x0201) ∧
        (s.kol.inDomain = false → s.fab.barrierSeq + 1 < 2 ^ 32 → s.fw.mgmtDown = false →
          (∀ z ∈ s.regions, z.idleAt ≤ s.time.cycle) →
          ∃ b ∈ t.fab.barriers, b.regions = rs ∧ (s.kol.module, s.time.cycle) ∈ b.arrivals) := by
  have hrun := cmdStart_admitted (w := { session := h.session, seq := h.seq, priv := x.priv }) hl
    (fun z ⟨⟨h1, h2, h3⟩, h4, h5⟩ => ⟨h1, h2, h3, h4, h5⟩) ha hm
  obtain ⟨hopens, hmail⟩ := commitTo_opens hl hs 0 false false { session := h.session, seq := h.seq, priv := x.priv } 0x0201
  refine answers_of_spec hin (c := .start rs) rfl (fun _ => hp) ⟨_, hrun, hmail, ⟨hopens, fun hd hq hdown hidle => ?_⟩⟩ (by decide)
    fun _ _ q => q
  exact commitTo_arrives hl hs (fun z ⟨⟨_, h2, h3⟩, h4, h5⟩ => ⟨h2, h3, h4, h5⟩) hd hq hdown hidle _ _

theorem resume_answers (hl : Listed (s.noted h) rs fun z => (z.busy = false ∧ z.phase = .idle ∧ z.loaded = true) ∧
      s.resumable z = true ∧ s.resumeStep z = k) (hs : ∀ b ∈ s.fab.barriers, b.seq ≤ s.fab.barrierSeq) (ha : s.pwr.state = .active)
    (hm : s.pwr.moving = none) : Answers (.resume h rs) s h .accepted [] fun t =>
      Opens s t rs k true (h.session, h.seq, 0x0202) := by
  have hrun := cmdResume_admitted (k := k) (w := { session := h.session, seq := h.seq, priv := x.priv }) hl
    (fun z ⟨⟨h1, h2, _⟩, h4, h5⟩ => ⟨h1, h2, h4, h5⟩) ha hm
  obtain ⟨hopens, hmail⟩ := commitTo_opens hl hs k true false { session := h.session, seq := h.seq, priv := x.priv } 0x0202
  exact answers_of_spec hin (c := .resume rs) rfl (fun _ => hp) ⟨_, hrun, hmail, hopens⟩ (by decide) fun _ _ q => q

theorem solderStep_answers {replace : Bool} (hk : 0 < k) (hl : Listed (s.noted h) rs fun z => z.busy = false ∧
      (z.phase = .running ∨ z.phase = .idle) ∧ z.loaded = true ∧ s.passed z k = false)
    (hs : ∀ b ∈ s.fab.barriers, b.seq ≤ s.fab.barrierSeq) : Answers (.solderStep h rs k replace) s h .accepted [] fun t =>
      Opens s t rs k true (h.session, h.seq, 0x0204) ∧
        ∀ r y, rs = [r] → s.region? r = some y → y.phase = .running → ∃ z, t.region? r = some z ∧ z.phase = .stopping := by
  obtain ⟨t, hrun, hopens, hmail, hstop⟩ := cmdSolderStep_opens (w := { session := h.session, seq := h.seq, priv := x.priv }) hl hs hk
    (fun z hz => hz) replace
  exact answers_of_spec hin (c := .solderStep rs k replace) rfl (fun _ => hp) ⟨t, hrun, hmail, ⟨hopens, hstop⟩⟩ (by decide)
    fun _ _ q => q

theorem stop_answers (hr : r < 8) (hy : s.region? r = some y) (hb : y.busy = false) (hph : y.phase = .running) :
    (Answers (.stop h r .step) s h .accepted [] fun t => (∃ z, t.region? r = some z ∧ z.num = r ∧ z.phase = .stopping) ∧
      ∀ c ∈ t.cores, c.region = r → ∃ n, c.stopBefore = some n ∧ n ≤ max (s.topStep y + 1) (c.step + 1)) ∧
    Answers (.stop h r .now) s h .accepted [] fun t => (∃ z, t.region? r = some z ∧ z.num = r ∧ z.phase = .stopping) ∧
      ∀ c ∈ t.cores, c.region = r → ∃ n, c.stopFrom = some n ∧ n ≤ s.time.cycle := by
  obtain ⟨hstep, hnow⟩ := cmdStop_running (s := s.noted h) hr hy hb hph { session := h.session, seq := h.seq, priv := x.priv }
  constructor
  · obtain ⟨hspec, hmail⟩ := stopping_spec (s := s.noted h) (f := fun c => c.stopStep (s.topStep y))
      (P := fun c => ∃ n, c.stopBefore = some n ∧ n ≤ max (s.topStep y + 1) (c.step + 1))
      (fun c => optMin_le c.stopBefore (max (s.topStep y + 1) (c.step + 1))) hy hph
      { session := h.session, seq := h.seq, priv := x.priv } .stopStep
    exact answers_of_spec hin (c := .stop r .step) rfl (fun _ => hp) ⟨_, hstep, hmail, hspec⟩ (by decide) fun _ _ q => q
  · obtain ⟨hspec, hmail⟩ := stopping_spec (s := s.noted h) (f := fun c => (c.stopAt s.time.cycle).discardUnstarted)
      (P := fun c => ∃ n, c.stopFrom = some n ∧ n ≤ s.time.cycle)
      (fun c => optMin_le c.stopFrom s.time.cycle) hy hph { session := h.session, seq := h.seq, priv := x.priv } .stop
    exact answers_of_spec hin (c := .stop r .now) rfl (fun _ => hp) ⟨_, hnow, hmail, hspec⟩ (by decide) fun _ _ q => q

theorem replayStop_answers {f : ReplayForm} (hr : r < 8) (hy : s.region? r = some y) (hb : y.busy = false) (hl : y.loaded = true)
    (hf : ∀ a c j o, f = .bundle a c j o → (s.core? c).isSome = true ∧ j < 16384 ∧ o ≠ 0) :
    Answers (.replayStop h r f) s h .ok [] fun t => ∃ z, t.region? r = some z ∧ z.replayStop = some f :=
  answers_of_spec hin (c := .replayStop r f) rfl (fun _ => hp) (cmdReplayStop_spec (s := s.noted h) hr hy hb hl hf) (by decide)
    fun _ _ q => q

theorem define_answers {x0 y0 x1 y1 : Nat} (hr : r < 8) (hpow : s.powered = true) (hn : s.region? r = none) (hx : x0 ≤ x1) (hx8 : x1 < 8)
    (hy : y0 ≤ y1) (hy6 : y1 < 6) (hm : ∀ z ∈ s.regions, z.x1 < x0 ∨ x1 < z.x0 ∨ z.y1 < y0 ∨ y1 < z.y0) :
    Answers (.define h r x0 y0 x1 y1) s h .accepted [] fun t => ∃ z, t.regions = s.regions ++ [z] ∧ z.num = r ∧
      z.phase = .defining ∧ z.x0 = x0 ∧ z.y0 = y0 ∧ z.x1 = x1 ∧ z.y1 = y1 ∧ z.waiter = some (h.session, h.seq, 0x0300) ∧
      t.cores = s.cores :=
  answers_of_spec hin (c := .define r x0 y0 x1 y1) rfl (fun _ => hp)
    (cmdDefine_spec (s := s.noted h) (w := { session := h.session, seq := h.seq, priv := x.priv }) hr hpow hn hx hx8 hy hy6 hm)
    (by decide) fun _ _ q => q

theorem undefine_answers (hr : r < 8) (hy : s.region? r = some y) (hb : y.busy = false) (hph : y.phase = .parked) :
    Answers (.undefine h r) s h .accepted [] fun t => (∃ z, t.region? r = some z ∧ z.num = r ∧ z.phase = .defining) ∧
      t.cores = s.cores ∧ t.mem = s.mem :=
  answers_of_spec hin (c := .undefine r) rfl (fun _ => hp) (cmdUndefine_spec (s := s.noted h) hr hy hb hph) (by decide) fun _ _ q => q

theorem park_answers {release : Bool} (hr : r < 8) (hy : s.region? r = some y) (hb : y.busy = false) (hph : y.phase = .idle) :
    Answers (.park h r release) s h .accepted [] fun t => (∃ z, t.region? r = some z ∧ z.num = r ∧ z.phase = .parking) ∧
      t.mem = s.mem :=
  answers_of_spec hin (c := .park r release) rfl (fun _ => hp) (cmdPark_spec (s := s.noted h) hr hy hb hph) (by decide) fun _ _ q => q

theorem repair_answers {act : RepairAct} {force : Bool} (hr : r < 8) (hy : s.region? r = some y) (hb : y.busy = false)
    (hph : y.phase = .parked) (ha : (s.noted h).repairBad y act force = none) :
    Answers (.repair h r act force) s h .accepted [] fun t => (∃ z, t.region? r = some z ∧ z.num = r ∧ z.phase = .repairing) ∧
      t.cores = s.cores ∧ ∃ z, t.region? r = some z ∧ z.repairing = some act :=
  answers_of_spec hin (c := .repair r act force) rfl (fun _ => hp) (cmdRepair_spec (s := s.noted h) hr hy hb hph ha) (by decide)
    fun _ _ q => q

theorem parkUnit_answers {unit : ParkUnit} {pl : ParkPlace} {watch : Option Nat} (hpow : s.powered = true)
    (hu : (s.noted h).unitPlace unit = .ok (pl, watch)) (hn : ∀ e ∈ s.mem.parked, e.place ≠ pl) :
    Answers (.parkUnit h unit true) s h .accepted [] fun t => ∃ e n, t.mem.parked = s.mem.parked ++ [e] ∧ e.place = pl ∧
      e.unit = unit ∧ e.phase = .pending n ∧ e.session = h.session ∧ e.seq = h.seq :=
  answers_of_spec hin (c := .parkUnit unit true) rfl (fun _ => hp)
    (cmdParkUnit_spec (s := s.noted h) (w := { session := h.session, seq := h.seq, priv := x.priv }) hpow hu hn) (by decide)
    fun _ _ q => q

theorem pace_answers (hr : r < 8) (hy : s.region? r = some y) (hh : y.hostPace = none)
    (hpi : p = 0 ∧ i = 0 ∨ p ≤ 65535 ∧ 65536 ≤ i ∧ i ≤ 16777216) :
    Answers (.pace h r p i) s h .ok [] fun t => ∃ z, t.region? r = some z ∧ z.paceP = p ∧ z.paceI = i ∧ z.phase = y.phase ∧
      t.mem = s.mem :=
  answers_of_spec hin (c := .pace r p i) rfl (fun _ => hp) (cmdPace_spec (s := s.noted h) hr hy hh hpi) (by decide) fun _ _ q => q

theorem faultPolicy_answers {fc : FCode} (hr : r < 8) (hy : s.region? r = some y) (hc : fcodeOf k = some fc) (hk : k / 16 < 5)
    (h3 : p < 3) (hok : policyRegOk (k / 16) (setPolicyField (y.policies.getD (k / 16 - 1) 0) fc p) = true)
    (hph : y.phase = .idle ∨ y.phase = .loading) :
    Answers (.faultPolicy h r k p) s h .ok [] fun t => t.cores = s.cores ∧ t.mem = s.mem ∧ ∃ z, t.region? r = some z ∧
      z.policies = setAt y.policies (k / 16 - 1) (setPolicyField (y.policies.getD (k / 16 - 1) 0) fc p) := by
  have hset := region?_updRegion_of (s := s.noted h) (f := fun z => { z with
    policies := setAt z.policies (k / 16 - 1) (setPolicyField (y.policies.getD (k / 16 - 1) 0) fc p) }) hy fun _ => rfl
  exact answers_of_spec hin (c := .faultPolicy r k p) rfl (fun _ => hp)
    ⟨_, cmdFaultPolicy_spec (s := s.noted h) hr hy hc hk h3 hok hph, mail_updRegion _ r _, ⟨rfl, rfl, _, hset, rfl⟩⟩ (by decide)
    fun _ _ q => q

end

/-! ### Commands of any session -/

theorem regionStatus_answers (hr : r < 8) (hy : s.region? r = some y) : ∃ items, Answers (.regionStatus h r) s h .ok
    ([.phase y.phase, .num y.digest, .num y.n, .num y.base] ++ items) (HostOnly s) := by
  have hrun : (s.noted h).cmdRegionStatus r = (s.noted h, .ok, [.phase y.phase, .num y.digest, .num y.n, .num y.base] ++
      ((s.noted h).coresOf r).map fun c => Item.num (if c.begun then c.step - y.base else 2 ^ 64 - 1)) := by
    have hnoted : (s.noted h).region? r = some y := hy
    unfold State.cmdRegionStatus
    rw [if_neg (by omega), hnoted]
  exact ⟨_, answers_read hin (c := .regionStatus r) rfl (priv_of_open rfl) hrun⟩

theorem regRead_answers {g : GA} {loc : RegLoc} (hc : (s.noted h).regReadCheck (viewFor x.priv) g = .ok loc) :
    Answers (.regRead h g 1) s h .ok [.num ((s.noted h).regReadAt loc true).2] fun t =>
      t = { ((s.noted h).regReadAt loc true).1 with host := t.host } :=
  answers_of_mail hin (c := .regRead g 1) rfl (priv_of_open rfl) (cmdRegRead_one hc) (by decide) (awake_regReadAt _ loc).mail
    fun _ => rfl

theorem mgmtUp : s.fw.mgmtDown = false := by
  have hl := hin.heard.listening
  unfold State.listening at hl
  cases hm : s.fw.mgmtDown with
  | false => rfl
  | true =>
    rw [hm, Bool.not_true, Bool.and_false] at hl
    exact absurd hl Bool.false_ne_true

theorem regWrite_answers {g : GA} {loc : RegLoc} {info : RegInfo} {f : ApplyForm}
    (hc : (s.noted h).regWriteCheck (viewFor x.priv) g f v = .ok (loc, info)) (hf : f = .start ∨ info.cls ≠ .b) :
    Answers (.regWrite h g [v] none f) s h .ok [] fun t =>
      t = { (((s.noted h).noteWrite loc info g v).regPut .host loc info f v 0) with host := t.host } := by
  have hrun := cmdRegWrite_one (w := { session := h.session, seq := h.seq, priv := x.priv }) hc
  obtain ⟨hnow, hmail⟩ := wroteWord_now (s := s.noted h) (w := { session := h.session, seq := h.seq, priv := x.priv }) (g := g)
    (loc := loc) (v := v) hf (mgmtUp (s := s) hin)
  generalize (s.noted h).wroteWord _ loc info g v f = t at hrun hnow hmail
  refine answers_of_mail hin (c := .regWrite g [v] none f) rfl (priv_of_open rfl) hrun (by decide) hmail fun out => ?_
  rw [hnow]
  rfl

theorem regWrite_buffers {g : GA} {loc : RegLoc} {info : RegInfo} {f : ApplyForm} {l : Nat} {d : CoreSt}
    (hc : (s.noted h).regWriteCheck (viewFor x.priv) g f v = .ok (loc, info)) (hb : info.cls = .b)
    (hl : l ∈ (s.noted h).regTargets loc) (hd : Alone s l d) :
    Answers (.regWrite h g [v] none f) s h .ok [] fun t =>
      ∃ d, t.core? l = some d ∧ ∃ e ∈ d.cfg, e.off = loc.off ∧ e.value = v ∧ e.target = f := by
  have hrun := cmdRegWrite_one (w := { session := h.session, seq := h.seq, priv := x.priv }) hc
  obtain ⟨hbuf, hmail⟩ := wroteWord_buffers (s := s.noted h) (w := { session := h.session, seq := h.seq, priv := x.priv }) (g := g)
    (v := v) (f := f) hb hl hd.1
  exact answers_of_spec hin (c := .regWrite g [v] none f) rfl (priv_of_open rfl) ⟨_, hrun, hmail, hbuf⟩ (by decide) fun _ _ q => q

theorem debugAccess_stack {g : GA} {st o : Nat} (hw : NoneWaits s) (hs : InStack s g 8 st o) :
    (s.sec.level ≠ .closed → Answers (.debugAccess h g 1 (.read .clean)) s h .ok [.num (leVal (s.stackBytes st o 8))] fun t =>
      t.mem = s.mem ∧ t.cores = s.cores) ∧
    (s.sec.level = .full → Answers (.debugAccess h g 1 (.write [v])) s h .ok [] fun t =>
      t.mem = (s.withBytes g (leBytes 8 (v % 2 ^ 64))).mem ∧ t.cores = s.cores) := by
  have hs' : InStack (s.noted h) g 8 st o := hs
  constructor
  · intro hl
    exact answers_of_mail hin (c := .debugAccess g 1 (.read .clean)) rfl (priv_of_open rfl)
      (debugAccess_read (s := s.noted h) hw.jobs hs' hl) (by decide) (.of_host rfl) fun _ => ⟨rfl, rfl⟩
  · intro hl
    obtain ⟨t, hrun, hmail, hmem, hcores⟩ := debugAccess_write (s := s.noted h) ⟨hw.jobs, hw.cores⟩ hs' hl v
    refine answers_of_mail hin (c := .debugAccess g 1 (.write [v])) rfl (priv_of_open rfl) hrun (by decide) hmail fun _ => ⟨?_, hcores⟩
    have hlen : (leBytes 8 (v % 2 ^ 64)).length = 8 := rfl
    rw [withBytes_inStack hs' hlen] at hmem
    rw [withBytes_inStack hs hlen]
    exact hmem

theorem debugAccess_register {g : GA} {loc : RegLoc} (hl : s.sec.level = .full) (hc : (s.noted h).controlAt g = true)
    (hr : (s.noted h).regReadCheck .p g = .ok loc) :
    Answers (.debugAccess h g 1 (.read .clean)) s h .ok [.num ((s.noted h).regReadAt loc true).2] fun t =>
      t = { ((s.noted h).regReadAt loc true).1 with host := t.host } :=
  answers_of_mail hin (c := .debugAccess g 1 (.read .clean)) rfl (priv_of_open rfl) (debugAccess_control (s := s.noted h) hl hc hr)
    (by decide) (awake_regReadAt _ loc).mail fun _ => rfl

end

/-- Settles O57: each command by the rule of its meaning (`answers_of_spec`). -/
theorem regionCommandsAnswer : Obligations.RegionCommandsAnswer := by
  intro s h x r k p i v rs y replace hin hr
  refine ⟨fun hp => ⟨fun a plan ha hy hph hb hal hc => load_answers hin hp hr ha hy hph hb hal hc,
    fun hl ha hm hz => ?_, fun hl ha hm hz => ?_, fun hl hk hz => ?_, fun hl hk hrs hy hb hph hld hps => ?_,
    fun hy hb hph => stop_answers hin hp hr hy hb hph, fun f hy hb hl hf => replayStop_answers hin hp hr hy hb hl hf,
    fun x0 y0 x1 y1 hpow hn h1 h2 h3 h4 hm => define_answers hin hp hr hpow hn h1 h2 h3 h4 hm,
    fun hy hb hph => undefine_answers hin hp hr hy hb hph, fun hy hb hph => park_answers hin hp hr hy hb hph,
    fun act force hy hb hph ha => repair_answers hin hp hr hy hb hph ha,
    fun unit pl watch hpow hu hn => parkUnit_answers hin hp hpow hu hn,
    fun hy hh hpi => pace_answers hin hp hr hy hh hpi,
    fun fc hy hc hk h3 hok hph => faultPolicy_answers hin hp hr hy hc hk h3 hok hph⟩,
    fun hy => regionStatus_answers hin hr hy, fun g loc hc => regRead_answers hin hc,
    fun g loc info f hc hf => regWrite_answers hin hc hf, fun g loc info f l d hc hb hl hd => regWrite_buffers hin hc hb hl hd,
    fun g st o hw hs => debugAccess_stack hin hw hs, fun g loc hl hc hr => debugAccess_register hin hl hc hr⟩
  · obtain ⟨hne, hnd, hlow, hseq⟩ := hl
    exact start_answers hin hp (listed_noted hne hnd hlow hz) hseq ha hm
  · obtain ⟨hne, hnd, hlow, hseq⟩ := hl
    exact resume_answers hin hp (listed_noted hne hnd hlow hz) hseq ha hm
  · obtain ⟨hne, hnd, hlow, hseq⟩ := hl
    have hstand : ∀ j ∈ rs, ∃ z, s.region? j = some z ∧ z.busy = false ∧ (z.phase = .running ∨ z.phase = .idle) ∧ z.loaded = true ∧
        s.passed z k = false := fun j hj => by
      obtain ⟨z, hzr, ⟨h1, h2, h3⟩, h4⟩ := hz j hj
      exact ⟨z, hzr, h1, .inr h2, h3, h4⟩
    obtain ⟨t, ht, hout, hnext, hopens, -⟩ := solderStep_answers (replace := replace) hin hp hk (listed_noted hne hnd hlow hstand) hseq
    exact ⟨t, ht, hout, hnext, hopens⟩
  · obtain ⟨hne, hnd, hlow, hseq⟩ := hl
    have hstand : ∀ j ∈ rs, ∃ z, s.region? j = some z ∧ z.busy = false ∧ (z.phase = .running ∨ z.phase = .idle) ∧ z.loaded = true ∧
        s.passed z k = false := fun j hj => by
      rw [hrs] at hj
      obtain rfl := List.mem_singleton.mp hj
      exact ⟨y, hy, hb, .inl hph, hld, hps⟩
    obtain ⟨t, ht, hout, hnext, hopens, hstop⟩ := solderStep_answers (replace := replace) hin hp hk
      (listed_noted hne hnd hlow hstand) hseq
    obtain ⟨z, hz, hzp⟩ := hstop r y hrs hy hph
    exact ⟨t, ht, hout, hnext, hopens, z, hz, State.region?_num hz, hzp⟩

end Sys2Proof.Machine
end

section
/-! PROOFS. The canonical form of memories (log 5) through the operations on a core: the slots, the array, the vector
engine. -/

namespace Sys2Proof.Machine

variable {s t : State} {c c0 : CoreSt} {k : Ctx}

/-! ### Tools -/

/-- A property that every step of a fold keeps. -/
theorem foldl_inv {α β : Type} {P : β → Prop} {f : β → α → β} (hf : ∀ b a, P b → P (f b a)) (l : List α) {b : β} (h : P b) :
    P (l.foldl f b) := by
  induction l generalizing b with
  | nil => exact h
  | cons a l ih => exact ih (hf b a h)

theorem State.Canon.foldl {α : Type} {f : State → α → State} (h : s.Canon) (hf : ∀ s a, s.Canon → (f s a).Canon) (l : List α) :
    (l.foldl f s).Canon := foldl_inv hf l h

theorem CoreSt.Canon.foldl {α : Type} {f : CoreSt → α → CoreSt} (h : c.Canon) (hf : ∀ c a, c.Canon → (f c a).Canon) (l : List α) :
    (l.foldl f c).Canon := foldl_inv hf l h

/-- A core of a state in form. -/
theorem State.Canon.core {l : Nat} (h : s.Canon) (hc : s.core? l = some c) : c.Canon := h.2 c (List.mem_of_find?_eq_some hc)

/-- The four memories of a core, each in form. -/
theorem CoreSt.Canon.withSpad (h : c.Canon) {m : Mem} (hm : Mem.wf m = true) : CoreSt.Canon { c with spad := m } := by
  obtain ⟨-, h2, h3, h4⟩ := h
  exact ⟨hm, h2, h3, h4⟩

theorem CoreSt.Canon.withAcc (h : c.Canon) {m : Mem} (hm : Mem.wf m = true) : CoreSt.Canon { c with acc := m } := by
  obtain ⟨h1, -, h3, h4⟩ := h
  exact ⟨h1, hm, h3, h4⟩

theorem CoreSt.Canon.withDesc (h : c.Canon) {m : Mem} (hm : Mem.wf m = true) : CoreSt.Canon { c with desc := m } := by
  obtain ⟨h1, h2, -, h4⟩ := h
  exact ⟨h1, h2, hm, h4⟩

theorem CoreSt.Canon.withImem (h : c.Canon) {m : Mem} (hm : Mem.wf m = true) : CoreSt.Canon { c with imem := m } := by
  obtain ⟨h1, h2, h3, -⟩ := h
  exact ⟨h1, h2, h3, hm⟩

theorem CoreSt.Canon.spadWf (h : c.Canon) : Mem.wf c.spad = true := h.1
theorem CoreSt.Canon.accWf (h : c.Canon) : Mem.wf c.acc = true := h.2.1
theorem CoreSt.Canon.descWf (h : c.Canon) : Mem.wf c.desc = true := h.2.2.1
theorem CoreSt.Canon.imemWf (h : c.Canon) : Mem.wf c.imem = true := h.2.2.2

/-! ### Faults, tallies, counters -/

theorem CoreSt.Canon.addOne (h : c.Canon) (cycle : Nat) (a : TallyAdd) : (c.addOne cycle a).Canon := by
  unfold CoreSt.addOne
  dsimp only
  split
  · exact h
  · exact h

theorem CoreSt.Canon.settleTallies (h : c.Canon) (cycle : Nat) : (c.settleTallies cycle).Canon := by
  refine CoreSt.Canon.foldl (c := { c with tallies := (List.range 48).map c.avail, taken := List.replicate 48 0, fresh := [] }) h
    (fun d a hd => hd.addOne cycle a) (addOrder c.fresh)

theorem CoreSt.Canon.choose (h : c.Canon) (e : ChoiceEntry) : (c.choose e).Canon := by
  unfold CoreSt.choose
  dsimp only
  split
  · exact h
  · exact h

theorem CoreSt.Canon.putByte (h : c.Canon) (off : Nat) (b : Byte) : (c.putByte off b).Canon := by
  unfold CoreSt.putByte
  split
  · exact h.withSpad (Mem.set_wf _ _ h.spadWf)
  · exact h.withAcc (Mem.set_wf _ _ h.accWf)
  · exact h.withDesc (Mem.set_wf _ _ h.descWf)
  · exact h.withImem (Mem.set_wf _ _ h.imemWf)
  · exact h
  · exact h
  · exact h

/-! ### The S slot -/

/-- The choice that a TWAITANY or QWAITANY has made, noted. -/
theorem CoreSt.Canon.chosen (h : c.Canon) (div counts : Bool) (e : ChoiceEntry) :
    (if counts then (if div then { c with diverged := true } else c).choose e
      else if div then { c with diverged := true } else c).Canon := by
  cases div with
  | false =>
    cases counts with
    | false => exact h
    | true => exact h.choose e
  | true =>
    cases counts with
    | false => exact h
    | true => exact CoreSt.Canon.choose (c := { c with diverged := true }) h e

theorem CoreSt.Canon.applySCore (h : c.Canon) (k : Ctx) (c0 : CoreSt) (op : SOp) : (applySCore k c0 op c).Canon := by
  cases op with
  | cset cd src =>
    cases src with
    | imm v => exact h
    | word w => exact h
  | cmp pd rel ca src =>
    cases src with
    | imm v => exact h
    | reg cb => exact h
    | word w => exact h
  | twaitany t k1 cd n =>
    show CoreSt.Canon (match resolveAny (replayIndex k c0 false) (readyTallies c0 t.toNat k1.toNat n.toNat) with
      | none => c
      | some (j, counts, div) => _)
    split
    · exact h
    · exact CoreSt.Canon.chosen (c := (c.takeTally _ _).setCounter _ _) h _ _ _
  | dadv w dim src => exact h.withDesc (Mem.write_wf _ _ h.descWf)
  | loop cl len1 src =>
    unfold Sys2Proof.Machine.applySCore
    dsimp only
    split
    · exact h
    · exact h
  | _ => exact h

theorem CoreSt.Canon.backEdges (h : c.Canon) (loops : List LoopEntry) (idx : Nat) : (backEdges loops idx c).1.Canon := by
  induction loops generalizing c with
  | nil => exact h
  | cons e r ih =>
    unfold Sys2Proof.Machine.backEdges
    split
    · dsimp only
      split
      · exact h
      · exact ih h
    · exact h

theorem CoreSt.Canon.advancePc (h : c.Canon) (c0 : CoreSt) (b : Bundle) (ok : Bool) : (advancePc c0 b ok c).1.Canon := by
  unfold Sys2Proof.Machine.advancePc
  split
  · exact h
  · split
    · split
      · exact h
      · exact h
    · exact h.backEdges _ _
  · split
    · exact h
    · split
      · exact h
      · exact h.backEdges _ _

/-! ### The X slot -/

theorem CoreSt.Canon.enterXfer (h : c.Canon) (k : Ctx) (c0 : CoreSt) (f : XFields) : (enterXfer k c0 f c).Canon := by
  unfold Sys2Proof.Machine.enterXfer
  dsimp only
  split
  · split
    · split
      · exact h
      · exact h
    · split
      · exact h
      · exact h
  · split
    · split
      · exact h
      · exact h
    · split
      · exact h
      · exact h

theorem CoreSt.Canon.applyXCore (h : c.Canon) (k : Ctx) (c0 : CoreSt) (op : XOp) : (applyXCore k c0 op c).Canon := by
  unfold Sys2Proof.Machine.applyXCore
  split
  · exact h
  · split
    · exact h
    · exact CoreSt.Canon.chosen (c := (c.takeTag _).setCounter _ _) h _ _ _
  · exact h
  · split
    · exact h.enterXfer k c0 _
    · exact h

/-! ### The M slot and the array -/

theorem CoreSt.Canon.applyM (h : c.Canon) (k : Ctx) (c0 : CoreSt) (op : MOp) : (applyM k c0 op c).Canon := by
  unfold Sys2Proof.Machine.applyM
  dsimp only
  split
  · exact h
  · exact h
  · exact h
  · exact h
  · split
    · exact h
    · exact h

theorem CoreSt.Canon.skipM (h : c.Canon) (k : Ctx) (c0 : CoreSt) (op : MOp) (code : FCode) : (skipM k c0 op code c).Canon := by
  unfold Sys2Proof.Machine.skipM
  dsimp only
  split
  · exact h
  · exact h
  · exact h
  · exact h
  · split
    · exact h
    · exact h

theorem CoreSt.Canon.enterRecord (h : c.Canon) (cycle : Nat) (j : PassJob) : (enterRecord c cycle j).Canon := by
  unfold Sys2Proof.Machine.enterRecord
  split
  · exact h
  · dsimp only
    split
    · exact h
    · exact h

theorem applyAccWrite_wf {m : Mem} (h : Mem.wf m = true) (w : AccWrite) : Mem.wf (applyAccWrite m w) = true :=
  foldl_inv (P := fun p : Mem × Nat => Mem.wf p.1 = true) (fun _ _ hp => Mem.write_wf _ _ hp) w.values (b := (m, w.entry)) h

theorem zeroLines_wf {m : Mem} (h : Mem.wf m = true) (c : CoreSt) (now : Nat) : Mem.wf (zeroLines c now m) = true := by
  refine foldl_inv (P := fun m : Mem => Mem.wf m = true) (fun m z hm => ?_) c.zeros h
  split
  · exact Mem.zero_wf _ _ hm
  · exact hm

theorem CoreSt.Canon.mCycle (h : c.Canon) (cycle : Nat) (claims : List Claim) : (mCycle c cycle claims).1.Canon := by
  have load (d : CoreSt) (hd : d.Canon) (l : Option LoadJob) (cl : List Claim) :
      (match l with | some j => loadRow d cl j | none => (d, cl, [])).1.Canon := by
    cases l with
    | none => exact hd
    | some j => exact hd
  have row (d : CoreSt) (hd : d.Canon) (p : Option PassJob) (cl : List Claim) :
      (match p with | some j => enterRow d cycle cl j | none => (d, cl, [])).1.Canon := by
    cases p with
    | none => exact hd
    | some j => exact hd
  unfold Sys2Proof.Machine.mCycle
  extract_lets now load? pass? doLoad doRow older
  split
  rename_i c1 cl1 l1 h1
  split
  rename_i c2 cl2 l2 h2
  have hc1 : c1.Canon := by
    rw [show c1 = (if older = true then doLoad c claims else doRow c claims).1 by rw [h1]]
    split
    · exact load c h _ _
    · exact row c h _ _
  have hc2 : c2.Canon := by
    rw [show c2 = (if older = true then doRow c1 cl1 else doLoad c1 cl1).1 by rw [h2]]
    split
    · exact row c1 hc1 _ _
    · exact load c1 hc1 _ _
  extract_lets c3 acc acc'
  have hc3 : c3.Canon := by
    dsimp only [c3]
    split
    · exact hc2.enterRecord cycle _
    · split
      · exact hc2
      · split
        · exact hc2
        · exact hc2
  have hacc : Mem.wf acc' = true :=
    zeroLines_wf (foldl_inv (P := fun m : Mem => Mem.wf m = true) (fun m w hm => applyAccWrite_wf hm w) _ hc3.accWf) _ _
  exact hc3.withAcc hacc

theorem CoreSt.Canon.mSettle (h : c.Canon) (cycle : Nat) : (mSettle c cycle).Canon := by
  unfold Sys2Proof.Machine.mSettle
  extract_lets now gone c1 c2
  have h1 : c1.Canon := by
    show CoreSt.Canon (match gone.getLast? with | some j => { c with lagLast := j.lagMax } | none => c)
    split
    · exact h
    · exact h
  have h2 : c2.Canon := h1
  split
  · split
    · exact h2
    · exact h2
  · exact h2

/-! ### The V slot and the vector engine -/

theorem CoreSt.Canon.applyV (h : c.Canon) (k : Ctx) (c0 : CoreSt) (op : VOp) : (applyV k c0 op c).Canon := by
  unfold Sys2Proof.Machine.applyV
  split
  · split
    · exact h
    · exact h
  · split
    · exact h
    · exact h
  · exact h

theorem CoreSt.Canon.skipV (h : c.Canon) (k : Ctx) (c0 : CoreSt) (op : VOp) (code : FCode) : (skipV k c0 op code c).Canon := by
  unfold Sys2Proof.Machine.skipV
  dsimp only
  split
  · exact h
  · exact h

theorem CoreSt.Canon.gatherCycle (h : c.Canon) (c0 : CoreSt) (t : Nat) (job : VJob) : (gatherCycle c0 t c job).1.Canon := by
  unfold Sys2Proof.Machine.gatherCycle
  split
  · extract_lets load g store c1 c2 f hit
    have h1 : c1.Canon := by
      dsimp only [c1]
      split
      · exact h
      · exact h
    have h2 : c2.Canon := by
      dsimp only [c2]
      split
      · exact h1
      · exact h1
    split
    · exact h2
    · split
      · exact h
      · exact h
  · exact h

theorem CoreSt.Canon.gatherAll (h : c.Canon) (c0 : CoreSt) (t : Nat) (jobs : List VJob) : (gatherAll c0 t c jobs).1.Canon := by
  induction jobs generalizing c with
  | nil => exact h
  | cons j r ih => exact ih (h.gatherCycle c0 t j)

theorem CoreSt.Canon.vCycle (h : c.Canon) (k : Ctx) (t : Nat) (claims : List Claim) : (vCycle k c t claims).1.Canon := by
  have hg := h.gatherAll c t (jobsCycle k c t claims c.vjobs).1
  exact hg.withSpad (Mem.writeCells_wf _ hg.spadWf)

end Sys2Proof.Machine
end

section
/-! PROOFS. The canonical form of memories (log 5) through reports, ports, signals and the transfers of the queues. -/

namespace Sys2Proof.Machine

variable {s t : State} {c c0 : CoreSt} {k : Ctx}

/-! ### The memories of the module, each in form -/

theorem State.Canon.wellsWf (h : s.Canon) : Mem.wf s.mem.wells = true := h.1.1
theorem State.Canon.poolsWf (h : s.Canon) : Mem.wf s.mem.pools = true := h.1.2.1
theorem State.Canon.stackWf (h : s.Canon) : Mem.wf s.mem.stackMem = true := h.1.2.2.1
theorem State.Canon.prepWf (h : s.Canon) : Mem.wf s.mem.prep = true := h.1.2.2.2

theorem State.Canon.withWells (h : s.Canon) {m : Mem} (hm : Mem.wf m = true) :
    State.Canon { s with mem := { s.mem with wells := m } } := ⟨⟨hm, h.poolsWf, h.stackWf, h.prepWf⟩, h.2⟩

theorem State.Canon.withPools (h : s.Canon) {m : Mem} (hm : Mem.wf m = true) :
    State.Canon { s with mem := { s.mem with pools := m } } := ⟨⟨h.wellsWf, hm, h.stackWf, h.prepWf⟩, h.2⟩

theorem State.Canon.withStack (h : s.Canon) {m : Mem} (hm : Mem.wf m = true) :
    State.Canon { s with mem := { s.mem with stackMem := m } } := ⟨⟨h.wellsWf, h.poolsWf, hm, h.prepWf⟩, h.2⟩

theorem State.Canon.withPrep (h : s.Canon) {m : Mem} (hm : Mem.wf m = true) :
    State.Canon { s with mem := { s.mem with prep := m } } := ⟨⟨h.wellsWf, h.poolsWf, h.stackWf, hm⟩, h.2⟩

theorem State.Canon.putByte (h : s.Canon) (p : Place) (b : Byte) : (s.putByte p b).Canon := by
  cases p with
  | core l o => exact h.updCore l fun _ hc => hc.putByte o b
  | well ph o => exact h.withWells (Mem.set_wf _ _ h.wellsWf)
  | pool d o => exact h.withPools (Mem.set_wf _ _ h.poolsWf)
  | stack st o => exact h.withStack (Mem.set_wf _ _ h.stackWf)
  | _ => exact h

theorem State.Canon.putBytes (h : s.Canon) {α : Type} (p : State → α → Place) (b : α → Byte) (l : List α) :
    (l.foldl (fun s a => s.putByte (p s a) (b a)) s).Canon := h.foldl (fun _ _ hs => hs.putByte _ _) l

/-! ### Reports, stops and module faults -/

theorem State.Canon.net (h : s.Canon) (ht : Net s t) : t.Canon := by
  obtain ⟨ps, o, rfl⟩ := ht
  exact h

theorem State.Canon.spoken (h : s.Canon) (ht : Spoken s t) : t.Canon := by
  obtain ⟨⟨_, _, _, _, _, _, _, rfl⟩, -⟩ := ht
  exact h

theorem State.Canon.ledger (h : s.Canon) (kind : Nat) (items : List Item) : (s.ledger kind items).Canon :=
  h.spoken (spoken_ledger s kind items)

theorem State.Canon.moduleStop (h : s.Canon) (p : Policy) (cause : Nat) : (s.moduleStop p cause).Canon := by
  refine h.foldl (fun s x hs => ?_) _
  dsimp only
  split
  · exact hs
  · cases p with
    | log => exact hs
    | stopStep => exact hs.stopRegionStep _ _ _ _ _
    | stop => exact hs.stopRegionNow _ _ _ _ _ _ _

theorem State.Canon.raiseModule (h : s.Canon) (code : FCode) (detail cause : Nat) : (s.raiseModule code detail cause).Canon := by
  unfold State.raiseModule
  extract_lets f p stop _ _ s1 s2 s3
  have h1 : s1.Canon := h
  have h2 : s2.Canon := h1.notify _ _ _
  have h3 : s3.Canon := h2
  exact h3.moduleStop _ _

theorem State.Canon.raiseFree (h : s.Canon) (code : FCode) (cause : Nat) : (s.raiseFree code cause).Canon :=
  State.Canon.raiseModule (s := { s with time := { s.time with draws := s.time.draws + 1 } }) h _ _ _

theorem State.Canon.cmtSend (h : s.Canon) (session stream kind : Nat) (ga : GA) (word : Nat) (data : List Byte) :
    (s.cmtSend session stream kind ga word data).Canon := by
  unfold State.cmtSend
  split
  · exact h
  · exact h

theorem State.Canon.cmtError (h : s.Canon) (session stream psn : Nat) (code : FCode) :
    (s.cmtError session stream psn code).Canon := h.cmtSend _ _ _ _ _ _

theorem State.Canon.sendFlit (h : s.Canon) (p vl kind : Nat) (hdr : FlitHdr) (data : List Byte) :
    (s.sendFlit p vl kind hdr data).Canon := h.net (net_sendFlit _ _ _ _ _ _)

theorem State.Canon.pump (h : s.Canon) (p : Nat) : (s.pump p).Canon := h.net (net_pump _ _)

theorem State.Canon.flood (h : s.Canon) (kind : Nat) (hdr : FlitHdr) (data : List Byte) : (s.flood kind hdr data).Canon :=
  h.net (net_flood _ _ _ _)

/-- A packet along a route, where there is one. -/
theorem State.Canon.sendRouted (h : s.Canon) (r : Option (Nat × Nat)) (vl kind : Nat) (hdr : FlitHdr) (data : List Byte) :
    (match r with | some (p, _) => s.sendFlit p vl kind hdr data | none => s).Canon := by
  cases r with
  | none => exact h
  | some r => exact h.sendFlit _ _ _ _ _

theorem State.Canon.sendMsg (h : s.Canon) (m kind srcCore : Nat) (msg : MgmtMsg) : (s.sendMsg m kind srcCore msg).Canon := by
  unfold State.sendMsg
  split
  · exact h.sendFlit _ _ _ _ _
  · exact h

/-! ### The S and X slots on the module -/

theorem State.Canon.sendSignal (h : s.Canon) (c : CoreSt) (bundle m l t n : Nat) : (s.sendSignal c bundle m l t n).Canon := by
  unfold State.sendSignal
  split
  · exact h
  · dsimp only
    split
    · exact h.raise _ _ _ _ _ _
    · exact h

theorem State.Canon.applyS (h : s.Canon) (k : Ctx) (c0 : CoreSt) (op : SOp) : (applyS k c0 op s).Canon := by
  unfold Sys2Proof.Machine.applyS
  have hu := h.updCore c0.lcore fun c hc => hc.applySCore k c0 op
  dsimp only
  split
  · exact hu.addTally _ _ _ _ _ _
  · exact hu.sendSignal _ _ _ _ _ _
  · exact hu

theorem State.Canon.takeNow (h : s.Canon) (l pc : Nat) (op : SOp) : (s.takeNow l pc op).Canon := by
  unfold State.takeNow
  split
  · split
    · exact h.updCore _ fun _ hc => hc
    · exact h.raise _ _ _ _ _ _
  · exact h

theorem State.Canon.writeTag (h : s.Canon) (c0 : CoreSt) (w : Opnd) (tag : Nat) : (writeTag c0 w tag s).Canon := by
  unfold Sys2Proof.Machine.writeTag
  dsimp only
  split
  · exact h
  · split
    · exact h.raise _ _ _ _ _ _
    · exact h.updCore _ fun _ hc => hc.withSpad (Mem.write_wf _ _ hc.spadWf)

theorem State.Canon.applyX (h : s.Canon) (k : Ctx) (c0 : CoreSt) (op : XOp) : (applyX k c0 op s).Canon := by
  unfold Sys2Proof.Machine.applyX
  have hu := h.updCore c0.lcore fun c hc => hc.applyXCore k c0 op
  dsimp only
  split
  · split
    · exact hu.writeTag _ _ _
    · exact hu
  · exact hu

theorem State.Canon.skipX (h : s.Canon) (k : Ctx) (c0 : CoreSt) (op : XOp) (code : FCode) : (skipX k c0 op code s).Canon := by
  unfold Sys2Proof.Machine.skipX
  split
  · exact h
  · split
    · exact h
    · split
      · exact h.updCore _ fun _ hc => hc
      · split
        · dsimp only
          split
          · exact h.writeTag _ _ _
          · exact h
        · exact h

/-! ### Start conditions and starts -/

theorem CoreSt.Canon.serveList (h : c.Canon) (l : List Cond) (blocked : List Nat) : (serveList l blocked c).1.Canon := by
  induction l generalizing blocked c with
  | nil => exact h
  | cons x r ih =>
    unfold Sys2Proof.Machine.serveList
    split
    · dsimp only
      exact ih (c := (c.takeTally x.tally x.count).updQueue x.q _) h _
    · exact ih h _

theorem CoreSt.Canon.serveConds (h : c.Canon) : c.serveConds.Canon := h.serveList c.conds []

theorem CoreSt.Canon.serveOne (h : c.Canon) (q idx : Nat) : (c.serveOne q idx).Canon := by
  unfold CoreSt.serveOne
  split
  · exact h
  · split
    · split
      · exact h
      · exact h
    · exact h

theorem State.Canon.xferFault (h : s.Canon) (l : Nat) (x : Xfer) (code : FCode) (write : Bool) (g : GA) :
    (s.xferFault l x code write g).Canon := by
  unfold State.xferFault
  split
  · exact h
  · split
    · exact h
    · split
      · exact h
      · split
        refine State.Canon.raise ?_ _ _ _ _ _ _
        exact h.updCore _ fun _ hc => hc

/-- A fault where an address has one. -/
theorem State.Canon.xferFaultAt (h : s.Canon) (l : Nat) (x : Xfer) (code : FCode) (write : Bool) (g : Option GA) :
    (match g with | some g => s.xferFault l x code write g | none => s).Canon := by
  cases g with
  | none => exact h
  | some g => exact h.xferFault _ _ _ _ _

theorem State.Canon.requestRuns (h : s.Canon) (l : Nat) (x : Xfer) (m : Nat) (rs : List (GA × Nat)) (off : Nat) :
    (s.requestRuns l x m rs off).Canon := by
  induction rs generalizing s off with
  | nil => exact h
  | cons a r ih =>
    refine ih ?_ _
    split
    · refine State.Canon.sendFlit ?_ _ _ _ _ _
      exact h
    · exact h

theorem State.Canon.startOne (h : s.Canon) (l : Nat) (x : Xfer) : (s.startOne l x).Canon := by
  unfold State.startOne
  split
  · exact h
  · extract_lets reserve s1 src dst s2 s3 m
    have h1 : s1.Canon := h.updCore _ fun _ hc => hc
    have h2 : s2.Canon := h1.xferFaultAt l x .addressUnmapped false src
    have h3 : s3.Canon := h2.xferFaultAt l x .addressUnmapped true dst
    split
    · exact h3.requestRuns _ _ _ _ _
    · exact h3

theorem State.Canon.startQueue (h : s.Canon) (l q : Nat) : (s.startQueue l q).Canon := by
  unfold State.startQueue
  split
  · exact h
  · dsimp only
    split
    · exact h
    · split
      · exact h
      · split
        · exact h
        · exact h.foldl (fun s z hs => hs.startOne l z) _

/-! ### Reading the source -/

theorem State.Canon.takeBank (h : s.Canon) {l b : Nat} (ht : s.takeBank l b = some t) : t.Canon := by
  unfold State.takeBank at ht
  split at ht
  · cases ht
  · split at ht
    · cases ht
    · cases ht
      exact h.updCore _ fun _ hc => hc

theorem State.Canon.eccCount (h : s.Canon) (g : GA) (corrected : Bool) : (s.eccCount g corrected).Canon := by
  unfold State.eccCount
  extract_lets _ u
  have hu : u.Canon := by
    dsimp only [u]
    split
    · exact h
    · exact h
  split
  · split
    · exact hu
    · exact hu
  · exact hu

theorem State.Canon.noteRead (h : s.Canon) (l q idx gen : Nat) (cells : List (Nat × Byte)) :
    (s.noteRead l q idx gen cells).Canon := by
  unfold State.noteRead
  split
  · exact h
  · refine h.updCore _ fun c hc => ?_
    dsimp only
    split
    · exact hc
    · exact hc

theorem State.Canon.eccChunk (h : s.Canon) (l : Nat) (x : Xfer) (off : Nat) (cells : List (Nat × Byte)) (e : EccOutcome) :
    (s.eccChunk l x off cells e).1.Canon := by
  unfold State.eccChunk
  split
  · exact h
  · exact h
  · exact (h.eccCount _ _).xferFault _ _ _ _ _
  · exact (h.eccCount _ _).xferFault _ _ _ _ _

theorem State.Canon.pullChunk (h : s.Canon) (l : Nat) (x : Xfer) (off len : Nat) (e : EccOutcome) :
    (s.pullChunk l x off len e).Canon := by
  unfold State.pullChunk
  extract_lets miss reads now fault bank s1
  have h1 : s1.Canon := by
    have hf : ∀ f : Option (FCode × GA), (match f with | some (f, g) => s.xferFault l x f false g | none => s).Canon := by
      rintro (_ | ⟨f, g⟩)
      · exact h
      · exact h.xferFault _ _ _ _ _
    exact hf fault
  split
  · exact h
  · split
    · exact h.noteRead _ _ _ _ _
    · split
      rename_i s2 now2 heq
      have h2 : s2.Canon := by
        have := h1.eccChunk l x off now e
        rw [heq] at this
        exact this
      extract_lets s3 p
      have h3 : s3.Canon := by
        dsimp only [s3]
        split
        · exact h2
        · exact h2.noteRead _ _ _ _ _
      split
      · exact h3
      · exact h3

theorem State.Canon.servePull (h : s.Canon) (p : Pull) : (s.servePull p).Canon := by
  unfold State.servePull
  split
  · exact h
  · refine h.foldl (fun s t hs => ?_) _
    split
    · exact hs
    · rename_i u hu
      exact (hs.takeBank hu).noteRead _ _ _ _ _

theorem State.Canon.outbound (h : s.Canon) : s.outbound.Canon := h.foldl (fun _ p hs => hs.servePull p) s.fab.pulls

/-! ### Landing -/

theorem State.Canon.markLanded (h : s.Canon) (l q idx gen member off len : Nat) :
    (s.markLanded l q idx gen member off len).Canon := h.updCore _ fun _ hc => hc

theorem State.Canon.landStream (h : s.Canon) {l : Nat} {x : Xfer} {member off : Nat} {bs : List Byte}
    (ht : s.landStream l x member off bs = some t) : t.Canon := by
  unfold State.landStream at ht
  split at ht
  · obtain ⟨p, -, rfl⟩ := Option.map_eq_some_iff.1 ht
    refine State.Canon.updCore ?_ _ fun _ hc => hc
    exact h.updCore _ fun _ hc => hc
  · cases ht
    exact h

theorem State.Canon.sendRuns (h : s.Canon) (l : Nat) (x : Xfer) (m : Nat) (rs : List (GA × Nat)) (last : Bool) (bs : List Byte) :
    (s.sendRuns l x m rs last bs).Canon := by
  induction rs generalizing s bs with
  | nil => exact h
  | cons a r ih =>
    refine ih ?_ _
    split
    · exact h.sendFlit _ _ _ _ _
    · exact h

theorem State.Canon.sendChunk (h : s.Canon) (l : Nat) (x : Xfer) (d : Delivery) (m off : Nat) (bs : List Byte) :
    (s.sendChunk l x d m off bs).Canon := (h.sendRuns _ _ _ _ _ _).updCore _ fun _ hc => hc

theorem State.Canon.putChunk (h : s.Canon) (l : Nat) (x : Xfer) (d : Delivery) (off : Nat) (bs : List Byte) :
    (s.putChunk l x d off bs).1.Canon := by
  unfold State.putChunk
  dsimp only
  split
  · split
    · rename_i u hu
      exact (h.landStream hu).markLanded _ _ _ _ _ _ _
    · exact h
  · split
    · exact (h.xferFault _ _ _ _ _).markLanded _ _ _ _ _ _ _
    · exact h.sendChunk _ _ _ _ _ _
    · split
      · exact h
      · exact h.updCore _ fun _ hc => hc
    · split
      · exact h
      · exact (h.putBytes _ _ _).markLanded _ _ _ _ _ _ _

theorem State.Canon.stepChunk (h : s.Canon) (k : Chunk) : (s.stepChunk k).1.Canon := by
  unfold State.stepChunk
  split
  · exact h
  · split
    · exact h
    · have hp := fun x => h.pullChunk k.issuer x k.off k.len k.ecc
      dsimp only
      split
      · exact hp _
      · split
        · exact hp _
        · split
          · exact hp _
          · exact (hp _).putChunk _ _ _ _ _

theorem State.Canon.stepChunks (h : s.Canon) : s.stepChunks.Canon :=
  foldl_inv (P := fun a : State × List Chunk => a.1.Canon) (fun a k (ha : a.1.Canon) => ha.stepChunk k) s.fab.chunks
    (b := (s, [])) h

theorem State.Canon.landOne (h : s.Canon) (l : Nat) (w : Landing) : (s.landOne l w).1.Canon := by
  refine foldl_inv (P := fun a : State × Landing => a.1.Canon) (fun a g (ha : a.1.Canon) => ?_) _ (b := (s, w)) h
  dsimp only
  split
  · exact ha
  · rename_i u hu
    exact (ha.takeBank hu).updCore _ fun _ hc => hc.withSpad (Mem.writeCells_wf _ hc.spadWf)

theorem State.Canon.inbound (h : s.Canon) (l : Nat) : (s.inbound l).Canon := by
  unfold State.inbound
  split
  · exact h
  · rename_i c _
    have hl := foldl_inv (P := fun a : State × List Landing => a.1.Canon)
      (f := fun a w => let (s, w) := a.1.landOne l w; (s, a.2 ++ [w])) (fun a w (ha : a.1.Canon) => ha.landOne l w)
      c.landing (b := (s, [])) h
    split
    rename_i u ws heq
    rw [heq] at hl
    refine State.Canon.foldl ?_ (fun s w hs => hs.markLanded _ _ _ _ _ _ _) _
    exact hl.updCore _ fun _ hc => hc

theorem State.Canon.bytesLanded (h : s.Canon) (l q idx member off len : Nat) (e : EccOutcome) :
    (s.bytesLanded l q idx member off len e).Canon := by
  unfold State.bytesLanded
  split
  · exact h
  · exact h.markLanded _ _ _ _ _ _ _
  · refine h.foldl (fun s p hs => ?_) _
    exact hs.stepChunk _

theorem State.Canon.chainForward (h : s.Canon) (l q idx member off len : Nat) :
    (s.chainForward l q idx member off len).Canon := by
  unfold State.chainForward
  split
  · exact h
  · split
    · exact h
    · dsimp only
      split
      · split
        · exact h.updCore _ fun _ hc => hc
        · exact h
      · exact h

/-! ### Completion and announces -/

theorem CoreSt.Canon.completeOne (h : c.Canon) (q : Nat) : (c.completeOne q).Canon := by
  unfold CoreSt.completeOne
  split
  · exact h
  · split
    · exact h
    · dsimp only
      split
      · exact h
      · exact h

theorem CoreSt.Canon.completeAll (h : c.Canon) (n q : Nat) : (c.completeAll n q).Canon := by
  induction n generalizing c with
  | zero => exact h
  | succ n ih => exact ih (h.completeOne q)

theorem State.Canon.announceApplied (h : s.Canon) (l q idx member : Nat) : (s.announceApplied l q idx member).Canon := by
  unfold State.announceApplied
  split
  · exact h
  · split
    · exact h
    · split
      · exact h
      · extract_lets target own ready s1 det
        have h1 : s1.Canon := h.updCore _ fun _ hc => hc
        split
        · exact h
        · split
          · exact h1
          · split
            · exact h1.raise _ _ _ _ _ _
            · split
              · exact h1.raise _ _ _ _ _ _
              · exact h1.addTally _ _ _ _ _ _

theorem State.Canon.announceTimeout (h : s.Canon) (l q idx member : Nat) : (s.announceTimeout l q idx member).Canon := by
  unfold State.announceTimeout
  split
  · exact h
  · split
    · exact h
    · split
      · exact h
      · split
        · exact h
        · extract_lets seen s1
          have h1 : s1.Canon := h.updCore _ fun _ hc => hc
          split
          · exact h1
          · exact h1.raise _ _ _ _ _ _

theorem State.Canon.announceTimeouts (h : s.Canon) (l : Nat) : (s.announceTimeouts l).Canon := by
  unfold State.announceTimeouts
  split
  · exact h
  · exact h.foldl (fun s e hs => hs.announceTimeout _ _ _ _) _

/-! ### Signals -/

theorem State.Canon.coreSignal (h : s.Canon) (g : Signal) : (s.coreSignal g).Canon := by
  unfold State.coreSignal
  dsimp only
  split
  · exact h.sendRouted _ _ _ _ _
  · split
    · exact h.raise _ _ _ _ _ _
    · split
      · exact h.raise _ _ _ _ _ _
      · exact h.addTally _ _ _ _ _ _

theorem State.Canon.hostAnnounce (h : s.Canon) (g : Signal) (session stream psn : Nat) :
    (s.hostAnnounce g session stream psn).Canon := by
  unfold State.hostAnnounce
  split
  · exact h.cmtError _ _ _ _
  · split
    · exact h.cmtError _ _ _ _
    · exact h.addTally _ _ _ _ _ _

theorem State.Canon.reportBack (h : s.Canon) (m : Nat) (r : TargetReport) : (s.reportBack m r).Canon := h.sendMsg _ _ _ _

theorem State.Canon.remoteSignal (h : s.Canon) (g : Signal) (m src : Nat) (r : TargetReport) :
    (s.remoteSignal g m src r).Canon := by
  unfold State.remoteSignal
  split
  · exact h.reportBack _ _
  · split
    · exact h.reportBack _ _
    · exact h.addTally _ _ _ _ _ _

theorem State.Canon.signalApplied (h : s.Canon) (id : Nat) : (s.signalApplied id).Canon := by
  unfold State.signalApplied
  split
  · exact h
  · split
    · exact h
    · extract_lets _ s1
      have h1 : s1.Canon := h
      split
      · exact h1.coreSignal _
      · exact h1.hostAnnounce _ _ _ _
      · exact h1.remoteSignal _ _ _ _
      · exact h1.remoteSignal _ _ _ _

theorem State.Canon.readAhead (h : s.Canon) (l q idx off len : Nat) : (s.readAhead l q idx off len).Canon := by
  unfold State.readAhead
  split
  · exact h
  · split
    · dsimp only
      split
      · exact h
      · exact h
    · exact h

end Sys2Proof.Machine
end

section
/-! PROOFS. The canonical form of memories (log 5) through the combiners, the accesses and the background path. -/

namespace Sys2Proof.Machine

variable {s t : State} {c c0 : CoreSt} {k : Ctx}

/-! ### The combiner of a core -/

theorem CoreSt.Canon.flushIf (h : c.Canon) (p : CombEntry → Bool) : (c.flushIf p).Canon := h

theorem CoreSt.Canon.combTake (h : c.Canon) {cycle : Nat} {a : CombAcc} {d : CoreSt} (hd : c.combTake cycle a = some d) :
    d.Canon := by
  unfold CoreSt.combTake at hd
  split at hd
  · split at hd
    · cases hd
      exact h
    · split at hd
      · cases hd
        exact h
      · cases hd
  · cases hd
    exact h

theorem CoreSt.Canon.combRoom (h : c.Canon) : c.combRoom.Canon := by
  unfold CoreSt.combRoom
  split
  · split
    · exact h
    · exact h
  · exact h

theorem CoreSt.Canon.combScan (h : c.Canon) (cycle : Nat) : (c.combScan cycle).Canon := by
  refine foldl_inv (P := fun a : CoreSt × List CombAcc => a.1.Canon) (fun a w (ha : a.1.Canon) => ?_) c.combWait (b := (c, [])) h
  split
  · exact ha
  · split
    · rename_i d hd
      exact ha.combTake hd
    · exact ha.combRoom

theorem State.Canon.requesterFence (h : s.Canon) (req : Requester) : (s.requesterFence req).Canon := by
  refine ⟨h.1, fun c hc => ?_⟩
  obtain ⟨d, hd, rfl⟩ := List.mem_map.1 hc
  exact (h.2 d hd).flushIf _

/-! ### Serving -/

/-- A state that is one of two. -/
theorem State.Canon.of_ite {p : Prop} [Decidable p] (hs : s.Canon) (ht : t.Canon) : (if p then s else t).Canon := by
  split
  · exact hs
  · exact ht

theorem State.Canon.updJob (h : s.Canon) (stamp : Nat) (f : Job → Job) : (s.updJob stamp f).Canon := h

theorem State.Canon.deliverRead (h : s.Canon) (l : Nat) (req : Requester) (sink : ReadSink) (bs : List Byte) :
    (s.deliverRead l req sink bs).Canon := by
  cases sink with
  | none => exact h
  | some p => exact h

theorem State.Canon.combPerform (h : s.Canon) (l : Nat) (e : CombEntry) : (s.combPerform l e).Canon := by
  unfold State.combPerform
  split
  · exact h.deliverRead _ _ _ _
  · exact h.updCore _ fun _ hc => hc.withSpad (Mem.writeCells_wf _ hc.spadWf)

theorem State.Canon.combServe (h : s.Canon) (l : Nat) : (s.combServe l).Canon := by
  unfold State.combServe
  split
  · exact h
  · refine State.Canon.updCore ?_ l fun _ hc => hc
    refine foldl_inv (P := fun a : State × List CombEntry => a.1.Canon) (fun a e (ha : a.1.Canon) => ?_) _ (b := (s, [])) h
    split
    · exact ha
    · split
      · exact ha
      · rename_i u hu
        exact (ha.takeBank hu).combPerform l e

theorem accSet_wf {m : Mem} (h : Mem.wf m = true) (i : Nat) (v : Nat) : Mem.wf (accSet m i v) = true := Mem.write_wf _ _ h

theorem State.Canon.accServe (h : s.Canon) (l : Nat) : (s.accServe l).Canon := by
  unfold State.accServe
  split
  · exact h
  · refine State.Canon.updCore ?_ l fun _ hc => hc
    refine foldl_inv (P := fun a : State × List AccWord × Nat × Nat => a.1.Canon) (fun a w (ha : a.1.Canon) => ?_) _
      (b := (s, [], _, _)) h
    obtain ⟨u, rest, wr, rd⟩ := a
    dsimp only
    split
    · exact ha
    · split
      · split
        · exact ha
        · exact State.Canon.updCore ha _ fun _ hc => hc.withAcc (accSet_wf hc.accWf _ _)
      · split
        · exact ha
        · exact State.Canon.deliverRead ha _ _ _ _

theorem State.Canon.applySigs (h : s.Canon) (l : Nat) : (s.applySigs l).Canon := by
  unfold State.applySigs
  split
  · exact h
  · refine State.Canon.foldl ?_ (fun s g hs => hs.addTally _ _ _ _ _ _) _
    exact h.updCore l fun _ hc => hc

theorem State.Canon.tallySignal (h : s.Canon) (req : Requester) (l v : Nat) : (s.tallySignal req l v).Canon := by
  refine State.Canon.applySigs ?_ l
  exact State.Canon.updCore (s := s.nextStamp) h l fun _ hc => hc

/-! ### Accesses through a combiner -/

theorem State.Canon.windowFault (h : s.Canon) (l : Nat) (req : Requester) (readOnly : Bool) :
    (s.windowFault l req readOnly).Canon := by
  cases req with
  | prep _ => exact h.raise _ _ _ _ _ _
  | debug => exact h.raise _ _ _ _ _ _
  | _ => exact h

theorem State.Canon.putWindow (h : s.Canon) (l off : Nat) (bs : List Byte) : (s.putWindow l off bs).Canon :=
  h.updCore l fun _ hc => hc.foldl (fun _ x hd => hd.putByte x.1 x.2) _

theorem State.Canon.combPart (h : s.Canon) (l : Nat) (req : Requester) (stamp off len : Nat) (data : Option (List Byte))
    (sink : ReadSink) : (s.combPart l req stamp off len data sink).1.Canon := by
  unfold State.combPart
  split
  · exact h.windowFault _ _ _
  · exact h.updCore l fun _ hc => hc
  · split
    · exact h.updCore l fun _ hc => hc
    · exact h
  · split
    · split
      · exact h.putWindow _ _ _
      · exact h.windowFault _ _ _
    · exact h.deliverRead _ _ _ _

theorem State.Canon.combEnter (h : s.Canon) (l : Nat) : (s.combEnter l).Canon := h.updCore l fun _ hc => hc.combScan _

theorem State.Canon.combAccess (h : s.Canon) (l : Nat) (req : Requester) (off len : Nat) (data : Option (List Byte)) :
    (s.combAccess l req off len data).Canon := by
  unfold State.combAccess
  split
  · exact h
  · refine State.Canon.combEnter ?_ l
    exact State.Canon.foldl (s := s.nextStamp) h (fun u p hu => hu.combPart _ _ _ _ _ _ _) _

/-! ### What ends of accesses send -/

theorem State.Canon.noteBytes (h : s.Canon) (g : GA) (bs : List Byte) : (s.noteBytes g bs).Canon := by
  unfold State.noteBytes
  split
  · exact h
  · exact h

theorem State.Canon.sendAck (h : s.Canon) (x : Stream) : (s.sendAck x).Canon := by
  unfold State.sendAck
  dsimp only
  split
  · exact h
  · exact h

theorem State.Canon.sendData (h : s.Canon) (session num n : Nat) (g : GA) (bs : List Byte) :
    (s.sendData session num n g bs).Canon := by
  induction n generalizing s g bs with
  | zero => exact h
  | succ n ih =>
    unfold State.sendData
    split
    · exact h
    · exact ih (h.cmtSend _ _ _ _ _ _) _ _

theorem State.Canon.forward (h : s.Canon) (vl kind : Nat) (hdr : FlitHdr) (data : List Byte) :
    (s.forward vl kind hdr data).Canon := h.sendRouted _ _ _ _ _

theorem State.Canon.respond (h : s.Canon) (n : Nat) (hdr : FlitHdr) (bs : List Byte) : (s.respond n hdr bs).Canon := by
  induction n generalizing s bs with
  | zero => exact h
  | succ n ih =>
    unfold State.respond
    split
    · exact h
    · exact ih (h.forward _ _ _ _) _

/-! ### The pieces of an access -/

theorem State.Canon.outerPiece (h : s.Canon) {j : Job} {l o off n : Nat} (ht : s.outerPiece j l o off n = some t) : t.Canon := by
  unfold State.outerPiece at ht
  split at ht
  · split at ht
    · cases ht
    · cases ht
      exact h.updCore l fun _ hc => hc
  · obtain ⟨u, hu, rfl⟩ := Option.map_eq_some_iff.1 ht
    exact (h.takeBank hu).updJob _ _

theorem State.Canon.servePiece (h : s.Canon) {j : Job} {off n : Nat} (ht : s.servePiece j off n = some t) : t.Canon := by
  unfold State.servePiece at ht
  dsimp only at ht
  split at ht
  · cases ht
    exact h
  · split at ht
    · exact h.outerPiece ht
    · cases ht
      have hp (l : Nat) (q : Requester) (o : Nat) (sink : ReadSink) :=
        h.combPart l q j.stamp o n (j.data.map fun bs => (bs.drop off).take n) sink
      exact State.Canon.of_ite (hp _ _ _ _) (State.Canon.updJob (hp _ _ _ _) _ _)
  · split at ht
    · cases ht
    · split at ht
      · cases ht
        exact h.putBytes _ _ _
      · cases ht
        exact h

/-! ### The life of an access -/

theorem State.Canon.eccReq (h : s.Canon) (g : GA) (bs : List Byte) (e : EccOutcome) : (s.eccReq g bs e).1.Canon := by
  unfold State.eccReq
  split
  · exact h
  · exact h
  · exact h.eccCount _ _
  · exact h.eccCount _ _

theorem State.Canon.cmtFault (h : s.Canon) (session num psn : Nat) (f : Option (FCode × GA)) :
    (s.cmtFault session num psn f).Canon := by
  cases f with
  | none => exact h
  | some f => exact h.cmtError _ _ _ _

theorem State.Canon.outerAnnounce (h : s.Canon) (port stamp : Nat) (hdr : FlitHdr) : (s.outerAnnounce port stamp hdr).Canon := by
  unfold State.outerAnnounce
  split
  · exact h
  · exact h

theorem State.Canon.reportFault (h : s.Canon) (hdr : FlitHdr) (write : Bool) (f : Option (FCode × GA)) :
    (s.reportFault hdr write f).Canon := by
  cases f with
  | none => exact h
  | some f => exact h.reportBack _ _

/-- An access that reads through ECC has its end in the state that the counts leave. -/
theorem State.Canon.finishJob (h : s.Canon) (j : Job) : (s.finishJob j).Canon := by
  have he := h.eccReq j.ga j.bytes j.ecc
  unfold State.finishJob
  split
  · exact State.Canon.of_eq he rfl rfl
  · split
    · exact h
    · exact h
  · exact State.Canon.cmtFault (h.noteBytes _ _) _ _ _ _
  · exact State.Canon.cmtFault (h.noteBytes _ _) _ _ _ _
  · exact State.Canon.cmtFault (he.sendData _ _ _ _ _) _ _ _ _
  · dsimp only
    split
    · exact State.Canon.sendAck (s := s.cmtLanded _ _ _) h _
    · exact h
  · refine State.Canon.done ?_ _ _ _ _ _
    exact h
  · exact (he.respond _ _ _).reportFault _ _ _
  · exact (h.reportFault _ _ _).outerAnnounce _ _ _
  · exact h

theorem State.Canon.placeJob (h : s.Canon) (j : Job) : (s.placeJob j).Canon := by
  refine foldl_inv (P := fun a : State × List (Nat × Nat) => a.1.Canon) (fun a p (ha : a.1.Canon) => ?_) j.todo (b := (s, [])) h
  split
  · rename_i u hu
    exact ha.servePiece hu
  · exact ha

theorem State.Canon.eachJob (h : s.Canon) {f : State → Job → State} (hf : ∀ s j, s.Canon → (f s j).Canon) :
    (s.eachJob f).Canon := by
  refine h.foldl (fun s k hs => ?_) _
  split
  · exact hs
  · split
    · exact hs
    · exact hf _ _ hs

theorem State.Canon.endJob (h : s.Canon) (j : Job) : (s.endJob j).Canon := by
  unfold State.endJob
  split
  · refine State.Canon.finishJob ?_ j
    exact h
  · exact h

theorem State.Canon.access (h : s.Canon) (req : Option Requester) (g : GA) (len : Nat) (data : Option (List Byte))
    (ecc : EccOutcome) (fin : JobEnd) : (s.access req g len data ecc fin).Canon :=
  (State.Canon.eachJob (s := s.addJob req g len data ecc fin) h fun _ j hs => hs.placeJob j).eachJob fun _ j hs => hs.endJob j

/-! ### The background path -/

theorem State.Canon.fenceWork (h : s.Canon) : s.fenceWork.Canon := by
  refine h.foldl (fun s j hs => ?_) _
  split
  · exact hs.requesterFence _
  · exact hs

theorem State.Canon.background (h : s.Canon) : s.background.Canon := by
  unfold State.background
  extract_lets ls s1 s2 s3 s4 s5
  have h1 : s1.Canon := h.outbound.stepChunks
  have h2 : s2.Canon := h1.foldl (fun _ l hs => hs.inbound l) ls
  have h3 : s3.Canon := h2.eachJob fun _ j hs => hs.placeJob j
  have h4 : s4.Canon := State.Canon.fenceWork (h3.foldl (fun _ l hs => hs.combEnter l) ls)
  have h5 : s5.Canon := h4.foldl (fun _ l hs => hs.combServe l) ls
  exact (h5.eachJob fun _ j hs => hs.endJob j).foldl (fun _ l hs => hs.applySigs l) ls

end Sys2Proof.Machine
end

section
/-! PROOFS. The canonical form of memories (log 5) through issue, parking units and a cycle of the clock. -/

namespace Sys2Proof.Machine

variable {s t : State} {c c0 : CoreSt} {k : Ctx}

/-! ### Configuration at a boundary -/

theorem CoreSt.Canon.cfgWrite (h : c.Canon) (e : CfgEntry) : (c.cfgWrite e).Canon := by
  unfold CoreSt.cfgWrite
  split
  · exact h
  · exact h

theorem CoreSt.Canon.withCfg (h : c.Canon) (cycle base : Nat) : (c.withCfg cycle base).Canon :=
  CoreSt.Canon.foldl (c := { c with cfg := c.cfg.filter fun e => !e.dueAt cycle c.nextStep base }) h
    (fun _ e hc => hc.cfgWrite e) _

theorem State.Canon.ticketMark (h : s.Canon) (id lcore : Nat) (step : Option Nat) : (s.ticketMark id lcore step).Canon :=
  h.spoken (spoken_ticketMark s id lcore step)

theorem State.Canon.boundary (h : s.Canon) (l base : Nat) : (s.boundary l base).Canon := by
  unfold State.boundary
  split
  · exact h
  · refine State.Canon.foldl ?_ (fun s e hs => State.Canon.ticketMark (s := s.noteInput _ _ _) hs _ _ _) _
    refine h.updCore l fun d hd => ?_
    exact CoreSt.Canon.withCfg hd _ base

/-! ### Issuing -/

/-- What a skipped slot leaves. -/
theorem State.Canon.skipSlot (h : s.Canon) (k : Ctx) (c0 : CoreSt) (b : Bundle) (sl : Slot) (code : FCode) :
    (match sl with
      | .s => s
      | .x => Sys2Proof.Machine.skipX k c0 b.x code s
      | .m => s.updCore c0.lcore (Sys2Proof.Machine.skipM k c0 b.m code)
      | .v => s.updCore c0.lcore (Sys2Proof.Machine.skipV k c0 b.v code)).Canon := by
  cases sl with
  | s => exact h
  | x => exact h.skipX _ _ _ _
  | m => exact h.updCore _ fun _ hc => hc.skipM _ _ _ _
  | v => exact h.updCore _ fun _ hc => hc.skipV _ _ _ _

theorem State.Canon.issueSlot (h : s.Canon) (k : Ctx) (c0 : CoreSt) (b : Bundle) (sl : Slot) (v : Verdict) (out : Bool) :
    (s.issueSlot k c0 b sl v out).Canon := by
  unfold State.issueSlot
  dsimp only
  split
  · exact h.skipSlot k c0 b sl _
  · split
    · exact State.Canon.skipSlot (h.raise _ _ _ _ _ _) k c0 b sl _
    · split
      · exact h.applyS _ _ _
      · exact h.applyX _ _ _
      · exact h.updCore _ fun _ hc => hc.applyM _ _ _
      · exact h.updCore _ fun _ hc => hc.applyV _ _ _

theorem State.Canon.skipRest (h : s.Canon) (k : Ctx) (c0 : CoreSt) (b : Bundle) : (s.skipRest k c0 b).Canon :=
  h.updCore _ fun _ hc => (hc.skipM _ _ _ _).skipV _ _ _ _

theorem State.Canon.finish (h : s.Canon) (c0 : CoreSt) (b : Bundle) (ok halt : Bool) : (s.finish c0 b ok halt).Canon := by
  unfold State.finish
  extract_lets l s1
  have h1 : s1.Canon := h.updCore l fun c hc => (hc.advancePc c0 b ok :)
  split
  · exact h1
  · split
    · refine State.Canon.updCore ?_ l fun _ hc => hc
      exact h1.raise _ _ _ _ _ _
    · exact h1

theorem State.Canon.replayHit (h : s.Canon) (k : Ctx) (c0 : CoreSt) : (s.replayHit k c0).Canon := by
  unfold State.replayHit
  split
  · split
    · exact State.Canon.stopRegionNow (h.updRegion _ _) _ _ _ _ _ _ _
    · exact h
  · exact h

theorem State.Canon.issueBundle (h : s.Canon) (l : Nat) (p : Presented) (w : Verdicts) : (s.issueBundle l p w).Canon := by
  unfold State.issueBundle
  split
  · exact h
  · rename_i c _
    extract_lets k b failed s1 s2
    have h1 : s1.Canon := by
      show (match failed with | some d => s.raise l .tallyImbalance (some .s) c.pc d true | none => s).Canon
      cases failed with
      | none => exact h
      | some d => exact h.raise _ _ _ _ _ _
    have h2 : s2.Canon := by
      dsimp only [s2]
      split
      · exact h1.boundary _ _
      · exact h1
    split
    · exact h1.updCore l fun _ hc => hc
    · split
      · exact h2
      · split
        · exact State.Canon.replayHit ((State.Canon.skipRest (h2.raise _ _ _ _ _ _) _ _ _).finish _ _ _ _) _ _
        · split
          · exact State.Canon.replayHit ((State.Canon.skipRest (h2.raise _ _ _ _ _ _) _ _ _).finish _ _ _ _) _ _
          · extract_lets moved view s3 s4 s5
            have h3 : s3.Canon := h2.foldl (fun s sl hs => hs.issueSlot _ _ _ _ _ _) allSlots
            have h4 : s4.Canon := h3.updCore l fun _ hc => hc.serveConds
            have h5 : s5.Canon := .of_ite (h4.takeNow _ _ _) h4
            exact (h5.finish _ _ _ _).replayHit _ _

/-! ### Holds and their limits -/

theorem State.Canon.holdLimits (h : s.Canon) (l : Nat) (p : Presented) (w : Verdicts) : (s.holdLimits l p w).1.Canon := by
  refine foldl_inv (P := fun a : State × Presented => a.1.Canon) (fun a sl (ha : a.1.Canon) => ?_) allSlots (b := (s, p)) h
  split
  · exact ha.raise _ _ _ _ _ _
  · exact ha

theorem State.Canon.waitLimits (h : s.Canon) (l : Nat) (p : Presented) (w : Verdicts) (array : Bool) :
    (s.waitLimits l p w array).1.Canon := by
  unfold State.waitLimits
  dsimp only
  split
  · exact h.raise _ _ _ _ _ _
  · split
    · exact h.raise _ _ _ _ _ _
    · exact h

theorem State.Canon.tryIssue (h : s.Canon) (l : Nat) : (s.tryIssue l).Canon := by
  unfold State.tryIssue
  split
  · exact h
  · extract_lets k
    split
    · exact h
    · split
      · exact h
      · split
        · exact h.updCore l fun _ hc => hc
        · extract_lets s1 w
          have h1 : s1.Canon := h.updCore l fun _ hc => hc
          split
          rename_i s2 p2 h2
          have hs2 : s2.Canon := by
            rw [show s2 = _ from (congrArg Prod.fst h2).symm]
            split
            · exact h1.holdLimits _ _ _
            · exact h1
          extract_lets w2
          split
          rename_i s3 p3 h3
          have hs3 : s3.Canon := by
            rw [show s3 = _ from (congrArg Prod.fst h3).symm]
            split
            · exact hs2.waitLimits _ _ _ _
            · exact hs2
          dsimp only
          split
          · exact hs3.updCore l fun _ hc => hc
          · exact hs3.issueBundle _ _ _

theorem CoreSt.Canon.countHold (h : c.Canon) (k : Ctx) : (c.countHold k).Canon := by
  unfold CoreSt.countHold
  split
  · exact h
  · split
    · split
      · exact h
      · exact h
    · exact h

theorem State.Canon.holdTimeout (h : s.Canon) (l : Nat) : (s.holdTimeout l).Canon := by
  unfold State.holdTimeout
  split
  · exact h
  · dsimp only
    split
    · exact h.raise _ _ _ _ _ _
    · exact h

/-! ### Parking units -/

theorem State.Canon.parkAck (h : s.Canon) (e : ParkEntry) (p : Nat) : (s.parkAck e p).Canon := .of_ite h (h.done _ _ _ _ _)

theorem State.Canon.settlePark (h : s.Canon) (e : ParkEntry) : (s.settlePark e).Canon := by
  unfold State.settlePark
  split
  · split
    · exact h
    · exact h
  · split
    · exact State.Canon.parkAck (s := s.updPark _ _) h _ _
    · exact h
  · split
    · refine State.Canon.parkAck ?_ _ _
      exact h
    · exact h
  · exact h

theorem State.Canon.settleParks (h : s.Canon) : s.settleParks.Canon := .of_ite h (h.foldl (fun _ e hs => hs.settlePark e) _)

/-! ### Queues and engines in a cycle -/

theorem CoreSt.Canon.updQueue (h : c.Canon) (q : Nat) (f : Queue → Queue) : (c.updQueue q f).Canon := h

theorem CoreSt.Canon.queueSettle (h : c.Canon) : c.queueSettle.Canon := by
  refine CoreSt.Canon.foldl h.serveConds (fun d q hd => ?_) _
  exact (hd.completeAll 16 q).updQueue q _

theorem State.Canon.startWork (h : s.Canon) (l : Nat) : (s.startWork l).Canon := by
  have hd : (s.dropUnderStop l).Canon := by
    unfold State.dropUnderStop
    split
    · exact State.Canon.of_ite (h.updCore l fun _ hc => hc) h
    · exact h
  exact hd.foldl (fun _ q hs => hs.startQueue l q) _

theorem State.Canon.raiseLost (h : s.Canon) (l : Nat) (ls : List LostBank) : (s.raiseLost l ls).Canon :=
  h.foldl (fun _ _ hs => hs.raise _ _ _ _ _ _) ls

theorem CoreSt.Canon.enginesCycle (h : c.Canon) (k : Ctx) {acc0 : Mem} (ha : Mem.wf acc0 = true) :
    (enginesCycle k c acc0).1.Canon := by
  unfold Sys2Proof.Machine.enginesCycle
  split
  rename_i c1 claims lm h1
  have hc1 : c1.Canon := by
    rw [show c1 = _ from (congrArg Prod.fst h1).symm]
    split
    · exact h
    · exact h.mCycle _ _
  have hv : CoreSt.Canon (Sys2Proof.Machine.vCycle k { c1 with acc := acc0 } k.cycle claims).1 := (hc1.withAcc ha).vCycle k k.cycle claims
  exact hv.withAcc hc1.accWf

theorem State.Canon.coreEngines (h : s.Canon) (l : Nat) : (s.coreEngines l).Canon := by
  unfold State.coreEngines
  split
  · exact h
  · rename_i c hc
    dsimp only
    split
    · exact h.accServe l
    · rename_i d hd
      have hd' := CoreSt.Canon.enginesCycle ((h.accServe l).core hd) ((s.accServe l).ctx d) (h.core hc).accWf
      refine (State.Canon.raiseLost ?_ l _).raiseLost l _
      exact (h.accServe l).updCore l fun _ _ => hd'

theorem State.Canon.coreCycle (h : s.Canon) (l : Nat) : (s.coreCycle l).Canon := by
  unfold State.coreCycle
  split
  · exact h
  · exact ((h.updCore l fun _ hc => hc.countHold _).holdTimeout l).coreEngines l

/-! ### The start of the next cycle -/

theorem CoreSt.Canon.settleEngines (h : c.Canon) (t : Nat) : (c.settleEngines t).Canon := by
  unfold CoreSt.settleEngines
  refine CoreSt.Canon.foldl ?_ (fun d k hd => ?_) _
  · exact h
  · exact hd

theorem State.Canon.slipBudget (h : s.Canon) (l : Nat) : (s.slipBudget l).Canon := by
  unfold State.slipBudget
  split
  · exact h
  · split
    · split
      · refine State.Canon.raise ?_ _ _ _ _ _ _
        exact h.updCore l fun _ hc => hc
      · exact h
    · exact h

theorem State.Canon.coreSettle (h : s.Canon) (l : Nat) : (s.coreSettle l).Canon := by
  refine State.Canon.slipBudget ?_ l
  refine h.updCore l fun c hc => ?_
  exact (CoreSt.Canon.mSettle (c := { c with rings0 := c.rings }) hc _).settleEngines _

/-! ### The end of a run -/

theorem State.Canon.endRun (h : s.Canon) (r : Nat) (why : EndReason) : (s.endRun r why).Canon := h.spoken (spoken_endRun s r why)

theorem CoreSt.Canon.rest (h : c.Canon) : c.rest.Canon := by
  unfold CoreSt.rest
  split
  · exact h
  · exact h

theorem State.Canon.arriveRegion (h : s.Canon) (seq : Nat) : (s.arriveRegion seq).Canon := by
  unfold State.arriveRegion
  dsimp only
  split
  · exact h
  · split
    · exact h
    · refine State.Canon.of_ite ?_ ?_
      · refine State.Canon.sendMsg ?_ _ _ _ _
        exact h
      · exact h

theorem State.Canon.openBarrier (h : s.Canon) (regions : List Nat) (step : Nat) (resume replace : Bool) (pace asked : Nat)
    (clients : List (Nat × Nat × Nat)) : (s.openBarrier regions step resume replace pace asked clients).1.Canon := by
  unfold State.openBarrier
  refine State.Canon.of_ite ?_ ?_
  · refine State.Canon.flood ?_ _ _ _
    exact h
  · exact h

theorem State.Canon.armPause (h : s.Canon) (r : Nat) : (s.armPause r).Canon := by
  unfold State.armPause
  split
  · exact h
  · dsimp only
    split
    · exact h
    · exact State.Canon.updCoresOf (h.updRegion _ _) r fun _ hc => hc

theorem State.Canon.pacePause (h : s.Canon) (r : Nat) : (s.pacePause r).Canon := by
  unfold State.pacePause
  split
  · exact h
  · split
    · exact h
    · split
      · exact h
      · extract_lets declared s1 s2 set
        have h2 : s2.Canon := State.Canon.updCoresOf (h.updRegion _ _) r fun _ hc => hc
        split
        rename_i s3 goal h3
        have hs3 : s3.Canon := by
          rw [show s3 = _ from (congrArg Prod.fst h3).symm]
          split
          · exact h2
          · exact h2.openBarrier _ _ _ _ _ _ _
        exact (hs3.toStopping _ _ _ _).updRegion _ _

theorem CoreSt.Canon.resetClears (h : c.Canon) : c.resetClears.Canon := h

theorem State.Canon.resetPrep (h : s.Canon) (x : Region) : (s.resetPrep x).Canon :=
  h.withPrep (foldl_inv (P := fun m : Mem => Mem.wf m = true) (fun _ _ hm => Mem.zero_wf _ _ hm) _ h.prepWf)

theorem State.Canon.resetRegion (h : s.Canon) (r : Nat) : (s.resetRegion r).Canon := by
  unfold State.resetRegion
  extract_lets s1 s2 s3
  have h1 : s1.Canon := h.foldl (fun s c hs => hs.foldl (fun s e hs => hs.ticketMark _ _ _) _) _
  have h2 : s2.Canon := by
    refine State.Canon.ledger ?_ _ _
    exact State.Canon.updCoresOf (s := s1.loseReads _) h1 r fun _ hc => hc
  have h3 : s3.Canon := by
    show (match s2.region? r with | some x => s2.resetPrep x | none => s2).Canon
    split
    · exact h2.resetPrep _
    · exact h2
  exact h3.updRegion _ _

theorem State.Canon.enterIdle (h : s.Canon) (r : Nat) : (s.enterIdle r).Canon := by
  unfold State.enterIdle
  split
  · exact h
  · rename_i x _
    extract_lets cs cause s1 s2 s3 s4 s5
    have h2 : s2.Canon := ((h.updCoresOf r fun _ hc => hc.rest).setPhase r .idle cause).updRegion r _
    have h3 : s3.Canon := by
      dsimp only [s3]
      split
      · exact State.Canon.done (h2.updRegion r _) _ _ _ _ _
      · exact h2
    have h4 : s4.Canon := .of_ite (h3.resetRegion r) h3
    have h5 : s5.Canon := h4.updRegion r _
    split
    · exact h
    · split
      · exact h.updCoresOf r fun _ hc => hc
      · split
        · exact State.Canon.arriveRegion (s := s4.storeSlips r) h4 _
        · exact h4
        · split
          · exact .of_ite h5 (h5.endRun _ _)
          · exact h5

theorem State.Canon.regionSettle (h : s.Canon) (r : Nat) : (s.regionSettle r).Canon := by
  unfold State.regionSettle
  split
  · exact h
  · rename_i x _
    extract_lets cs busy s1 s2 s3 s4
    have h1 : s1.Canon := .of_ite (h.updRegion r _) h
    have h2 : s2.Canon := .of_ite (h1.toStopping _ _ _ _) h1
    have h3 : s3.Canon := .of_ite (h2.toStopping _ _ _ _) h2
    have h4 : s4.Canon := .of_ite (h3.pacePause _) h3
    exact .of_ite h (h4.enterIdle r)

/-! ### One cycle -/

theorem State.Canon.eachCore (h : s.Canon) {f : State → Nat → State} (hf : ∀ s l, s.Canon → (f s l).Canon) :
    (s.eachCore f).Canon := h.foldl hf _

theorem State.Canon.drainChoices (h : s.Canon) : s.drainChoices.Canon := by
  unfold State.drainChoices
  split
  · exact h
  · refine h.foldl (fun s c hs => ?_) _
    split
    · exact hs
    · refine State.Canon.notify ?_ _ _ _
      exact hs.updCore _ fun _ hc => hc

theorem State.Canon.passDrain (h : s.Canon) (n : Nat) : (s.passDrain n).Canon := by
  have ht : (s.passTime n).Canon := h
  exact State.Canon.settleParks (.of_ite ht ht.drainChoices)

theorem State.Canon.endCycle (h : s.Canon) : s.endCycle.Canon := by
  unfold State.endCycle
  extract_lets t s1 s2 s3 s4
  have h1 : s1.Canon := h.eachCore fun s l hs => hs.updCore l fun _ hc => hc.settleTallies t
  have h2 : s2.Canon := (h1.eachCore fun s l hs => hs.startWork l :)
  have h3 : s3.Canon := h2.eachCore fun s l hs => hs.announceTimeouts l
  have h4 : s4.Canon := h3.eachCore fun s l hs => hs.settleFaults l
  exact h4.eachCore fun s l hs => hs.updCore l fun _ hc => hc

theorem State.Canon.cc (h : s.Canon) : s.cc.Canon := by
  unfold State.cc
  extract_lets s1 s2 s3 s4 s5
  have h1 : s1.Canon := h.eachCore fun s l hs => hs.updCore l fun _ hc => hc.queueSettle
  have h2 : s2.Canon := (h1.eachCore fun s l hs => hs.tryIssue l).settleParks
  have h3 : s3.Canon := h2.eachCore fun s l hs => hs.coreCycle l
  have h4 : s4.Canon := h3.background.endCycle.passDrain 1
  have h5 : s5.Canon := h4.eachCore fun s l hs => hs.coreSettle l
  exact h5.foldl (fun _ r hs => hs.regionSettle r) _

theorem State.Canon.advance (h : s.Canon) (n : Nat) : (State.advance n s).Canon := by
  induction n generalizing s with
  | zero => exact h
  | succ n ih => exact ih h.cc

theorem State.Canon.advanceTo (h : s.Canon) (t : Nat) : (s.advanceTo t).Canon :=
  .of_ite h (.of_ite (h.passDrain _) (h.advance _))

theorem State.Canon.advanceHeld (h : s.Canon) (n l : Nat) : (State.advanceHeld n l s).Canon := by
  induction n generalizing s with
  | zero => exact h
  | succ n ih =>
    unfold State.advanceHeld
    split
    · exact h
    · exact ih h.cc

end Sys2Proof.Machine
end

section
/-! PROOFS. The canonical form of memories (log 5) through the rows of cores, registers and the memory. -/

namespace Sys2Proof.Machine

variable {s t : State} {c c0 : CoreSt} {k : Ctx}

/-! ### Outcomes -/

/-- The next state, where there is one, has its memories in form. -/
def CanonRes (r : Res) : Prop :=
  match r with
  | .next t => t.Canon
  | _ => True

theorem CanonRes.of_ite {p : Prop} [Decidable p] {a b : Res} (ha : CanonRes a) (hb : CanonRes b) :
    CanonRes (if p then a else b) := by
  split
  · exact ha
  · exact hb

theorem canon_onCore (h : s.Canon) {l : Nat} {f : State → State} (hf : (f s).Canon) : CanonRes (onCore l f s) := by
  unfold onCore
  split
  · exact h
  · exact hf

theorem canon_presentTo (h : s.Canon) (l : Nat) (b : Bundle) : CanonRes (presentTo l b s) := by
  unfold presentTo
  split
  · exact h
  · refine CanonRes.of_ite h ?_
    extract_lets first s1
    have h1 : s1.Canon := h.updCore l fun _ hc => hc
    refine CanonRes.of_ite ?_ h1
    exact State.Canon.tryIssue ((h1.advance _).updCore l fun _ hc => hc.queueSettle) l

/-! ### Rows inside cores and between them -/

theorem canon_remoteTsigApplied (h : s.Canon) (id : Nat) : CanonRes (execRemoteTsigApplied id s) := by
  unfold execRemoteTsigApplied
  split
  · exact h
  · exact (h.advanceTo _).signalApplied id

theorem canon_chainForward (h : s.Canon) (core q idx member off len : Nat) :
    CanonRes (execChainForward core q idx member off len s) := canon_onCore h ((h.advanceTo _).chainForward _ _ _ _ _ _)

theorem canon_unitEntersArray (h : s.Canon) (core : Nat) : CanonRes (execUnitEntersArray core s) := by
  refine canon_onCore h ?_
  split
  · exact (h.advance _).cc
  · exact h

theorem canon_arrayHold (h : s.Canon) (core : Nat) : CanonRes (execArrayHold core s) := by
  refine canon_onCore h ?_
  split
  · refine State.Canon.slipBudget ?_ core
    exact (h.advance _).updCore core fun _ hc => hc
  · exact h

theorem canon_limitOn (h : s.Canon) (left : Region → CoreSt → Nat) (core : Nat) : CanonRes (limitOn left core s) := by
  refine canon_onCore h ?_
  split
  · exact .of_ite ((h.advanceHeld _ _).tryIssue core) h
  · exact h

theorem canon_announceTimeout (h : s.Canon) (core q idx member : Nat) : CanonRes (execAnnounceTimeout core q idx member s) := by
  refine canon_onCore h ?_
  split
  · split
    · exact (h.advanceTo _).announceTimeout _ _ _ _
    · exact h
  · exact h

theorem canon_bytesLanded (h : s.Canon) (core q idx member off len : Nat) (ecc : EccOutcome) :
    CanonRes (execBytesLanded core q idx member off len ecc s) :=
  canon_onCore h ((h.advanceTo _).bytesLanded _ _ _ _ _ _ _)

theorem canon_startConditionServed (h : s.Canon) (core q idx : Nat) : CanonRes (execStartConditionServed core q idx s) :=
  canon_onCore h (h.updCore core fun _ hc => hc.serveOne q idx)

theorem canon_transferComplete (h : s.Canon) (core q : Nat) : CanonRes (execTransferComplete core q s) :=
  canon_onCore h (h.updCore core fun _ hc => hc.completeOne q)

theorem canon_tagIndexFree (h : s.Canon) (core q : Nat) : CanonRes (execTagIndexFree core q s) :=
  canon_onCore h (h.updCore core fun _ hc => hc.updQueue q _)

theorem canon_backgroundPathAccess (h : s.Canon) (core : Nat) (path : BgPath) :
    CanonRes (execBackgroundPathAccess core path s) := by
  refine canon_onCore h ?_
  cases path with
  | outbound q idx off len => exact (h.readAhead _ _ _ _ _).cc
  | inbound => exact h.cc
  | combiner => exact h.cc

theorem canon_combinerEntryTimeout (h : s.Canon) (core : Nat) : CanonRes (execCombinerEntryTimeout core s) := by
  refine canon_onCore h ?_
  split
  · exact (h.advanceTo _).updCore core fun _ hc => hc
  · exact h

/-! ### Registers -/

theorem CoreSt.Canon.swapBank (h : c.Canon) : c.swapBank.Canon := by
  unfold CoreSt.swapBank
  split
  · exact h
  · exact h

theorem State.Canon.regClear (h : s.Canon) (r : RegLoc) : (s.regClear r).Canon := by
  unfold State.regClear
  split
  · refine h.updCore _ fun c hc => ?_
    split
    · exact hc
    · exact hc
    · exact hc
    · exact hc.swapBank
    · exact hc
  · split
    · exact h
    · exact h
    · exact h
    · exact h
  · split
    · exact h
    · split
      · exact h
      · split
        · exact h
        · exact h
  · split
    · exact h
    · exact h
  · exact h

theorem State.Canon.updInd (h : s.Canon) (cls inst : Nat) (f : Indirect → Indirect) : (s.updInd cls inst f).Canon := by
  unfold State.updInd
  split
  · exact h
  · exact h

theorem State.Canon.indFail (h : s.Canon) (cls inst : Nat) : (s.indFail cls inst).Canon := (h.updInd _ _ _).raiseFree _ _

theorem State.Canon.indRead (h : s.Canon) (cls inst : Nat) : (s.indRead cls inst).1.Canon := by
  unfold State.indRead
  dsimp only
  split
  · exact h.indFail _ _
  · exact h.updInd _ _ _

theorem State.Canon.indWrite (h : s.Canon) (cls inst v : Nat) : (s.indWrite cls inst v).Canon := by
  unfold State.indWrite
  dsimp only
  split
  · exact h.indFail _ _
  · refine State.Canon.updInd ?_ _ _ _
    exact h

theorem State.Canon.regReadAt (h : s.Canon) (r : RegLoc) (clear : Bool) : (s.regReadAt r clear).1.Canon := by
  unfold State.regReadAt
  split
  · exact h.indRead _ _
  · exact .of_ite (h.regClear r) h

theorem State.Canon.armReplay (h : s.Canon) (r : Nat) : (s.armReplay r).Canon := by
  unfold State.armReplay
  split
  · split
    · exact h.updCoresOf r fun _ hc => hc
    · exact h
  · exact h

theorem State.Canon.rearm (h : s.Canon) (r : Nat) : (s.rearm r).Canon := by
  unfold State.rearm
  split
  · split
    · refine State.Canon.armReplay (State.Canon.armPause ?_ r) r
      exact h.updCoresOf r fun _ hc => hc
    · exact h
  · exact h

theorem State.Canon.putPace (h : s.Canon) (r p i : Nat) : (s.putPace r p i).Canon := by
  unfold State.putPace
  dsimp only
  split
  · exact h
  · exact State.Canon.rearm (State.Canon.updRegion (h.updRegion _ _) _ _) r

theorem State.Canon.setPace (h : s.Canon) (r p i : Nat) : (s.setPace r p i).Canon := by
  unfold State.setPace
  split
  · exact .of_ite (h.updRegion _ _) (h.putPace _ _ _)
  · exact h

theorem State.Canon.bufferWrite (h : s.Canon) (l off value ticket : Nat) (f : ApplyForm) :
    (s.bufferWrite l off value ticket f).Canon := by
  unfold State.bufferWrite
  split
  · exact h
  · rename_i c hc
    have h1 : (s.updCore l fun _ => (c.buffer { off := off, value := value, target := f, cycle := s.time.cycle, ticket := ticket }
        (s.stepsNow l)).1).Canon := h.updCore l fun _ _ => (h.core hc :)
    dsimp only
    split
    · exact .of_ite h1 (h1.ticketMark _ _ _)
    · exact h1

theorem State.Canon.coreRegPut (h : s.Canon) (q : Requester) (l o v : Nat) : (s.coreRegPut q l o v).Canon := by
  unfold State.coreRegPut
  split
  · exact h.tallySignal _ _ _
  · split
    · exact h.updCore l fun _ hc => hc
    · exact h.updCore l fun _ hc => hc

theorem State.Canon.regionRegPut (h : s.Canon) (r o v : Nat) : (s.regionRegPut r o v).Canon := by
  unfold State.regionRegPut
  split
  · exact h
  · exact h
  · exact h
  · exact h
  · exact h.setPace _ _ _
  · exact h

theorem State.Canon.indPut (h : s.Canon) (cls inst o v : Nat) : (s.indPut cls inst o v).Canon := by
  unfold State.indPut
  split
  · exact h.updInd _ _ _
  · exact h.indWrite _ _ _
  · exact h.updInd _ _ _

theorem State.Canon.globalRegPut (h : s.Canon) (o v : Nat) : (s.globalRegPut o v).Canon := by
  unfold State.globalRegPut
  split
  · exact h
  · split
    · exact h
    · exact h

theorem State.Canon.regPut (h : s.Canon) (q : Requester) (r : RegLoc) (i : RegInfo) (f : ApplyForm) (v ticket : Nat) :
    (s.regPut q r i f v ticket).Canon := by
  unfold State.regPut
  split
  · exact h.indPut _ _ _ _
  · exact h.indPut _ _ _ _
  · exact h.regionRegPut _ _ _
  · exact h.globalRegPut _ _
  · exact h.foldl (fun _ l hs => .of_ite (hs.bufferWrite _ _ _ _ _) (hs.coreRegPut _ _ _ _)) _

theorem State.Canon.reqRead (h : s.Canon) (q : Requester) (g : GA) : (s.reqRead q g).1.Canon := by
  unfold State.reqRead
  split
  · exact h.regReadAt _ _
  · exact h.raiseFree _ _
  · exact h

theorem State.Canon.reqWrite (h : s.Canon) (q : Requester) (g : GA) (v : Nat) : (s.reqWrite q g v).1.Canon := by
  unfold State.reqWrite
  split
  · exact h.regPut _ _ _ _ _ _
  · exact h.raiseFree _ _
  · exact h

theorem State.Canon.refusedTo (h : s.Canon) (q : Requester) : (s.refusedTo q).Canon := by
  cases q with
  | prep p => exact h
  | _ => exact h

theorem State.Canon.writeReply (q : Requester) {x : State × Bool} (h : x.1.Canon) : (State.writeReply q x).Canon :=
  .of_ite h (h.refusedTo q)

theorem State.Canon.writeReg (h : s.Canon) (q : Requester) (g : GA) (v : Nat) : (State.writeReply q (s.reqWrite q g v)).Canon :=
  State.Canon.writeReply q (h.reqWrite q g v)

theorem State.Canon.readReply {x : State × Nat × Bool} (h : x.1.Canon) : (State.readReply x).Canon := h

theorem canon_faultCountRead (h : s.Canon) (core : Nat) : CanonRes (execFaultCountRead core s) := canon_onCore h (h.regClear _ :)

theorem State.Canon.parityHit (h : s.Canon) (x : ParityHit) : (s.parityHit x).Canon := by
  unfold State.parityHit
  extract_lets count
  have hcount (d : Nat) {u : State} (hu : u.Canon) : (count d u).Canon := by
    refine State.Canon.raiseModule ?_ _ _ _
    exact hu
  split
  · split
    · exact .of_ite h (hcount _ h)
    · exact h
  · split
    · rename_i l _ _ _ e _
      extract_lets s1
      have h1 : s1.Canon := h.updCore l fun _ hc => hc
      exact .of_ite h (hcount _ (h1.ticketMark _ _ _))
    · exact h

theorem State.Canon.atTick (h : s.Canon) (now : Nat) : (s.atTick now).Canon := by
  refine .of_ite h ?_
  refine State.Canon.drainChoices ?_
  exact h

theorem canon_parityWalk (h : s.Canon) (now : Nat) (hits : List ParityHit) : CanonRes (execParityWalk now hits s) :=
  State.Canon.of_eq ((h.atTick now).foldl (fun _ x hs => hs.parityHit x) hits) rfl rfl

/-! ### Prep cores -/

theorem State.Canon.remoteStore (h : s.Canon) (hart m : Nat) (g : GA) (bs : List Byte) : (s.remoteStore hart m g bs).Canon :=
  h.sendRouted _ _ _ _ _

theorem State.Canon.prepRemoteLoad (h : s.Canon) (hart m : Nat) (g : GA) (n : Nat) : (s.prepRemoteLoad hart m g n).Canon := by
  unfold State.prepRemoteLoad
  split
  · exact h
  · rename_i p _ _
    exact (h.sendFlit p 1 0x02
      { dst := m, src := s.kol.module, srcCore := prepIssuer hart, srcGA := g, payload := n, issuer := prepIssuer hart } [] :)

theorem State.Canon.prepLoad (h : s.Canon) (hart : Nat) (g : GA) (n : Nat) (e : EccOutcome) : (s.prepLoad hart g n e).Canon := by
  unfold State.prepLoad
  split
  · refine .of_ite ?_ h
    exact (h.reqRead (.prep hart) g :)
  · exact h.prepRemoteLoad _ _ _ _
  · exact h.access _ _ _ _ _ _

theorem State.Canon.prepStore (h : s.Canon) (hart : Nat) (g : GA) (bs : List Byte) : (s.prepStore hart g bs).Canon := by
  unfold State.prepStore
  split
  · exact .of_ite (h.writeReg _ _ _) (h.refusedTo _)
  · exact h.remoteStore _ _ _ _
  · exact h.access _ _ _ _ _ _

theorem canon_prepCoreAccess (h : s.Canon) (hart : Nat) (acc : PrepAcc) : CanonRes (execPrepCoreAccess hart acc s) := by
  unfold execPrepCoreAccess
  refine .of_ite trivial (.of_ite h ?_)
  cases acc with
  | load g n e => exact h.prepLoad _ _ _ _
  | store g bs => exact h.prepStore _ _ _

/-! ### Refresh, parking units, mesh links -/

theorem canon_wellRefreshSlot (h : s.Canon) (die : Nat) (corrected : List (Nat × Nat)) :
    CanonRes (execWellRefreshSlot die corrected s) :=
  .of_ite trivial (h.advanceTo _ :)

theorem canon_stackRefresh (h : s.Canon) (stack ch : Nat) (begins : Bool) : CanonRes (execStackRefresh stack ch begins s) := by
  unfold execStackRefresh
  refine .of_ite trivial ?_
  extract_lets k s1 _ s2
  have h1 : s1.Canon := .of_ite (h.advanceTo _) h
  have h2 : s2.Canon := h.advanceTo _
  exact .of_ite (.of_ite h h1) (.of_ite h2 h)

theorem canon_parkTakesEffect (h : s.Canon) (unit : ParkUnit) : CanonRes (execParkTakesEffect unit s) := by
  have wait (o : Option Nat) : (match o with | some t => (s.advanceTo t).settleParks | none => s.settleParks).Canon := by
    cases o with
    | none => exact h.settleParks
    | some t => exact (h.advanceTo t).settleParks
  unfold execParkTakesEffect
  split
  · exact h
  · split
    · exact wait _
    · exact wait _
    · exact h

theorem canon_unitParked (h : s.Canon) (unit : ParkUnit) (drained : Bool) : CanonRes (execUnitParked unit drained s) := by
  unfold execUnitParked
  split
  · exact h
  · split
    · exact State.Canon.settleParks (.of_ite h (h.advanceTo _))
    · exact h

theorem State.Canon.toChain (h : s.Canon) (r g : Nat) : (s.toChain r g).Canon := by
  unfold State.toChain
  split
  · exact h
  · exact .of_ite h (State.Canon.notify (h.updRegion _ _) _ _ _)

theorem canon_meshLinkDown (h : s.Canon) (die dir retries : Nat) : CanonRes (execMeshLinkDown die dir retries s) := by
  refine .of_ite trivial ?_
  refine State.Canon.foldl ?_ (fun _ m hs => hs.toChain m.1 m.2) _
  exact h

end Sys2Proof.Machine
end

section
/-! PROOFS. The canonical form of memories (log 5) through loads, regions and the Solder barrier. -/

namespace Sys2Proof.Machine

variable {s t : State} {c c0 : CoreSt} {k : Ctx}

/-! ### Answers -/

/-- The state of an answer has its memories in form. -/
def CanonAns (a : Answer) : Prop := a.1.Canon

theorem CanonAns.of_ite {p : Prop} [Decidable p] {a b : Answer} (ha : CanonAns a) (hb : CanonAns b) :
    CanonAns (if p then a else b) := by
  split
  · exact ha
  · exact hb

theorem canon_onRegion (h : s.Canon) (r : Nat) {f : Region → Answer} (hf : ∀ x, CanonAns (f x)) : CanonAns (s.onRegion r f) := by
  unfold State.onRegion
  refine .of_ite h ?_
  split
  · exact h
  · exact .of_ite h (hf _)

/-! ### The loader -/

theorem expandTable_wf (o : FliupObject) (cls i n : Nat) (tensors : List GA) : Mem.wf (expandTable o cls i n tensors) = true := by
  refine foldl_inv (P := fun m : Mem => Mem.wf m = true) (fun m t hm => ?_) _ rfl
  split
  · exact Mem.write_wf _ _ hm
  · exact hm

theorem imageMem_wf (image : List (BitVec 128)) : Mem.wf (imageMem image) = true := Mem.write_wf _ _ rfl

theorem expandCore_canon (region base : Nat) (o : FliupObject) (n : Nat) (p : LoadPlan)
    (replay : Option (List (Nat × List ChoiceEntry))) (i phys : Nat) : (expandCore region base o n p replay i phys).Canon :=
  ⟨rfl, rfl, expandTable_wf _ _ _ _ _, imageMem_wf _⟩

theorem moveAll_wf {m : Mem} (h : Mem.wf m = true) (n : Nat) (ms : List (Nat × Nat)) : Mem.wf (m.moveAll n ms) = true :=
  Mem.writeCells_wf _ (foldl_inv (P := fun m : Mem => Mem.wf m = true) (fun _ _ hm => Mem.zero_wf _ _ hm) ms h)

/-- Ranges of a memory zeroed one after another. -/
theorem zeros_wf {α : Type} {m : Mem} (h : Mem.wf m = true) (lo n : α → Nat) (l : List α) :
    Mem.wf (l.foldl (fun m a => Mem.zero m (lo a) (n a)) m) = true :=
  foldl_inv (P := fun m : Mem => Mem.wf m = true) (fun _ _ hm => Mem.zero_wf _ _ hm) l h

theorem State.Canon.settleNear (h : s.Canon) (x : Region) (keep : Bool) (p : Placement) : (s.settleNear x keep p).Canon := by
  unfold State.settleNear
  split
  · exact (h.withWells (moveAll_wf h.wellsWf _ _)).withPools (moveAll_wf h.poolsWf _ _)
  · exact (h.withWells (zeros_wf h.wellsWf _ _ _)).withPools (zeros_wf h.poolsWf _ _ _)

theorem State.Canon.zeroStack (h : s.Canon) (g : GA) (n : Nat) : (s.zeroStack g n).Canon :=
  h.withStack (Mem.zero_wf _ _ h.stackWf)

theorem State.Canon.settleTensors (h : s.Canon) (x : Region) (keep : Bool) (ts : List (GA × Nat)) :
    (s.settleTensors x keep ts).Canon := h.foldl (fun _ _ hs => .of_ite hs (hs.zeroStack _ _)) ts

theorem State.Canon.dropBuffered (h : s.Canon) (r : Nat) : (s.dropBuffered r).Canon :=
  h.foldl (fun _ c hs => hs.foldl (fun _ _ hs => hs.ticketMark _ _ _) c.cfg) _

theorem State.Canon.withCores (h : s.Canon) {cs : List CoreSt} (hcs : ∀ c ∈ cs, c.Canon) :
    State.Canon { s with cores := cs } := ⟨h.1, hcs⟩

theorem putCores_canon {cs new : List CoreSt} (hcs : ∀ c ∈ cs, c.Canon) (hnew : ∀ c ∈ new, c.Canon) (r lo : Nat) :
    ∀ c ∈ putCores cs new r lo, c.Canon := by
  intro c hc
  simp only [putCores, List.append_assoc, List.mem_append, List.mem_filter] at hc
  rcases hc with ⟨⟨hc, -⟩, -⟩ | hc | ⟨⟨hc, -⟩, -⟩
  · exact hcs c hc
  · exact hnew c hc
  · exact hcs c hc

theorem State.Canon.applyLoad (h : s.Canon) (x : Region) (a : LoadArgs) (p : LoadPlan) : (s.applyLoad x a p).Canon := by
  unfold State.applyLoad
  extract_lets s1 _ s2 place y s3 s4 new s5
  have h2 : s2.Canon := (h.dropBuffered x.num).endRun x.num .host
  have h4 : s4.Canon := (h2.settleNear x a.keepNear place).settleTensors x a.keepNear y.tensors
  have hnew : ∀ c ∈ new, c.Canon := by
    intro c hc
    obtain ⟨i, -, hi⟩ := List.mem_filterMap.1 hc
    obtain ⟨ph, -, rfl⟩ := Option.map_eq_some_iff.1 hi
    exact expandCore_canon _ _ _ _ _ _ _ _
  have h5 : s5.Canon := h4.withCores (putCores_canon h4.2 hnew _ _)
  exact h5.updRegion _ _

theorem CoreSt.Canon.moveCore (h : c.Canon) (slots : Taken) (logBase : Nat) (trees : List (Option (List (Nat × Nat)))) :
    (moveCore slots logBase trees c).Canon := by
  unfold Sys2Proof.Machine.moveCore
  split
  · exact h
  · exact h

theorem CoreSt.Canon.retimeCore (h : c.Canon) (o : FliupObject) (n logBase : Nat) (p : LoadPlan) :
    (retimeCore o n logBase p c).Canon := by
  unfold Sys2Proof.Machine.retimeCore
  dsimp only
  split
  · refine h.withImem (foldl_inv (P := fun m : Mem => Mem.wf m = true) (fun m r hm => ?_) _ h.imemWf)
    split
    · exact Mem.write_wf _ _ hm
    · exact hm
  · exact h

theorem State.Canon.replaceRegion (h : s.Canon) (r k : Nat) : (s.replaceRegion r k).Canon := by
  unfold State.replaceRegion
  split
  · exact h
  · split
    · exact h
    · refine .of_ite (h.notify _ _ _) (.of_ite h ?_)
      refine State.Canon.updRegion ?_ r _
      exact (h.settleNear _ true _).updCoresOf r fun _ hc => (hc.moveCore _ _ _).retimeCore _ _ _ _

/-! ### Commands on regions -/

theorem State.Canon.settleWaiter (h : s.Canon) (r : Nat) (st : Status) (items : List Item) : (s.settleWaiter r st items).Canon :=
  h.spoken (spoken_settleWaiter s r st items)

/-- A command that a transition completes. -/
theorem State.Canon.begins (h : s.Canon) (r : Nat) (w : Who) (code r' : Nat) (p : Phase) :
    ((s.awaiting r w code).setPhase r' p 0).Canon := State.Canon.setPhase (s := s.awaiting r w code) h r' p 0

theorem canon_cmdLoad (h : s.Canon) (w : Who) (a : LoadArgs) : CanonAns (s.cmdLoad w a) := by
  unfold State.cmdLoad
  refine .of_ite h ?_
  split
  · exact h
  · refine .of_ite h (.of_ite h (.of_ite h ?_))
    split
    · exact h
    · refine State.Canon.setPhase ?_ _ _ _
      exact h.applyLoad _ _ _

theorem canon_loadComplete (h : s.Canon) (region : Nat) : CanonRes (execLoadComplete region s) := by
  unfold execLoadComplete
  split
  · exact h
  · exact .of_ite h (State.Canon.settleWaiter (State.Canon.setPhase (h.updRegion _ _) _ _ _) _ _ _)

theorem State.Canon.commitTo (h : s.Canon) (rs : List Nat) (step : Nat) (resume replace : Bool) (w : Who) (code : Nat) :
    (s.commitTo rs step resume replace w code).Canon := by
  have h1 : (rs.foldl (fun s r => s.updRegion r fun x => { x with committed := true }) s).Canon :=
    h.foldl (fun _ r hs => hs.updRegion r _) rs
  exact (h1.openBarrier _ _ _ _ _ _ _).arriveRegion _

theorem canon_cmdStart (h : s.Canon) (w : Who) (rs : List Nat) : CanonAns (s.cmdStart w rs) := by
  unfold State.cmdStart
  split
  · exact h
  · exact .of_ite h (.of_ite h (.of_ite h (h.commitTo _ _ _ _ _ _)))

theorem canon_cmdResume (h : s.Canon) (w : Who) (rs : List Nat) : CanonAns (s.cmdResume w rs) := by
  unfold State.cmdResume
  split
  · exact h
  · exact .of_ite h (.of_ite h (.of_ite h (h.commitTo _ _ _ _ _ _)))

theorem State.Canon.toMarker (h : s.Canon) (x : Region) (k seq : Nat) : (s.toMarker x k seq).Canon := by
  unfold State.toMarker
  refine State.Canon.updRegion (.of_ite (State.Canon.toStopping ?_ _ _ _ _) (h.updRegion _ _)) _ _
  exact h.updCoresOf _ fun _ hc => hc

theorem canon_cmdSolderStep (h : s.Canon) (w : Who) (rs : List Nat) (k : Nat) (replace : Bool) :
    CanonAns (s.cmdSolderStep w rs k replace) := by
  unfold State.cmdSolderStep
  split
  · exact h
  · refine .of_ite h (.of_ite h (.of_ite h ?_))
    exact ((h.openBarrier _ _ _ _ _ _ _).foldl (fun _ x hs => hs.toMarker x _ _) _).arriveRegion _

theorem canon_cmdStop (h : s.Canon) (w : Who) (r : Nat) (form : StopForm) : CanonAns (s.cmdStop w r form) := by
  refine canon_onRegion h r fun x => .of_ite h ?_
  have h1 : (s.awaiting r w 0x0203).Canon := h
  cases form with
  | step => exact h1.stopRegionStep _ _ _ _ _
  | now => exact h1.stopRegionNow _ _ _ _ _ _ _

theorem canon_cmdReplayStop (h : s.Canon) (r : Nat) (form : ReplayForm) : CanonAns (s.cmdReplayStop r form) :=
  canon_onRegion h r fun _ => .of_ite h (.of_ite h ((h.updRegion r _).rearm r))

theorem canon_cmdDefine (h : s.Canon) (w : Who) (r x0 y0 x1 y1 : Nat) : CanonAns (s.cmdDefine w r x0 y0 x1 y1) := by
  unfold State.cmdDefine
  refine .of_ite h (.of_ite h ?_)
  split
  · exact h
  · refine .of_ite h (.of_ite h ?_)
    refine State.Canon.begins ?_ r w 0x0300 r .defining
    exact h

theorem canon_cmdUndefine (h : s.Canon) (w : Who) (r : Nat) : CanonAns (s.cmdUndefine w r) :=
  canon_onRegion h r fun _ => .of_ite h ((h.updRegion r _).begins r w 0x0301 r .defining)

theorem canon_cmdPark (h : s.Canon) (w : Who) (r : Nat) (release : Bool) : CanonAns (s.cmdPark w r release) := by
  refine canon_onRegion h r fun x => .of_ite h ?_
  refine State.Canon.begins (State.Canon.updRegion (State.Canon.endRun ?_ r .host) r _) r w 0x0302 r .parking
  exact h.updCoresOf r fun _ hc => hc

theorem canon_cmdRepair (h : s.Canon) (w : Who) (r : Nat) (act : RepairAct) (force : Bool) :
    CanonAns (s.cmdRepair w r act force) := by
  refine canon_onRegion h r fun x => .of_ite h ?_
  split
  · exact h
  · refine State.Canon.begins (State.Canon.updRegion ?_ r _) r w 0x0303 r .repairing
    cases act with
    | stackChannel st ch => exact h
    | _ => exact h

/-! ### What ends a transition -/

theorem State.Canon.drainBanks (h : s.Canon) (n r : Nat) : (State.drainBanks n r s).Canon := by
  induction n generalizing s with
  | zero => exact h
  | succ n ih => exact .of_ite h (ih h.cc)

theorem State.Canon.zeroTensors (h : s.Canon) (ts : List (GA × Nat)) : (ts.foldl (fun s t => s.zeroStack t.1 t.2) s).Canon :=
  h.foldl (fun _ t hs => hs.zeroStack t.1 t.2) ts

theorem State.Canon.finishPark (h : s.Canon) (x : Region) : (s.finishPark x).Canon := by
  unfold State.finishPark
  extract_lets s1 s2 s3 s4
  have h1 : s1.Canon := (h.dropBuffered x.num).resetPrep x
  have h2 : s2.Canon := .of_ite (h1.zeroTensors _) h1
  have h3 : s3.Canon := h2.withCores fun c hc => h2.2 c (List.mem_of_mem_filter hc)
  exact State.Canon.setPhase (h3.updRegion _ _) _ _ _

theorem State.Canon.finishUndefine (h : s.Canon) (x : Region) : (s.finishUndefine x).Canon :=
  State.Canon.of_eq (((h.zeroTensors x.tensors).settleWaiter x.num .ok []).notify _ _ _) rfl rfl

theorem zeroGranules_wf {m : Mem} (h : Mem.wf m = true) (base : Nat) (gs : List Nat) : Mem.wf (zeroGranules m base gs) = true :=
  zeros_wf h _ _ gs

theorem State.Canon.repairRows (h : s.Canon) (die base : Nat) (well : Option (Nat × Nat)) (rows : List (Nat × Nat))
    (zeroed : List Nat) : (s.repairRows die base well rows zeroed).1.Canon := by
  cases well with
  | none => exact ⟨⟨h.wellsWf, zeroGranules_wf h.poolsWf base zeroed, h.stackWf, h.prepWf⟩, h.2⟩
  | some w => exact ⟨⟨zeroGranules_wf h.wellsWf base zeroed, h.poolsWf, h.stackWf, h.prepWf⟩, h.2⟩

theorem State.Canon.repairDone (h : s.Canon) (x : Region) (act : RepairAct) (rows : List (Nat × Nat)) (zeroed : List Nat) :
    (s.repairDone x act rows zeroed).1.Canon := by
  unfold State.repairDone
  split
  · exact h
  · exact h.withStack (zeroGranules_wf h.stackWf _ _)
  · exact h.repairRows _ _ _ _ _
  · split
    · exact h.repairRows _ _ _ _ _
    · exact h
  · exact h

theorem State.Canon.finishRepair (h : s.Canon) (x : Region) (rows : Option (List (Nat × Nat))) (zeroed : List Nat) :
    (s.finishRepair x rows zeroed).Canon := by
  unfold State.finishRepair
  split
  rename_i s1 items h1
  have hs1 : s1.Canon := by
    rw [show s1 = _ from (congrArg Prod.fst h1).symm]
    split
    · exact h
    · split
      · dsimp only
        split
        · exact h
        · exact h
      · exact h.repairDone _ _ _ _
  extract_lets _ s2
  have h2 : s2.Canon := by
    dsimp only [s2]
    split
    · exact hs1
    · exact hs1
  exact State.Canon.settleWaiter (State.Canon.setPhase (h2.updRegion _ _) _ _ _) _ _ _

theorem canon_regionTransitionDone (h : s.Canon) (region : Nat) (rows : Option (List (Nat × Nat))) (zeroed : List Nat) :
    CanonRes (execRegionTransitionDone region rows zeroed s) := by
  unfold execRegionTransitionDone
  split
  · exact h
  · split
    · exact .of_ite (h.finishUndefine _) ((h.setPhase _ _ _).settleWaiter _ _ _)
    · exact ((h.drainBanks _ _).finishPark _).settleWaiter _ _ _
    · exact h.finishRepair _ _ _
    · exact h

theorem canon_cmdRegionStatus (h : s.Canon) (r : Nat) : CanonAns (s.cmdRegionStatus r) := by
  unfold State.cmdRegionStatus
  refine .of_ite h ?_
  split
  · exact h
  · exact h

theorem canon_cmdParkUnit (h : s.Canon) (w : Who) (u : ParkUnit) (park : Bool) : CanonAns (s.cmdParkUnit w u park) := by
  unfold State.cmdParkUnit
  refine .of_ite h ?_
  split
  · exact h
  · dsimp only
    split
    · exact h
    · exact h
    · exact .of_ite h (.of_ite h h)

/-! ### The Solder barrier -/

theorem State.Canon.failBarrier (h : s.Canon) (b : Barrier) (missing : List Nat) (phase : Nat) :
    (s.failBarrier b missing phase).Canon := by
  unfold State.failBarrier
  extract_lets s1 s2 s3 s4
  have h2 : s2.Canon := State.Canon.foldl (s := s1) h (fun _ r hs => hs.updRegion r _) b.regions
  have h3 : s3.Canon := by
    refine h2.foldl (fun s r hs => ?_) b.regions
    split
    · exact .of_ite (hs.endRun _ _) hs
    · exact hs
  have h4 : s4.Canon := h3.raiseModule _ _ _
  exact .of_ite h4 (h4.foldl (fun _ c hs => hs.done _ _ _ _ _) _)

theorem State.Canon.replaceFor (h : s.Canon) (b : Barrier) : (s.replaceFor b).1.Canon := by
  unfold State.replaceFor
  split
  · exact h
  · exact h.foldl (fun _ r hs => hs.replaceRegion r b.step) b.regions

theorem State.Canon.commitAt (h : s.Canon) (b : Barrier) (t : Nat) : (s.commitAt b t).Canon := by
  unfold State.commitAt
  extract_lets s1
  have h1 : s1.Canon := h
  exact .of_ite (h.failBarrier _ _ _) (.of_ite (h1.flood _ _ _) h1)

theorem State.Canon.solderCommitted (h : s.Canon) (seq : Nat) (t : Option Nat) : (s.solderCommitted seq t).Canon := by
  unfold State.solderCommitted
  split
  · exact h
  · refine .of_ite h (.of_ite (.of_ite ((h.replaceFor _).commitAt _ _) h) ?_)
    split
    · exact (h.replaceFor _).commitAt _ _
    · exact h

theorem State.Canon.solderRequested (h : s.Canon) (seq step : Nat) (resume replace : Bool) (pace asked base : Nat)
    (members : List Nat) (want : List (Nat × Nat)) :
    (s.solderRequested seq step resume replace pace asked base members want).Canon := by
  unfold State.solderRequested
  refine .of_ite h ?_
  dsimp only
  split
  · refine State.Canon.arriveRegion (State.Canon.foldl ?_ (fun _ r hs => hs.updRegion r _) _) seq
    exact h
  · refine State.Canon.arriveRegion (State.Canon.foldl ?_ (fun _ x hs => ?_) _) seq
    · exact h
    · exact .of_ite hs (.of_ite (hs.toMarker x step seq) (hs.updRegion x.num _))

theorem CoreSt.Canon.takeStart (h : c.Canon) : c.takeStart.Canon :=
  CoreSt.Canon.foldl (c := { c with cfg := c.cfg.filter fun e => e.target != .start }) h (fun _ e hc => hc.cfgWrite e) _

theorem State.Canon.runRegion (h : s.Canon) (r t : Nat) (resume starts : Bool) (base : Option Nat) (at_ : Nat) :
    (s.runRegion r t resume starts base at_).Canon := by
  unfold State.runRegion
  extract_lets new b s1 s2 s3
  have h1 : s1.Canon :=
    .of_ite (h.foldl (fun _ c hs => hs.foldl (fun _ e hs => State.Canon.updRegion hs _ _) _) _) h
  have h2 : s2.Canon := by
    refine h1.updCoresOf r fun c hc => ?_
    have hc1 : (if starts then c.takeStart else c).Canon := by
      cases starts with
      | false => exact hc
      | true => exact hc.takeStart
    cases resume with
    | false => exact hc1
    | true => exact hc1
  have h3 : s3.Canon := h2.updRegion _ _
  exact ((h3.setPhase _ _ _).armPause r).armReplay r

theorem State.Canon.solderStarted (h : s.Canon) (b : Barrier) (t : Nat) : (s.solderStarted b t).Canon := by
  unfold State.solderStarted
  extract_lets s1 starts s2 s3 own
  have h1 : s1.Canon := h.advanceTo t
  have h2 : s2.Canon := by
    refine h1.foldl (fun s r hs => ?_) b.regions
    split
    · exact .of_ite (hs.runRegion _ _ _ _ _ _) hs
    · exact hs
  have h3 : s3.Canon := h2.foldl (fun _ c hs => hs.done _ _ _ _ _) _
  refine .of_ite h3 ?_
  refine State.Canon.flood ?_ _ _ _
  exact h3

theorem canon_solderTStart (h : s.Canon) (seq : Nat) : CanonRes (execSolderTStart seq s) := by
  unfold execSolderTStart
  split
  · exact h
  · split
    · exact h.solderStarted _ _
    · exact State.Canon.of_ite h (h.failBarrier _ _ _)
    · exact h

theorem State.Canon.solderConfirmed (h : s.Canon) (seq module : Nat) : (s.solderConfirmed seq module).Canon := by
  unfold State.solderConfirmed
  dsimp only
  split
  · exact h
  · exact .of_ite h h

theorem canon_barrierTimeout (h : s.Canon) (seq now : Nat) : CanonRes (execBarrierTimeout seq now s) := by
  unfold execBarrierTimeout
  have h1 := h.atTick now
  dsimp only
  split
  · exact h1
  · split
    · exact .of_ite (h1.failBarrier _ _ _) h1
    · exact h1
    · exact (h1.advanceTo _).failBarrier _ _ _
    · exact h1

/-! ### Pace -/

theorem canon_pacePause (h : s.Canon) (region : Nat) : CanonRes (execPacePause region s) := by
  unfold execPacePause
  split
  · exact h
  · exact State.Canon.of_ite (h.pacePause _) h

theorem canon_paceResume (h : s.Canon) (region : Nat) : CanonRes (execPaceResume region s) := by
  unfold execPaceResume
  split
  · exact h
  · exact .of_ite h ((h.advanceTo _).runRegion _ _ _ _ _ _)

theorem canon_cmdPace (h : s.Canon) (r p i : Nat) : CanonAns (s.cmdPace r p i) := by
  unfold State.cmdPace
  refine .of_ite h ?_
  split
  · exact h
  · exact h.setPace _ _ _

end Sys2Proof.Machine
end

section
/-! PROOFS. The canonical form of memories (log 5) through the Kollek ports, the domain and resets. -/

namespace Sys2Proof.Machine

variable {s t : State} {c c0 : CoreSt} {k : Ctx}

/-! ### Ports -/

theorem canon_onPort (p : Nat) {f : State → State} (hf : (f s).Canon) : CanonRes (onPort p f s) :=
  .of_ite trivial hf

theorem State.Canon.linkEvent (h : s.Canon) (kollek : Bool) (p : Nat) (up : Bool) : (s.linkEvent kollek p up).Canon :=
  h.notify _ _ _

theorem State.Canon.noteRoutes (h : s.Canon) : s.noteRoutes.Canon := h

theorem State.Canon.reroutes (h : s.Canon) : s.reroutes.Canon := h

theorem State.Canon.noteLink (h : s.Canon) (m p : Nat) (up : Bool) : (s.noteLink m p up).Canon := h

theorem State.Canon.updPort (h : s.Canon) (p : Nat) (f : KPort → KPort) : (s.updPort p f).Canon := h

theorem State.Canon.resendFrom (h : s.Canon) (x : KPort) : (s.resendFrom x).Canon := by
  refine h.foldl (fun s k hs => ?_) _
  dsimp only
  split
  · exact hs.sendFlit _ _ _ _ _
  · exact hs

theorem State.Canon.domainEvent (h : s.Canon) (m : Nat) (joined : Bool) : (s.domainEvent m joined).Canon := h.notify _ _ _

theorem State.Canon.identify (h : s.Canon) (port : Nat) : (s.identify port).Canon := h.sendFlit _ _ _ _ _

theorem State.Canon.portDown (h : s.Canon) (p : Nat) (code : FCode) : (s.portDown p code).Canon := by
  unfold State.portDown
  refine .of_ite h ?_
  extract_lets s1 s2
  have h1 : s1.Canon := h.noteRoutes.updPort p _
  have h2 : s2.Canon := ((h1.raiseFree code 1).linkEvent true p false).reroutes
  exact State.Canon.resendFrom (.of_ite (h2.flood _ _ _) h2) _

theorem State.Canon.receive (h : s.Canon) (p vl kind : Nat) (hdr : FlitHdr) (flits : Nat) :
    (s.receive p vl kind hdr flits).Canon := (h.updPort p _).pump p

/-! ### Links -/

theorem canon_heartbeat (h : s.Canon) (port : Nat) (received : Option FlitHdr) : CanonRes (execHeartbeat port received s) := by
  refine canon_onPort port (.of_ite h ?_)
  have h1 := h.sendFlit port 3 0x05 { dst := 0, src := s.kol.module } []
  cases received with
  | some x => exact (h1.receive port 3 0x05 x 1).updPort port _
  | none =>
    refine .of_ite (State.Canon.portDown ?_ _ _) ?_
    · exact h1
    · exact h1

theorem canon_linkDown (h : s.Canon) (port : Nat) (lane : Bool) : CanonRes (execLinkDown port lane s) :=
  canon_onPort port (.of_ite (h.portDown _ _) h)

theorem canon_linkRetryLimit (h : s.Canon) (port : Nat) : CanonRes (execLinkRetryLimit port s) :=
  canon_onPort port (.of_ite (h.portDown _ _) h)

theorem canon_portRetrain (h : s.Canon) (port : Nat) (result : RetrainEnd) : CanonRes (execPortRetrain port result s) := by
  refine canon_onPort port (.of_ite h ?_)
  split
  · exact h
  · extract_lets s1 s2 old spare same joins s3 s4
    have h2 : s2.Canon := (h.updPort port _).identify port
    have h4 : s4.Canon := State.Canon.reroutes (State.Canon.linkEvent (s := s3) (h2.updPort port _) true port true)
    exact .of_ite (h2.raiseModule _ _ _) (.of_ite h2 (.of_ite (h4.flood _ _ _) h4))

theorem State.Canon.answerLost (h : s.Canon) (r : RemoteRead) : (s.answerLost r).Canon := .of_ite h h

theorem State.Canon.losePartner (h : s.Canon) (m : Nat) : (s.losePartner m).Canon := by
  unfold State.losePartner
  refine .of_ite h ?_
  extract_lets s1 hops s2 members master _ _ s3 s4
  have h2 : s2.Canon := State.Canon.foldl (s := s1) h (fun _ r hs => hs.answerLost r) _
  have h3 : s3.Canon := by
    refine ⟨h2.1, fun c hc => ?_⟩
    obtain ⟨d, hd, rfl⟩ := List.mem_map.1 hc
    exact h2.2 d hd
  have h4 : s4.Canon := by
    refine h3.foldl (fun s b hs => ?_) _
    split
    · exact hs.failBarrier _ _ _
    · exact hs
    · exact hs.failBarrier _ _ _
  exact (h4.raiseModule _ _ _).domainEvent _ _

theorem canon_partnerLost (h : s.Canon) (m : Nat) : CanonRes (execPartnerLost m s) := by
  unfold execPartnerLost
  split
  · exact h
  · exact ((h.advanceTo _).flood _ _ _).losePartner m

/-! ### Link-level retry and credits -/

theorem canon_failedFlit (h : s.Canon) (port : Nat) : CanonRes (execFailedFlit port s) :=
  canon_onPort port (.of_ite h (State.Canon.sendFlit (h.updPort port _) _ _ _ _ _))

theorem State.Canon.resend (h : s.Canon) (p : Nat) : (s.resend p).Canon := by
  refine State.Canon.foldl (h.updPort p _) (fun u r hu => ?_) _
  exact hu

theorem canon_nakReceived (h : s.Canon) (port : Nat) (hdr : FlitHdr) : CanonRes (execNakReceived port hdr s) := by
  refine canon_onPort port (.of_ite h ?_)
  have h1 := h.receive port 3 0x00 hdr 1
  exact .of_ite h1 (State.Canon.resend ((h1.updPort port _).advanceTo _) port)

theorem canon_creditReturn (h : s.Canon) (port : Nat) : CanonRes (execCreditReturn port s) :=
  canon_onPort port (.of_ite h (h.sendFlit _ _ _ _ _))

/-! ### Packets -/

theorem canon_onPacket (h : s.Canon) (port vl kind : Nat) (hdr : FlitHdr) (data : List Byte) {f : State → State}
    (hf : ∀ s, s.Canon → (f s).Canon) : CanonRes (onPacket port vl kind hdr data f s) := by
  refine canon_onPort port (.of_ite h ?_)
  have h1 := h.receive port vl kind hdr (1 + (data.length + 255) / 256)
  exact .of_ite h1 (.of_ite (hf _ h1) (h1.forward _ _ _ _))

theorem canon_writeFlit (h : s.Canon) (port : Nat) (hdr : FlitHdr) (data : List Byte) : CanonRes (execWriteFlit port hdr data s) :=
  canon_onPacket h _ _ _ _ _ fun _ hs => hs.access _ _ _ _ _ _

theorem canon_readRequest (h : s.Canon) (port : Nat) (rd : ReadFlit) : CanonRes (execReadRequest port rd s) :=
  canon_onPacket h _ _ _ _ _ fun _ hs => hs.access _ _ _ _ _ _

theorem canon_readResponse (h : s.Canon) (port : Nat) (hdr : FlitHdr) (data : List Byte) :
    CanonRes (execReadResponse port hdr data s) := by
  refine canon_onPacket h _ _ _ _ _ fun u hu => ?_
  split
  · exact hu
  · refine .of_ite hu ?_
    refine State.Canon.noteRead ?_ _ _ _ _ _
    exact hu

theorem canon_bareTsigFlit (h : s.Canon) (port : Nat) (hdr : FlitHdr) : CanonRes (execBareTsigFlit port hdr s) := by
  refine canon_onPacket h _ _ _ _ _ fun u hu => ?_
  refine State.Canon.signalApplied ?_ _
  exact hu

theorem State.Canon.reported (h : s.Canon) (r : TargetReport) : (s.reported r).Canon := by
  unfold State.reported
  split
  · refine .of_ite (h.raise _ _ _ _ _ _) ?_
    split
    · exact h
    · refine .of_ite (h.raise _ _ _ _ _ _) (.of_ite h ?_)
      refine State.Canon.raise ?_ _ _ _ _ _ _
      exact h.updCore _ fun _ hc => hc
  · exact h

/-! ### Discovery -/

theorem canon_discoveryAndIdentity (h : s.Canon) (id : Identity) : CanonRes (execDiscoveryAndIdentity id s) := by
  unfold execDiscoveryAndIdentity
  split
  · exact h
  · refine .of_ite trivial (.of_ite (h.raiseModule _ _ _) ?_)
    have hi : ∀ u : State, u.Canon → (u.identify id.port).Canon := fun u hu => hu.identify _
    refine State.Canon.of_eq (s := if id.near = 0 then
      (s.updPort id.port fun p => { p with up := true, trained := true, partnerSerial := id.serial }).identify id.port else s)
      (.of_ite (hi _ h) h) rfl rfl

theorem State.Canon.closeDiscovery (h : s.Canon) (d : Discovery) : (s.closeDiscovery d).Canon := by
  have hsolo : s.solo.Canon := h
  unfold State.closeDiscovery
  extract_lets vs own ls master t n ms num _ s1 s2
  have h1 : s1.Canon := h
  have h2 : s2.Canon := h1.foldl (fun _ v hs => .of_ite (hs.updPort _ _) hs) vs
  exact .of_ite hsolo (.of_ite (hsolo.domainEvent 0 false) (h2.reroutes.domainEvent n true))

/-- The command that waits for an end, answered. -/
theorem State.Canon.doneFor (h : s.Canon) (o : Option (Nat × Nat)) (code : Nat) (st : Status) (items : List Item) :
    (match o with | some w => s.done w.1 w.2 code st items | none => s).Canon := by
  cases o with
  | none => exact h
  | some w => exact h.done _ _ _ _ _

theorem canon_discoveryClose (h : s.Canon) (now : Nat) : CanonRes (execDiscoveryClose now s) := by
  have h1 := h.atTick now
  unfold execDiscoveryClose
  dsimp only
  split
  · exact h1
  · exact .of_ite ((h1.closeDiscovery _).doneFor _ _ _ _) h1

theorem canon_invarAlignment (h : s.Canon) (count delay : Nat) : CanonRes (execInvarAlignment count delay s) := by
  refine .of_ite h (.of_ite ?_ h)
  refine State.Canon.flood ?_ _ _ _
  exact h

/-! ### What falls with the rails, and with a reset -/

theorem State.Canon.setLevel (h : s.Canon) (l : DbgLevel) (items : List Item) : (s.setLevel l items).Canon := by
  refine .of_ite h ?_
  refine State.Canon.ledger ?_ _ _
  exact h

theorem State.Canon.debugEnd (h : s.Canon) : s.debugEnd.Canon := .of_ite (h.setLevel _ _) h

theorem State.loseRails_canon (s : State) : s.loseRails.Canon := ⟨⟨rfl, rfl, rfl, rfl⟩, fun _ hc => by cases hc⟩

theorem State.enterStandby_canon (s : State) : s.enterStandby.Canon := by
  refine State.Canon.debugEnd ?_
  exact s.loseRails_canon

theorem State.loseL1_canon (s : State) : s.loseL1.Canon := s.loseManagement.loseRails_canon

theorem State.loseL0_canon (s : State) (keepLedger : Bool) : (s.loseL0 keepLedger).Canon := s.loseL1_canon

/-! ### Resets -/

theorem State.Canon.beginReset (h : s.Canon) (r : RSource) (session seq : Nat) (powerLost : Bool) :
    (s.beginReset r session seq powerLost).Canon := by
  unfold State.beginReset
  refine .of_ite h ?_
  have hl (p : Prop) [Decidable p] (b : Bool) :
      (if p then (s.endRuns .host).loseL0 b else (s.endRuns .host).loseL1).Canon :=
    .of_ite (State.loseL0_canon _ _) (State.loseL1_canon _)
  exact hl _ _

theorem State.Canon.bootSettings (h : s.Canon) : s.bootSettings.Canon := by
  refine .of_ite h ?_
  refine State.Canon.notify ?_ _ _ _
  exact h

theorem State.Canon.burnRollback (h : s.Canon) : s.burnRollback.Canon := .of_ite h h

theorem canon_resetComplete (h : s.Canon) : CanonRes (execResetComplete s) := by
  unfold execResetComplete
  split
  · exact h
  · extract_lets _ s1 _ _ s2 s3
    have h2 : s2.Canon := by
      dsimp only [s2]
      split
      · exact h
      · refine State.Canon.bootSettings (State.Canon.burnRollback ?_)
        exact h
    have h3 : s3.Canon := h2.ledger _ _
    exact State.Canon.of_ite h3 (h3.done _ _ _ _ _)

theorem canon_powerOn (h : s.Canon) (backupKept : Bool) : CanonRes (execPowerOn backupKept s) := by
  unfold execPowerOn
  extract_lets _ s1
  have h1 : s1.Canon := .of_ite h h
  exact .of_ite h (h1.beginReset _ _ _ _)

theorem State.enterOff_canon (s : State) : s.enterOff.Canon := s.loseManagement.loseL1_canon

theorem State.Canon.dropMoving (h : s.Canon) : s.dropMoving.Canon := by
  unfold State.dropMoving
  split
  · exact h
  · refine .of_ite h ?_
    refine State.Canon.done ?_ _ _ _ _ _
    exact h

theorem canon_pwrEn (h : s.Canon) (level : Bool) : CanonRes (execPwrEn level s) := by
  unfold execPwrEn
  extract_lets _ s1 s2
  have h1 : s1.Canon := h
  have h2 : s2.Canon := h1.dropMoving.moduleStop _ _
  exact .of_ite (State.Canon.of_ite (h1.beginReset _ _ _ _) h1) (.of_ite h1 h2)

theorem canon_rstIn (h : s.Canon) (micros : Nat) : CanonRes (execRstIn micros s) :=
  .of_ite h (.of_ite (State.Canon.of_ite (h.beginReset _ _ _ _) h) (h.beginReset _ _ _ _))

theorem canon_managementWatchdog (h : s.Canon) (silentMs : Nat) : CanonRes (execManagementWatchdog silentMs s) :=
  State.Canon.of_ite h (h.beginReset _ _ _ _)

theorem canon_securityViolation (h : s.Canon) (cause : Nat) : CanonRes (execSecurityViolation cause s) := by
  refine .of_ite h ?_
  refine State.Canon.beginReset ?_ _ _ _ _
  exact h

theorem canon_resetL2 (h : s.Canon) (w : Who) (r : Nat) : CanonAns (s.resetL2 w r) := by
  refine canon_onRegion h r fun x => ?_
  dsimp only
  split
  · exact (h.ledger _ _).done _ _ _ _ _
  · exact ((h.endRun _ _).resetRegion _).done _ _ _ _ _
  · refine State.Canon.stopRegionNow ?_ _ _ _ _ _ _ _
    exact h

theorem canon_resetL3 (h : s.Canon) (w : Who) (l : Nat) : CanonAns (s.resetL3 w l) := by
  unfold State.resetL3
  split
  · refine .of_ite h ?_
    refine State.Canon.done (State.Canon.ledger (State.Canon.updRegion ?_ _ _) _ _) _ _ _ _ _
    refine State.Canon.updCore ?_ l fun _ hc => hc.resetClears
    exact State.Canon.foldl (h.endRun _ _) (fun _ e hs => hs.ticketMark _ _ _) _
  · exact h

theorem canon_cmdReset (h : s.Canon) (w : Who) (a : ResetArg) : CanonAns (s.cmdReset w a) := by
  cases a with
  | l1 => exact h.beginReset _ _ _ _
  | l2 r => exact canon_resetL2 h w r
  | l3 l => exact canon_resetL3 h w l

theorem canon_cmdDomainReset (h : s.Canon) (w : Who) : CanonAns (s.cmdDomainReset w) := (h.flood _ _ _).beginReset _ _ _ _

/-! ### Messages -/

theorem State.Canon.onMessage (h : s.Canon) (src : Nat) (msg : MgmtMsg) : (s.onMessage src msg).Canon := by
  cases msg with
  | domainReset => exact .of_ite h (h.beginReset _ _ _ _)
  | partnerLost m => exact h.losePartner _
  | targetReport r => exact h.reported _
  | linkHealth m p up => exact .of_ite h (h.noteLink _ _ _)
  | solderRequest seq step resume replace pace asked base members want => exact h.solderRequested _ _ _ _ _ _ _ _ _
  | solderArrival seq ok ready => exact h
  | solderCommit seq t => exact h.solderCommitted _ _
  | solderConfirm seq => exact h.solderConfirmed _ _
  | invarCount n => exact h
  | identity serial c1104 g300 version port => exact h

theorem canon_managementFlit (h : s.Canon) (port : Nat) (hdr : FlitHdr) (msg : MgmtMsg) :
    CanonRes (execManagementFlit port hdr msg s) := by
  unfold execManagementFlit
  extract_lets kind
  refine canon_onPort port (.of_ite h ?_)
  have h1 := h.receive port 3 kind hdr 1
  exact .of_ite h1 (.of_ite (State.Canon.onMessage (h1.net (net_passOn _ _ _ _ _)) _ _)
    (.of_ite (h1.onMessage _ _) (h1.forward _ _ _ _)))

end Sys2Proof.Machine
end

section
/-! PROOFS. The canonical form of memories (log 5) through power states, protective halts, the governor and the pins. -/

namespace Sys2Proof.Machine

variable {s t : State} {c c0 : CoreSt} {k : Ctx}

/-! ### Power states -/

theorem State.Canon.beginReady (h : s.Canon) : s.beginReady.Canon := h

theorem canon_cmdPowerState (h : s.Canon) (w : Who) (t : PowerName) : CanonAns (s.cmdPowerState w t) := by
  unfold State.cmdPowerState
  extract_lets go
  have hgo (u : State) (hu : u.Canon) (p : PState) : CanonAns (go u p) := hu
  refine .of_ite h ?_
  split
  · exact h
  · exact h
  · exact h
  · exact hgo _ h _
  · exact .of_ite (hgo _ h.beginReady _) h
  · exact hgo _ h _
  · exact .of_ite (hgo _ h _) h
  · exact .of_ite (hgo _ h _) h
  · exact .of_ite (hgo _ h _) h
  · exact h

theorem State.Canon.governorOff (h : s.Canon) : s.governorOff.Canon := by
  refine State.Canon.of_eq (s := s.regions.foldl (fun s x => match x.hostPace with
      | some p => (s.updRegion x.num fun x => { x with hostPace := none }).putPace x.num p.1 p.2
      | none => s) s) ?_ rfl rfl
  refine h.foldl (fun s x hs => ?_) _
  split
  · exact State.Canon.putPace (hs.updRegion _ _) _ _ _
  · exact hs

theorem State.Canon.enterReady (h : s.Canon) (cores : List Nat) (links : List (Nat × Nat)) : (s.enterReady cores links).Canon := by
  have hd : (match s.kol.discovering with | some d => s.closeDiscovery d | none => s).Canon := by
    split
    · exact h.closeDiscovery _
    · exact h
  unfold State.enterReady
  extract_lets s1
  have h1 : s1.Canon := hd
  exact h1

theorem canon_powerTransitionComplete (h : s.Canon) (cores : List Nat) (links : List (Nat × Nat)) :
    CanonRes (execPowerTransitionComplete cores links s) := by
  unfold execPowerTransitionComplete
  split
  · exact h
  · rename_i m _
    extract_lets _ s1 finish
    have h1 : s1.Canon := h
    have hf {u : State} (hu : u.Canon) : (finish u).Canon := .of_ite hu (hu.done _ _ _ _ _)
    split
    · refine .of_ite (hf ?_) (hf (h1.enterReady _ _))
      exact h1.governorOff
    · exact hf h1
    · exact hf (State.enterStandby_canon _)
    · exact State.enterOff_canon _
    · exact h1

/-! ### Protective halts -/

theorem State.Canon.noteTemp (h : s.Canon) (p : TempPlace) (t : Int) : (s.noteTemp p t).Canon := by
  cases p with
  | island ph => exact h
  | ndie d => exact h
  | stack st => exact h

theorem State.Canon.powerEvent (h : s.Canon) : s.powerEvent.Canon := h.notify _ _ _

theorem canon_thermalAlarm (h : s.Canon) (place : TempPlace) (temp : Int) : CanonRes (execThermalAlarm place temp s) := by
  have h1 := h.noteTemp place temp
  refine .of_ite h1 ?_
  refine State.Canon.powerEvent (State.Canon.raiseFree ?_ _ _)
  exact h1

theorem State.Canon.thermalHalt (h : s.Canon) : s.thermalHalt.Canon := by
  refine State.Canon.beginReset (State.Canon.spoken (State.Canon.raiseFree ?_ _ _) (spoken_endRuns _ _)) _ _ _ _
  exact h

theorem canon_thermalHalt (h : s.Canon) (place : TempPlace) (temp : Int) (micros : Nat) :
    CanonRes (execThermalHalt place temp micros s) := by
  have h1 := h.noteTemp place temp
  exact .of_ite h1 h1.thermalHalt

theorem canon_thermTrip (h : s.Canon) (temp : Int) : CanonRes (execThermTrip temp s) := by
  unfold execThermTrip
  extract_lets held _ s1
  have h1 : s1.Canon := h
  exact .of_ite h (.of_ite h1 (.of_ite (State.Canon.of_ite (h1.beginReset _ _ _ _) h1) h1.thermalHalt))

theorem State.inputHalt_canon (s : State) (millivolts : Nat) : (s.inputHalt millivolts).Canon := by
  unfold State.inputHalt
  extract_lets _ s1 s2 s3
  have h2 : s2.Canon := State.enterStandby_canon _
  have h3 : s3.Canon := s2.enterOff_canon
  exact .of_ite ⟨h3.1, h3.2⟩ h2

theorem canon_inputPowerHalt (h : s.Canon) (millivolts milliamps micros : Nat) :
    CanonRes (execInputPowerHalt millivolts milliamps micros s) := .of_ite h (State.inputHalt_canon _ _)

theorem canon_inputBelowMainRailLimit (h : s.Canon) (millivolts : Nat) : CanonRes (execInputBelowMainRailLimit millivolts s) :=
  .of_ite h (.of_ite (State.Canon.of_ite h h) (State.inputHalt_canon _ _))

/-- A core whose island has lost its lock lists nothing. -/
theorem canon_islandLockLost (h : s.Canon) (phys : Nat) : CanonRes (execIslandLockLost phys s) := by
  have h1 := h.raiseFree .islandLockLost 3
  refine .of_ite trivial (.of_ite h ⟨h1.1, fun c hc => ?_⟩)
  obtain ⟨d, hd, rfl⟩ := List.mem_map.1 hc
  split
  · exact ⟨rfl, rfl, rfl, rfl⟩
  · exact h1.2 d hd

theorem canon_protectiveHaltConditionCleared (h : s.Canon) (thermal : Bool) :
    CanonRes (execProtectiveHaltConditionCleared thermal s) := .of_ite h h

/-! ### Reference clock and SYNC_IN -/

theorem canon_refclkLoss (h : s.Canon) (micros : Nat) : CanonRes (execRefclkLoss micros s) := by
  unfold execRefclkLoss
  extract_lets _ s1 _ s2 lost s3
  have h2 : s2.Canon := h
  have h3 : s3.Canon := h2.foldl (fun _ m hs => hs.losePartner m) lost
  refine .of_ite h (.of_ite h (.of_ite h2.powerEvent ?_))
  refine State.Canon.powerEvent ?_
  exact h3

theorem canon_syncIn (h : s.Canon) : CanonRes (execSyncIn s) := by
  unfold execSyncIn
  extract_lets fresh count _ _ s1
  have h1 : s1.Canon := h
  exact .of_ite h (h1.ledger _ _)

/-! ### The governor and Constantan -/

theorem State.Canon.govern (h : s.Canon) (i : Nat) : (s.govern i).Canon := by
  unfold State.govern
  extract_lets s1
  have h1 : s1.Canon := h.foldl (fun _ x hs => .of_ite hs (State.Canon.putPace (hs.updRegion _ _) _ _ _)) _
  exact h1

theorem canon_capGovernor (h : s.Canon) (now watts : Nat) : CanonRes (execCapGovernor now watts s) := by
  have h1 := h.atTick now
  unfold execCapGovernor
  extract_lets s1 xs _ _ s2 total g
  have h2 : s2.Canon := h1
  exact .of_ite h2 (.of_ite (.of_ite (h2.govern _) (h2.govern _).powerEvent)
    (.of_ite (.of_ite h2 (.of_ite h2.governorOff.powerEvent (h2.govern _))) h2))

theorem canon_cmdPowerCap (h : s.Canon) (watts : Nat) : CanonAns (s.cmdPowerCap watts) := .of_ite h h

theorem canon_constantanStep (h : s.Canon) (phys : Nat) (up : Bool) : CanonRes (execConstantanStep phys up s) :=
  .of_ite trivial (.of_ite h h)

theorem canon_alnicoMeasureUpdate (h : s.Canon) (now : Nat) (temps : List (Nat × Int)) (counts : MeasureCounts) :
    CanonRes (execAlnicoMeasureUpdate now temps counts s) := by
  unfold execAlnicoMeasureUpdate
  extract_lets s1 s2
  have h2 : s2.Canon := (h.atTick now).foldl (fun _ t hs => hs.noteTemp _ _) temps
  exact h2

/-! ### The pins -/

theorem canon_onPmbus (h : s.Canon) (kind : Nat) (items : State → List Item) {f : State → State} (hf : (f s).Canon) :
    CanonRes (onPmbus kind items f s) := .of_ite h hf

end Sys2Proof.Machine
end

section
/-! PROOFS. The canonical form of memories (log 5) through the commands of the mailbox. -/

namespace Sys2Proof.Machine

variable {s t : State} {c c0 : CoreSt} {k : Ctx}

/-! ### Sessions, streams, allocations -/

theorem State.Canon.authFail (h : s.Canon) (cause : Nat) (owner : Bool) (slot session : Nat) :
    (s.authFail cause owner slot session).Canon := h.raiseModule _ _ _

theorem canon_authRefuse (h : s.Canon) (cause : Nat) (owner : Bool) (slot session : Nat) :
    CanonAns (s.authRefuse cause owner slot session) := h.authFail _ _ _ _

theorem canon_cmdSessionOpen (h : s.Canon) (source : Nat × Nat) : CanonAns (s.cmdSessionOpen source) := .of_ite h h

theorem canon_cmdSessionElevate (h : s.Canon) (w : Who) (a : ElevateArg) : CanonAns (s.cmdSessionElevate w a) := by
  cases a with
  | nonce => exact .of_ite h h
  | auth nonce t =>
    unfold State.cmdSessionElevate
    extract_lets x live s1
    have h1 : s1.Canon := h
    refine .of_ite (canon_authRefuse h1 _ _ _ _) (.of_ite (canon_authRefuse h1 _ _ _ _)
      (.of_ite (canon_authRefuse h1 _ _ _ _) ?_))
    split
    · exact canon_authRefuse h1 _ _ _ _
    · exact .of_ite h1 h1

theorem canon_cmdEventSubscribe (h : s.Canon) (w : Who) (mask : Nat) (dests : List EventDest) :
    CanonAns (s.cmdEventSubscribe w mask dests) := .of_ite h h

theorem canon_cmdStreamOpen (h : s.Canon) (w : Who) (n : Nat) : CanonAns (s.cmdStreamOpen w n) := .of_ite h (.of_ite h h)

theorem canon_cmdStreamClose (h : s.Canon) (w : Who) (n : Nat) : CanonAns (s.cmdStreamClose w n) := by
  refine .of_ite h (.of_ite h ?_)
  refine State.Canon.access ?_ _ _ _ _ _ _
  exact h

theorem canon_cmdStackAlloc (h : s.Canon) (size : Nat) (fixed : Option GA) : CanonAns (s.cmdStackAlloc size fixed) := by
  unfold State.cmdStackAlloc
  refine .of_ite h (.of_ite h ?_)
  dsimp only
  split
  · exact h
  · exact (h.zeroStack _ _ :)

theorem canon_cmdStackFree (h : s.Canon) (g : GA) : CanonAns (s.cmdStackFree g) := .of_ite h h

/-! ### Faults, records, settings, the domain -/

theorem State.Canon.readFaults (h : s.Canon) (l : Nat) (drain : Bool) : (s.readFaults l drain).1.Canon := by
  unfold State.readFaults
  split
  · exact h
  · exact .of_ite (h.updCore l fun _ hc => hc.swapBank) h

theorem canon_cmdFaultRead (h : s.Canon) (scope : FaultScope) (drain : Bool) : CanonAns (s.cmdFaultRead scope drain) := by
  cases scope with
  | core l => exact .of_ite h (h.readFaults l drain)
  | region r =>
    refine .of_ite h ?_
    exact foldl_inv (P := fun a : State × List Item => a.1.Canon) (fun a c (ha : a.1.Canon) => ha.readFaults c.lcore drain) _
      (b := (s, [])) h
  | module => exact State.Canon.of_ite h h

theorem canon_cmdFaultPolicy (h : s.Canon) (r code p : Nat) : CanonAns (s.cmdFaultPolicy r code p) := by
  unfold State.cmdFaultPolicy
  split
  · exact h
  · dsimp only
    refine .of_ite (.of_ite h (.of_ite h h)) (.of_ite h ?_)
    split
    · exact h
    · exact .of_ite h (.of_ite h h)

theorem canon_cmdRunRecord (h : s.Canon) (r seq : Nat) : CanonAns (s.cmdRunRecord r seq) := by
  unfold State.cmdRunRecord
  refine .of_ite h ?_
  dsimp only
  split
  · exact h
  · exact h

theorem canon_cmdChoiceLog (h : s.Canon) (r l : Nat) : CanonAns (s.cmdChoiceLog r l) := by
  unfold State.cmdChoiceLog
  split
  · refine .of_ite h ?_
    exact h.updCore l fun _ hc => hc
  · exact h

theorem canon_cmdBackupReg (h : s.Canon) (i : Nat) (v : Option Nat) : CanonAns (s.cmdBackupReg i v) := by
  unfold State.cmdBackupReg
  refine .of_ite h ?_
  split
  · exact h
  · exact .of_ite h h

theorem canon_cmdSettingsRead (h : s.Canon) (key : Option Nat) : CanonAns (s.cmdSettingsRead key) := by
  cases key with
  | none => exact h
  | some k => exact .of_ite h h

theorem canon_cmdSettingsStage (h : s.Canon) (k v : Nat) : CanonAns (s.cmdSettingsStage k v) := .of_ite h (.of_ite h h)

theorem canon_cmdSettingsCommit (h : s.Canon) (w : Who) : CanonAns (s.cmdSettingsCommit w) := .of_ite h (.of_ite h h)

theorem canon_settingsCommitComplete (h : s.Canon) (result : CommitEnd) : CanonRes (execSettingsCommitComplete result s) := by
  unfold execSettingsCommitComplete
  split
  · exact h
  · extract_lets _ failed
    have hf : failed.Canon := h
    cases result with
    | ok =>
      refine State.Canon.done ?_ _ _ _ _ _
      exact h
    | verify => exact (hf.authFail _ _ _ _).done _ _ _ _ _
    | flash => exact hf.done _ _ _ _ _

theorem canon_cmdRediscover (h : s.Canon) (w : Who) : CanonAns (s.cmdRediscover w) := .of_ite h (.of_ite h h)

/-! ### Registers and debug -/

theorem canon_regRefuse (h : s.Canon) (e : RegErr) : CanonAns (s.regRefuse e) := by
  cases e with
  | bad => exact h
  | priv => exact h.raiseFree _ _
  | state => exact h

theorem canon_cmdRegRead (h : s.Canon) (priv : Bool) (g : GA) (n : Nat) : CanonAns (s.cmdRegRead priv g n) := by
  unfold State.cmdRegRead
  refine .of_ite h ?_
  dsimp only
  split
  · exact canon_regRefuse h _
  · exact foldl_inv (P := fun a : State × List Item => a.1.Canon) (fun a r (ha : a.1.Canon) => ha.regReadAt r true) _
      (b := (s, [])) h

theorem State.Canon.noteWrite (h : s.Canon) (r : RegLoc) (i : RegInfo) (g v : Nat) : (s.noteWrite r i g v).Canon :=
  .of_ite h (h.foldl (fun _ _ hs => State.Canon.updRegion hs _ _) _)

theorem State.Canon.appliedNow (h : s.Canon) (w : Who) (ls : List Nat) : (s.appliedNow w ls).Canon := h.report _ _ _ _

theorem canon_cmdRegWrite (h : s.Canon) (w : Who) (g : GA) (vs : List Nat) (b : Option Nat) (f : ApplyForm) :
    CanonAns (s.cmdRegWrite w g vs b f) := by
  unfold State.cmdRegWrite
  refine .of_ite h ?_
  extract_lets gs cs ws waits events
  split
  · exact canon_regRefuse h _
  · split
    rename_i s1 t1 h1
    have hs1 : s1.Canon := by
      rw [show s1 = _ from (congrArg Prod.fst h1).symm]
      split
      · exact h
      · exact h
    have hs2 := hs1.foldl (f := fun s p => (s.noteWrite p.1.1 p.1.2 p.2.1 p.2.2).regPut .host p.1.1 p.1.2 f p.2.2 t1)
      (fun s p hs => (hs.noteWrite _ _ _ _).regPut _ _ _ _ _ _) ws
    exact State.Canon.of_ite (hs2.appliedNow _ _) hs2

theorem State.Canon.await (h : s.Canon) (n stamp : Nat) : (State.await n stamp s).Canon := by
  induction n generalizing s with
  | zero => exact h
  | succ n ih =>
    unfold State.await
    split
    · exact h
    · exact .of_ite h (ih h.cc)

theorem State.Canon.debugWord (h : s.Canon) (g : GA) (data : Option (List Byte)) (e : EccOutcome) :
    (s.debugWord g data e).1.Canon := by
  unfold State.debugWord
  extract_lets stamp s1 bs
  have h1 : s1.Canon := (h.access (some .debug) g 8 data e .debug).await debugWait stamp
  split
  · exact h1
  · split
    · exact ⟨h1.1, h1.2⟩
    · refine State.Canon.eccReq ?_ _ _ _
      exact ⟨h1.1, h1.2⟩

theorem State.Canon.debugRead (e : EccOutcome) {a : State × List Item × Option FCode} (h : a.1.Canon) (g : GA) :
    (State.debugRead e a g).1.Canon := by
  unfold State.debugRead
  split
  · exact h.reqRead .debug g
  · exact h.debugWord g none e

theorem State.Canon.debugWrite {a : State × Option FCode} (h : a.1.Canon) (p : GA × Nat) : (State.debugWrite a p).1.Canon := by
  unfold State.debugWrite
  split
  · exact h.reqWrite .debug p.1 p.2
  · extract_lets s1
    have h1 : s1.Canon := by
      dsimp only [s1]
      split
      · exact State.Canon.updRegion (h.ledger _ _) _ _
      · exact h
    exact h1.debugWord _ _ _

theorem canon_cmdDebugAccess (h : s.Canon) (g : GA) (n : Nat) (op : DebugOp) : CanonAns (s.cmdDebugAccess g n op) := by
  unfold State.cmdDebugAccess
  refine .of_ite h (.of_ite (h.raiseFree _ _) ?_)
  cases op with
  | read e =>
    exact foldl_inv (P := fun a : State × List Item × Option FCode => a.1.Canon)
      (fun a g (ha : a.1.Canon) => State.Canon.debugRead e ha g) _ (b := (s, [], none)) h
  | write l =>
    exact foldl_inv (P := fun a : State × Option FCode => a.1.Canon)
      (fun a p (ha : a.1.Canon) => State.Canon.debugWrite ha p) _ (b := (s, none)) h

/-! ### Firmware -/

theorem canon_cmdFirmwareUpdate (h : s.Canon) (w : Who) (g : GA) (n : Nat) (i : ImageArg) :
    CanonAns (s.cmdFirmwareUpdate w g n i) := by
  unfold State.cmdFirmwareUpdate
  refine .of_ite h (.of_ite h ?_)
  extract_lets v good img s1
  have h1 : s1.Canon := h
  exact .of_ite h1 (.of_ite (h1.authFail _ _ _ _) ⟨h1.1, h1.2⟩)

theorem canon_firmwareFallback (h : s.Canon) (now : Nat) : CanonRes (execFirmwareFallback now s) := by
  have h1 := h.atTick now
  unfold execFirmwareFallback
  dsimp only
  split
  · exact .of_ite ⟨h1.1, h1.2⟩ h1
  · exact h1

theorem State.Canon.flushDeferred (h : s.Canon) : s.flushDeferred.Canon :=
  State.Canon.foldl (s := { s with fw := { s.fw with deferred := [] } }) h
    (fun _ _ hs => hs.spoken (spoken_sendTo _ _ _ _ _)) s.fw.deferred

theorem State.Canon.resumeDeferred (h : s.Canon) : s.resumeDeferred.Canon := by
  refine State.Canon.foldl ?_ (fun _ b hs => hs.arriveRegion b.seq) _
  exact h

theorem canon_managementRestartComplete (h : s.Canon) : CanonRes (execManagementRestartComplete s) := by
  unfold execManagementRestartComplete
  split
  · exact h
  · extract_lets _ _ s1 s2 s3
    have h1 : s1.Canon := h
    have h2 : s2.Canon := h1.flushDeferred.resumeDeferred
    have h3 : s3.Canon := .of_ite h2 h2.burnRollback
    exact .of_ite ((h3.notify _ _ _).done _ _ _ _ _) (h2.done _ _ _ _ _)

/-! ### Lifecycle, debug tokens -/

theorem canon_advanced (h : s.Canon) (w : Who) : CanonAns (s.advanced w) := h

theorem canon_lcAdvance (h : s.Canon) (w : Who) (target o0 o1 map : Nat) (t : Option Trailer) :
    CanonAns (s.lcAdvance w target o0 o1 map t) := by
  unfold State.lcAdvance
  split
  · exact .of_ite h (.of_ite (canon_authRefuse h _ _ _ _) (canon_advanced (s := s.toProvisioned o0 o1 map) h w))
  · refine .of_ite h (.of_ite (canon_authRefuse h _ _ _ _) ?_)
    exact h
  · exact h
  · exact .of_ite (canon_authRefuse h _ _ _ _) (canon_advanced (s := s.toReturned) h w)
  · exact h

/-- A command that is accepted and done at once. -/
theorem canon_acceptedDone (h : s.Canon) (w : Who) (code : Nat) :
    CanonAns (s.done w.session w.seq code .ok [], .accepted, []) := h.done _ _ _ _ _

theorem canon_lcInstall (h : s.Canon) (w : Who) (keyOk : Bool) (t : Trailer) : CanonAns (s.lcInstall w keyOk t) := by
  refine .of_ite h (.of_ite (canon_authRefuse h _ _ _ _) ?_)
  refine canon_acceptedDone ?_ w 0x0901
  exact h

theorem canon_lcRevoke (h : s.Canon) (w : Who) (owner : Bool) (slot : Nat) (t : Option Trailer) :
    CanonAns (s.lcRevoke w owner slot t) := by
  refine .of_ite (.of_ite h (.of_ite (canon_authRefuse h _ _ _ _) ?_)) (.of_ite h (.of_ite (canon_authRefuse h _ _ _ _) ?_))
  · refine canon_acceptedDone ?_ w 0x0901
    exact h
  · refine canon_acceptedDone ?_ w 0x0901
    exact h

theorem canon_lcBody (h : s.Canon) (w : Who) (serial nonce : Nat) {f : State → Answer} (hf : ∀ u, u.Canon → CanonAns (f u)) :
    CanonAns (s.lcBody w serial nonce f) := by
  unfold State.lcBody
  extract_lets live _ s1
  have h1 : s1.Canon := h
  exact .of_ite (canon_authRefuse h1 _ _ _ _) (.of_ite (canon_authRefuse h1 _ _ _ _) (hf _ h1))

theorem canon_cmdLifecycle (h : s.Canon) (w : Who) (a : LifecycleArg) : CanonAns (s.cmdLifecycle w a) := by
  unfold State.cmdLifecycle
  refine .of_ite h (.of_ite h ?_)
  cases a with
  | nonce => exact h
  | advance target serial nonce o0 o1 map t => exact canon_lcBody h _ _ _ fun _ hu => canon_lcAdvance hu _ _ _ _ _ _
  | install serial nonce keyOk t => exact canon_lcBody h _ _ _ fun _ hu => canon_lcInstall hu _ _ _
  | revoke serial nonce owner slot t => exact canon_lcBody h _ _ _ fun _ hu => canon_lcRevoke hu _ _ _ _

theorem canon_tokenRefuse (h : s.Canon) (reason session : Nat) : CanonAns (s.tokenRefuse reason session) := h.raiseModule _ _ _

theorem canon_cmdDebugToken (h : s.Canon) (w : Who) (a : DebugArg) : CanonAns (s.cmdDebugToken w a) := by
  cases a with
  | nonce => exact h
  | lower => exact .of_ite (h.raiseModule _ _ _) (h.setLevel _ _)
  | token level duration serial nonce ts =>
    unfold State.cmdDebugToken
    extract_lets _ s1
    have h1 : s1.Canon := h
    have h2 := h1.setLevel
    have hr := canon_tokenRefuse h1
    exact .of_ite (hr _ _) (.of_ite (hr _ _) (.of_ite (hr _ _) (.of_ite (hr _ _) (.of_ite (hr _ _)
      (.of_ite (hr _ _) ⟨(h2 _ _).1, (h2 _ _).2⟩)))))

theorem canon_cmdAttest (h : s.Canon) (nonce : Nat) : CanonAns (s.cmdAttest nonce) := .of_ite h (.of_ite h h)

end Sys2Proof.Machine
end

section
/-! PROOFS. The canonical form of memories (log 5) through the mailbox, the memory transport and the Ethernet ports. -/

namespace Sys2Proof.Machine

variable {s t : State} {c c0 : CoreSt} {k : Ctx}

/-! ### The mailbox -/

theorem canon_runCmd (h : s.Canon) (w : Who) (source : Nat × Nat) (c : MbxCmd) : CanonAns (s.runCmd w source c) := by
  cases c with
  | sessionOpen => exact canon_cmdSessionOpen h _
  | sessionElevate a => exact canon_cmdSessionElevate h _ _
  | sessionClose => exact h
  | keepalive => exact h
  | eventSubscribe m d => exact canon_cmdEventSubscribe h _ _ _
  | discover => exact h
  | inventory p o => exact h
  | partners => exact h
  | load a => exact canon_cmdLoad h _ _
  | start rs => exact canon_cmdStart h _ _
  | resume rs => exact canon_cmdResume h _ _
  | stop r f => exact canon_cmdStop h _ _ _
  | solderStep rs k p => exact canon_cmdSolderStep h _ _ _ _
  | replayStop r f => exact canon_cmdReplayStop h _ _
  | define r x0 y0 x1 y1 => exact canon_cmdDefine h _ _ _ _ _ _
  | undefine r => exact canon_cmdUndefine h _ _
  | park r f => exact canon_cmdPark h _ _ _
  | repair r a f => exact canon_cmdRepair h _ _ _ _
  | parkUnit u p => exact canon_cmdParkUnit h _ _ _
  | regionStatus r => exact canon_cmdRegionStatus h _
  | streamOpen n => exact canon_cmdStreamOpen h _ _
  | streamClose n => exact canon_cmdStreamClose h _ _
  | stackAlloc n g => exact canon_cmdStackAlloc h _ _
  | stackFree g => exact canon_cmdStackFree h _
  | regRead g n => exact canon_cmdRegRead h _ _ _
  | regWrite g vs b f => exact canon_cmdRegWrite h _ _ _ _ _
  | powerState t => exact canon_cmdPowerState h _ _
  | powerCap n => exact canon_cmdPowerCap h _
  | pace r p i => exact canon_cmdPace h _ _ _
  | reset a => exact canon_cmdReset h _ _
  | faultRead x d => exact canon_cmdFaultRead h _ _
  | faultPolicy r c p => exact canon_cmdFaultPolicy h _ _ _
  | ledgerRead o n => exact CanonAns.of_ite h h
  | runRecord r n => exact canon_cmdRunRecord h _ _
  | choiceLog r l => exact canon_cmdChoiceLog h _ _
  | backupReg i v => exact canon_cmdBackupReg h _ _
  | settingsRead k => exact canon_cmdSettingsRead h _
  | settingsStage k v => exact canon_cmdSettingsStage h _ _
  | settingsCommit => exact canon_cmdSettingsCommit h _
  | firmwareUpdate g n i => exact canon_cmdFirmwareUpdate h _ _ _ _
  | securityStatus => exact h
  | lifecycle a => exact canon_cmdLifecycle h _ _
  | debugToken a => exact canon_cmdDebugToken h _ _
  | attest n => exact canon_cmdAttest h _
  | debugAccess g n op => exact canon_cmdDebugAccess h _ _ _
  | domainMap => exact h
  | rediscover => exact canon_cmdRediscover h _
  | domainReset => exact canon_cmdDomainReset h _

theorem State.Canon.replyAt (h : s.Canon) (n : Nat) (o : Out) : (s.replyAt n o).Canon := h

theorem State.Canon.updSession (h : s.Canon) (n : Nat) (f : Session → Session) : (s.updSession n f).Canon := h

theorem State.Canon.countAuth (h : s.Canon) (n : Nat) (st : Status) : (s.countAuth n st).Canon := by
  unfold State.countAuth
  dsimp only
  split
  · exact .of_ite h h
  · exact h

theorem State.Canon.reply (h : s.Canon) (x : Hdr) (code : Nat) (st : Status) (items : List Item) :
    (s.reply x code st items).Canon := by
  refine State.Canon.countAuth ?_ _ _
  exact h

theorem canon_answer (h : s.Canon) (w : Who) (x : Hdr) (c : MbxCmd) : CanonAns (s.answer w x c) :=
  .of_ite h (.of_ite (h.raiseFree _ _) (.of_ite h (canon_runCmd h _ _ _)))

theorem State.Canon.perform (h : s.Canon) (x : Hdr) (c : MbxCmd) (copies : List MsgDest) : (s.perform x c copies).Canon := by
  have ha : (s.answer { session := x.session, seq := x.seq, priv := s.isPriv x.session } x c).1.Canon := canon_answer h _ _ _
  exact ((ha.replyAt _ _).updSession _ _).countAuth _ _

theorem State.Canon.badTag (h : s.Canon) (x : Hdr) (code : Nat) : (s.badTag x code).Canon := (h.authFail _ _ _ _).reply _ _ _ _

theorem State.Canon.performHeld (h : s.Canon) (n num : Nat) : (s.performHeld n num).Canon := by
  induction n generalizing s with
  | zero => exact h
  | succ n ih =>
    unfold State.performHeld
    split
    · exact h
    · split
      · exact h
      · have h1 := fun f => h.updSession num f
        exact .of_ite ((h1 _).badTag _ _) (ih ((h1 _).perform _ _ _))

theorem State.Canon.sequenced (h : s.Canon) (y : Session) (x : Hdr) (c : MbxCmd) : (s.sequenced y x c).Canon := by
  unfold State.sequenced
  extract_lets s1
  have h1 : s1.Canon := h
  refine .of_ite ((h1.perform _ _ _).performHeld _ _) (.of_ite (.of_ite (h1.reply _ _ _ _) (h1.updSession _ _)) ?_)
  split
  · exact h1.reply _ _ _ _
  · exact h1.reply _ _ _ _

theorem State.Canon.outside (h : s.Canon) (x : Hdr) (c : MbxCmd) : (s.outside x c).Canon := by
  have ha (k : Nat) : CanonAns (if !(openCodes.contains k || privCodes.contains k) then s.refuse .unknownCommand
      else if k != codeOf c || !sessionless c then s.refuse .noSession
      else s.answer { session := 0, seq := x.seq, priv := false } x c) :=
    .of_ite h (.of_ite h (canon_answer h _ _ _))
  exact State.Canon.replyAt (ha (codeFor x c)) _ _

theorem State.Canon.deliver (h : s.Canon) (x : Hdr) (c : MbxCmd) : (s.deliver x c).Canon := by
  unfold State.deliver
  extract_lets s1
  have h1 : s1.Canon := h
  refine .of_ite h (.of_ite (h1.outside _ _) ?_)
  split
  · exact h1.reply _ _ _ _
  · exact .of_ite (h1.badTag _ _) (h1.sequenced _ _ _)

/-! ### The life of sessions and events -/

theorem canon_heldCommandExpiry (h : s.Canon) (now : Nat) : CanonRes (execHeldCommandExpiry now s) :=
  State.Canon.of_eq (h.atTick now) rfl rfl

theorem canon_sessionIdleTimeout (h : s.Canon) (session now : Nat) : CanonRes (execSessionIdleTimeout session now s) := by
  have h1 := h.atTick now
  unfold execSessionIdleTimeout
  dsimp only
  split
  · exact .of_ite ⟨h1.1, h1.2⟩ h1
  · exact h1

theorem canon_eventResend (h : s.Canon) (session seq now : Nat) : CanonRes (execEventResend session seq now s) := by
  have h1 := h.atTick now
  unfold execEventResend
  dsimp only
  split
  · refine .of_ite h1 ?_
    split
    · exact ⟨h1.1, h1.2⟩
    · exact ⟨h1.1, h1.2⟩
  · exact h1

theorem State.Canon.eventsRead (h : s.Canon) (session seq : Nat) : (s.eventsRead session seq).Canon := by
  unfold State.eventsRead
  dsimp only
  split
  · refine .of_ite h (State.Canon.spoken ?_ (spoken_sendTo _ _ _ _ _))
    exact h
  · exact h

theorem canon_eventAcknowledge (h : s.Canon) (x : Hdr) (seq : Nat) : CanonRes (execEventAcknowledge x seq s) := by
  unfold execEventAcknowledge
  extract_lets y s1
  have h1 : s1.Canon := h
  refine .of_ite h ?_
  split
  · exact h1.reply _ _ _ _
  · exact State.Canon.of_ite (h1.badTag _ _) (h1.eventsRead _ _)

/-! ### The memory transport -/

theorem State.Canon.updStream (h : s.Canon) (session n : Nat) (f : Stream → Stream) : (s.updStream session n f).Canon := h

theorem State.Canon.sendNak (h : s.Canon) (x : Stream) : (s.sendNak x).Canon := h

theorem State.Canon.failStream (h : s.Canon) (x : Stream) : (s.failStream x).Canon := (h.updStream _ _ _).report _ _ _ _

theorem State.Canon.cmtStart (h : s.Canon) (x : Stream) (port : Nat) (k : CmtKind) : (s.cmtStart x port k).Canon := by
  have hr : ((s.cmtError x.session x.num x.next .privilege).access (some (.cmt x.session x.num)) 0 0 none .clean
      (.cmtRead x.session x.num x.next)).Canon := (h.cmtError _ _ _ _).access _ _ _ _ _ _
  cases k with
  | write g bs => exact .of_ite (h.access _ _ _ _ _ _) hr
  | announce g bs w => exact .of_ite (h.access _ _ _ _ _ _) hr
  | read g n e => exact h.access _ _ _ _ _ _
  | fence => exact h.access _ _ _ _ _ _

theorem State.Canon.cmtApply (h : s.Canon) (x : Stream) (port : Nat) (k : CmtKind) : (s.cmtApply x port k).Canon := by
  unfold State.cmtApply
  extract_lets s1 s2
  have h2 : s2.Canon := State.Canon.cmtStart (s := s1) h x port k
  split
  · exact .of_ite (h2.sendAck _) h2
  · exact h2

theorem State.Canon.cmtAhead (h : s.Canon) (n session num port : Nat) : (s.cmtAhead n session num port).Canon := by
  induction n generalizing s with
  | zero => exact h
  | succ n ih =>
    unfold State.cmtAhead
    split
    · exact h
    · split
      · exact ih (h.cmtApply _ _ _)
      · exact h

theorem State.Canon.onStream (h : s.Canon) (x : CmtHdr) {f : State → Stream → State} (hf : ∀ u y, u.Canon → (f u y).Canon) :
    (s.onStream x f).Canon := by
  unfold State.onStream
  split
  · exact h
  · refine hf _ _ ?_
    exact h

theorem State.Canon.cmtPacket (h : s.Canon) (x : CmtHdr) (k : CmtKind) : (s.cmtPacket x k).Canon :=
  h.onStream x fun _ _ hu => .of_ite hu (.of_ite (hu.sendAck _) (.of_ite ((hu.cmtApply _ _ _).cmtAhead _ _ _ _)
    (.of_ite hu ((hu.updStream _ _ _).sendNak _))))

theorem State.Canon.cmtResend (h : s.Canon) (x : Stream) (p : OwnPkt → Bool) : (s.cmtResend x p).Canon := by
  unfold State.cmtResend
  refine .of_ite (h.failStream x) (State.Canon.foldl (h.updStream _ _ _) (fun u k hu => ?_) _)
  exact hu

theorem canon_cmtAckTimer (h : s.Canon) (session stream : Nat) : CanonRes (execCmtAckTimer session stream s) := by
  unfold execCmtAckTimer
  split
  · exact State.Canon.of_ite h (h.sendAck _)
  · exact h

theorem canon_cmtRetransmitTimer (h : s.Canon) (session stream : Nat) : CanonRes (execCmtRetransmitTimer session stream s) := by
  unfold execCmtRetransmitTimer
  split
  · exact h
  · rename_i x _
    extract_lets s1
    have h1 : s1.Canon := .of_ite ((h.updStream _ _ _).sendNak x) h
    exact .of_ite h (.of_ite (h.failStream x) (State.Canon.of_ite h1 (h1.cmtResend _ _)))

/-! ### The Ethernet ports -/

theorem canon_onEth (h : s.Canon) (p : Nat) {f : State → State} (hf : (f s).Canon) : CanonRes (onEth p f s) :=
  .of_ite trivial (State.Canon.of_ite hf h)

theorem canon_onUpEth (h : s.Canon) (p : Nat) {f : State → State} (hf : (f s).Canon) : CanonRes (onUpEth p f s) :=
  canon_onEth h p (.of_ite hf h)

theorem State.Canon.updEth (h : s.Canon) (p : Nat) (f : EPort → EPort) : (s.updEth p f).Canon := h

theorem canon_ethLinkUp (h : s.Canon) (port : Nat) (speed400 : Bool) : CanonRes (execEthLinkUp port speed400 s) :=
  canon_onEth h port (.of_ite h ((h.updEth port _).linkEvent _ _ _))

theorem canon_ethPortDown (h : s.Canon) (port : Nat) : CanonRes (execEthPortDown port s) :=
  canon_onUpEth h port (((h.updEth port _).raiseFree _ _).linkEvent _ _ _)

theorem canon_pfcThreshold (h : s.Canon) (port level : Nat) : CanonRes (execPfcThreshold port level s) :=
  canon_onUpEth h port (.of_ite h (.of_ite h h))

theorem canon_lldpNeighbour (h : s.Canon) (port chassis portId ttl now : Nat) :
    CanonRes (execLldpNeighbour port chassis portId ttl now s) := canon_onUpEth h port ((h.atTick now).updEth port _)

theorem canon_lldpTtlExpiry (h : s.Canon) (now : Nat) : CanonRes (execLldpTtlExpiry now s) :=
  State.Canon.of_eq (h.atTick now) rfl rfl

end Sys2Proof.Machine
end

section
/-! PROOFS. Every step keeps every memory in canonical form (DESIGN CHOICE, log 5: an unlisted byte reads 0). -/

namespace Sys2Proof.Machine

variable {s t : State}

/-- Every command keeps every memory in form. -/
theorem exec_canon (h : s.Canon) (i : Instr) : CanonRes (exec i s) := by
  cases i with
  | nop | halt | step | cset | cadd | ccopy | cmp | br | setvl | waitc | tsigLocal | tsigRemote | twait | twaitany |
    ttake | dadv | loop | qput | qwait | qwaitany | radv | mcast | chain | mwload | mswap | mpass | mpassw | mpassc |
    mshape | mzero | vadd | vsub | vmul | vfma | vmax | vmin | vabs | vcmp | vsel | vcvt | vexp2 | vlog2 | vrsq | vrcp
    | vtanh | vred | vscan | vacc | vperm | vgather | vrng =>
    exact canon_presentTo h _ _
  | sessionOpen | sessionElevate | sessionClose | keepalive | eventSubscribe | discover | inventory | partners | load |
    start | resume | stop | solderStep | replayStop | define | undefine | park | repair | parkUnit | regionStatus |
    streamOpen | streamClose | stackAlloc | stackFree | regRead | regWrite | powerState | powerCap | pace | reset |
    faultRead | faultPolicy | ledgerRead | runRecord | choiceLog | backupReg | settingsRead | settingsStage |
    settingsCommit | firmwareUpdate | securityStatus | lifecycle | debugToken | attest | debugAccess | domainMap |
    rediscover | domainReset =>
    exact h.deliver _ _
  | registerWrite | tallySignal | indDataWrite => exact h.writeReg _ _ _
  | rcFieldRead | indDataRead => exact State.Canon.readReply (h.reqRead _ _)
  | readVin | readIin | readPin | readTemperature1 | readTemperature2 | statusWord | clearFaults | mfrSerial =>
    unfold exec
    refine canon_onPmbus h _ _ ?_
    exact h
  | holdLimit | waitTimeout => exact canon_limitOn h _ _
  | remoteTsigApplied => exact canon_remoteTsigApplied h _
  | chainForward => exact canon_chainForward h _ _ _ _ _ _
  | unitEntersArray => exact canon_unitEntersArray h _
  | arrayHold => exact canon_arrayHold h _
  | announceTimeout => exact canon_announceTimeout h _ _ _ _
  | regionEntersIdle => exact h.regionSettle _
  | transferStart =>
    unfold exec
    refine canon_onCore h ?_
    exact h.startQueue _ _
  | startConditionServed => exact canon_startConditionServed h _ _ _
  | bytesLanded => exact canon_bytesLanded h _ _ _ _ _ _ _
  | transferComplete => exact canon_transferComplete h _ _
  | tagIndexFree => exact canon_tagIndexFree h _ _
  | announceApplied =>
    unfold exec
    refine canon_onCore h ?_
    exact h.announceApplied _ _ _ _
  | backgroundPathAccess => exact canon_backgroundPathAccess h _ _
  | combinerWrite =>
    unfold exec
    refine canon_onCore h ?_
    exact h.combAccess _ _ _ _ _
  | combinerRead =>
    unfold exec
    refine canon_onCore h ?_
    exact h.combAccess _ _ _ _ _
  | combinerEntryTimeout => exact canon_combinerEntryTimeout h _
  | requesterFence => exact h.requesterFence _
  | accumulatorCombinerAccess => exact canon_onCore h h.cc
  | prepCoreAccess => exact canon_prepCoreAccess h _ _
  | wellRefreshSlot => exact canon_wellRefreshSlot h _ _
  | stackRefresh => exact canon_stackRefresh h _ _ _
  | parkTakesEffect => exact canon_parkTakesEffect h _
  | unitParked => exact canon_unitParked h _ _
  | meshLinkDown => exact canon_meshLinkDown h _ _ _
  | heartbeat => exact canon_heartbeat h _ _
  | linkDown => exact canon_linkDown h _ _
  | linkRetryLimit => exact canon_linkRetryLimit h _
  | portRetrain => exact canon_portRetrain h _ _
  | partnerLost => exact canon_partnerLost h _
  | failedFlit => exact canon_failedFlit h _
  | nakReceived => exact canon_nakReceived h _ _
  | creditReturn => exact canon_creditReturn h _
  | writeFlit => exact canon_writeFlit h _ _ _
  | readRequest => exact canon_readRequest h _ _
  | readResponse => exact canon_readResponse h _ _ _
  | bareTsigFlit => exact canon_bareTsigFlit h _ _
  | discoveryAndIdentity => exact canon_discoveryAndIdentity h _
  | discoveryClose => exact canon_discoveryClose h _
  | invarAlignment => exact canon_invarAlignment h _ _
  | managementFlit => exact canon_managementFlit h _ _ _
  | solderArrival => exact h
  | solderCommit => exact h.solderCommitted _ _
  | solderTStart => exact canon_solderTStart h _
  | solderConfirm => exact h.solderConfirmed _ _
  | barrierTimeout => exact canon_barrierTimeout h _ _
  | pacePause => exact canon_pacePause h _
  | paceResume => exact canon_paceResume h _
  | capGovernor => exact canon_capGovernor h _ _
  | constantanStep => exact canon_constantanStep h _ _
  | parityWalk => exact canon_parityWalk h _ _
  | alnicoMeasureUpdate => exact canon_alnicoMeasureUpdate h _ _ _
  | thermalAlarm => exact canon_thermalAlarm h _ _
  | thermalHalt => exact canon_thermalHalt h _ _ _
  | thermTrip => exact canon_thermTrip h _
  | inputPowerHalt => exact canon_inputPowerHalt h _ _ _
  | inputBelowMainRailLimit => exact canon_inputBelowMainRailLimit h _
  | islandLockLost => exact canon_islandLockLost h _
  | refclkLoss => exact canon_refclkLoss h _
  | syncIn => exact canon_syncIn h
  | powerOn => exact canon_powerOn h _
  | pwrEn => exact canon_pwrEn h _
  | rstIn => exact canon_rstIn h _
  | managementWatchdog => exact canon_managementWatchdog h _
  | securityViolation => exact canon_securityViolation h _
  | resetComplete => exact canon_resetComplete h
  | heldCommandExpiry => exact canon_heldCommandExpiry h _
  | sessionIdleTimeout => exact canon_sessionIdleTimeout h _ _
  | eventResend => exact canon_eventResend h _ _ _
  | eventAcknowledge => exact canon_eventAcknowledge h _ _
  | loadComplete => exact canon_loadComplete h _
  | regionTransitionDone => exact canon_regionTransitionDone h _ _ _
  | faultCountRead => exact canon_faultCountRead h _
  | firmwareFallback => exact canon_firmwareFallback h _
  | debugExpiry => exact (h.atTick _).debugEnd
  | write => exact State.Canon.of_ite h (h.cmtPacket _ _)
  | read => exact h.cmtPacket _ _
  | writeAnnounce => exact State.Canon.of_ite h (h.cmtPacket _ _)
  | fence => exact h.cmtPacket _ _
  | ack => exact h.onStream _ fun _ _ hu => hu.updStream _ _ _
  | nak => exact h.onStream _ fun _ _ hu => hu.cmtResend _ _
  | cmtAckTimer => exact canon_cmtAckTimer h _ _
  | cmtRetransmitTimer => exact canon_cmtRetransmitTimer h _ _
  | ethLinkUp => exact canon_ethLinkUp h _ _
  | ethPortDown => exact canon_ethPortDown h _
  | arp => exact canon_onUpEth h _ (.of_ite h h)
  | neighbourDiscovery => exact canon_onUpEth h _ (.of_ite h h)
  | icmpEcho => exact canon_onUpEth h _ (.of_ite h h)
  | pfcFrame => exact canon_onUpEth h _ (.of_ite h h)
  | pfcThreshold => exact canon_pfcThreshold h _ _
  | lldp =>
    unfold exec
    refine canon_onUpEth h _ ?_
    exact h
  | lldpNeighbour => exact canon_lldpNeighbour h _ _ _ _ _
  | lldpTtlExpiry => exact canon_lldpTtlExpiry h _
  | powerTransitionComplete => exact canon_powerTransitionComplete h _ _
  | settingsCommitComplete => exact canon_settingsCommitComplete h _
  | managementRestartComplete => exact canon_managementRestartComplete h
  | refclkReturn => exact h
  | protectiveHaltConditionCleared => exact canon_protectiveHaltConditionCleared h _

theorem step_canon (h : s.Canon) : CanonRes (step s) := by
  unfold step
  split
  · exact h.cc
  · refine exec_canon ?_ _
    exact h

/-- Settles O51: the canonical form goes through every operation of the model, from the bytes of a memory to the rows. -/
theorem stepKeepsMemoriesCanonical : Obligations.StepKeepsMemoriesCanonical := by
  intro s t h ht
  have hs := step_canon h
  rw [ht] at hs
  exact hs

end Sys2Proof.Machine
end
